-- ==== Sys2Proof/Word.lean ====
section
/-! DEFINITION. Words, bytes, bit fields (R8, R9) and the small arithmetic every other file uses. -/
namespace Sys2Proof

/-- A byte. -/
abbrev Byte := BitVec 8
/-- An FP32 encoding or any other 32-bit word. -/
abbrev W32 := BitVec 32
/-- A 64-bit word: an index register, a tally, a parameter word. -/
abbrev W64 := BitVec 64

/-- Field [hi:lo] of a number read as bits, bit 0 the least significant (R8). -/
def bits (w hi lo : Nat) : Nat := (w >>> lo) % 2 ^ (hi + 1 - lo)

/-- One bit as a truth value (R8). -/
def bit (w i : Nat) : Bool := (w >>> i) % 2 == 1

/-- A field value placed at bit `lo` of a word that is 0 there. -/
def at_ (lo v : Nat) : Nat := v <<< lo

/-- `v` kept to `n` bits. -/
def low (n v : Nat) : Nat := v % 2 ^ n

/-- A truth value as the bit it stands for. -/
def b2n (b : Bool) : Nat := if b then 1 else 0

/-- An `n`-bit field read as a two's-complement integer. -/
def sint (n v : Nat) : Int := if v < 2 ^ (n - 1) then (v : Int) else (v : Int) - 2 ^ n

/-- An integer as an `n`-bit two's-complement field. -/
def ofInt (n : Nat) (i : Int) : Nat := (i % (2 ^ n : Nat)).toNat

/-- Integer division rounded up. -/
def ceilDiv (a b : Nat) : Nat := (a + b - 1) / b

/-- `a` rounded up to a multiple of `b`. -/
def roundUp (a b : Nat) : Nat := ceilDiv a b * b

/-- The `n` bytes of a number, lowest address first (R9). -/
def leBytes : Nat → Nat → List Byte
  | 0, _ => []
  | n + 1, v => BitVec.ofNat 8 v :: leBytes n (v / 256)

/-- The number whose bytes, lowest address first, are given (R9). -/
def ofLe : List Byte → Nat
  | [] => 0
  | b :: r => b.toNat + 256 * ofLe r

/-- A value added to a counter that saturates at `top`. -/
def satAdd (top a b : Nat) : Nat := Nat.min top (a + b)

/-- The number of bits that are 1 among the low `n` bits. -/
def popcount : Nat → Nat → Nat
  | 0, _ => 0
  | n + 1, v => v % 2 + popcount n (v / 2)

/-- Fields of `w` bits each, the first at the least significant place: the packing of R61 and R62. -/
def packBits (w : Nat) : List Nat → Nat
  | [] => 0
  | e :: r => e % 2 ^ w + 2 ^ w * packBits w r

/-- The first `n` fields of `w` bits of a packed number (R61, R62). -/
def unpackBits (w : Nat) : Nat → Nat → List Nat
  | 0, _ => []
  | n + 1, v => v % 2 ^ w :: unpackBits w n (v / 2 ^ w)

/-- Lookup in a list of key and value pairs. -/
def lookupK {α : Type} (k : Nat) : List (Nat × α) → Option α
  | [] => none
  | (j, v) :: r => if j = k then some v else lookupK k r

/-- Lookup with the value an unlisted key stands for. -/
def lookupD {α : Type} (d : α) (k : Nat) (l : List (Nat × α)) : α := (lookupK k l).getD d

/-- The pair for a key set in a list kept in rising key order. -/
def insertK {α : Type} (k : Nat) (v : α) : List (Nat × α) → List (Nat × α)
  | [] => [(k, v)]
  | (j, u) :: r => if k < j then (k, v) :: (j, u) :: r else if k = j then (k, v) :: r else (j, u) :: insertK k v r

/-- The pair for a key taken out. -/
def eraseK {α : Type} (k : Nat) (l : List (Nat × α)) : List (Nat × α) := l.filter (fun p => p.1 != k)

/-- The element at an index replaced; no change past the end. -/
def updateAt {α : Type} (l : List α) (i : Nat) (f : α → α) : List α :=
  match l, i with
  | [], _ => []
  | a :: r, 0 => f a :: r
  | a :: r, i + 1 => a :: updateAt r i f

/-- A list cut into pieces of `n`, with fuel for the number of pieces. -/
def chunksOf {α : Type} (n : Nat) : Nat → List α → List (List α)
  | 0, _ => []
  | f + 1, l => if l.isEmpty then [] else l.take n :: chunksOf n f (l.drop n)

/-- The sum of a list of numbers. -/
def sumNat (l : List Nat) : Nat := l.foldl (· + ·) 0

/-- The greatest of a list of numbers, 0 for none. -/
def maxNat (l : List Nat) : Nat := l.foldl Nat.max 0

/-- The least of a nonempty list of numbers. -/
def minNat? : List Nat → Option Nat
  | [] => none
  | a :: r => some (r.foldl Nat.min a)

end Sys2Proof
end

