-- ==== Sys2Proof/Types.lean ====
section
/-! DEFINITION. The plain data that commands carry: status codes (R535), where a packet comes from (R529, R619, R676),
detected errors (R142, R469, R470), the choices the manual leaves to the device, and the fabric's packets (R581 to R593). -/
namespace Sys2Proof

/-- The status codes of R535, in code order. -/
inductive St where
  | ok | field | opcode | format | layout | rank | shape | align | stride | alias_ | bounds | policy | handle | inuse
  | nofit | busy | mode | encoding | loop | branch | chain | held | order | card | noowner | poison | unmapped | access
  | superseded | cancelled | faulted | exhausted | repaired | txn | denied | auth
  deriving DecidableEq, Repr

/-- The code of a status (R535). -/
def St.code : St → Nat
  | .ok => 0x00 | .field => 0x01 | .opcode => 0x02 | .format => 0x03 | .layout => 0x04 | .rank => 0x05 | .shape => 0x06
  | .align => 0x07 | .stride => 0x08 | .alias_ => 0x09 | .bounds => 0x0A | .policy => 0x0B | .handle => 0x0C
  | .inuse => 0x0D | .nofit => 0x0E | .busy => 0x0F | .mode => 0x10 | .encoding => 0x11 | .loop => 0x12 | .branch => 0x13
  | .chain => 0x14 | .held => 0x15 | .order => 0x16 | .card => 0x17 | .noowner => 0x18 | .poison => 0x19
  | .unmapped => 0x1A | .access => 0x1B | .superseded => 0x1C | .cancelled => 0x1D | .faulted => 0x1E
  | .exhausted => 0x1F | .repaired => 0x20 | .txn => 0x21 | .denied => 0x22 | .auth => 0x23

/-- A status with its detail byte. -/
structure Stat where
  st : St
  detail : Nat
  deriving DecidableEq, Repr

/-- The first failing check of an ordered list: the manual's tables of checks are read so (R259, R370, R400). -/
def firstFail : List (Bool × St × Nat) → Option Stat
  | [] => none
  | (fails, st, d) :: r => if fails then some ⟨st, d⟩ else firstFail r

/-- A Polor command packet (R529). -/
abbrev Packet := BitVec 512

/-- Where a packet is read from: a submission ring, the management sideband (R619), or the ledger sideband (R676). -/
inductive Src where
  | ring (n : Nat)
  | sideband (pkt : Packet)
  | ledgerBand (pkt : Packet)
  deriving DecidableEq, Repr

/-- An operand-parity or residue mismatch at the end of one run of an engine (R142, R640): the logical row that reported it. -/
structure Mismatch where
  row : Nat
  residue : Bool
  deriving DecidableEq, Repr

/-- A pass of a core's array, with the mismatches that its checkers meet in it (R142). -/
structure Pass where
  core : Nat
  mis : List Mismatch
  deriving DecidableEq, Repr

/-- A memory error met by an access (R469, R470): the local frame, the memory line in it, the channel, and whether the code
corrected it. -/
structure MemErr where
  channel : Nat
  frame : Nat
  line : Nat
  corrected : Bool
  deriving DecidableEq, Repr

/-- The end of a page's copy to its new frame, with the memory errors that the copy's reads meet (R489). -/
structure PageCopy where
  va : Nat
  errs : List MemErr
  deriving DecidableEq, Repr

/-- A flit as a port receives it: its place in the order in which the peer first sent it, the codewords that brought it, and the uncorrectable
ones among them, each with its place in that number and the lane that it is attributed to (R576, R577). -/
structure Flit where
  seq : Nat
  words : Nat
  bad : List (Nat × Nat)
  deriving DecidableEq, Repr

/-- A DIMM as its SPD and its training show it (R461, R462, R624): capacity in GiB, rating in MT/s, whether training succeeds. -/
structure Dimm where
  sizeGiB : Nat
  rate : Nat
  trains : Bool
  deriving DecidableEq, Repr

/-- What a boot finds outside the device: the strap lands (R616, in the order of ATT.STRAPS), the DIMMs, and the array rows that
fail the check of boot step 6 (R624). -/
structure BootIn where
  straps : BitVec 19
  dimms : List (Option Dimm)
  rowFails : List (Nat × Nat)
  deriving DecidableEq, Repr

/-- What Hokuec chooses for an ALLOC (R455, R456): the handle, the virtual base, a cleared frame per 64 KiB page, and the
channels of an ISOLATE placement. -/
structure AllocPick where
  handle : Nat
  vbase : Nat
  frames : List Nat
  channels : List Nat
  deriving DecidableEq, Repr

/-- One counter of a placement (R417, R420): the region, the counter, the window, and the tiles from `first` to `last` - 1. -/
structure CounterPick where
  region : Nat
  counter : Nat
  win : Nat
  first : Nat
  last : Nat
  deriving DecidableEq, Repr

/-- A read of memory that another socket holds: socket, address there, length (R592). -/
structure RemoteNeed where
  sock : Nat
  addr : Nat
  len : Nat
  deriving DecidableEq, Repr

/-- What Hokuec chooses when it accepts a dispatch (R412, R417, R420, R422), and what other sockets have answered to the reads that the
acceptance makes through owner tables (R411, R592). -/
structure PlacePick where
  number : Nat
  counters : List CounterPick
  far : List (RemoteNeed × List Byte)
  deriving DecidableEq, Repr

/-- A transfer that can stop at a translation fault: one of a core's issued instructions, or a COPY or FILL of Hokuec (R547). -/
inductive XferId where
  | core (core idx : Nat)
  | copy (id : Nat)
  deriving DecidableEq, Repr

/-- Why Hokuec moves a page (R458). -/
inductive MoveCause where
  | retire | evacuate | restore
  deriving DecidableEq, Repr

/-- The cause of a quarantine (event 0016h of R655). -/
inductive QuarCause where
  | fence | carrel | sequencer | command
  deriving DecidableEq, Repr

/-- The code of a quarantine's cause (R655). -/
def QuarCause.code : QuarCause → Nat
  | .fence => 0 | .carrel => 1 | .sequencer => 2 | .command => 3

/-- The cause of a region's isolation (R648). -/
inductive IsoCause where
  | desk | bindery | stack | port | command
  deriving DecidableEq, Repr

/-- The code of an isolation's cause (R655). -/
def IsoCause.code : IsoCause → Nat
  | .desk => 0 | .bindery => 1 | .stack => 2 | .port => 3 | .command => 4

/-- What a packet of the fabric carries (R581, R587, R589, R593); a write's bytes come with masks of the bits written, and
a write of a send with its tile's accession number, any other with 0 (R320, R386). A refusal names the request, where the packet had
a number of its own, and the packet's place in its stream (R592). -/
inductive FBody where
  | read (req addr len : Nat)
  | write (addr : Nat) (bytes : List (Byte × Byte)) (acc : Nat)
  | addTo (fmt addr val : Nat)
  | reserve (req addr units limit : Nat)
  | tallyInc (n : Nat) (amount : W64)
  | ack
  | replay
  | readData (req : Nat) (bytes : List Byte)
  | reserved (req : Nat) (old : Option Nat)
  | refusal (req : Option Nat) (seq : Nat) (st : St)
  | notice (dead : Nat)
  deriving DecidableEq, Repr

/-- A packet of the fabric: destination, source, epoch, sequence number in its stream, virtual lane, body (R587 to R590). -/
structure FPacket where
  dst : Nat
  src : Nat
  epoch : Nat
  seq : Nat
  vl : Nat
  body : FBody
  deriving DecidableEq, Repr

/-- An operation on the IEEE 1149.1 port (R707): a boundary-scan shift, or EXTEST driving one land. -/
inductive Jtag where
  | sample
  | extest (land : Nat) (level : Bool)
  | release
  deriving DecidableEq, Repr

end Sys2Proof
end

