-- ==== Sys2Proof/Syntax.lean ====
section
/-! DEFINITION. The commands of the block: one constructor per row of the table of operations and events. -/
namespace Sys2Proof

/-- A command or event of the Ataux 9. `core`, `region`, `ring`, `port`, `channel` and `input` are logical numbers; `src` says
where a Polor packet is read; errors, choices of the device and inputs from outside are operands of the row they act in. -/
inductive Instr where
  /-- SETX (R349): Writes a sign-extended immediate to an index register. -/
  | setx (core : Nat)
  /-- ADDX (R349): Writes XS plus shifted XT plus an immediate, modulo 2^64, to an index register. -/
  | addx (core : Nat)
  /-- LOOP (R351): Runs the next LEN instructions as a body the number of times given by the count. -/
  | loop (core : Nat)
  /-- BR (R350): Moves the program counter by OFF when the condition holds between two registers. -/
  | br (core : Nat)
  /-- LOAD (R356): Moves a box, a block list or an ACC image into the carrel or the accumulators in the layout its role selects. -/
  | load (core : Nat) (errs : List MemErr)
  /-- STORE (R364): Writes a carrel object or the ACC image to main memory through a descriptor. -/
  | store (core : Nat) (errs : List MemErr)
  /-- GATHER (R280): Delivers the slices named by an index tensor into consecutive carrel positions, coalescing within 64-entry windows. -/
  | gather (core : Nat) (errs : List MemErr)
  /-- SCATTER (R284): Writes or accumulates slices at the coordinates listed in an index tensor. -/
  | scatter (core : Nat) (errs : List MemErr)
  /-- LOADCARD (R359): Loads and checks the catalogue cards of a folio box into a card bank and may form the choice map. -/
  | loadcard (core : Nat) (errs : List MemErr)
  /-- MMA (R370): Checks and runs a dense (or AUTO-split) matrix multiply-accumulate on the array or a quarter. -/
  | mma (core : Nat) (mis : List Mismatch)
  /-- SPMA (R222): Runs a sparse A times dense B product on the sparse engine in tile mode. -/
  | spma (core : Nat) (mis : List Mismatch)
  /-- SPGE (R373): Runs a sparse times sparse product in tile mode or as sorted runs for the bindery. -/
  | spge (core : Nat) (mis : List Mismatch)
  /-- EWISE_DIAG (R374): Performs diagonal MUL or MAD passes on accumulator slots. -/
  | ewiseDiag (pass : Pass)
  /-- EWISE_CHAIN (R375): Runs a drain chain over a DATA object and writes a DATA object. -/
  | ewiseChain (core : Nat)
  /-- REDUCE (R376): Combines SUM, MAX or LSE side-output records into one record. -/
  | reduce (core : Nat)
  /-- REDUCE_SPLITK (R377): Combines split-K partial ACC images into an image or into the accumulators. -/
  | reduceSplitk (core : Nat)
  /-- DRAIN (R378): Ends a tile record and runs its drain chain, writing a DATA object. -/
  | drain (core : Nat)
  /-- DRAIN_PARTIAL (R379): Ends a tile record and writes its ACC image as an ACCIMAGE object. -/
  | drainPartial (core : Nat)
  /-- TAKE (R381): Asks the desk counter for a tile and writes its origins, counts and tile number into eight registers. -/
  | take (core : Nat)
  /-- COMMIT (R383): Waits for all issued instructions, then offers the held tile's accession to the desk. -/
  | commit (core : Nat)
  /-- YIELD (R384): Returns the held tile uncommitted to the desk or offers a pre-emption point. -/
  | yield (core : Nat)
  /-- SEND (R386): Transmits carrel bytes along a send route to land at an offset with the held tile's accession. -/
  | send (core : Nat)
  /-- TALLY (R387): Waits for earlier stores and sends, then adds an amount to a local or remote tally. -/
  | tally (core : Nat)
  /-- WAIT (R388): Holds issue until a local tally reaches the awaited value. -/
  | wait (core : Nat)
  /-- FENCE (R389): Holds issue until every issued instruction of the core has completed. -/
  | fence (core : Nat)
  /-- HALT (R390): Ends the program on its core and returns the core to its desk. -/
  | halt (core : Nat)
  /-- DBG (R391): Sends a debug event with the program counter, a code and a register when enabled. -/
  | dbg (core : Nat)
  /-- PHASE_ENTER (R342): After the current phase's instructions complete, the sequencer enters the waiting instruction's phase and issues it. -/
  | phaseEnter (core : Nat) (errs : List MemErr) (mis : List Mismatch)
  /-- INSTRUCTION_COMPLETE (R343): An issued instruction reaches its completion event and releases what waits on it. -/
  | instructionComplete (core idx : Nat)
  /-- WAIT_RELEASE (R388): A waiting WAIT finds its tally condition satisfied and lets issue continue. -/
  | waitRelease (core : Nat)
  /-- TAKE_SERVED (R419): A TAKE waiting on the window or a pending combine tile is served once the watermark advances or the tile becomes available. -/
  | takeServed (core : Nat)
  /-- COMMIT_OFFER (R424): The desk accepts the offered commit, landing the first one for an accession and discarding later ones. -/
  | commitOffer (core : Nat)
  /-- TALLY_INCREMENT (R596): After its wait, the TALLY adds locally or sends an increment packet to the named socket. -/
  | tallyIncrement (core : Nat)
  /-- TRANSFER_RESUME (R504): A stopped transfer resumes from its stop row after its fault is resolved. -/
  | transferResume (who : XferId) (errs : List MemErr)
  /-- TILE_RERUN (R170): Four AC cycles after an overflow, the tile restarts with A's scales lowered. -/
  | tileRerun (pass : Pass) (idx : Nat)
  /-- REPAIR_SWITCH (R140): At the next tile boundary a spare row is switched in over 16 AC cycles. -/
  | repairSwitch (core : Nat) (mis : List Mismatch)
  /-- PREEMPT_MID_TILE (R446): After the core's issued instructions complete, its context is saved with its tile suspended, or the tile is abandoned. -/
  | preemptMidTile (core : Nat) (poolFull : Bool)
  /-- CONTEXT_RESUME (R448): A saved context is restored on a core of its region and continues. -/
  | contextResume (core : Nat)
  /-- CORE_PROGRAM_START (R441): An idle core starts a suspended context or the highest-priority runnable dispatch, loading its image. -/
  | coreProgramStart (core : Nat)
  /-- BINDERY_JOB_START (R33): The bindery starts the next waiting merge job in acceptance order. -/
  | binderyJobStart (region : Nat)
  /-- BINDERY_PASS_COMPLETE (R233): A merge pass ends and the next pass or the final output follows. -/
  | binderyPassComplete (region : Nat)
  /-- RUN_TO_BUFFER (R236): A committed run moves from its carrel into the bindery buffer when room appears. -/
  | runToBuffer (job run : Nat)
  /-- NOP (R530): Does nothing and replies. -/
  | nop (src : Src)
  /-- IDENTIFY (R620): Returns HIF.ID, firmware version and enabled regions and ports. -/
  | identify (src : Src)
  /-- CREATE_RING (R543): Creates a submission and completion ring pair 1 to 63. -/
  | createRing (src : Src)
  /-- DESTROY_RING (R543): Destroys a ring that is idle or in ERROR. -/
  | destroyRing (src : Src)
  /-- SET_SETTING (R544): Sets a live setting or stages it inside a transaction. -/
  | setSetting (src : Src)
  /-- GET_SETTING (R544): Returns a setting's live value, or its staged value in the ring's own transaction. -/
  | getSetting (src : Src)
  /-- STORE_SETTINGS (R627): Writes the live settings to the archive settings page not written last. -/
  | storeSettings (src : Src)
  /-- ROUTE_WRITE (R583): Writes route-table entries, restarting streams whose epoch, VALID or DEAD bit changes. -/
  | routeWrite (src : Src)
  /-- SENDROUTE_WRITE (R598): Writes send-route entries. -/
  | sendrouteWrite (src : Src)
  /-- TXN_BEGIN (R567): Opens the device's one transaction on the ring. -/
  | txnBegin (src : Src)
  /-- TXN_COMMIT (R571): Checks and applies every staged change, or rolls the transaction back. -/
  | txnCommit (src : Src)
  /-- TXN_ROLLBACK (R574): Discards every staged change of the open transaction. -/
  | txnRollback (src : Src)
  /-- SET_EVENTS (R655): Sets the mask over the maskable event codes. -/
  | setEvents (src : Src)
  /-- ALLOC (R456): Allocates device memory under a placement hint and reports the placement made. -/
  | alloc (src : Src) (pick : AllocPick)
  /-- FREE (R546): Frees an allocation no live descriptor lies in. -/
  | free (src : Src)
  /-- HOST_EVICT (R487): Marks host-backed pages not resident and replies after prior accesses complete. -/
  | hostEvict (src : Src)
  /-- HOST_RESIDENT (R487): Marks host-backed pages resident at new bus addresses and resumes transfers stopped on them. -/
  | hostResident (src : Src)
  /-- HOST_UNMAP (R487): Removes host-backed pages from their allocation. -/
  | hostUnmap (src : Src)
  /-- TRANSLATE (R479): Returns the leaf page-table entry of a virtual address and its level. -/
  | translate (src : Src)
  /-- COPY (R547): Copies bytes between non-overlapping addresses on stack engines. -/
  | copy (src : Src) (errs : List MemErr)
  /-- FILL (R547): Fills a range with a byte value on stack engines. -/
  | fill (src : Src)
  /-- CREATE_TENSOR (R259): Validates a descriptor image and returns a handle or the first failed check. -/
  | createTensor (src : Src) (handle : Nat)
  /-- DESTROY_TENSOR (R247): Destroys a descriptor that no accepted dispatch names. -/
  | destroyTensor (src : Src)
  /-- CREATE_OWNER (R290): Creates an owner table over a 2 MiB-aligned window. -/
  | createOwner (src : Src) (handle : Nat)
  /-- WRITE_OWNER (R548): Stages owner-table entry writes inside a transaction. -/
  | writeOwner (src : Src)
  /-- SWITCH_OWNER (R548): Switches an owner table to its differing standby generation. -/
  | switchOwner (src : Src)
  /-- OWNER_SWITCH_FINISH (R296): After copies and generation-g accesses complete, OWNT.GEN advances and held writes are performed. -/
  | ownerSwitchFinish (handle : Nat)
  /-- DESTROY_OWNER (R549): Destroys an owner table that no live descriptor names. -/
  | destroyOwner (src : Src)
  /-- LOAD_POLY (R311): Loads a polynomial table after checking its entries. -/
  | loadPoly (src : Src)
  /-- CREATE_JOB (R547): Creates a bindery merge job in a region with an output form. -/
  | createJob (src : Src) (handle : Nat)
  /-- LOAD_PROGRAM (R400): Reads and checks a program image and returns a program handle. -/
  | loadProgram (src : Src) (handle : Nat)
  /-- UNLOAD_PROGRAM (R551): Unloads a program no unfinished dispatch names. -/
  | unloadProgram (src : Src)
  /-- DISPATCH (R554): Reads and checks a tile-program dispatch block for acceptance. -/
  | dispatch (src : Src)
  /-- CONTRACT (R556): Reads and checks a contraction block, which the device tiles itself. -/
  | contract (src : Src)
  /-- DISPATCH_ACCEPT (R538): Once counters, windows and dispatch slots are free, the dispatch is accepted and its ACCEPT reply written. -/
  | dispatchAccept (ring : Nat) (pick : PlacePick)
  /-- DEPENDENCY_RESOLVED (R540): A named dependency gets its FINAL reply, releasing or cancelling the dependent dispatch. -/
  | dependencyResolved (number : Nat)
  /-- DISPATCH_TALLY_WAIT_MET (R542): A dispatch's tally-wait condition holds and it may take tiles. -/
  | dispatchTallyWaitMet (number : Nat)
  /-- DISPATCH_COMPLETE (R532): When the last accession commits and final work ends, the FINAL reply and its CONT entry are written. -/
  | dispatchComplete (number : Nat)
  /-- CANCEL (R560): Cancels an accepted dispatch by its number under the ordered steps of cancellation. -/
  | cancel (src : Src)
  /-- CANCEL_WAITING_PACKET (R561): Cancels the waiting DISPATCH, CONTRACT or TALLY_WAIT with a given tag at a ring head. -/
  | cancelWaitingPacket (src : Src)
  /-- CANCEL_COMPLETE (R450): After the last dropped read returns and the last write is accepted, the ST_CANCELLED reply is sent. -/
  | cancelComplete (number : Nat)
  /-- FAULT_ACTION_ABORT (R562): Ends a dispatch with a stopped core as a cancel, replying ST_FAULTED. -/
  | faultActionAbort (src : Src)
  /-- FAULT_ACTION_DROP_CORE (R562): Removes the stopped core from its dispatch and abandons its tile. -/
  | faultActionDropCore (src : Src)
  /-- TALLY_READ (R563): Returns a tally's value. -/
  | tallyRead (src : Src)
  /-- TALLY_ADD (R563): Atomically adds to a tally and returns the new value. -/
  | tallyAdd (src : Src)
  /-- TALLY_SET (R563): Atomically sets a tally. -/
  | tallySet (src : Src)
  /-- TALLY_WAIT (R563): Holds its ring until a local tally reaches a value. -/
  | tallyWait (src : Src)
  /-- TALLY_WAIT_SATISFIED (R563): A waiting TALLY_WAIT finds its condition holding and replies. -/
  | tallyWaitSatisfied (ring : Nat)
  /-- READ_RECORD (R563): Returns a repair word, desk counter record or channel record. -/
  | readRecord (src : Src)
  /-- REPAIR_ROW (R143): Switches a spare in for a named logical row at the next tile boundary. -/
  | repairRow (src : Src)
  /-- EVACUATE_CHANNEL (R490): Starts migrating every page off a channel toward OUT. -/
  | evacuateChannel (src : Src)
  /-- RETURN_CHANNEL (R661): Powers, reads and trains a replaced DIMM and returns its channel to service. -/
  | returnChannel (src : Src)
  /-- DIMM_POWER_SETTLED (R660): Twenty ms after the power-enable goes active, the SPD is read and the channel trained. -/
  | dimmPowerSettled (channel : Nat) (dimm : Option Dimm)
  /-- QUARANTINE_CORE (R646): Quarantines a logical core by command, substituting the spare. -/
  | quarantineCore (src : Src)
  /-- ISOLATE_REGION (R651): Isolates a region by command. -/
  | isolateRegion (src : Src)
  /-- RESTORE_REGION (R651): Checks an isolated region and returns it to service when all checks pass. -/
  | restoreRegion (src : Src) (passes : Bool)
  /-- LASER_PREPARE (R662): Moves traffic off an engine's two ports ahead of a laser swap. -/
  | laserPrepare (src : Src)
  /-- LASER_RELEASE (R662): Once the ports' unacknowledged packets have moved, the laser input is released and the ports go DARK. -/
  | laserRelease (input : Nat)
  /-- LASER_DONE (R663): Retrains both ports of an engine after a laser swap. -/
  | laserDone (src : Src)
  /-- IMAGE_WRITE (R631): Writes and verifies a firmware image into a slot. -/
  | imageWrite (src : Src)
  /-- IMAGE_ACTIVATE (R632): Names a slot active, applies its owner action and hands the firmware over. -/
  | imageActivate (src : Src)
  /-- ATTEST (R636): Writes a signed attestation report and the identity certificate. -/
  | attest (src : Src)
  /-- LEDGER_READ (R671): Writes a signed ledger readout record with the host mark and nonce. -/
  | ledgerRead (src : Src)
  /-- LEDGER_CERT (R673): Writes the ledger key's certificate. -/
  | ledgerCert (src : Src)
  /-- LEDGER_REFCHECK (R677): Starts measuring the sealed reference through each energy sensor's spare path. -/
  | ledgerRefcheck (src : Src)
  /-- REFCHECK_COMPLETE (R677): After 2^20 LC cycles, the REFCHECK record with pass flag is written. -/
  | refcheckComplete (expected measured : List Nat)
  /-- DBG_READ (R564): Reads carrel, tags, accumulators or stationary registers through the debug port. -/
  | dbgRead (src : Src)
  /-- DBG_WRITE (R564): Writes carrel, tags, accumulators or stationary registers through the debug port. -/
  | dbgWrite (src : Src)
  /-- MCTP_CONTROL_MESSAGE (R619): The management endpoint answers an MCTP control message. -/
  | mctpControlMessage (msg : List Byte)
  /-- AQ_ENABLE (R515): Setting AQ_EN checks ring 0 and starts serving it or records HIF.LASTST. -/
  | aqEnable
  /-- AQ_DISABLE (R516): Clearing AQ_EN stops reading ring 0. -/
  | aqDisable
  /-- EVQ_ENABLE (R515): Setting EVQ_EN checks the event ring and starts it. -/
  | evqEnable
  /-- EVQ_DISABLE (R516): Clearing EVQ_EN holds events in the device queue. -/
  | evqDisable
  /-- EVQ_HEAD_WRITE (R565): Writing HIF.EVQ_HEAD releases event entries to the device. -/
  | evqHeadWrite (value : W64)
  /-- REGISTER_WRITE (R514): A write to a BAR0 register without behaviour of its own. -/
  | registerWrite (offset : Nat) (value : W64)
  /-- DOORBELL_SQ_TAIL (R521): A doorbell write with DB.SQV sets a ring's submission tail. -/
  | doorbellSqTail (ring : Nat) (value : W64) (host : List (Nat × List Byte))
  /-- DOORBELL_CQ_HEAD (R521): A doorbell write with DB.CQV releases completion entries to the device. -/
  | doorbellCqHead (ring : Nat) (value : W64)
  /-- BAR4_READ (R518): A host read through the BAR4 window translated to device memory. -/
  | bar4Read (offset len : Nat)
  /-- BAR4_WRITE (R518): A host write through the BAR4 window, dropped with a WINDOW event when unmapped. -/
  | bar4Write (offset : Nat) (bytes : List Byte)
  /-- EVENT_WRITE (R565): A queued event is written to the event ring when it has room. -/
  | eventWrite
  /-- SCRUB_PATROL_READ (R475): Hokuec reads the next memory line of each channel at the SCRUB_RATE. -/
  | scrubPatrolRead (errs : List MemErr)
  /-- PAGE_MIGRATE (R488): Hokuec starts moving a page for retirement, evacuation or interleave restoral. -/
  | pageMigrate (va : Nat) (cause : MoveCause) (frames : List Nat)
  /-- MIGRATION_COPY_DONE (R488): The copy ends; the entry points at the new frame and stalled writes resume. -/
  | migrationCopyDone (copy : PageCopy)
  /-- CHANNEL_RECALIBRATE (R659): After 2^24 refreshes a channel's drive and timing are recalibrated. -/
  | channelRecalibrate (channel : Nat)
  /-- FRAME_CLEAR (R615): Hokuec writes zero to a frame before it may be mapped. -/
  | frameClear (frame : Nat)
  /-- CORE_ERROR_QUARANTINE (R644): An uncorrectable core error quarantines the core and substitutes the spare. -/
  | coreErrorQuarantine (core : Nat) (cause : QuarCause)
  /-- REGION_ERROR_ISOLATE (R649): An uncorrectable error in a region's shared units isolates the region. -/
  | regionErrorIsolate (region : Nat) (cause : IsoCause)
  /-- BRIDGE_FLIT_CRC_FAIL (R652): A bridge flit fails CRC and is replayed; sixteen in a row are fatal. -/
  | bridgeFlitCrcFail (link : Nat) (again : Bool)
  /-- FABRIC_ARBITER_ERROR (R653): An error in the fabric arbiter declares a fatal error. -/
  | fabricArbiterError
  /-- MGMT_PROCESSOR_FAIL (R654): A failed management processor is restarted while the others take its duties. -/
  | mgmtProcessorFail (proc : Nat)
  /-- FLIT_RECEIVE (R576): A port receives a flit and asks for replay on an FEC or CRC failure. -/
  | flitReceive (port : Nat) (flit : Flit) (corrected : Nat) (crcOk : Bool)
  /-- LANE_FAIL (R577): A lane loses lock or reaches 16 uncorrectable codewords and the port restripes or goes DOWN. -/
  | laneFail (port lane : Nat)
  /-- PORT_STALL_END (R578): After a 1,024 FC cycle restripe stall the port replays unacknowledged flits. -/
  | portStallEnd (port : Nat)
  /-- PORT_TRAINED (R579): Link training exchanges socket and port numbers and brings the port UP or holds it in TRAINING. -/
  | portTrained (port goodLanes : Nat) (peer : Option (Nat × Nat))
  /-- FABRIC_PACKET_RECEIVE (R589): A socket receives a packet and performs, relays or discards it by sequence and epoch. -/
  | fabricPacketReceive (port : Nat) (pkt : FPacket)
  /-- FABRIC_ACK_RECEIVE (R589): An acknowledgement or replay request reaches the source of a stream. -/
  | fabricAckReceive (port : Nat) (pkt : FPacket)
  /-- UNREACHABLE_NOTICE (R604): An UNREACHABLE notice marks the destination unreachable and faults instructions to it. -/
  | unreachableNotice (socket : Nat)
  /-- LASER_LOSS (R686): A laser input below +14 dBm for 64 LC cycles puts both its ports DARK. -/
  | laserLoss (input : Nat)
  /-- PWRGOOD_RISE (R621): A POWER-ON reset samples straps and runs the boot to HIF.READY. -/
  | pwrgoodRise (boot : BootIn)
  /-- SVN_FLOOR_RAISE (R630): Once HIF.READY is reported, the boot ROM blows fuses to raise the SVN floor. -/
  | svnFloorRaise
  /-- PWRGOOD_FALL (R694): PWRGOOD falling stops the device ahead of rail loss. -/
  | pwrgoodFall
  /-- COLD_RESET (R623): A COLD_RESET_N assertion and release runs boot steps 2 to 7 with strap sampling. -/
  | coldReset (boot : BootIn)
  /-- WARM_RESET (R623): A WARM_RESET_N or PERST_N assertion and release restarts Hokuec without strap sampling. -/
  | warmReset (perst : Bool) (boot : BootIn)
  /-- FLR (R613): A Function Level Reset cancels every dispatch and discards state within 100 ms. -/
  | flr
  /-- PCIE_HOT_RESET (R613): A PCIe hot reset acts as an FLR and retrains the link. -/
  | pcieHotReset
  /-- PCIE_LINK_LOSS (R613): Loss of the PCIe link acts as an FLR. -/
  | pcieLinkLoss
  /-- REFERENCE_LOSS (R44): Loss of the 40 MHz reference for 2 µs stops AC, FC and MC. -/
  | referenceLoss
  /-- REFERENCE_RETURN (R44): Return of the reference after a loss is treated as a cold reset. -/
  | referenceReturn (boot : BootIn)
  /-- RAIL_FAULT (R695): A rail out of tolerance for 10 µs drives PWRFAULT_N and holds POWER-ON reset. -/
  | railFault (rail : Nat)
  /-- VLDG_FALL (R697): VLDG below 0.73 V starts Staul's checkpoint. -/
  | vldgFall (held : Bool)
  /-- STAUL_POWER_UP (R679): Staul resumes from its last checkpoint and counts the power-up. -/
  | staulPowerUp
  /-- STAUL_CHECKPOINT (R679): Every 2^32 LC cycles Staul checkpoints its counters. -/
  | staulCheckpoint (energy : List Nat)
  /-- JUNCTION_HOT (R710): A junction at 100 °C makes Hokuec withhold new tiles. -/
  | junctionHot
  /-- JUNCTION_COOL (R710): All junctions below 95 °C let Hokuec resume handing out tiles. -/
  | junctionCool
  /-- THERMTRIP (R711): A junction at 115 °C stops the compute and optical clocks and drives THERMTRIP_N. -/
  | thermtrip
  /-- POWER_LIMIT_REACHED (R49): Package power at the limit makes Hokuec withhold new tiles and park cores. -/
  | powerLimitReached
  /-- POWER_BELOW_LIMIT (R49): Package power below the limit lets Hokuec hand out tiles again. -/
  | powerBelowLimit
  /-- CORE_PARK (R48): Hokuec parks or gates a core that holds no taken tile. -/
  | corePark (core : Nat) (gate : Bool)
  /-- CORE_WAKE (R47): A parked or gated core becomes active. -/
  | coreWake (core : Nat)
  /-- FIRST_TAKE_STAGGER_ELAPSED (R443): The j-th core's first TAKE of a dispatch start is answered once j times DESK.STAGGER FC cycles have passed since the first core's TAKE was answered. -/
  | firstTakeStaggerElapsed (core : Nat)
  /-- TILE_RANGE_MOVE (R417): Hokuec moves a range of unformed tiles from the end of one counter's range to another counter of the same dispatch. -/
  | tileRangeMove (fromRegion fromCounter toRegion toCounter count : Nat)
  /-- HIF_READY (R621): At the end of the boot, HIF.READY becomes 1 and any enable written earlier takes effect. -/
  | hifReady
  /-- MGMT_RESTART_COMPLETE (R654): A restarted management processor finishes its restart, ring reading resumes and an MGMT event is sent. -/
  | mgmtRestartComplete (proc : Nat)
  /-- PROCESSOR_HANDOVER_COMPLETE (R656): One management processor finishes loading and checking the new image and takes over its duties, or fails and starts the rollback. -/
  | processorHandoverComplete (proc : Nat) (ok : Bool)
  /-- ARCHIVE_WRITE_COMPLETE (R631): An archive write by IMAGE_WRITE or STORE_SETTINGS ends, the slot is checked and marked VALID or the settings copy is in force, and the reply is sent. -/
  | archiveWriteComplete
  /-- COPY_FILL_COMPLETE (R547): A COPY or FILL completes when the fabric has accepted its last write, and it replies. -/
  | copyFillComplete (id : Nat)
  /-- LEDGER_RECORD_RELEASE (R675): Staul releases the record of a LEDGER_READ or LEDGER_CERT and starts the next queued request. -/
  | ledgerRecordRelease (sideband : Bool) (energy : List Nat)
  /-- LASER_INPUT_RESTORED (R686): A lost laser input returns above its threshold, changing nothing until LASER_DONE. -/
  | laserInputRestored (input : Nat)
  /-- PCIE_LINK_TRAINED (R609): The PCIe link completes training after a reset, a hot reset or a link loss. -/
  | pcieLinkTrained (width : Nat)
  /-- BOUNDARY_SCAN (R707): An IEEE 1149.1 operation on the test port, including EXTEST driving lands while COLD_RESET_N is held low. -/
  | boundaryScan (op : Jtag)
  deriving DecidableEq, Repr

end Sys2Proof
end

