-- ==== Sys2Proof/Machine/Crypto.lean ====
section
/-! DEFINITION. CRC-32 (R398, R627), SHA-256 and ECDSA over P-256 (R628 to R637, R672). -/
namespace Sys2Proof.Machine

/-- One bit of the reflected CRC-32 of IEEE 802.3. -/
def crcBit (c : BitVec 32) : BitVec 32 := if c.getLsbD 0 then (c >>> 1) ^^^ 0xEDB88320#32 else c >>> 1

/-- `n` bits of the CRC. -/
def crcBits : Nat → BitVec 32 → BitVec 32
  | 0, c => c
  | n + 1, c => crcBits n (crcBit c)

/-- CRC-32 with the IEEE 802.3 polynomial (R398). -/
def crc32 (l : List Byte) : Nat :=
  ((l.foldl (fun c b => crcBits 8 (c ^^^ b.setWidth 32)) 0xFFFFFFFF#32) ^^^ 0xFFFFFFFF#32).toNat

/-- The big-endian number of a list of bytes. -/
def ofBe (l : List Byte) : Nat := l.foldl (fun a b => a * 256 + b.toNat) 0

/-- The largest number below 2^k whose `e`-th power does not pass `v`, its bits found from the highest down. -/
def rootBits (e v : Nat) : Nat → Nat
  | 0 => 0
  | k + 1 =>
    let up := 2 * rootBits e (v / 2 ^ e) k + 1
    if up ^ e ≤ v then up else up - 1

/-- The primes below a bound, in order. -/
def primesBelow (n : Nat) : List Nat := (List.range n).filter (fun p => 2 ≤ p && (List.range p).all (fun q => q < 2 || p % q != 0))

/-- The first 32 bits of the fraction of the `e`-th root of a number: SHA-256 takes its constants from such roots of the first primes. -/
def rootFraction (e p : Nat) : BitVec 32 := BitVec.ofNat 32 (rootBits e (p * 2 ^ (32 * e)) 40)

/-- The 64 round constants. -/
def shaRounds : List (BitVec 32) := (primesBelow 312).map (rootFraction 3)
/-- The eight words that a digest starts from. -/
def shaStart : List (BitVec 32) := (primesBelow 20).map (rootFraction 2)

/-- A word rotated by each of some distances, the results combined bit by bit. -/
def rotations (ks : List Nat) (x : BitVec 32) : BitVec 32 := (ks.map x.rotateRight).foldl (fun u v => u ^^^ v) 0#32

/-- What a digest works on: its eight words, and the 16 words of the message schedule that are next. -/
structure ShaWork where
  words : List (BitVec 32)
  next : List (BitVec 32)

/-- One round with a constant: the first word of the schedule enters, and the schedule grows by one word. -/
def ShaWork.round (u : ShaWork) (k : BitVec 32) : ShaWork :=
  let at_ := fun (l : List (BitVec 32)) (i : Nat) => (l[i]?).getD 0#32
  let v := at_ u.words
  let m := at_ u.next
  let pick := (v 4 &&& v 5) ||| (~~~v 4 &&& v 6)
  let most := (v 0 &&& (v 1 ||| v 2)) ||| (v 1 &&& v 2)
  let into := v 7 + k + m 0 + pick + rotations [6, 11, 25] (v 4)
  let grown := m 0 + m 9 + (rotations [7, 18] (m 1) ^^^ m 1 >>> 3) + (rotations [17, 19] (m 14) ^^^ m 14 >>> 10)
  let moved := u.words.take 7
  { words := (into + most + rotations [2, 13, 22] (v 0)) :: moved.set 3 (v 3 + into), next := u.next.drop 1 ++ [grown] }

/-- The words after a block of 64 bytes. -/
def shaBlock (ws : List (BitVec 32)) (block : List Byte) : List (BitVec 32) :=
  let first : ShaWork := ⟨ws, (chunksOf 4 16 block).map (fun c => BitVec.ofNat 32 (ofBe c))⟩
  List.zipWith (fun x y => x + y) ws (shaRounds.foldl ShaWork.round first).words

/-- The bytes that fill a message of `n` bytes up to whole blocks: a one bit, zeros, and the length in bits. -/
def shaFill (n : Nat) : List Byte := [0x80#8] ++ List.replicate ((119 - n % 64) % 64) 0#8 ++ (leBytes 8 (n * 8)).reverse

/-- SHA-256 of a list of bytes: the 32 output bytes in order. -/
def sha256 (m : List Byte) : List Byte :=
  ((chunksOf 64 (m.length + 2) (m ++ shaFill m.length)).foldl shaBlock shaStart).flatMap (fun w => (leBytes 4 w.toNat).reverse)

/-- The prime, order and generator of P-256. -/
def p256p : Nat := 0xffffffff00000001000000000000000000000000ffffffffffffffffffffffff
/-- The order of the P-256 group. -/
def p256n : Nat := 0xffffffff00000000ffffffffffffffffbce6faada7179e84f3b9cac2fc632551
/-- The curve constant b. -/
def p256b : Nat := 0x5ac635d8aa3a93e7b3ebbd55769886bc651d06b0cc53b0f63bce3c3e27d2604b
/-- The generator. -/
def p256g : Nat × Nat :=
  (0x6b17d1f2e12c4247f8bce6e563a440f277037d812deb33a0f4a13945d898c296,
   0x4fe342e2fe1a7f9b8ee7eb4a7c0f9e162bce33576b315ececbb6406837bf51f5)

/-- Modular power with `k` bits of exponent. -/
def powMod (m : Nat) : Nat → Nat → Nat → Nat
  | 0, _, _ => 1
  | k + 1, b, e =>
    let h := powMod m k (b * b % m) (e / 2)
    if e % 2 = 1 then h * b % m else h

/-- The inverse modulo a 256-bit prime. -/
def invMod (m a : Nat) : Nat := powMod m 256 (a % m) (m - 2)

/-- A point of the curve; none is the point at infinity. -/
abbrev Pt := Option (Nat × Nat)

/-- The sum of two points. -/
def ptAdd (a b : Pt) : Pt :=
  match a, b with
  | none, q => q
  | q, none => q
  | some (x1, y1), some (x2, y2) =>
    let p := p256p
    if x1 = x2 ∧ (y1 + y2) % p = 0 then none
    else
      let l := if x1 = x2 then (3 * x1 * x1 + (p - 3)) * invMod p (2 * y1) % p
        else (y2 + p - y1) * invMod p (x2 + p - x1) % p
      let x := (l * l + 2 * p - x1 - x2) % p
      some (x, (l * (x1 + p - x) + p - y1) % p)

/-- A multiple of a point, with `k` bits of scalar. -/
def ptMul : Nat → Nat → Pt → Pt
  | 0, _, _ => none
  | k + 1, n, q =>
    let h := ptMul k (n / 2) (ptAdd q q)
    if n % 2 = 1 then ptAdd h q else h

/-- ECDSA verification over P-256 of a digest given as a number (R628, R629). -/
def ecdsaVerify (key : Nat × Nat) (digest r s : Nat) : Bool :=
  let n := p256n
  if r = 0 || s = 0 || r ≥ n || s ≥ n || key.1 ≥ p256p || key.2 ≥ p256p
      || (key.2 * key.2) % p256p ≠ (key.1 * key.1 * key.1 + (p256p - 3) * key.1 + p256b) % p256p then false
  else
    let w := invMod n s
    match ptAdd (ptMul 256 (digest * w % n) (some p256g)) (ptMul 256 (r * w % n) (some key)) with
    | none => false
    | some (x, _) => x % n = r

/-- The digest of a list of bytes as the integer that ECDSA uses. -/
def shaNat (m : List Byte) : Nat := ofBe (sha256 m)

end Sys2Proof.Machine
end

