-- ==== Sys2Proof/Config.lean ====
section
/-! DEFINITION. What the manual leaves open: constants without a body, so that nothing can be proved of their values. Each is a
log entry (notes/assumptions). -/
namespace Sys2Proof.Config

/-- The byte that the n-th unspecified event leaves at an address (R498): log entry 5. -/
opaque freeByte : Nat → Nat → Byte
/-- Which of two allowed outcomes the n-th unspecified event takes at an address (R452, R605): log entry 5. -/
opaque freeBit : Nat → Nat → Bool
/-- The n-th raw value that the manual leaves unspecified: log entry 5. -/
opaque freeNat : Nat → Nat
/-- A detail byte that the manual does not state, by the place it is asked for: log entry 6. -/
opaque openDetail : Nat → Nat
/-- The I/O die whose translation caches serve a leaf (R480): log entry 7. -/
opaque leafDie : Nat → Nat
/-- Where the channels start for the 2 MiB span of a page, among those that its lines rotate over (R457): log entry 179. -/
opaque firstChannel : Nat → Nat
/-- The memory line, numbered by frames, at a place of a channel's patrol, which is in ascending frame order (R475): log entry 180. -/
opaque patrolLine : Nat → Nat → Nat
/-- Whether a frame of Hokuec's reserve holds page-table lines (R464, R476): log entry 181. -/
opaque tableFrame : Nat → Bool
/-- The result of an operation for operands for which the manual states no result, by place and operand: log entry 8. -/
opaque unstated : Nat → Nat → Nat
/-- The Ocros firmware key, held in the boot ROM (R628): log entry 9. -/
opaque ocrosKey : Nat × Nat
/-- The identity key's public part (R634): log entry 9. -/
opaque identityKey : Nat × Nat
/-- The signature (r, s) that the signing unit makes over a digest (R636): log entry 9. -/
opaque identitySign : Nat → Nat × Nat
/-- The signature (r, s) that Staul makes over a digest, by calibration generation (R672): log entry 9. -/
opaque ledgerSign : Nat → Nat → Nat × Nat
/-- The DER bytes of the identity certificate in the factory area (R634): log entry 9. -/
opaque identityCert : List Byte
/-- The DER bytes of the ledger key's certificate (R673): log entry 9. -/
opaque ledgerCert : List Byte

end Sys2Proof.Config
end

