-- ==== Sys2Proof/Machine/Fp.lean ====
section
/-! DEFINITION. Floating-point values as exact numbers, their rounding, and FP32 arithmetic (R54 to R59, R75, R80, R305, R309). -/
namespace Sys2Proof.Machine

/-- A floating-point value: NaN (one kind only, R58), an infinity, or (−1)^neg × m × 2^e. -/
inductive FV where
  | nan
  | inf (neg : Bool)
  | fin (neg : Bool) (m : Nat) (e : Int)
  deriving DecidableEq, Repr

/-- What the all-ones exponent field holds (R54): IEEE infinities and NaNs, the one NaN of FP8 E4M3, or finite values only. -/
inductive Top where
  | ieee | oneNan | finite
  deriving DecidableEq, Repr

/-- A floating-point encoding (R54): exponent bits, mantissa bits, bias. -/
structure FFmt where
  eb : Nat
  mb : Nat
  bias : Nat
  top : Top
  deriving DecidableEq, Repr

/-- FP32. -/
def fp32 : FFmt := ⟨8, 23, 127, .ieee⟩
/-- BF16. -/
def bf16 : FFmt := ⟨8, 7, 127, .ieee⟩

/-- The floating-point encodings by format code (R54, R250). -/
def ffmtOf : Nat → Option FFmt
  | 0x01 => some ⟨2, 1, 1, .finite⟩
  | 0x02 => some ⟨3, 2, 3, .finite⟩
  | 0x03 => some ⟨2, 3, 1, .finite⟩
  | 0x04 => some ⟨4, 3, 7, .oneNan⟩
  | 0x05 => some ⟨5, 2, 15, .ieee⟩
  | 0x08 => some bf16
  | 0x09 => some ⟨5, 10, 15, .ieee⟩
  | 0x0A => some fp32
  | _ => none

/-- The value of an encoding (R54). -/
def FFmt.decode (f : FFmt) (w : Nat) : FV :=
  let neg := bit w (f.eb + f.mb)
  let e := bits w (f.eb + f.mb - 1) f.mb
  let m := bits w (f.mb - 1) 0
  if f.top == .ieee && e == 2 ^ f.eb - 1 then (if m == 0 then .inf neg else .nan)
  else if f.top == .oneNan && e == 2 ^ f.eb - 1 && m == 2 ^ f.mb - 1 then .nan
  else if e == 0 then .fin neg m (1 - (f.bias : Int) - f.mb)
  else .fin neg (2 ^ f.mb + m) ((e : Int) - f.bias - f.mb)

/-- The greatest exponent field of a finite value. -/
def FFmt.emax (f : FFmt) : Nat := if f.top == .ieee then 2 ^ f.eb - 2 else 2 ^ f.eb - 1

/-- The mantissa, hidden bit included, of the largest finite magnitude (R55). -/
def FFmt.maxMant (f : FFmt) : Nat := if f.top == .oneNan then 2 ^ (f.mb + 1) - 2 else 2 ^ (f.mb + 1) - 1

/-- The unit of the last place of the largest finite magnitude, as an exponent of two. -/
def FFmt.maxExp (f : FFmt) : Int := (f.emax : Int) - f.bias - f.mb

/-- Encoding of the largest finite magnitude (R55). -/
def FFmt.maxEnc (f : FFmt) : Nat := f.emax * 2 ^ f.mb + f.maxMant % 2 ^ f.mb

/-- The encoding of an infinity, where the format has one. -/
def FFmt.infEnc (f : FFmt) : Nat := (2 ^ f.eb - 1) * 2 ^ f.mb

/-- The canonical NaN of R57, where the format has one. -/
def FFmt.nanEnc (f : FFmt) : Nat :=
  if f.top == .oneNan then 2 ^ (f.eb + f.mb) - 1 else f.infEnc + 2 ^ (f.mb - 1)

/-- The sign bit of an encoding. -/
def FFmt.sign (f : FFmt) (neg : Bool) : Nat := if neg then 2 ^ (f.eb + f.mb) else 0

/-- How a rounding goes (R80, R85, R194, R315): to nearest even, toward zero, away from zero, or stochastic with a draw r. -/
inductive RMode where
  | rne | rtz | raz | sr (r : Nat)
  deriving DecidableEq, Repr

/-- A magnitude m × 2^e rounded to units of 2^q. -/
def roundMag (mode : RMode) (q : Int) (m : Nat) (e : Int) : Nat :=
  if q ≤ e then m * 2 ^ (e - q).toNat
  else
    let k := (q - e).toNat
    let fl := m / 2 ^ k
    let rem := m % 2 ^ k
    match mode with
    | .rtz => fl
    | .raz => if rem == 0 then fl else fl + 1
    | .rne => if 2 * rem > 2 ^ k || (2 * rem == 2 ^ k && fl % 2 == 1) then fl + 1 else fl
    | .sr r => if rem * 65536 / 2 ^ k + r ≥ 65536 then fl + 1 else fl

/-- The unit, as an exponent of two, to which a nonzero magnitude m × 2^e is rounded in a format with unbounded range above. -/
def FFmt.unit (f : FFmt) (m : Nat) (e : Int) : Int :=
  max ((Nat.log2 m : Int) + e) (1 - (f.bias : Int)) - f.mb

/-- Comparison of magnitudes m1 × 2^e1 and m2 × 2^e2. -/
def cmpMag (m1 : Nat) (e1 : Int) (m2 : Nat) (e2 : Int) : Ordering :=
  let e := min e1 e2
  compare (m1 * 2 ^ (e1 - e).toNat) (m2 * 2 ^ (e2 - e).toNat)

/-- A rounded magnitude: its mantissa in units of 2^q, or an overflow (R75). -/
def FFmt.round (f : FFmt) (mode : RMode) (m : Nat) (e : Int) : Option (Nat × Int) :=
  if m == 0 then some (0, 0)
  else
    let q := f.unit m e
    let r := roundMag mode q m e
    if cmpMag r q f.maxMant f.maxExp == .gt then none else some (r, q)

/-- The encoding of a rounded magnitude without its sign. -/
def FFmt.encMag (f : FFmt) (r : Nat) (q : Int) : Nat :=
  if r == 0 then 0
  else if r < 2 ^ f.mb then r
  else
    let (r, q) := if r ≥ 2 ^ (f.mb + 1) then (r / 2, q + 1) else (r, q)
    ((q + f.mb + f.bias).toNat) * 2 ^ f.mb + r % 2 ^ f.mb

/-- The exact product (R59). -/
def FV.mul : FV → FV → FV
  | .nan, _ => .nan
  | _, .nan => .nan
  | .inf a, .inf b => .inf (a != b)
  | .inf a, .fin b m _ => if m == 0 then .nan else .inf (a != b)
  | .fin b m _, .inf a => if m == 0 then .nan else .inf (a != b)
  | .fin a m e, .fin b n d => .fin (a != b) (m * n) (e + d)

/-- The exact sum (R59), a zero sum being +0 unless both operands are −0 (IEEE 754-2019, round to nearest). -/
def FV.add : FV → FV → FV
  | .nan, _ => .nan
  | _, .nan => .nan
  | .inf a, .inf b => if a == b then .inf a else .nan
  | .inf a, _ => .inf a
  | _, .inf b => .inf b
  | .fin a m e, .fin b n d =>
    if m == 0 && n == 0 then .fin (a && b) 0 0
    else
      let u := min e d
      let x : Int := (m * 2 ^ (e - u).toNat : Nat)
      let y : Int := (n * 2 ^ (d - u).toNat : Nat)
      let s := (if a then -x else x) + (if b then -y else y)
      if s == 0 then .fin false 0 0 else .fin (decide (s < 0)) s.natAbs u

/-- The value with its sign changed. -/
def FV.neg : FV → FV
  | .nan => .nan
  | .inf a => .inf (!a)
  | .fin a m e => .fin (!a) m e

/-- The value times 2^k, exactly. -/
def FV.scale (k : Int) : FV → FV
  | .fin a m e => .fin a m (e + k)
  | v => v

/-- Whether a value is NaN. -/
def FV.isNan : FV → Bool
  | .nan => true
  | _ => false

/-- Whether a value is neither NaN nor an infinity. -/
def FV.isFin : FV → Bool
  | .fin .. => true
  | _ => false

/-- Whether a value is a zero of either sign. -/
def FV.isZero : FV → Bool
  | .fin _ m _ => m == 0
  | _ => false

/-- Order of two values that are not NaN, with +0 and −0 equal. -/
def FV.cmp : FV → FV → Ordering
  | .inf a, .inf b => if a == b then .eq else if a then .lt else .gt
  | .inf a, _ => if a then .lt else .gt
  | _, .inf b => if b then .gt else .lt
  | .fin a m e, .fin b n d =>
    if m == 0 && n == 0 then .eq
    else if m == 0 then (if b then .gt else .lt)
    else if n == 0 then (if a then .lt else .gt)
    else if a != b then (if a then .lt else .gt)
    else if a then cmpMag n d m e else cmpMag m e n d
  | _, _ => .eq

/-- One rounding of a value to FP32 with overflow to an infinity (IEEE 754-2019 under the mode; R80, R57). -/
def FV.toF32 (mode : RMode) : FV → W32
  | .nan => BitVec.ofNat 32 fp32.nanEnc
  | .inf a => BitVec.ofNat 32 (fp32.sign a + fp32.infEnc)
  | .fin a m e =>
    match fp32.round mode m e with
    | some (r, q) => BitVec.ofNat 32 (fp32.sign a + fp32.encMag r q)
    | none => BitVec.ofNat 32 (fp32.sign a + (if mode == .rtz then fp32.maxEnc else fp32.infEnc))

/-- The value of an FP32 word. -/
def fv (w : W32) : FV := fp32.decode w.toNat

/-- FP32 +0. -/
def f0 : W32 := 0#32
/-- FP32 1. -/
def f1 : W32 := 0x3F800000#32
/-- FP32 0.5. -/
def fHalf : W32 := 0x3F000000#32
/-- FP32 +∞. -/
def fInf : W32 := 0x7F800000#32
/-- FP32 −∞. -/
def fNegInf : W32 := 0xFF800000#32
/-- The canonical FP32 NaN (R57). -/
def fNan : W32 := 0x7FC00000#32

/-- FP32 addition, one rounding to nearest even. -/
def fadd (a b : W32) : W32 := (FV.add (fv a) (fv b)).toF32 .rne
/-- FP32 subtraction, one rounding to nearest even. -/
def fsub (a b : W32) : W32 := (FV.add (fv a) (fv b).neg).toF32 .rne
/-- FP32 multiplication, one rounding to nearest even. -/
def fmul (a b : W32) : W32 := (FV.mul (fv a) (fv b)).toF32 .rne
/-- FP32 addition rounded toward zero (R194). -/
def faddRtz (a b : W32) : W32 := (FV.add (fv a) (fv b)).toF32 .rtz

/-- Whether an FP32 word is an infinity. -/
def isInf (a : W32) : Bool := a == fInf || a == fNegInf
/-- Whether an FP32 word is finite. -/
def isFin (a : W32) : Bool := (fv a).isFin

/-- FP32 division, one rounding to nearest even (R327). -/
def fdiv (a b : W32) : W32 :=
  match fv a, fv b with
  | .nan, _ => fNan
  | _, .nan => fNan
  | .inf _, .inf _ => fNan
  | .inf s, .fin t _ _ => (FV.inf (s != t)).toF32 .rne
  | .fin s _ _, .inf t => (FV.fin (s != t) 0 0).toF32 .rne
  | .fin s m e, .fin t n d =>
    if n == 0 then (if m == 0 then fNan else (FV.inf (s != t)).toF32 .rne)
    else
      let k := 64 + Nat.log2 n
      let p := m * 2 ^ k
      (FV.fin (s != t) (2 * (p / n) + b2n (p % n != 0)) (e - d - k - 1)).toF32 .rne

/-- The integer square root, by `n` bits from the top. -/
def isqrt : Nat → Nat → Nat
  | 0, _ => 0
  | n + 1, v =>
    let r := 2 * isqrt n (v / 4)
    if (r + 1) * (r + 1) ≤ v then r + 1 else r

/-- 1/√v correctly rounded, for v not negative (R327). -/
def frsqrt (a : W32) : W32 :=
  match fv a with
  | .nan => fNan
  | .inf s => if s then fNan else f0
  | .fin s m e =>
    if m == 0 then fInf
    else if s then fNan
    else
      let (m, e) := if e % 2 == 0 then (m, e) else (2 * m, e - 1)
      let k : Nat := 64
      let q : Nat := isqrt 80 (2 ^ (2 * k) / m)
      (FV.fin false (2 * q + b2n (q * q * m != 2 ^ (2 * k))) (-(e / 2) - k - 1)).toF32 .rne

/-- Fraction bits of the fixed-point numbers of the transcendental functions. -/
def fixP : Nat := 512

/-- The Taylor sum of e^r for a fixed-point r in [0, 1/2), by `n` further terms after a term. -/
def expSeries : Nat → Nat → Nat → Nat → Nat
  | 0, _, _, _ => 0
  | n + 1, r, k, term => term + expSeries n r (k + 1) (term * r / (2 ^ fixP * (k + 1)))

/-- A fixed-point number squared `n` times. -/
def squareFix : Nat → Nat → Nat
  | 0, v => v
  | n + 1, v => squareFix n (v * v / 2 ^ fixP)

/-- m × 2^e as a fixed-point number. -/
def toFix (m : Nat) (e : Int) : Nat :=
  if 0 ≤ e + (fixP : Int) then m * 2 ^ (e + (fixP : Int)).toNat else m / 2 ^ (-(e + (fixP : Int))).toNat

/-- e^x as a fixed-point number, for |x| up to 256 (R309): log entry 10. -/
def expFix (neg : Bool) (x : Nat) : Nat :=
  let v := squareFix 10 (expSeries 90 (x / 1024) 0 (2 ^ fixP))
  if neg then 2 ^ (2 * fixP) / v else v

/-- A positive fixed-point number that is not exact, as an FP32 word. -/
def fixToF32 (neg : Bool) (v : Nat) : W32 := (FV.fin neg (2 * v + 1) (-(fixP : Int) - 1)).toF32 .rne

/-- e^v, correctly rounded (R309). -/
def fexp (a : W32) : W32 :=
  match fv a with
  | .nan => fNan
  | .inf s => if s then f0 else fInf
  | .fin s m e =>
    if m == 0 then f1
    else if cmpMag m e 128 0 == .gt then (if s then f0 else fInf)
    else fixToF32 false (expFix s (toFix m e))

/-- σ(v) = 1/(1 + e^−v), correctly rounded (R309). -/
def fsigmoid (a : W32) : W32 :=
  match fv a with
  | .nan => fNan
  | .inf s => if s then f0 else f1
  | .fin s m e =>
    if m == 0 then fHalf
    else if cmpMag m e 128 0 == .gt then (if s then f0 else f1)
    else fixToF32 false (2 ^ (2 * fixP) / (2 ^ fixP + expFix (!s) (toFix m e)))

/-- tanh(v), correctly rounded (R309). -/
def ftanh (a : W32) : W32 :=
  match fv a with
  | .nan => fNan
  | .inf s => (FV.fin s 1 0).toF32 .rne
  | .fin s m e =>
    if m == 0 then a
    else if cmpMag m e 32 0 == .gt then (FV.fin s 1 0).toF32 .rne
    else
      let ex := expFix false (2 * toFix m e)
      fixToF32 s ((ex - 2 ^ fixP) * 2 ^ fixP / (ex + 2 ^ fixP))

end Sys2Proof.Machine
end

