-- ==== Sys2Proof/Machine/Formats.lean ====
section
/-! DEFINITION. Element formats, packing, scaled blocks, conversion and stochastic rounding (R54 to R87, R250, R315). -/
namespace Sys2Proof.Machine

/-- Width in bits of a format code, 0 for a code that R250 does not list. -/
def widthOf : Nat → Nat
  | 0x01 => 4 | 0x02 => 6 | 0x03 => 6 | 0x04 => 8 | 0x05 => 8 | 0x06 => 8 | 0x07 => 4
  | 0x08 => 16 | 0x09 => 16 | 0x0A => 32 | 0x10 => 32 | 0x11 => 64 | 0x12 => 32 | _ => 0

/-- INT8 or INT4. -/
def isIntFmt (c : Nat) : Bool := c == 0x06 || c == 0x07
/-- FP6 E3M2 or FP6 E2M3. -/
def isFp6 (c : Nat) : Bool := c == 0x02 || c == 0x03
/-- The element formats of an operand, codes 01h to 0Ah. -/
def isElemFmt (c : Nat) : Bool := 1 ≤ c && c ≤ 0x0A
/-- The formats that have a scaled-block form, codes 01h to 07h (R251). -/
def canScale (c : Nat) : Bool := 1 ≤ c && c ≤ 0x07

/-- Bytes of `n` packed elements of a format (R61, R62, R206). -/
def packedBytes (c n : Nat) : Nat := if isFp6 c then 3 * ceilDiv n 4 else ceilDiv (n * widthOf c) 8

/-- Bytes of a scaled block (R66). -/
def blockBytes (c : Nat) : Nat := 1 + packedBytes c 32

/-- The packed bytes of a list of raw elements (R61, R62). -/
def packElems (c : Nat) (l : List Nat) : List Byte := leBytes (packedBytes c l.length) (packBits (widthOf c) l)

/-- The first `n` raw elements of packed bytes (R61, R62). -/
def unpackElems (c n : Nat) (b : List Byte) : List Nat := unpackBits (widthOf c) n (ofLe b)

/-- A stored element with the scale byte of its block; 7Fh for an element without a scale. -/
structure Elem where
  raw : Nat
  scale : Nat
  deriving DecidableEq, Repr

/-- The element of encoding 0 without a scale. -/
def Elem.zero : Elem := ⟨0, 127⟩

/-- The value of an encoding in a format, without its scale (R54, R60). -/
def rawVal (c raw : Nat) : FV :=
  match ffmtOf c with
  | some f => f.decode raw
  | none =>
    let i := if isIntFmt c then sint (widthOf c) raw else if c == 0x10 then sint 32 raw else (raw : Int)
    .fin (decide (i < 0)) i.natAbs 0

/-- The value of an element with its block scale (R64, R65). -/
def Elem.val (c : Nat) (x : Elem) : FV := if x.scale == 255 then .nan else (rawVal c x.raw).scale ((x.scale : Int) - 127)

/-- Whether an element counts as nonzero (R209). -/
def Elem.nonzero (c : Nat) (x : Elem) : Bool := !(x.val c).isZero

/-- An element's value widened to FP32; exact wherever the value is one of FP32's (R325, R375). -/
def Elem.toF32 (c : Nat) (x : Elem) : W32 := (x.val c).toF32 .rne

/-- Conversion flags (R79). -/
def flagSaturated : Nat := 1
/-- Conversion flag OVERFLOWED (R79). -/
def flagOverflowed : Nat := 2
/-- Conversion flag NAN_DROPPED (R79). -/
def flagNanDropped : Nat := 4

/-- Greatest magnitude of an integer format on the side of a sign (R60). -/
def intMax (c : Nat) (neg : Bool) : Nat := (if c == 0x06 then 127 else 7) + b2n neg

/-- An integer magnitude with its sign as an encoding. -/
def intEnc (c : Nat) (neg : Bool) (m : Nat) : Nat := ofInt (widthOf c) (if neg then -(m : Int) else m)

/-- The conversion of R76 and R77 of a value to a format, with the flags it sets; `sat` is the setting of R74. -/
def convert (c : Nat) (sat : Bool) (mode : RMode) (v : FV) : Nat × Nat :=
  match ffmtOf c with
  | some f =>
    match v with
    | .nan => if f.top == .finite then (0, flagNanDropped) else (f.nanEnc, 0)
    | .inf s =>
      match f.top with
      | .ieee => (f.sign s + f.infEnc, 0)
      | .oneNan => if sat then (f.sign s + f.maxEnc, flagSaturated) else (f.nanEnc, flagOverflowed)
      | .finite => (f.sign s + f.maxEnc, flagSaturated)
    | .fin s m e =>
      match f.round mode m e with
      | some (r, q) => (f.sign s + f.encMag r q, 0)
      | none =>
        if f.top == .finite || sat then (f.sign s + f.maxEnc, flagSaturated)
        else if f.top == .ieee then (f.sign s + f.infEnc, flagOverflowed)
        else (f.nanEnc, flagOverflowed)
  | none =>
    match v with
    | .nan => (0, flagNanDropped)
    | .inf s => (intEnc c s (intMax c s), flagSaturated)
    | .fin s m e =>
      let r := roundMag mode 0 m e
      if r > intMax c s then (intEnc c s (intMax c s), flagSaturated) else (intEnc c s r, 0)

/-- Whether a format can encode NaN (R54, R60). -/
def hasNan (c : Nat) : Bool :=
  match ffmtOf c with
  | some f => f.top != .finite
  | none => false

/-- The exponent emax of the table of block-scaled formats (R315). -/
def scaleEmax : Nat → Int
  | 0x01 => 2 | 0x02 => 4 | 0x03 => 2 | 0x04 => 8 | 0x05 => 15 | 0x06 => 6 | 0x07 => 2 | _ => 0

/-- Whether a magnitude, rounded to a format, exceeds the format's largest finite magnitude (R315, step 4). -/
def exceeds (c : Nat) (mode : RMode) (m : Nat) (e : Int) : Bool :=
  match ffmtOf c with
  | some f => (f.round mode m e).isNone
  | none => roundMag mode 0 m e > intMax c false

/-- The greatest finite magnitude of a list of values, none when there is no nonzero one (R315, step 1). -/
def amax (vs : List FV) : Option (Nat × Int) :=
  vs.foldl (fun a v =>
    match v with
    | .fin _ m e =>
      if m == 0 then a
      else match a with
        | none => some (m, e)
        | some (n, d) => if cmpMag m e n d == .gt then some (m, e) else a
    | _ => a) none

/-- The block scale E of R315, steps 1 to 5. -/
def blockScale (c : Nat) (sr : Bool) (vs : List FV) : Nat :=
  match amax vs with
  | none => 127
  | some (m, e) =>
    let e0 : Int := (Nat.log2 m : Int) + e - scaleEmax c + 127
    let e1 := if exceeds c (if sr then .raz else .rne) m (e + 127 - e0) then e0 + 1 else e0
    (max 0 (min e1 254)).toNat

/-- A quantised block: its written scale and its raw elements. `modes` gives each position's rounding, `none` a masked position
(R73, R78, R315, R316, R317). -/
def quantBlock (c : Nat) (sat sr : Bool) (carry : Nat) (vs : List (Option FV × RMode)) : Nat × List Nat × Nat :=
  let valid := vs.filterMap (fun p => p.1)
  if !hasNan c && valid.any FV.isNan then (255, vs.map (fun _ => 0), flagNanDropped)
  else
    let e := blockScale c sr valid
    let past := e + carry > 254
    let scale := if past then 254 else e + carry
    let shift : Int := if past then (carry : Int) - 127 else 127 - (e : Int)
    let rs := vs.map (fun p => match p.1 with | none => (0, 0) | some v => convert c sat p.2 (v.scale shift))
    (scale, rs.map (fun r => r.1), rs.foldl (fun a r => a ||| r.2) 0)

/-- One step of the stochastic generator (R82). -/
def lfsrStep (s : W32) : W32 := if s.getLsbD 0 then (s >>> 1) ^^^ 0x80200003#32 else s >>> 1

/-- `n` steps of the generator. -/
def lfsrSteps : Nat → W32 → W32
  | 0, s => s
  | n + 1, s => lfsrSteps n (lfsrStep s)

/-- The generator loaded at the start of a tile's drain (R83). -/
def lfsrLoad (seed row0 col0 : W32) : W32 :=
  let v := seed ^^^ row0 ^^^ col0.rotateLeft 16
  if v == 0#32 then 1#32 else v

/-- The draw of R84: the state after 16 steps, whose bits [15:0] are r. -/
def lfsrDraw (s : W32) : W32 := lfsrSteps 16 s

/-- The draws of `n` element positions and the state after them (R84). -/
def lfsrDraws : Nat → W32 → List Nat × W32
  | 0, s => ([], s)
  | n + 1, s =>
    let t := lfsrDraw s
    let (l, u) := lfsrDraws n t
    (t.toNat % 65536 :: l, u)

/-- Bytes of a row of `n` elements stored with or without interleaved blocks (R66, R257). -/
def rowBytes (c n : Nat) (inter : Bool) : Nat := if inter then ceilDiv n 32 * blockBytes c else packedBytes c n

/-- One interleaved block: the scale byte, then its 32 elements (R66). -/
def blockOf (c scale : Nat) (l : List Nat) : List Byte :=
  BitVec.ofNat 8 scale :: packElems c (l ++ List.replicate (32 - l.length) 0)

/-- The bytes of a row of elements (R61, R62, R66 to R68). -/
def rowToBytes (c : Nat) (inter : Bool) (l : List Elem) : List Byte :=
  if inter then
    (chunksOf 32 l.length l).flatMap (fun b => blockOf c ((b.head?.map Elem.scale).getD 127) (b.map Elem.raw))
  else packElems c (l.map Elem.raw)

/-- The first `n` elements of the bytes of a row, with scale `us` where the row has no interleaved scales (R65, R67, R251). -/
def bytesToRow (c : Nat) (inter : Bool) (us n : Nat) (b : List Byte) : List Elem :=
  if inter then
    ((chunksOf (blockBytes c) (ceilDiv n 32) b).flatMap (fun k =>
      let s := ((k.head?.map BitVec.toNat).getD 127)
      (unpackElems c 32 (k.drop 1)).map (fun r => ⟨r, s⟩))).take n
  else (unpackElems c n b).map (fun r => ⟨r, us⟩)

end Sys2Proof.Machine
end

