-- ==== Sys2Proof/Machine/Accum.lean ====
section
/-! DEFINITION. Accumulation: products, ADD2, trees, exact accumulators, the status word, reductions, forerunner sums
(R147 to R198). -/
namespace Sys2Proof.Machine

/-- A twin accumulator: sum and compensation (R70). -/
structure Twin where
  s : W32
  c : W32
  deriving DecidableEq, Repr

/-- The twin (+0, +0). -/
def Twin.zero : Twin := ⟨f0, f0⟩

/-- A twin as its 8 bytes hold it: the sum in bits [31:0] (R70). -/
def Twin.word (t : Twin) : Nat := t.s.toNat + t.c.toNat * 2 ^ 32

/-- A twin from its 8 bytes (R70). -/
def Twin.ofWord (w : Nat) : Twin := ⟨BitVec.ofNat 32 w, BitVec.ofNat 32 (w / 2 ^ 32)⟩

/-- ADD2 (R148, R149). -/
def add2 (a b : Twin) : Twin :=
  let t := fadd a.s b.s
  let e := if (fv (a.s &&& 0x7FFFFFFF#32)).cmp (fv (b.s &&& 0x7FFFFFFF#32)) != .lt
           then fadd (fsub a.s t) b.s else fadd (fsub b.s t) a.s
  if isFin t then ⟨t, fadd (fadd a.c b.c) e⟩ else ⟨t, f0⟩

/-- Whether ADD2 overflows: an infinite sum from finite inputs (R165). -/
def add2Ovf (a b : Twin) : Bool := isFin a.s && isFin b.s && isInf (fadd a.s b.s)

/-- The collapse of a twin to one FP32 value (R151). -/
def Twin.collapse (t : Twin) : W32 :=
  if (fv t.c).isZero || !isFin t.s then t.s else fadd t.s t.c

/-- The product of two values rounded once to FP32, with whether it overflowed (R147, R165). -/
def product (a b : FV) : W32 × Bool :=
  let p := (FV.mul a b).toF32 .rne
  (p, a.isFin && b.isFin && isInf p)

/-- A product entered into a twin (R150), with an overflow mark that is kept. -/
def enter (acc : Twin × Bool) (p : W32 × Bool) : Twin × Bool :=
  let q : Twin := ⟨p.1, f0⟩
  (add2 acc.1 q, acc.2 || p.2 || add2Ovf acc.1 q)

/-- Products of two operand lists entered in increasing k (R156, R157). -/
def enterAll (acc : Twin × Bool) : List FV → List FV → Twin × Bool
  | a :: x, b :: y => enterAll (enter acc (product a b)) x y
  | _, _ => acc

/-- One level of the column tree: neighbours combined by a node, a node with one child passing it on (R159, R160). -/
def treeLevel {α : Type} (node : α → α → α) : List α → List α
  | a :: b :: r => node a b :: treeLevel node r
  | l => l

/-- The root of a column tree of `levels` levels over the leaves present (R159, R160). -/
def treeRoot {α : Type} (node : α → α → α) : Nat → List α → Option α
  | 0, l => l.head?
  | n + 1, l => treeRoot node n (treeLevel node l)

/-- A node of the column tree on twins with overflow marks (R159). -/
def node2 (a b : Twin × Bool) : Twin × Bool := (add2 a.1 b.1, a.2 || b.2 || add2Ovf a.1 b.1)

/-- The sum of one group of K-steps entered as its tree root (R159). -/
def enterGroup (levels : Nat) (acc : Twin × Bool) (ps : List (W32 × Bool)) : Twin × Bool :=
  match treeRoot node2 levels (ps.map (fun p => ((⟨p.1, f0⟩ : Twin), p.2))) with
  | none => acc
  | some r => node2 acc r

/-- Products of an element by groups of G K-steps, as WS and IS sum them (R158, R159). -/
def enterGroups (levels g : Nat) (acc : Twin × Bool) (as bs : List FV) : Twin × Bool :=
  (chunksOf g (as.length + 1) (List.zipWith product as bs)).foldl (enterGroup levels) acc

/-! Exact mode. -/

/-- The floor F of an exact-mode format (R173). -/
def exactFloor : Nat → Int
  | 0x01 => -1 | 0x03 => -3 | 0x02 => -4 | 0x04 => -9 | 0x05 => -16 | _ => 0

/-- An element's value as an integer multiple of 2^F, without its scale (R173). -/
def exactInt (c raw : Nat) : Int :=
  match rawVal c raw with
  | .fin s m e =>
    let i : Int := (m * 2 ^ (e - exactFloor c).toNat : Nat)
    if s then -i else i
  | _ => 0

/-- The longest exact accumulation (R176). -/
def exactKmax (ca cb : Nat) : Nat := if ca == 0x05 && cb == 0x05 then 2 ^ 23 else 2 ^ 24

/-- The twin that an exact value V falls back to: (fl(V), fl(V − fl(V))) (R177). -/
def exactToTwin (n w : Int) : Twin :=
  let v : FV := .fin (decide (n < 0)) n.natAbs w
  let s := v.toF32 .rne
  ⟨s, (FV.add v (fv s).neg).toF32 .rne⟩

/-- The same with the mark of an accumulator that ends at infinity from finite inputs (R169, R177). -/
def exactFall (n w : Int) : Twin × Bool := let t := exactToTwin n w; (t, isInf t.s)

/-- The collapse of an exact accumulator under an output scale (R178). -/
def exactCollapse (n w : Int) (outscale : Nat) : W32 :=
  (FV.fin (decide (n < 0)) n.natAbs (w - outscale)).toF32 .rne

/-! The accumulation status word. -/

/-- The accumulation status word (R186); `met` says that the tile has met a block pair (R174). -/
structure AccSt where
  emax : Int
  emin : Int
  reruns : Nat
  outscale : Nat
  exact_ : Bool
  accSat : Bool
  accOvf : Bool
  fallback : Bool
  klimit : Bool
  kcount : Nat
  met : Bool
  deriving DecidableEq, Repr

/-- The word a ZERO or PRELOAD start leaves (R186). -/
def AccSt.zero : AccSt := ⟨0, 0, 0, 0, false, false, false, false, false, 0, false⟩

/-- The 64 bits of the status word (R186). -/
def AccSt.word (a : AccSt) : Nat :=
  at_ 54 (ofInt 10 a.emax) + at_ 44 (ofInt 10 a.emin) + at_ 42 a.reruns + at_ 37 a.outscale + at_ 36 (b2n a.exact_)
    + at_ 35 (b2n a.accSat) + at_ 34 (b2n a.accOvf) + at_ 33 (b2n a.fallback) + at_ 32 (b2n a.klimit) + a.kcount

/-- The status word from its 64 bits. A word that has counted K-steps may have met a pair; `AccSt.settleMet` decides (log entry 21). -/
def AccSt.ofWord (w : Nat) : AccSt :=
  { emax := sint 10 (bits w 63 54), emin := sint 10 (bits w 53 44), reruns := bits w 43 42, outscale := bits w 41 37,
    exact_ := bit w 36, accSat := bit w 35, accOvf := bit w 34, fallback := bit w 33, klimit := bit w 32,
    kcount := bits w 25 0, met := bits w 25 0 != 0 }

/-- Whether the tile of a restored status word has met a pair: not while both extremes are at their start value 0 and every
accumulator holds N = 0 (R174; log entry 21). -/
def AccSt.settleMet (a : AccSt) (elems : List Nat) : AccSt :=
  { a with met := a.met && !(a.exact_ && a.emin == 0 && a.emax == 0 && elems.all (· == 0)) }

/-- KCOUNT grown by the K range of an MMA (R155), with KLIMIT while the tile accumulates in twin mode (R164). -/
def AccSt.count (a : AccSt) (k : Nat) : AccSt :=
  let n := satAdd 0x3FFFFFF a.kcount k
  { a with kcount := n, klimit := a.klimit || (!a.exact_ && n > 2 ^ 20) }

/-- The accumulation flags of a tile in the places of REPLY.FLAGS bits 3 to 6 (R187, R531). -/
def AccSt.flags (a : AccSt) : Nat := 8 * b2n a.accSat + 16 * b2n a.accOvf + 32 * b2n a.fallback + 64 * b2n a.klimit

/-! Reductions along a dimension. -/

/-- A candidate of a maximum with its index (R188). -/
structure Cand where
  v : W32
  idx : Nat
  deriving DecidableEq, Repr

/-- The better of two candidates of a maximum: values compared as FP32, the lower index among equals, NaN only against NaN
(R188, R189). -/
def maxCand (a b : Cand) : Cand :=
  match (fv a.v).isNan, (fv b.v).isNan with
  | true, true => ⟨fNan, Nat.min a.idx b.idx⟩
  | true, false => b
  | false, true => a
  | false, false =>
    match (fv a.v).cmp (fv b.v) with
    | .gt => a
    | .lt => b
    | .eq => if a.idx ≤ b.idx then a else b

/-- The maximum of a list of candidates (R188 to R190). -/
def maxOf : List Cand → Cand
  | [] => ⟨fNegInf, 0xFFFFFFFF⟩
  | a :: r =>
    let m := r.foldl maxCand a
    if (fv m.v).isNan then ⟨fNan, m.idx⟩ else m

/-- The minimum of a list of candidates, by the same rules (R188 to R190). -/
def minOf (l : List Cand) : Cand :=
  let m := maxOf (l.map (fun c => if (fv c.v).isNan then c else ⟨c.v ^^^ 0x80000000#32, c.idx⟩))
  if (fv m.v).isNan then m else ⟨m.v ^^^ 0x80000000#32, m.idx⟩

/-- The sum of a list of values: R150 from (+0, +0), collapsed (R191). -/
def sumOf (l : List W32) : W32 := ((l.foldl (fun t v => add2 t ⟨v, f0⟩) Twin.zero)).collapse

/-! Split-K combining. -/

/-- A partial image of split-K: its status word, its elements as 128-bit words, and its window exponent (R181). -/
structure Partial where
  st : AccSt
  elems : List Nat
  w : Int
  deriving DecidableEq, Repr

/-- Whether the union of partials still meets R176 with every partial exact (R182). -/
def combineExact (ca cb : Nat) (ps : List Partial) : Bool :=
  let ms := ps.filter (fun p => p.st.met)
  let kc := sumNat (ps.map (fun p => p.st.kcount))
  let hi := (ms.map (fun p => p.st.emax)).foldl max (-1024)
  let lo := (ms.map (fun p => p.st.emin)).foldl min 1024
  ps.all (fun p => p.st.exact_) && kc ≤ exactKmax ca cb && (ms.isEmpty || decide (hi - lo ≤ 40))

/-- The twins of a partial in twin form: an exact partial by R177, then scaled to the greatest OUTSCALE (R183). -/
def Partial.twins (p : Partial) (smax : Nat) : List Twin :=
  p.elems.map (fun e =>
    let t := if p.st.exact_ then exactToTwin (sint 128 e) p.w else Twin.ofWord e
    let f : W32 → W32 := fun x => ((fv x).scale ((p.st.outscale : Int) - smax)).toF32 .rne
    if p.st.outscale == smax then t else ⟨f t.s, f t.c⟩)

/-- The combined status word of R184. -/
def combineSt (exact_ : Bool) (exactTile : Bool) (ps : List Partial) : AccSt :=
  { emax := match ps with | [] => 0 | p :: r => (r.map (fun q => q.st.emax)).foldl max p.st.emax
    emin := match ps with | [] => 0 | p :: r => (r.map (fun q => q.st.emin)).foldl min p.st.emin
    reruns := maxNat (ps.map (fun p => p.st.reruns))
    outscale := maxNat (ps.map (fun p => p.st.outscale))
    exact_ := exact_
    accSat := ps.any (fun p => p.st.accSat)
    accOvf := ps.any (fun p => p.st.accOvf)
    fallback := ps.any (fun p => p.st.fallback) || (exactTile && !exact_)
    klimit := ps.any (fun p => p.st.klimit)
    kcount := Nat.min 0x3FFFFFF (sumNat (ps.map (fun p => p.st.kcount)))
    met := ps.any (fun p => p.st.met) }

/-- The combined elements and status of split-K partials (R182 to R184); `exactTile` says the images are exact images. -/
def combinePartials (ca cb : Nat) (exactTile : Bool) (ps : List Partial) : List Nat × AccSt :=
  if exactTile && combineExact ca cb ps then
    let st := combineSt true exactTile ps
    let w := exactFloor ca + exactFloor cb + st.emin
    let zero := match ps with | [] => [] | p :: _ => p.elems.map (fun _ => (0 : Int))
    let sum := ps.foldl (fun acc p => List.zipWith (fun (x : Int) e => x + sint 128 e * 2 ^ (p.w - w).toNat) acc p.elems) zero
    (sum.map (ofInt 128), st)
  else
    let smax := maxNat (ps.map (fun p => p.st.outscale))
    let st := combineSt false exactTile ps
    match ps with
    | [] => ([], st)
    | p :: r =>
      ((r.foldl (fun acc q => List.zipWith add2 acc (q.twins smax)) (p.twins smax)).map Twin.word, st)

/-! Forerunner mode. -/

/-- The forerunner's accumulator count (R196). -/
def forerunnerP (m : Nat) : Nat := if m == 64 then 4 else if m == 128 then 2 else 1

/-- An FP32 addition of forerunner mode that saturates a finite overflow (R198). -/
def fForeAdd (a b : W32) : W32 × Bool :=
  let t := fadd a b
  if isInf t && isFin a && isFin b then ((FV.fin (decide (t == fNegInf)) fp32.maxMant fp32.maxExp).toF32 .rne, true) else (t, false)

/-- The combining of the forerunner's accumulators (R195, R196). -/
def foreCombine (n : Nat) : List W32 → W32 × Bool
  | [a] => (a, false)
  | [a, b] => fForeAdd a b
  | [a, b, c, d] =>
    if n ≤ 128 then
      let x := fForeAdd a b
      let y := fForeAdd c d
      let z := fForeAdd x.1 y.1
      (z.1, x.2 || y.2 || z.2)
    else
      let x := fForeAdd a b
      let y := fForeAdd x.1 c
      let z := fForeAdd y.1 d
      (z.1, x.2 || y.2 || z.2)
  | _ => (f0, false)

/-- One group of 64 K-steps: the tree of additions rounded toward zero (R194). -/
def foreGroup (ps : List W32) : W32 := (treeRoot faddRtz 6 ps).getD f0

/-- The groups of a forerunner element added to its accumulators in turn (R195), with the saturation mark (R198). -/
def foreEnter (accs : List W32) (groups : List (List W32)) : List W32 × Bool :=
  (groups.foldl (fun (st : (List W32 × Bool) × Nat) g =>
    let q := st.2 % accs.length
    let r := fForeAdd ((st.1.1[q]?).getD f0) (foreGroup g)
    ((st.1.1.set q r.1, st.1.2 || r.2), st.2 + 1)) ((accs, false), 0)).1

end Sys2Proof.Machine
end

