-- ==== Sys2Proof/Machine/Mem.lean ====
section
/-! DEFINITION. Byte memories as sorted lists of the bytes that are not 0, and the operations on them. -/
namespace Sys2Proof.Machine

/-- A byte memory: the cells that do not hold 0, by rising address. Main memory reads 0 where nothing was written since reset
(R615); for the other memories the 0 is the model's (log entry 4). -/
abbrev Mem := List Host.Cell

/-- The byte at an address. -/
def Mem.read (m : Mem) (a : Nat) : Byte := lookupD 0#8 a m

/-- The bytes of a run of addresses, from cells in rising order. -/
def Mem.fill : Nat → Nat → Mem → List Byte
  | 0, _, _ => []
  | n + 1, a, [] => 0#8 :: Mem.fill n (a + 1) []
  | n + 1, a, (k, b) :: r => if k = a then b :: Mem.fill n (a + 1) r else 0#8 :: Mem.fill n (a + 1) ((k, b) :: r)

/-- The `n` bytes from an address. -/
def Mem.readBytes (m : Mem) (a n : Nat) : List Byte := Mem.fill n a (m.filter (fun c => a ≤ c.1 && c.1 < a + n))

/-- The cells of a run of bytes, those that are 0 left out. -/
def Mem.cells : Nat → List Byte → Mem
  | _, [] => []
  | a, b :: r => if b = 0#8 then Mem.cells (a + 1) r else (a, b) :: Mem.cells (a + 1) r

/-- The memory with the bytes of a run of addresses replaced. -/
def Mem.writeBytes (m : Mem) (a : Nat) (bs : List Byte) : Mem :=
  m.filter (fun c => c.1 < a) ++ Mem.cells a bs ++ m.filter (fun c => a + bs.length ≤ c.1)

/-- The memory with one byte replaced. -/
def Mem.write (m : Mem) (a : Nat) (b : Byte) : Mem := m.writeBytes a [b]

/-- The memory with a run of addresses set to 0. -/
def Mem.clear (m : Mem) (a n : Nat) : Mem := m.filter (fun c => c.1 < a) ++ m.filter (fun c => a + n ≤ c.1)

/-- The memory with the `n` bytes from `src` copied to `dst`. -/
def Mem.copy (m : Mem) (src dst n : Nat) : Mem :=
  m.filter (fun c => c.1 < dst) ++ (m.filter (fun c => src ≤ c.1 && c.1 < src + n)).map (fun c => (c.1 - src + dst, c.2))
    ++ m.filter (fun c => dst + n ≤ c.1)

/-- The little-endian number in the `n` bytes from an address (R9). -/
def Mem.readLe (m : Mem) (a n : Nat) : Nat := ofLe (m.readBytes a n)

/-- A number written little-endian in `n` bytes (R9). -/
def Mem.writeLe (m : Mem) (a n v : Nat) : Mem := m.writeBytes a (leBytes n v)

/-- The fuel-bounded merge behind `overlay`. -/
def Mem.merge : Nat → Mem → Mem → Mem
  | 0, m, _ => m
  | _ + 1, m, [] => m
  | _ + 1, [], n => n.filter (fun c => c.2 != 0#8)
  | f + 1, (a, b) :: m, (c, d) :: n =>
    if a < c then (a, b) :: Mem.merge f m ((c, d) :: n)
    else
      let m' := if a = c then m else (a, b) :: m
      if d = 0#8 then Mem.merge f m' n else (c, d) :: Mem.merge f m' n

/-- The memory with many bytes replaced at once, given by rising address. -/
def Mem.overlay (m : Mem) (n : Mem) : Mem := Mem.merge (m.length + n.length + 1) m n

/-- Addresses rise strictly and no cell holds 0. -/
def Mem.wf : Mem → Bool
  | [] => true
  | [(_, b)] => b != 0#8
  | (a, b) :: (c, d) :: r => b != 0#8 && a < c && Mem.wf ((c, d) :: r)

end Sys2Proof.Machine
end

