-- ==== Sys2Proof/TileSyntax.lean ====
section
/-! DEFINITION. The instructions of a tile program (R346 to R391) with the fields of their field maps. -/
namespace Sys2Proof

/-- The fields of LOAD, STORE, GATHER, SCATTER and LOADCARD (table of transfer instruction fields). -/
structure TF where
  slot : Nat
  sh : Nat
  ps : Nat
  xo : Nat
  xe : Nat
  role : Nat
  gw : Bool
  chn : Nat
  slot2 : Nat
  bl : Bool
  gdim : Nat
  ss : Nat
  choice : Bool
  exact_ : Bool
  deriving DecidableEq, Repr

/-- The fields of MMA, SPMA and SPGE. -/
structure MF where
  sa : Nat
  sb : Nat
  sp : Nat
  xk : Nat
  xv : Nat
  mc : Nat
  nc : Nat
  flow : Nat
  start : Nat
  pkind : Nat
  mode : Nat
  eng : Nat
  qtr : Nat
  noskip : Bool
  pskip : Nat
  cardA : Bool
  cardB : Bool
  deriving DecidableEq, Repr

/-- The fields of EWISE in its DIAG form. -/
structure DiagF where
  mad : Bool
  xsel : Bool
  wsh : Nat
  all : Bool
  slotno : Nat
  qtr : Nat
  loads : Bool
  ssh : Nat
  deriving DecidableEq, Repr

/-- An instruction of a tile program. -/
inductive TileInstr where
  | setx (xd : Nat) (imm : Nat)
  | addx (xd xs xt sh : Nat) (imm : Nat)
  | loop (xc imm len : Nat)
  | br (xs xt cond off : Nat)
  | load (f : TF)
  | store (f : TF)
  | gather (f : TF)
  | scatter (f : TF)
  | loadcard (f : TF)
  | mma (f : MF)
  | spma (f : MF)
  | spge (f : MF)
  | ewiseDiag (f : DiagF)
  | ewiseChain (src dst chn xr : Nat)
  | reduce (kind src dst xn : Nat)
  | reduceSplitk (src dst xn : Nat) (toacc : Bool)
  | drain (chn dsh xr qtr : Nat)
  | drainPartial (dsh xr qtr : Nat)
  | take (xd ctr : Nat)
  | commit (xd : Nat)
  | yield
  | send (sh xn route xa : Nat)
  | tally (no xs xr : Nat)
  | wait (no xs : Nat)
  | fence
  | halt
  | dbg (xs code : Nat)
  deriving DecidableEq, Repr

/-- The phases of a core (R341). -/
inductive Phase where
  | load | compute | drain
  deriving DecidableEq, Repr

/-- The phase of an instruction, none for those that belong to no phase (R341, table of opcodes). -/
def TileInstr.phase : TileInstr → Option Phase
  | .load _ | .gather _ | .loadcard _ => some .load
  | .store _ | .scatter _ | .send .. | .ewiseChain .. | .reduce .. | .reduceSplitk .. | .drain .. | .drainPartial .. => some .drain
  | .mma _ | .spma _ | .spge _ | .ewiseDiag _ => some .compute
  | .setx .. | .addx .. | .loop .. | .br .. | .take .. | .commit .. | .yield | .tally .. | .wait .. | .fence | .halt | .dbg .. => none

/-- The opcode of an instruction (R346). -/
def TileInstr.opcode : TileInstr → Nat
  | .setx .. => 0x01 | .addx .. => 0x02 | .loop .. => 0x03 | .br .. => 0x04 | .load .. => 0x10 | .store .. => 0x11
  | .gather .. => 0x12 | .scatter .. => 0x13 | .loadcard .. => 0x14 | .mma .. => 0x20 | .spma .. => 0x21 | .spge .. => 0x22
  | .ewiseDiag .. => 0x23 | .ewiseChain .. => 0x23 | .reduce .. => 0x24 | .reduceSplitk .. => 0x24 | .drain .. => 0x30
  | .drainPartial .. => 0x30 | .take .. => 0x40 | .commit .. => 0x41 | .yield => 0x42 | .send .. => 0x50 | .tally .. => 0x51
  | .wait .. => 0x52 | .fence => 0x60 | .halt => 0x61 | .dbg .. => 0x7F

/-- The AC cycles an instruction holds the issue stage, waits apart (R347, table of opcodes). -/
def TileInstr.issueCycles : TileInstr → Nat
  | .setx .. | .addx .. | .loop .. | .br .. | .wait .. | .fence | .halt | .dbg .. => 1
  | .mma .. | .spma .. | .spge .. => 8
  | .tally .. => 2
  | .load .. | .store .. | .gather .. | .scatter .. | .loadcard .. | .ewiseDiag .. | .ewiseChain .. | .reduce ..
  | .reduceSplitk .. | .drain .. | .drainPartial .. | .take .. | .commit .. | .yield | .send .. => 4

end Sys2Proof
end

