-- ==== Sys2Proof/Machine/State.lean ====
section
/-! DEFINITION. The state of the Ataux 9: every piece the manual gives the device, as plain data, and its state after reset. -/
namespace Sys2Proof.Machine

/-! ## Outcomes that are no next state -/

/-- Why a step can fault. -/
inductive Fault where
  /-- Raised by every meaning whose operand names a core, region, ring, port, channel, laser input, processor or link that the part
  does not have (R2, R4, R16, R21). Safe: the device has no such event. -/
  | noSuchUnit (n : Nat)
  deriving DecidableEq, Repr

/-- Why a step can be refused. -/
inductive Refusal where
  /-- Raised by an arm of the dispatcher whose command has no meaning yet. Safe: nothing can be proved of it. -/
  | notModelled (mnemonic : String)
  deriving DecidableEq, Repr

/-! ## Descriptors, chains, programs -/

/-- A tensor descriptor (R249) with its fields read out; `fore` marks one made from a forerunner layout (R298, R299). -/
structure Desc where
  handle : Nat
  alloc : Nat
  base : Nat
  aux0 : Nat
  aux1 : Nat
  aux2 : Nat
  nent : Nat
  owner : Nat
  sizes : List Nat
  strides : List Int
  fmt : Nat
  rank : Nat
  layout : Nat
  sb : Nat
  access : Nat
  oob : Nat
  overlap : Bool
  xpose : Bool
  scatAcc : Bool
  kaxis : Nat
  append : Bool
  uscale : Nat
  paysize : Nat
  fore : Bool
  deriving DecidableEq, Repr

/-- A stage entry of a chain record (R302). -/
structure Stage where
  cls : Nat
  op : Nat
  fmt : Nat
  sbmode : Nat
  sat : Bool
  sr : Bool
  shelf : Nat
  line : Nat
  aux : Nat
  p1 : Nat
  p0 : Nat
  deriving DecidableEq, Repr

/-- A chain record (R301). -/
structure Chain where
  prologue : Bool
  stages : List Stage
  deriving DecidableEq, Repr

/-- A loaded program image (R398). -/
structure Program where
  handle : Nat
  entry : Nat
  shelves : Nat
  fore : Bool
  size : Nat
  code : List TileInstr
  chains : List (Nat × Chain)
  deriving DecidableEq, Repr

/-- A polynomial table: the version in force and the one before it, as 16 entries of 256 bits (R310 to R312). -/
structure PolyTab where
  ver : Nat
  cur : List Nat
  prev : List Nat
  deriving DecidableEq, Repr

/-! ## One core -/

/-- Power states of a core (R46). -/
inductive Power where
  | active | parked | gated
  deriving DecidableEq, Repr

/-- A shelf tag (R338). -/
structure Tag where
  e1 : Nat
  e0 : Nat
  first : Nat
  link : Nat
  slot : Nat
  role : Nat
  gw : Bool
  sb : Nat
  fmt : Nat
  uscale : Nat
  count : Nat
  deriving DecidableEq, Repr

/-- A level of the loop stack (R334): passes left, first and last instruction. -/
structure LoopLevel where
  count : Nat
  first : Nat
  last : Nat
  deriving DecidableEq, Repr

/-- A card bank (R359): the slot it was loaded through, its descriptor's format and KAXIS, groups, slices, cards in bank order. -/
structure Bank where
  slot : Nat
  fmt : Nat
  kaxis : Nat
  groups : Nat
  slices : Nat
  cards : List Nat
  deriving DecidableEq, Repr

/-- The choice map (R360): how it was formed, whether the exact span exceeded 40, its extents, and the entries marked SPARSE. -/
structure ChoiceMap where
  exact_ : Bool
  wide : Bool
  ga : Nat
  gb : Nat
  slices : Nat
  sparse : List (Nat × Nat × Nat)
  deriving DecidableEq, Repr

/-- A tile record (R372). -/
structure TileRec where
  start : Nat
  m : Nat
  n : Nat
  flow : Nat
  mode : Nat
  fmtA : Nat
  fmtB : Nat
  vm : Nat
  vn : Nat
  /-- rows skipped without audit (R241) -/
  skipped : List Nat
  /-- unmarked rows audited (R242) -/
  audited : List Nat
  st : AccSt
  deriving DecidableEq, Repr

/-- A run descriptor (R231); `core` is the carrel the run lies in while it is not in memory. -/
structure RunDesc where
  addr : Nat
  count : Nat
  tile : Nat
  seq : Nat
  flags : Nat
  inmem : Bool
  job : Nat
  core : Nat
  deriving DecidableEq, Repr

/-- A card that an APPEND store writes when its tile's commit lands (R212). -/
structure CardWrite where
  sock : Nat
  addr : Nat
  card : Nat
  deriving DecidableEq, Repr

/-- The held tile (R334) with what goes with its commit: runs (R373), APPEND cards (R212), sends by route (R603), conversion and
accumulation flags (R79, R187), counts of predicted skip (R243). -/
structure Held where
  accession : Nat
  tile : Nat
  dispatch : Nat
  region : Nat
  counter : Nat
  runs : List RunDesc
  cards : List CardWrite
  nofit : Bool
  sends : List (Nat × Nat)
  flags : Nat
  skipped : Nat
  audited : Nat
  misses : Nat
  deriving DecidableEq, Repr

/-- What issue waits for. -/
inductive Wait where
  /-- the current phase's instructions (R342) -/
  | phase
  /-- its engine or quarter, or a tile in progress (R121, R132, R345) -/
  | engine
  /-- instructions that write the shelves it reads, or a transfer through the same slot (R344, R502) -/
  | order
  /-- every issued instruction: COMMIT before its offer (R383) -/
  | commit
  /-- the desk: the offer is made (R424) -/
  | offer
  /-- earlier stores and sends (R387) -/
  | tally
  /-- a local tally (R388) -/
  | cond
  /-- every issued instruction (R389) -/
  | fence
  /-- the window or a combine tile (R419, R437) -/
  | take
  /-- the first-take spacing (R443) -/
  | stagger
  /-- room for an event that may not be dropped (R565) -/
  | event
  deriving DecidableEq, Repr

/-- Where a transfer stopped (R498, R502): row, bytes delivered before it, cause, whether in the index tensor, faulting address. -/
structure Stop where
  row : Nat
  done : Nat
  cause : Nat
  index : Bool
  va : Nat
  deriving DecidableEq, Repr

/-- Bytes that a write replaced, kept while the write is not known to be accepted (R452). -/
structure Undo where
  addr : Nat
  old : List Byte
  /-- the bytes that the write put there -/
  new : List Byte
  deriving DecidableEq, Repr

/-- An issued instruction that has not completed: its registers as read at issue (R336), the owner-table generations sampled
(R295), the shelves it reads and writes (R344), its duration where a rule gives one, and the progress of a transfer. -/
structure Inflight where
  idx : Nat
  pc : Nat
  instr : TileInstr
  x : List W64
  gens : List (Nat × Nat)
  reads : List Nat
  writes : List Nat
  cycles : Nat
  row : Nat
  done : Nat
  stop : Option Stop
  /-- rows fetched whole before a stop, by row (R501) -/
  rows : List (Nat × List Nat)
  /-- remote reads asked for and not yet answered (R592) -/
  asked : List (Nat × RemoteNeed)
  /-- remote data that has arrived (R592) -/
  got : List (RemoteNeed × List Byte)
  /-- first shelves of the objects that later LOAD-phase instructions have written meanwhile (R344) -/
  later : List Nat
  /-- its writes have reached a host-backed page since a read was last issued behind them (R485) -/
  trail : Bool
  /-- the packets it has sent, by socket and place in the stream: it waits for their acknowledgement (R591, R601) -/
  acks : List (Nat × Nat)
  undo : List Undo
  /-- an overflow rerun is due (R166, R170) -/
  rerun : Bool
  /-- re-execution after a repair is due (R142) -/
  redo : Bool
  /-- a cursor reservation made (R212, R501) -/
  cursor : List (Nat × Nat)
  /-- the route of a send without a held tile, counted when it completes (R603) -/
  sendRoute : Option Nat
  deriving DecidableEq, Repr

/-- A sequencer stopped by a fault (R395): program counter, status, detail word. -/
structure Stopped where
  pc : Nat
  st : St
  detail : Nat
  deriving DecidableEq, Repr

/-- The repair state of a dense engine (R145, R146): the row each spare serves, the rows that pending repairs are for and whether
REPAIR_ROW asked for them, and the flags. -/
structure Repair where
  sp0 : Option Nat
  sp1 : Option Nat
  pending : List (Nat × Bool)
  fenced : Bool
  exhausted : Bool
  deriving DecidableEq, Repr

/-- A core number and the physical core that serves it (R19, R20, R334). -/
structure Core where
  power : Power
  /-- a physical core serves this number (R644) -/
  present : Bool
  /-- the region's spare serves it (R20) -/
  spare : Bool
  /-- the dispatch whose program it runs (R440) -/
  dispatch : Option Nat
  x : List W64
  slots : List Nat
  tags : List (Nat × Tag)
  loops : List LoopLevel
  bankA : Option Bank
  bankB : Option Bank
  choice : Option ChoiceMap
  recs : List (Nat × TileRec)
  held : Option Held
  phase : Phase
  pc : Nat
  /-- the code of the device's own tile program (R403); other programs run from the program store -/
  own : List TileInstr
  ownChain : Option Chain
  wait : Option Wait
  stopped : Option Stopped
  inflight : List Inflight
  nextIdx : Nat
  /-- split mode (R115) -/
  split : Bool
  /-- forerunner mode (R132), with the forerunner tiles drained and not yet stored: first shelf of each -/
  fore : Bool
  foreShelves : List Nat
  carrel : Mem
  acc : Mem
  /-- the stationary registers in use, 4 B per cell (R89) -/
  stat : Mem
  /-- the stationary registers that load while the others are in use (R89, R100) -/
  statNext : Mem
  repair : Repair
  /-- mismatches by quarter (4: the array; 5: the sparse engine): the number of the instruction tile there, and its mismatches (R142,
  R641, R642) -/
  mism : List (Nat × Nat × Nat)
  /-- instruction tiles begun with the held tile -/
  begun : Nat
  /-- mismatches of the tile that R641 returned, for when this core runs it again: its accession number and its counts -/
  again : Option (Nat × List (Nat × Nat × Nat))
  sparseFenced : Bool
  /-- the stochastic generators, by quarter (R82, R87) -/
  lfsr : List (Nat × W32)
  /-- the progress areas, by descriptor slot (R502) -/
  prog : List (Nat × Nat)
  /-- flushes made for the held tile (R373) -/
  runSeq : Nat
  /-- tile objects in the carrel of which only a part was written: first shelf, elements of a row and rows written (R317) -/
  drained : List (Nat × Nat × Nat)
  /-- the core was freed by a pre-emption and has started nothing since (R444) -/
  freed : Bool
  deriving DecidableEq, Repr

/-! ## Desks and dispatches -/

/-- A saved context (R447) with the order in which it was suspended (R441). -/
structure Context where
  dispatch : Nat
  prio : Nat
  order : Nat
  core : Core
  deriving DecidableEq, Repr

/-- States of a desk counter (R418). -/
inductive CtrState where
  | idle | active | draining | cancelling
  deriving DecidableEq, Repr

/-- A desk work counter (R418) with what the desk keeps for it: the tile ranges it owns, those not yet in a chunk, the open chunks
by core, the return queue, the tiles taken (tile, core), suspended and committed, and the cores that started it with whether their first
TAKE was answered (R443). -/
structure Counter where
  dispatch : Nat
  prio : Nat
  state : CtrState
  inner : Bool
  restart : Bool
  win : Nat
  stagger : Nat
  target : Nat
  superseded : Nat
  ranges : List (Nat × Nat)
  unformed : List (Nat × Nat)
  chunks : List (Nat × List Nat)
  returned : List Nat
  taken : List (Nat × Nat)
  suspended : List Nat
  committed : List Nat
  starts : List (Nat × Bool)
  deriving DecidableEq, Repr

/-- A region (R38): isolation, spare core, desk counters, saved contexts, the bindery's job, and the jobs that wait. -/
structure Region where
  isolated : Option IsoCause
  spareUsed : Bool
  spareOk : Bool
  counters : List (Nat × Counter)
  contexts : List Context
  jobNow : Option Nat
  jobQueue : List Nat
  deriving DecidableEq, Repr

/-- An entry of a run: row, column, twin (R231). -/
structure RunEntry where
  row : Nat
  col : Nat
  v : Twin
  deriving DecidableEq, Repr

/-- A run admitted to a job or made by a pass: its place in the order, its entries, its flags, and where it lies: in its core's carrel, in the
bindery buffer, or in memory at `addr`, with RUN.INMEM (R231 to R236). -/
structure Run where
  tile : Nat
  seq : Nat
  entries : List RunEntry
  flags : Nat
  /-- the carrel it still lies in, with its shelves -/
  core : Option (Nat × List Nat)
  buffered : Bool
  /-- RUN.ADDR: the carrel position, or the address in memory -/
  addr : Nat
  inmem : Bool
  deriving DecidableEq, Repr

/-- A merge job (R232, R547, R550): region, output form and place, spill allocation, the dispatch it belongs to, its runs, whether
a pass runs, its flags and whether its result is written. -/
structure Job where
  handle : Nat
  region : Option Nat
  form : Nat
  out : Nat
  spill : Nat
  dispatch : Option Nat
  runs : List Run
  merging : Bool
  flags : Nat
  finished : Bool
  deriving DecidableEq, Repr

/-- The tiling of a contraction (R432 to R439, R556). -/
structure Tiling where
  mt : Nat
  nt : Nat
  flow : Nat
  split : Bool
  s : Nat
  ks : Nat
  kc : Nat
  m : Nat
  n : Nat
  k : Nat
  batch : Nat
  deriving DecidableEq, Repr

/-- A contraction block (R556) read out, with its chain. -/
structure Contraction where
  a : Nat
  b : Nat
  c : Nat
  pre : Nat
  scratch : Nat
  mask : Nat
  vecs : List Nat
  sides : List Nat
  axa : Bool
  axb : Bool
  mode : Nat
  eng : Nat
  start : Nat
  pkind : Nat
  pskip : Nat
  audit : Nat
  noskip : Bool
  fm : Nat
  fn : Nat
  chain : Option Chain
  tiling : Tiling
  deriving DecidableEq, Repr

/-- What a DISPATCH or CONTRACT asks for, as read from its packet and block (R552, R553, R556). -/
structure Request where
  ring : Nat
  tag : Nat
  opcode : Nat
  irq : Bool
  prio : Nat
  tallyWait : Option (Nat × W64)
  deps : List (Nat × Nat)
  program : Nat
  slots : List Nat
  params : List W64
  ext : List Nat
  step : List Nat
  inner : Bool
  restart : Bool
  debug : Bool
  stagger : Nat
  target : Nat
  costTensor : Nat
  costs : Option (List Nat)
  /-- the tiles that hold a marked row, where the desk issues them first (R240) -/
  marked : Option (List Nat)
  affinity : Nat
  regions : Nat
  scratch : Nat
  contract : Option Contraction
  deriving DecidableEq, Repr

/-- A dependency not yet met (R540, R541): its place in the packet, the dispatch named, and its status once it has its FINAL reply. -/
structure Dep where
  place : Nat
  number : Nat
  ended : Option St
  deriving DecidableEq, Repr

/-- An accepted dispatch (R422): its request, its place in the order of acceptance, the settings, polynomial tables and send routes
it uses (R216, R312, R599), the dependencies not yet met (R540), whether its tally wait has been met (R542), its counters, how it
is to end, and what its reply reports (R428, R532, R533). -/
structure Dispatch where
  number : Nat
  order : Nat
  req : Request
  rerunStep : Nat
  wd : Nat
  ws : Nat
  fixed : Nat
  polyVers : List Nat
  routeVer : Nat
  deps : List Dep
  ready : Bool
  counters : List (Nat × Nat)
  internal : List (Nat × Desc)
  /-- tiles of an isolated region waiting for a counter (R649) -/
  homeless : List (Nat × Nat)
  /-- the same for tiles that had been taken or returned (R426) -/
  homelessBack : List Nat
  /-- how it ends when not with ST_OK: status and detail; `cancelling` once R450 has begun -/
  ending : Option (St × Nat)
  cancelling : Bool
  /-- cores that FAULT_ACTION took from it (R562) -/
  dropped : List Nat
  /-- what a cancellation still waits for (R450, step 5): the reads of other sockets on their way, as (request, socket), and the packets that
  have not been acknowledged, as (socket, place in the stream) -/
  readsOut : List (Nat × Nat)
  acksOut : List (Nat × Nat)
  committed : Nat
  replayed : Nat
  superseded : Nat
  abandoned : Nat
  skipped : Nat
  audited : Nat
  misses : Nat
  flags : Nat
  deriving DecidableEq, Repr

/-! ## Memory and translation -/

/-- A channel and its record (R466), its DIMM's rating, its power-enable output (R708): undriven, or driven to a level, and the pages that an
evacuation has still to move (R490). -/
structure Channel where
  state : Nat
  rate : Nat
  size : Nat
  retired : Nat
  ce : Nat
  ue : Nat
  dimm : Option Dimm
  pwren : Option Bool
  leaving : List Nat
  deriving DecidableEq, Repr

/-- A leaf page-table entry of a 64 KiB page, or of a 64 KiB part of a 2 MiB page (`big`) (R477, R479). `at_` is the local frame or
the bus address divided by 64 KiB; `moving` is the frame a migration copies to. -/
structure Page where
  host : Bool
  write : Bool
  resident : Bool
  big : Bool
  at_ : Nat
  moving : Option Nat
  /-- the move retires its frame: the channel of the error (R471) -/
  retiring : Option Nat
  /-- a HOSTPAGE episode is open (R503) -/
  episode : Bool
  /-- the channels that the consecutive 256 B lines of the page rotate over, from its first line, and those of the frame it moves to
  (R457) -/
  ways : List Nat
  wayNext : List Nat
  deriving DecidableEq, Repr

/-- The translation caches (R480): the leaves in each region's cache and in each I/O die's shared one, each by the number of its first 64 KiB
page, and the tables in each I/O die's walk cache, by level and the address bits that index the levels down to it. -/
structure Caches where
  leaves : List (Nat × List Nat)
  shared : List (Nat × List Nat)
  walks : List (Nat × List (Nat × Nat))
  deriving DecidableEq, Repr

/-- An allocation (R455, R456): base, 64 KiB pages, hint, and the channels of an ISOLATE placement. -/
structure Alloc where
  handle : Nat
  base : Nat
  pages : Nat
  hint : Nat
  channels : List Nat
  host : Bool
  deriving DecidableEq, Repr

/-- A write of a transfer at an address: bytes with masks of the bits written (R468), or an addition to an element in a format
(R285). -/
inductive Put where
  | data (va : Nat) (bs : List (Byte × Byte))
  | add (va fmt val : Nat)
  deriving DecidableEq, Repr

/-- A write that a switch of its owner table holds, at an address in the window, with the core and issued instruction that it comes from (R296). -/
structure HeldWrite where
  who : Option (Nat × Nat)
  put : Put
  deriving DecidableEq, Repr

/-- An owner table (R290 to R296): window, copy option, counter, the two generations as entries by block, and the switch in progress: the
blocks still to be copied, the bytes copied of the first of them, the read asked for, and the acknowledgements that the copies wait for. -/
structure Owner where
  handle : Nat
  vbase : Nat
  count : Nat
  copy : Bool
  gen : Nat
  active : List (Nat × Nat)
  standby : List (Nat × Nat)
  sealed_ : Bool
  moves : List Nat
  moved : Nat
  asked : Option Nat
  acks : List (Nat × Nat)
  /-- writes held since the seal (R296) -/
  heldWrites : List HeldWrite
  deriving DecidableEq, Repr

/-- A COPY or FILL in progress (R547): destination, source (none: fill with the byte), length, bytes moved, stop, and its packet. -/
structure CopyOp where
  id : Nat
  ring : Nat
  pkt : Nat
  dst : Nat
  src : Option Nat
  fill : Nat
  len : Nat
  pos : Nat
  stop : Option Stop
  undo : List Undo
  deriving DecidableEq, Repr

/-! ## Host interface -/

/-- A packet that waits at its ring's head (R538, R563). -/
inductive Waiting where
  | dispatch (req : Request)
  | tally (tag no : Nat) (value : W64) (irq : Bool)
  deriving DecidableEq, Repr

/-- A ring (R520): bases, sizes, indices, what the completion ring has written and not released, what is reserved (R526), packets
without a FINAL reply, interrupt counting (R528), the waiting packet, and the packet being carried out. -/
structure Ring where
  sqBase : W64
  cqBase : W64
  sqLog : Nat
  cqLog : Nat
  irqCount : Nat
  sqHead : Nat
  sqTail : Nat
  cqTail : Nat
  cqUsed : Nat
  cqPhase : Bool
  reserved : Nat
  unfinal : Nat
  sinceIrq : Nat
  error : Bool
  waiting : Option Waiting
  busy : Option Packet
  deriving DecidableEq, Repr

/-- An event that has not been written yet (R565): its fields, EV.BODY from bit 128 up, and the continuation entry. -/
structure Event where
  code : Nat
  st : St
  detail : Nat
  core : Nat
  dispatch : Nat
  body : Nat
  cont : Option Nat
  deriving DecidableEq, Repr

/-- The registers of BAR0 (R513) and the state behind HIF.STATUS. -/
structure Hif where
  evqEn : Bool
  aqEn : Bool
  asqBase : W64
  acqBase : W64
  aqSize : W64
  evqBase : W64
  evqSize : W64
  evqHead : W64
  winBase : W64
  lastSt : Nat
  evqOn : Bool
  running : Bool
  ready : Bool
  deriving DecidableEq, Repr

/-- The event ring (R524, R565): next entry to write, entries written and not released, phase, next sequence number, the device
queue, the events held beyond it, and the count of merged events. -/
structure EventRing where
  tail : Nat
  used : Nat
  phase : Bool
  seq : W32
  queue : List Event
  held : List Event
  merged : Nat
  deriving DecidableEq, Repr

/-- A staged change of the open transaction (R569). -/
inductive Staged where
  | setting (no : Nat) (value : Nat)
  | events (mask : Nat)
  | routes (first : Nat) (entries : List Nat)
  | sendRoutes (first : Nat) (entries : List Nat)
  | owner (handle first : Nat) (entries : List Nat)
  | poly (table : Nat) (entries : List Nat)
  deriving DecidableEq, Repr

/-- The open transaction (R567): its ring, what it has staged, and the bytes staged. -/
structure Txn where
  ring : Nat
  staged : List Staged
  bytes : Nat
  deriving DecidableEq, Repr

/-- The seven settings of R544, in order of number. -/
structure Settings where
  rerunStep : Nat
  costWd : Nat
  costWs : Nat
  costFixed : Nat
  scrubRate : Nat
  powerLimit : Nat
  eventMask : Nat
  deriving DecidableEq, Repr

/-! ## Archive, firmware, fuses -/

/-- A copy of the settings in the archive (R627). -/
structure SetCopy where
  seq : Nat
  values : Settings
  deriving DecidableEq, Repr

/-- A copy of the control record (R627): active image, owner key, slot states. -/
structure Control where
  seq : Nat
  active : Nat
  owner : Option (Nat × Nat)
  validA : Bool
  validB : Bool
  deriving DecidableEq, Repr

/-- An image slot (R627): its bytes, how many are in use, and the writes made to its pages. -/
structure Slot where
  bytes : Mem
  len : Nat
  writes : Nat
  deriving DecidableEq, Repr

/-- An archive operation in progress or waiting (R627, R631). -/
inductive ArchiveOp where
  | settings (ring : Nat) (pkt : Packet) (values : Settings)
  | image (ring : Nat) (pkt : Packet) (slot : Nat) (data : List Byte)
  deriving DecidableEq, Repr

/-- The archive (R627): the settings and control copies by page, the writes made to the settings pages, the slots, the operations
waiting. -/
structure Archive where
  set0 : Option SetCopy
  set1 : Option SetCopy
  writes0 : Nat
  writes1 : Nat
  ctl0 : Option Control
  ctl1 : Option Control
  slotA : Slot
  slotB : Slot
  ops : List ArchiveOp
  deriving DecidableEq, Repr

/-- The firmware running (R621, R656): the slot, version, security version and digest latched by the boot ROM, the slot each processor
runs, the handover in progress (target slot and old slot), processors failed and not restarted, and a floor raise that is due. -/
structure Firmware where
  image : Nat
  version : Nat
  svn : Nat
  digest : Nat
  procs : List Nat
  handover : Option (Nat × Nat × Nat)
  failed : List Nat
  raiseTo : Option Nat
  deriving DecidableEq, Repr

/-- The fuses (R2, R145, R609, R618, R671): part, stepping, serial, SVN floor, debug fuse, repair words of cores and spares, and the
ledger's firmware version and calibration generation. -/
structure Fuses where
  part0961 : Bool
  stepping : Nat
  serial : Nat
  svnFloor : Nat
  debugBlown : Bool
  repair : List (Nat × Nat)
  spareRepair : List (Nat × Nat)
  ledgerFw : Nat
  calGen : Nat
  deriving DecidableEq, Repr

/-! ## Fabric -/

/-- An optical port (R580), the stall of a restripe (R578), and what the laser commands do with it (R662, R663). -/
structure Port where
  state : Nat
  width : Nat
  laneFail : Nat
  peerSock : Nat
  peerPort : Nat
  fecCorr : Nat
  fecUnc : Nat
  replays : Nat
  stalled : Bool
  /-- no new packets are sent on it: a laser swap is prepared (R662) -/
  closing : Bool
  /-- it trains for a LASER_DONE (R663) -/
  retraining : Bool
  /-- codewords received since the port last trained, and the uncorrectable ones of the last 2^20: their numbers and lanes (R577) -/
  words : Nat
  bad : List (Nat × Nat)
  /-- the next flit that the link is to deliver (R576) -/
  rxNext : Nat
  deriving DecidableEq, Repr

/-- The stream with a socket (R588 to R590): next number to send, unacknowledged packets, next number to perform, whether the socket is
marked unreachable (R604), and the arrival additions among the packets: number, core, dispatch, accession (R606). -/
structure Stream where
  nextSeq : Nat
  unacked : List FPacket
  expect : Nat
  unreachable : Bool
  arrivals : List (Nat × Nat × Nat × Nat)
  deriving DecidableEq, Repr

/-- A write of another socket held for a page that moves (R592). -/
structure OwnerHold where
  va : Nat
  src : Nat
  body : FBody
  deriving DecidableEq, Repr

/-! ## Ledger -/

/-- A request that Staul queues (R675): command, path, destination, host mark, nonce, packet. -/
structure LedgerReq where
  opcode : Nat
  side : Bool
  ring : Nat
  pkt : Packet
  deriving DecidableEq, Repr

/-- The counters Staul keeps (R666, R668, R670) and what goes with them. -/
structure LedgerCounts where
  mac : List (Nat × Nat)
  bytes : List Nat
  energy : List Nat
  seq : Nat
  powerUps : Nat
  refLost : Nat
  deriving DecidableEq, Repr

/-- Staul (R665 to R679): counters, the last checkpoint, whether the island is up, the clean flag, and the requests of both paths in order of
arrival, the first of them being served. -/
structure Ledger where
  now : LedgerCounts
  saved : LedgerCounts
  up : Bool
  clean : Bool
  queue : List LedgerReq
  deriving DecidableEq, Repr

/-! ## The package -/

/-- What the device as a whole is doing (R609, R621, R625, R653, R695, R711). -/
inductive Mode where
  /-- PWRGOOD low or a reset input held: nothing runs -/
  | off
  /-- the boot is under way up to HIF.READY -/
  | booting
  /-- Hokuec serves -/
  | running
  /-- both images failed; the boot ROM serves ring 0 (R625) -/
  | recovery
  /-- the boot of recovery before HIF.READY -/
  | recovering
  /-- a fatal error (R653); the cause -/
  | fatal (cause : Nat)
  /-- a junction at 115 °C (R711) -/
  | hot
  /-- a rail fault (R695) -/
  | railFault
  /-- the reference is lost (R44) -/
  | noReference
  deriving DecidableEq, Repr

/-- Package pins that the device drives or reads (R682, R702): outputs PWRFAULT_N and THERMTRIP_N low, PWRGOOD, PCIe link width,
laser inputs lost, lands driven by EXTEST, and whether COLD_RESET_N is held. -/
structure Pins where
  pwrgood : Bool
  pwrFault : Bool
  thermTrip : Bool
  linkWidth : Nat
  linkUp : Bool
  laserLost : List Nat
  extest : List (Nat × Bool)
  coldHeld : Bool
  deriving DecidableEq, Repr

/-- The state of the device. `pending` is the queue of commands that wait, first in, first out; `fresh` numbers the values that the
manual leaves open. Both are the model's own. -/
structure State where
  pending : List Instr
  fresh : Nat
  mode : Mode
  lastReset : Nat
  noarch : Bool
  pins : Pins
  straps : BitVec 19
  fuses : Fuses
  archive : Archive
  fw : Firmware
  settings : Settings
  hif : Hif
  msix : Mem
  pba : List Nat
  raised : List Nat
  rings : List (Nat × Ring)
  evq : EventRing
  hostMem : Mem
  lastRead : List Byte
  sideOut : List (List Byte)
  ledgerOut : List (List Byte)
  txn : Option Txn
  channels : List Channel
  rate : Nat
  dram : Mem
  cleared : List Nat
  retired : List Nat
  poison : List Nat
  /-- the channel of each line that was poisoned -/
  poisonAt : List (Nat × Nat)
  ceLines : List (Nat × Nat)
  ceFrames : List Nat
  /-- frames whose page waits for its move to a spare frame, with the channel of the error (R471) -/
  retireDue : List (Nat × Nat)
  spareFrames : Nat
  /-- pages that Hokuec has still to move to restore interleave (R493) -/
  restoring : List Nat
  pages : List (Nat × Page)
  caches : Caches
  allocs : List (Nat × Alloc)
  tensors : List (Nat × Desc)
  owners : List (Nat × Owner)
  polys : List PolyTab
  programs : List (Nat × Program)
  jobs : List (Nat × Job)
  copies : List CopyOp
  nextCopy : Nat
  dispatches : List (Nat × Dispatch)
  nextOrder : Nat
  regions : List Region
  cores : List Core
  tallies : List (Nat × W64)
  routes : List (Nat × Nat)
  sendVer : Nat
  sendRoutes : List (Nat × Nat)
  sendPrev : List (Nat × Nat)
  ports : List Port
  streams : List (Nat × Stream)
  fabricOut : List (Nat × FPacket)
  ownerHolds : List OwnerHold
  nextReq : Nat
  bridge : List Nat
  scrubAt : List Nat
  thermal : Bool
  powerCap : Bool
  ledger : Ledger
  deriving DecidableEq, Repr

/-! ## After reset -/

/-- The repair state that a fused repair word loads (R144, R145). -/
def Repair.ofWord (w : Nat) : Repair :=
  { sp0 := if bit w 15 then some (bits w 14 8) else none, sp1 := if bit w 23 then some (bits w 22 16) else none,
    pending := [], fenced := false, exhausted := false }

/-- A core as a reset or a fresh substitution leaves it (R334, R609). -/
def Core.fresh (r : Repair) (spare present : Bool) : Core :=
  { power := .active, present := present, spare := spare, dispatch := none, x := List.replicate 32 0#64,
    slots := List.replicate 8 0, tags := [], loops := [], bankA := none, bankB := none, choice := none, recs := [],
    held := none, phase := .load, pc := 0, own := [], ownChain := none, wait := none, stopped := none, inflight := [],
    nextIdx := 0, split := false, fore := false, foreShelves := [], carrel := [], acc := [], stat := [], statNext := [],
    repair := r, mism := [], begun := 0, again := none, sparseFenced := false, lfsr := (List.range 5).map (fun q => (q, 0#32)), prog := [], runSeq := 0, drained := [], freed := false }

/-- A region as a reset leaves it. -/
def Region.fresh (spareOk : Bool) : Region :=
  { isolated := none, spareUsed := false, spareOk := spareOk, counters := [], contexts := [], jobNow := none, jobQueue := [] }

/-- The number of regions of the part (R2). -/
def Fuses.regions (f : Fuses) : Nat := if f.part0961 then 12 else 16
/-- The number of logical optical ports of the part (R2). -/
def Fuses.ports (f : Fuses) : Nat := if f.part0961 then 12 else 16
/-- The part's package maximum power (R2). -/
def Fuses.maxPower (f : Fuses) : Nat := if f.part0961 then 1250 else 1600

/-- The settings at their defaults (R544). -/
def Settings.default (f : Fuses) : Settings := ⟨8, 16, 16, 16, 3200, f.maxPower, 0⟩

/-- The polynomial tables after a reset (R611): entry 0 with coefficients +0, entries 1 to 15 unused (BREAK is NaN). -/
def PolyTab.reset : PolyTab :=
  let unused := at_ 128 0x7FC00000
  ⟨0, 0 :: List.replicate 15 unused, 0 :: List.replicate 15 unused⟩

/-- A ledger count with nothing counted. -/
def LedgerCounts.zero : LedgerCounts := ⟨[], List.replicate 7 0, List.replicate 4 0, 0, 0, 0⟩

/-- The BAR0 registers after a reset (R513). -/
def Hif.reset : Hif := ⟨false, false, 0, 0, 0, 0, 0, 0, 0, 0, false, false, false⟩

/-- The event ring after a reset (R565, R609). -/
def EventRing.reset : EventRing := ⟨0, 0, true, 0, [], [], 0⟩

/-- A port after a reset (R580): DOWN, or DISABLED when its engine is (R616, R617). -/
def Port.reset (enabled : Bool) : Port := ⟨if enabled then 0 else 3, 0, 0, 0, 0, 0, 0, 0, false, false, false, 0, [], 0⟩

/-- The fuses of the device that `State.reset` describes: a production AX9-1281 without factory repairs (log entry 2). -/
def Fuses.initial : Fuses :=
  { part0961 := false, stepping := 0, serial := 0, svnFloor := 0, debugBlown := true, repair := [], spareRepair := [],
    ledgerFw := 0, calGen := 0 }

/-- A populated channel in service at 12,800 MT/s (R461 to R466, R708; log entry 2). -/
def Channel.initial : Channel := ⟨1, 12800, 256, 0, 0, 0, some ⟨256, 12800, true⟩, some true, []⟩

/-- The archive of the device that `State.reset` describes (log entry 2). -/
def Archive.initial : Archive :=
  { set0 := none, set1 := none, writes0 := 0, writes1 := 0, ctl0 := some ⟨0, 0, none, true, false⟩, ctl1 := none,
    slotA := ⟨[], 0, 0⟩, slotB := ⟨[], 0, 0⟩, ops := [] }

/-- The machine right after a POWER-ON reset, its boot steps 1 to 6 done and HIF.READY still 0 (R609, R621; log entries 1, 2). -/
def State.reset : State :=
  { pending := [], fresh := 0, mode := .booting, lastReset := 0, noarch := true,
    pins := ⟨true, false, false, 16, true, [], [], false⟩, straps := 0x0FF00#19, fuses := .initial, archive := .initial,
    fw := ⟨0, 1, 0, 0, [0, 0, 0, 0], none, [], none⟩, settings := .default .initial, hif := .reset, msix := [], pba := [],
    raised := [], rings := [], evq := .reset, hostMem := [], lastRead := [], sideOut := [], ledgerOut := [], txn := none,
    channels := List.replicate 24 .initial, rate := 12800, dram := [], cleared := [], retired := [], poison := [], poisonAt := [],
    ceLines := [], ceFrames := [], retireDue := [], spareFrames := 16384, restoring := [], pages := [], caches := ⟨[], [], []⟩, allocs := [], tensors := [],
    owners := [], polys := List.replicate 64 .reset, programs := [], jobs := [], copies := [], nextCopy := 0,
    dispatches := [], nextOrder := 0, regions := List.replicate 16 (.fresh true),
    cores := List.replicate 128 (.fresh (.ofWord 0) false true), tallies := [], routes := [], sendVer := 0,
    sendRoutes := [], sendPrev := [], ports := List.replicate 16 (.reset true), streams := [], fabricOut := [],
    ownerHolds := [], nextReq := 0, bridge := List.replicate 5 0, scrubAt := List.replicate 24 0, thermal := false,
    powerCap := false, ledger := ⟨.zero, .zero, true, true, []⟩ }

end Sys2Proof.Machine
end

