-- ==== Sys2Proof/Machine/TileCode.lean ====
section
/-! DEFINITION. The 64-bit encoding of tile programs (R346 to R391, R719), chain records (R301 to R304, R330), and the checks of a
program image at load (R398 to R400). -/
namespace Sys2Proof.Machine

/-! ## Encoding -/

/-- The word of a transfer instruction (table of transfer instruction fields). -/
def encTF (op : Nat) (f : TF) : Nat :=
  at_ 56 op + at_ 53 f.slot + at_ 45 f.sh + at_ 43 f.ps + at_ 38 f.xo + at_ 33 f.xe + at_ 30 f.role + at_ 29 (b2n f.gw)
    + at_ 23 f.chn + at_ 20 f.slot2 + at_ 19 (b2n f.bl) + at_ 16 f.gdim + at_ 8 f.ss + at_ 7 (b2n f.choice) + at_ 6 (b2n f.exact_)

/-- The word of MMA, SPMA or SPGE. -/
def encMF (op : Nat) (f : MF) : Nat :=
  at_ 56 op + at_ 48 f.sa + at_ 40 f.sb + at_ 32 f.sp + at_ 27 f.xk + at_ 22 f.xv + at_ 20 f.mc + at_ 18 f.nc + at_ 16 f.flow
    + at_ 14 f.start + at_ 12 f.pkind + at_ 10 f.mode + at_ 8 f.eng + at_ 5 f.qtr + at_ 4 (b2n f.noskip) + at_ 2 f.pskip
    + at_ 1 (b2n f.cardA) + b2n f.cardB

/-- The 64-bit word of an instruction (R346 and the field maps that follow it). -/
def encodeTile (i : TileInstr) : Nat :=
  match i with
  | .setx xd imm => at_ 56 0x01 + at_ 51 xd + imm
  | .addx xd xs xt sh imm => at_ 56 0x02 + at_ 51 xd + at_ 46 xs + at_ 41 xt + at_ 35 sh + imm
  | .loop xc imm len => at_ 56 0x03 + at_ 51 xc + at_ 35 imm + at_ 22 len
  | .br xs xt cond off => at_ 56 0x04 + at_ 51 xs + at_ 46 xt + at_ 43 cond + off
  | .load f => encTF 0x10 f
  | .store f => encTF 0x11 f
  | .gather f => encTF 0x12 f
  | .scatter f => encTF 0x13 f
  | .loadcard f => encTF 0x14 f
  | .mma f => encMF 0x20 f
  | .spma f => encMF 0x21 f
  | .spge f => encMF 0x22 f
  | .ewiseDiag f => at_ 56 0x23 + at_ 54 (b2n f.mad) + at_ 53 (b2n f.xsel) + at_ 45 f.wsh + at_ 44 (b2n f.all) + at_ 40 f.slotno
      + at_ 37 f.qtr + at_ 36 (b2n f.loads) + at_ 28 f.ssh
  | .ewiseChain src dst chn xr => at_ 56 0x23 + at_ 55 1 + at_ 45 src + at_ 37 dst + at_ 31 chn + at_ 26 xr
  | .reduce kind src dst xn => at_ 56 0x24 + at_ 53 kind + at_ 45 src + at_ 37 dst + at_ 32 xn
  | .reduceSplitk src dst xn toacc => at_ 56 0x24 + at_ 53 3 + at_ 45 src + at_ 37 dst + at_ 32 xn + at_ 31 (b2n toacc)
  | .drain chn dsh xr qtr => at_ 56 0x30 + at_ 50 chn + at_ 42 dsh + at_ 37 xr + at_ 34 qtr
  | .drainPartial dsh xr qtr => at_ 56 0x30 + at_ 42 dsh + at_ 37 xr + at_ 34 qtr + at_ 33 1
  | .take xd ctr => at_ 56 0x40 + at_ 51 xd + at_ 45 ctr
  | .commit xd => at_ 56 0x41 + at_ 51 xd
  | .yield => at_ 56 0x42
  | .send sh xn route xa => at_ 56 0x50 + at_ 48 sh + at_ 43 xn + at_ 35 route + at_ 30 xa
  | .tally no xs xr => at_ 56 0x51 + at_ 44 no + at_ 39 xs + at_ 34 xr
  | .wait no xs => at_ 56 0x52 + at_ 44 no + at_ 39 xs
  | .fence => at_ 56 0x60
  | .halt => at_ 56 0x61
  | .dbg xs code => at_ 56 0x7F + at_ 51 xs + at_ 35 code

/-- The transfer fields of a word. -/
def decTF (w : Nat) : TF :=
  { slot := bits w 55 53, sh := bits w 52 45, ps := bits w 44 43, xo := bits w 42 38, xe := bits w 37 33, role := bits w 32 30,
    gw := bit w 29, chn := bits w 28 23, slot2 := bits w 22 20, bl := bit w 19, gdim := bits w 18 16, ss := bits w 15 8,
    choice := bit w 7, exact_ := bit w 6 }

/-- The MMA fields of a word. -/
def decMF (w : Nat) : MF :=
  { sa := bits w 55 48, sb := bits w 47 40, sp := bits w 39 32, xk := bits w 31 27, xv := bits w 26 22, mc := bits w 21 20,
    nc := bits w 19 18, flow := bits w 17 16, start := bits w 15 14, pkind := bits w 13 12, mode := bits w 11 10,
    eng := bits w 9 8, qtr := bits w 7 5, noskip := bit w 4, pskip := bits w 3 2, cardA := bit w 1, cardB := bit w 0 }

/-- The instruction whose fields a word holds, reserved bits not looked at; none for an opcode that R346 does not list. -/
def fieldsOf (w : Nat) : Option TileInstr :=
  match bits w 63 56 with
  | 0x01 => some (.setx (bits w 55 51) (bits w 47 0))
  | 0x02 => some (.addx (bits w 55 51) (bits w 50 46) (bits w 45 41) (bits w 40 35) (bits w 31 0))
  | 0x03 => some (.loop (bits w 55 51) (bits w 50 35) (bits w 34 22))
  | 0x04 => some (.br (bits w 55 51) (bits w 50 46) (bits w 45 43) (bits w 15 0))
  | 0x10 => some (.load (decTF w))
  | 0x11 => some (.store (decTF w))
  | 0x12 => some (.gather (decTF w))
  | 0x13 => some (.scatter (decTF w))
  | 0x14 => some (.loadcard (decTF w))
  | 0x20 => some (.mma (decMF w))
  | 0x21 => some (.spma (decMF w))
  | 0x22 => some (.spge (decMF w))
  | 0x23 =>
    if bit w 55 then some (.ewiseChain (bits w 52 45) (bits w 44 37) (bits w 36 31) (bits w 30 26))
    else some (.ewiseDiag ⟨bit w 54, bit w 53, bits w 52 45, bit w 44, bits w 43 40, bits w 39 37, bit w 36, bits w 35 28⟩)
  | 0x24 =>
    if bits w 55 53 = 3 then some (.reduceSplitk (bits w 52 45) (bits w 44 37) (bits w 36 32) (bit w 31))
    else some (.reduce (bits w 55 53) (bits w 52 45) (bits w 44 37) (bits w 36 32))
  | 0x30 =>
    if bit w 33 then some (.drainPartial (bits w 49 42) (bits w 41 37) (bits w 36 34))
    else some (.drain (bits w 55 50) (bits w 49 42) (bits w 41 37) (bits w 36 34))
  | 0x40 => some (.take (bits w 55 51) (bits w 50 45))
  | 0x41 => some (.commit (bits w 55 51))
  | 0x42 => some .yield
  | 0x50 => some (.send (bits w 55 48) (bits w 47 43) (bits w 42 35) (bits w 34 30))
  | 0x51 => some (.tally (bits w 55 44) (bits w 43 39) (bits w 38 34))
  | 0x52 => some (.wait (bits w 55 44) (bits w 43 39))
  | 0x60 => some .fence
  | 0x61 => some .halt
  | 0x7F => some (.dbg (bits w 55 51) (bits w 50 35))
  | _ => none

/-- The listed values of the transfer fields (R348, R355, R719) of an opcode. -/
def tfLegal (op : Nat) (f : TF) : Bool :=
  (if op == 0x14 then f.ps == 2 && f.role ≤ 1
   else if op == 0x10 || op == 0x11 then f.ps ≤ 1 && f.role ≤ 6
   else f.ps == 0 && f.role ≤ 6)
  && f.gdim ≤ 5
  && (op == 0x10 || op == 0x14 || !f.choice)
  && (!f.exact_ || (op == 0x14 && f.choice))
  && ((!f.bl && op != 0x12 && op != 0x13) || f.xo ≤ 30)

/-- The listed values of the MMA, SPMA and SPGE fields (R348, R355) of an opcode. -/
def mfLegal (op : Nat) (f : MF) : Bool :=
  (if op == 0x20 then f.flow ≤ 2 else if op == 0x22 then f.flow ≤ 1 else f.flow == 0)
  && f.start ≤ 2 && f.pkind ≤ 2 && f.mode ≤ 2 && f.eng ≤ 2 && f.qtr ≤ 4 && f.pskip ≤ 2 && (f.pskip == 0 || f.xv ≤ 30)

/-- Whether every field holds one of its listed values (R348, R355, R379, R719). -/
def tileLegal (i : TileInstr) : Bool :=
  match i with
  | .loop xc imm len => 1 ≤ len && (xc == 0 || imm == 0)
  | .br _ _ cond _ => cond ≤ 6
  | .load f => tfLegal 0x10 f
  | .store f => tfLegal 0x11 f
  | .gather f => tfLegal 0x12 f
  | .scatter f => tfLegal 0x13 f
  | .loadcard f => tfLegal 0x14 f
  | .mma f => mfLegal 0x20 f
  | .spma f => mfLegal 0x21 f
  | .spge f => mfLegal 0x22 f
  | .ewiseDiag f => f.qtr ≤ 4
  | .ewiseChain _ _ chn _ => 1 ≤ chn
  | .reduce kind _ _ _ => kind ≤ 2
  | .drain _ _ _ qtr => qtr ≤ 4
  | .drainPartial _ _ qtr => qtr ≤ 4
  | .take xd _ => xd ≤ 24
  | .setx .. | .addx .. | .reduceSplitk .. | .commit .. | .yield | .send .. | .tally .. | .wait .. | .fence | .halt
  | .dbg .. => true

/-- The decoder of a program word (R346, R348): the instruction whose word it is, none for a reserved bit set, an unlisted opcode or
an unlisted field value. -/
def decodeTile (w : Nat) : Option TileInstr :=
  match fieldsOf w with
  | some i => if encodeTile i == w && tileLegal i then some i else none
  | none => none

/-- The shelf fields of an instruction, used by it or not: check 5 of R400 says every shelf field. -/
def tileShelves (i : TileInstr) : List Nat :=
  match i with
  | .load f | .store f | .gather f | .scatter f | .loadcard f => [f.sh, f.ss]
  | .mma f | .spma f | .spge f => [f.sa, f.sb, f.sp]
  | .ewiseDiag f => [f.wsh, f.ssh]
  | .ewiseChain src dst _ _ | .reduce _ src dst _ | .reduceSplitk src dst _ _ => [src, dst]
  | .drain _ dsh _ _ | .drainPartial dsh _ _ => [dsh]
  | .send sh _ _ _ => [sh]
  | .setx .. | .addx .. | .loop .. | .br .. | .take .. | .commit .. | .yield | .tally .. | .wait .. | .fence | .halt | .dbg .. => []

/-! ## Chain records -/

/-- A stage entry from its 128 bits (R302). -/
def Stage.ofWord (w : Nat) : Stage :=
  { cls := bits w 127 124, op := bits w 123 120, fmt := bits w 119 112, sbmode := bits w 111 110, sat := bit w 109,
    sr := bit w 108, shelf := bits w 103 96, line := bits w 95 88, aux := bits w 87 80, p1 := bits w 63 32, p0 := bits w 31 0 }

/-- The most entries of a class in a chain (R303). -/
def stageMax : Nat → Nat
  | 3 => 2 | 5 => 3 | 6 => 4 | _ => 1

/-- Whether a class lists an operation (R303). -/
def stageOp (cls op : Nat) : Bool :=
  match cls with
  | 1 => op ≤ 3 | 2 => op ≤ 2 | 3 => op ≤ 6 | 4 => op == 0 | 5 => op ≤ 3 || (8 ≤ op && op ≤ 10)
  | 6 => op ≤ 3 || (8 ≤ op && op ≤ 11) | 7 => op == 0 | 8 => op == 0 | 9 => op == 0 | _ => false

/-- Whether a format code is one of FP32, BF16, FP16 (R153, R308). -/
def isVecFmt (c : Nat) : Bool := c == 0x08 || c == 0x09 || c == 0x0A

/-- Whether an entry breaks one of the conditions of R330 on a single entry. -/
def Stage.bad (g : Stage) (pro : Bool) : Bool :=
  let a : W32 := BitVec.ofNat 32 g.p0
  let b : W32 := BitVec.ofNat 32 g.p1
  let vec := (g.cls == 1 && 2 ≤ g.op) || g.cls == 2 || (g.cls == 5 && g.op ≤ 3)
  !stageOp g.cls g.op
  || (g.sr && (g.cls != 7 || pro || g.fmt == 0x0A))
  || (g.cls == 7 && (!isElemFmt g.fmt || g.sbmode == 3 || (g.sbmode != 0 && !canScale g.fmt) || (g.sbmode == 2 && g.p1 % 256 == 255)))
  || (g.cls == 4 && ((fv a).isNan || (fv b).isNan || (fv a).cmp (fv b) == .gt))
  || (g.cls == 5 && g.op == 9 && (g.p1 == 0 || (fv a).isNan || ((fv a).cmp (fv f0)) == .lt))
  || (g.cls == 5 && g.op == 9 && g.aux == 7)
  || (g.cls == 3 && g.op == 6 && g.aux > 63)
  || (pro && g.cls == 5 && g.aux > 7)
  || (vec && !isVecFmt g.fmt)
  || ((g.cls == 1 || g.cls == 5) && !vec && g.fmt != 0)
  || (!pro && g.cls == 5 && 8 ≤ g.op)
  || (pro && (g.cls == 1 || g.cls == 2 || g.cls == 6 || g.cls == 8 || g.cls == 9))

/-- The first bad entry of a list of entries in order, with class order and class counts (R304, R330). -/
def stagesBad (pro : Bool) : Nat → Nat → List Stage → List Stage → Option Nat
  | _, _, _, [] => none
  | i, last, seen, g :: r =>
    if g.bad pro || g.cls < last || (seen.filter (fun h => h.cls == g.cls)).length ≥ stageMax g.cls then some i
    else stagesBad pro (i + 1) g.cls (g :: seen) r

/-- A chain record read from its header and entries, or the detail of its refusal (R301, R330). The reserved bits of an entry are
checked with its class. -/
def readChain (hdr : Nat) (entries : List Nat) : Chain ⊕ Nat :=
  let pro := bit hdr 8
  let count := bits hdr 7 0
  if count > 12 || bits hdr 127 9 != 0 then .inr 0xFF
  else
    match (entries.zipIdx.find? (fun p => bits p.1 107 104 != 0 || bits p.1 79 64 != 0)) with
    | some p => .inr p.2
    | none =>
      let st := entries.map Stage.ofWord
      match stagesBad pro 0 0 [] st with
      | some i => .inr i
      | none =>
        if pro && !st.any (fun g => g.cls == 7) then .inr 0xFF else .inl ⟨pro, st⟩

/-! ## The program image -/

/-- A refused image: status, detail, and what REPLY.RESULT1 holds (R400). -/
structure ImgErr where
  st : St
  detail : Nat
  result1 : Nat
  deriving DecidableEq, Repr

/-- Checks 1 and 2 of R400 on the 64 header bytes. -/
def imageHeader (h : Nat) : Option ImgErr :=
  let nin := bits h 111 96
  let size := bits h 95 64
  let off := bits h 159 144
  let len := bits h 175 160
  if bits h 31 0 != 0x0A097E90 || bits h 47 32 != 1 || bits h 511 224 != 0 || bits h 191 176 != 0 || bits h 127 121 != 0
      || bits h 63 49 != 0 then some ⟨.field, 0xFF, 0⟩
  else if size < 64 || size > 65536 || 64 + 8 * nin > size then some ⟨.nofit, 1, 0⟩
  else if (off == 0 && len == 0) || (off % 16 == 0 && 64 + 8 * nin ≤ off && 126 ≤ len && off + len ≤ size) then none
  else some ⟨.nofit, 1, 0⟩

/-- The loop bodies of a program: the instruction of each LOOP with the last instruction of its body. -/
def loopBodies (code : List TileInstr) : List (Nat × Nat) :=
  code.zipIdx.filterMap (fun p => match p.1 with | .loop _ _ len => some (p.2, p.2 + len) | _ => none)

/-- The bodies that contain an instruction. -/
def bodiesOf (bs : List (Nat × Nat)) (i : Nat) : List (Nat × Nat) := bs.filter (fun b => b.1 < i && i ≤ b.2)

/-- The target of a BR (R350). -/
def brTarget (pc off : Nat) : Int := (pc : Int) + sint 16 off

/-- The first LOOP whose body runs past the program or overlaps another without nesting (R352). A LOOP that is the last instruction of another
body overlaps nothing: its own body comes after that one. -/
def badLoop (n : Nat) (bs : List (Nat × Nat)) : Option Nat :=
  (bs.find? (fun b => b.2 ≥ n || bs.any (fun c => c.1 < b.1 && b.1 < c.2 && c.2 < b.2))).map Prod.fst

/-- The first BR whose target R353 refuses. -/
def badBranch (code : List TileInstr) (bs : List (Nat × Nat)) : Option Nat :=
  (code.zipIdx.find? (fun p =>
    match p.1 with
    | .br _ _ _ off =>
      let t := brTarget p.2 off
      !(decide (0 ≤ t) && decide (t < code.length) && decide (bodiesOf bs t.toNat = bodiesOf bs p.2))
    | _ => false)).map Prod.snd

/-- The chain record at an offset of the chain section (R399), or the detail of its refusal. -/
def chainAt (sec : List Byte) (off : Nat) : Chain ⊕ Nat :=
  let hdr := ofLe ((sec.drop off).take 16)
  let count := bits hdr 7 0
  if off % 16 != 0 || off < 128 || off + 16 + 16 * count > sec.length then .inr 0xFF
  else readChain hdr ((List.range count).map (fun i => ofLe ((sec.drop (off + 16 + 16 * i)).take 16)))

/-- The chain directory of an image (R399): the chains present, or the first refusal with its chain number. -/
def readChains (sec : List Byte) : Nat → Nat → List (Nat × Chain) → List (Nat × Chain) ⊕ (Nat × Nat)
  | 0, _, acc => .inl acc.reverse
  | f + 1, n, acc =>
    let off := ofLe ((sec.drop (2 * (n - 1))).take 2)
    if off == 0 then readChains sec f (n + 1) acc
    else match chainAt sec off with
      | .inl c => readChains sec f (n + 1) ((n, c) :: acc)
      | .inr d => .inr (n, d)

/-- The chain an instruction names, with whether it must be a prologue (R362). -/
def tileChainUse (i : TileInstr) : Option (Nat × Bool) :=
  match i with
  | .load f => if f.chn == 0 then none else some (f.chn, true)
  | .gather f => if f.chn == 0 then none else some (f.chn, true)
  | .drain chn _ _ _ => if chn == 0 then none else some (chn, false)
  | .ewiseChain _ _ chn _ => some (chn, false)
  | _ => none

/-- The first chain number that an instruction names and that is absent or of the wrong kind (check 6 of R400). -/
def badChainUse (code : List TileInstr) (chains : List (Nat × Chain)) : Option Nat :=
  code.findSome? (fun i =>
    match tileChainUse i with
    | none => none
    | some (n, pro) =>
      match lookupK n chains with
      | some c => if c.prologue == pro then none else some n
      | none => some n)

/-- The image's bytes checked by checks 2a to 10 of R400 and turned into a program with the given handle. -/
def readImage (handle : Nat) (img : List Byte) : Program ⊕ ImgErr :=
  let h := ofLe (img.take 64)
  let nin := bits h 111 96
  let words := (List.range nin).map (fun i => ofLe ((img.drop (64 + 8 * i)).take 8))
  let shelves := bits h 120 112
  let zeroed := img.take 24 ++ List.replicate 4 0#8 ++ img.drop 28
  let instrs := words.map decodeTile
  let code := instrs.filterMap id
  let sec := (img.drop (bits h 159 144)).take (bits h 175 160)
  let bs := loopBodies code
  let entry := bits h 143 128
  if crc32 zeroed != bits h 223 192 then .inr ⟨.field, 0xFF, 0⟩
  else if shelves == 0 || shelves > 256 then .inr ⟨.nofit, 2, 0⟩
  else match instrs.findIdx? Option.isNone with
  | some i => .inr ⟨.encoding, i % 256, i⟩
  | none =>
    if code.any (fun i => (tileShelves i).any (fun x => x ≥ shelves)) then .inr ⟨.nofit, 2, 0⟩
    else match (if bits h 175 160 == 0 then .inl [] else readChains sec 63 1 []) with
    | .inr (n, d) => .inr ⟨.chain, d, n⟩
    | .inl chains =>
      match badChainUse code chains with
      | some n => .inr ⟨.chain, 0xFF, n⟩
      | none =>
        match badLoop code.length bs with
        | some i => .inr ⟨.loop, i % 256, i⟩
        | none =>
          if (List.range code.length).any (fun i => (bodiesOf bs i).length > 8) then .inr ⟨.nofit, 3, 0⟩
          else match badBranch code bs with
          | some i => .inr ⟨.branch, i % 256, i⟩
          | none =>
            if entry ≥ code.length || !(bodiesOf bs entry).isEmpty then .inr ⟨.branch, entry % 256, entry⟩
            else match (code.findIdx? (fun i => match i with | .mma f => f.mode == 2 && !bit h 48 | _ => false)) with
            | some i => .inr ⟨.mode, i % 256, i⟩
            | none => .inl ⟨handle, entry, shelves, bit h 48, bits h 95 64, code, chains⟩

/-! ## Shelf tags and repair words -/

/-- The 128 bits of a shelf tag (R338). -/
def Tag.word (t : Tag) : Nat :=
  at_ 96 t.e1 + at_ 64 t.e0 + at_ 56 t.first + at_ 48 t.link + at_ 45 t.slot + at_ 42 t.role + at_ 41 (b2n t.gw) + at_ 39 t.sb
    + at_ 31 t.fmt + at_ 23 t.uscale + t.count

/-- A shelf tag from its 128 bits (R338). -/
def Tag.ofWord (w : Nat) : Tag :=
  ⟨bits w 127 96, bits w 95 64, bits w 63 56, bits w 55 48, bits w 47 45, bits w 44 42, bit w 41, bits w 40 39, bits w 38 31,
    bits w 30 23, bits w 22 0⟩

/-- The repair word of a dense engine (R145). -/
def Repair.word (r : Repair) : Nat :=
  let used := b2n r.sp0.isSome + b2n r.sp1.isSome
  at_ 31 (b2n (!r.pending.isEmpty)) + at_ 24 used + at_ 23 (b2n r.sp1.isSome) + at_ 16 (r.sp1.getD 0) + at_ 15 (b2n r.sp0.isSome)
    + at_ 8 (r.sp0.getD 0) + at_ 2 (b2n r.fenced) + at_ 1 (b2n (used != 0)) + b2n r.exhausted

end Sys2Proof.Machine
end

