-- ==== Sys2Proof/Machine/Ops.lean ====
section
/-! DEFINITION. Named operations over the state: units and tables, ledger counts, memory and translation, events, interrupts,
replies, packets. -/
namespace Sys2Proof.Machine

/-- What a meaning answers. -/
abbrev Out := Host.Outcome State Fault Refusal

/-! ## Units and tables -/

/-- The core with a number; a fresh one past the end. -/
def State.core (s : State) (c : Nat) : Core := (s.cores[c]?).getD (.fresh (.ofWord 0) false false)
/-- One core changed. -/
def State.updCore (s : State) (c : Nat) (f : Core → Core) : State := { s with cores := updateAt s.cores c f }
/-- The region with a number. -/
def State.region (s : State) (r : Nat) : Region := (s.regions[r]?).getD (.fresh false)
/-- One region changed. -/
def State.updRegion (s : State) (r : Nat) (f : Region → Region) : State := { s with regions := updateAt s.regions r f }
/-- One channel changed. -/
def State.updChannel (s : State) (c : Nat) (f : Channel → Channel) : State := { s with channels := updateAt s.channels c f }
/-- One port changed. -/
def State.updPort (s : State) (p : Nat) (f : Port → Port) : State := { s with ports := updateAt s.ports p f }
/-- The value of a key changed where it is present. -/
def updK {α : Type} (k : Nat) (f : α → α) (l : List (Nat × α)) : List (Nat × α) :=
  l.map (fun p => if p.1 = k then (p.1, f p.2) else p)
/-- One ring changed. -/
def State.updRing (s : State) (n : Nat) (f : Ring → Ring) : State := { s with rings := updK n f s.rings }
/-- One accepted dispatch changed. -/
def State.updDispatch (s : State) (n : Nat) (f : Dispatch → Dispatch) : State := { s with dispatches := updK n f s.dispatches }
/-- One counter of a desk changed. -/
def State.updCounter (s : State) (r k : Nat) (f : Counter → Counter) : State :=
  s.updRegion r (fun g => { g with counters := updK k f g.counters })
/-- A counter of a desk, where it is loaded. -/
def State.counter? (s : State) (r k : Nat) : Option Counter := lookupK k (s.region r).counters
/-- The region of a core number (R19). -/
def regionOf (c : Nat) : Nat := c / 8
/-- An index register; x0 reads 0 (R335). -/
def Core.xr (k : Core) (n : Nat) : W64 := if n = 0 then 0#64 else (k.x[n]?).getD 0#64
/-- An index register written; writes to x0 are ignored (R335). -/
def Core.setX (k : Core) (n : Nat) (v : W64) : Core := if n = 0 then k else { k with x := k.x.set n v }
/-- A field of an inflight instruction's core changed by its index. -/
def Core.updInflight (k : Core) (idx : Nat) (f : Inflight → Inflight) : Core :=
  { k with inflight := k.inflight.map (fun i => if i.idx = idx then f i else i) }
/-- The number of the next unspecified value, and the state in which it has been used (log entry 5). -/
def State.takeFresh (s : State) : Nat × State := (s.fresh, { s with fresh := s.fresh + 1 })
/-- Whether Hokuec serves commands and the desks run (R609, R653). -/
def State.running (s : State) : Bool := s.mode == .running && s.hif.ready
/-- Whether cores and the fabric work: Hokuec may still be in a fatal stop (R653 stops rings only). -/
def State.alive (s : State) : Bool := match s.mode with | .running => s.hif.ready | .fatal _ => s.hif.ready | _ => false
/-- The device's part code (R513). -/
def State.partCode (s : State) : Nat := if s.fuses.part0961 then 0x0961 else 0x1281
/-- A region in service (R650). -/
def State.inService (s : State) (r : Nat) : Bool := r < s.regions.length && (s.region r).isolated.isNone
/-- Channels in service, by number (R457: those that hold frames). -/
def State.serviceChannels (s : State) : List Nat :=
  s.channels.zipIdx.filterMap (fun p => if p.1.state == 1 then some p.2 else none)

/-! ## Ledger counts -/

/-- A byte interface counted (R668). -/
def State.count (s : State) (slot n : Nat) : State :=
  { s with ledger := { s.ledger with now := { s.ledger.now with bytes := updateAt s.ledger.now.bytes slot (· + n) } } }
/-- Products counted in a class under a format code (R666). -/
def State.countMac (s : State) (cls fmt n : Nat) : State :=
  let k := cls * 16 + fmt
  { s with ledger := { s.ledger with now := { s.ledger.now with
      mac := if n = 0 then s.ledger.now.mac else insertK k (lookupD 0 k s.ledger.now.mac + n) s.ledger.now.mac } } }
/-- The bytes of the 128 B lines that a run of addresses touches (R468, R668). -/
def lineBytes (a n : Nat) : Nat := if n = 0 then 0 else ((a + n - 1) / 128 - a / 128 + 1) * 128

/-! ## Local memory -/

/-- Pieces of a run of addresses that stay in one block of `b` bytes, with fuel. -/
def pieces (b : Nat) : Nat → Nat → Nat → List (Nat × Nat)
  | 0, _, _ => []
  | f + 1, a, n =>
    if n = 0 then []
    else
      let k := min n (b - a % b)
      (a, k) :: pieces b f (a + k) (n - k)

/-- The pieces of a run of virtual addresses in 64 KiB pages (R477). -/
def pagePieces (a n : Nat) : List (Nat × Nat) := pieces 65536 (n / 65536 + 2) a n

/-- The leaf entry of a virtual address (R478). -/
def State.page? (s : State) (va : Nat) : Option Page := lookupK (va / 65536) s.pages

/-- How an access ends before it moves data: it may proceed, it meets a translation fault (cause of R502, address), or it meets an
instruction fault (R494). -/
inductive Access where
  | ok
  | stop (cause va : Nat)
  | fault (st : St) (va : Nat)
  deriving DecidableEq, Repr

/-- The first result of a list that is not `ok`. -/
def Access.first : List Access → Access
  | [] => .ok
  | .ok :: r => Access.first r
  | a :: _ => a

/-- The local memory lines of a run of virtual addresses in one page, by line number (R467). -/
def Page.lines (p : Page) (a n : Nat) : List Nat :=
  let lo := (p.at_ * 65536 + a % 65536) / 128
  let hi := (p.at_ * 65536 + a % 65536 + n - 1) / 128
  if n = 0 then [] else (List.range (hi + 1 - lo)).map (· + lo)

/-- Translation of a read of one page (R482, R494). -/
def State.readPage (s : State) (a : Nat) : Access :=
  match s.page? a with
  | none => .fault .unmapped a
  | some p => if p.host && !p.resident then .stop 1 a else .ok

/-- Translation of a write of one page (R482, R486, R488, R494). -/
def State.writePage (s : State) (atomic : Bool) (a : Nat) : Access :=
  match s.page? a with
  | none => .fault .unmapped a
  | some p =>
    if !p.write || (p.host && atomic) then .fault .access a
    else if p.host && !p.resident then .stop 1 a
    else if p.moving.isSome then .stop 2 a else .ok

/-- Whether a read of a part of a page meets poison (R470). -/
def State.poisonRead (s : State) (a n : Nat) : Access :=
  match s.page? a with
  | none => .ok
  | some p =>
    if p.host then .ok
    else match (p.lines a n).find? (fun l => s.poison.contains l) with
      | some l => .fault .poison (a - a % 65536 + (l * 128 - p.at_ * 65536))
      | none => .ok

/-- Whether a write of a part of a page meets a poisoned line that it does not cover whole (R470). -/
def State.poisonWrite (s : State) (a n : Nat) : Access :=
  match s.page? a with
  | none => .ok
  | some p =>
    if p.host then .ok
    else
      let lo := p.at_ * 65536 + a % 65536
      match (p.lines a n).find? (fun l => s.poison.contains l && !(lo ≤ l * 128 && l * 128 + 128 ≤ lo + n)) with
      | some l => .fault .poison (a - a % 65536 + (l * 128 - p.at_ * 65536))
      | none => .ok

/-- What stands in the way of a read of a run of virtual addresses: every page translates first, then the lines (R497). -/
def State.checkRead (s : State) (a n : Nat) : Access :=
  let ps := pagePieces a n
  match Access.first (ps.map (fun p => s.readPage p.1)) with
  | .ok => Access.first (ps.map (fun p => s.poisonRead p.1 p.2))
  | e => e

/-- What stands in the way of a write. -/
def State.checkWrite (s : State) (atomic : Bool) (a n : Nat) : Access :=
  let ps := pagePieces a n
  match Access.first (ps.map (fun p => s.writePage atomic p.1)) with
  | .ok => Access.first (ps.map (fun p => s.poisonWrite p.1 p.2))
  | e => e

/-- The bytes of a run of virtual addresses in one page. -/
def State.pageBytes (s : State) (a n : Nat) : List Byte :=
  match s.page? a with
  | none => List.replicate n 0#8
  | some p =>
    let at_ := p.at_ * 65536 + a % 65536
    if p.host then s.hostMem.readBytes at_ n else s.dram.readBytes at_ n

/-- The bytes of a run of virtual addresses, once translated. -/
def State.bytesAt (s : State) (a n : Nat) : List Byte := (pagePieces a n).flatMap (fun p => s.pageBytes p.1 p.2)

/-! ### Translation caches (R480) -/

/-- Entries of a region's translation cache, and of an I/O die's shared one (R480). -/
def leafCacheSize : Nat := 512
/-- The same of an I/O die's shared cache. -/
def sharedCacheSize : Nat := 16384

/-- An entry put into a cache of a size: in a full one it takes a place that the manual leaves open (log entry 7). -/
def cachePut (size n v : Nat) (l : List Nat) : List Nat :=
  if l.contains v then l else if l.length < size then l ++ [v] else l.set (Config.freeNat n % size) v

/-- The number of a page's leaf: its first 64 KiB page (R477). -/
def Page.leaf (p : Page) (v : Nat) : Nat := if p.big then v / 32 * 32 else v

/-- The table at a level that a walk to a page reads, by the address bits above it (R478). -/
def tableKey (level v : Nat) : Nat × Nat := (level, v / 2 ^ (5 + 9 * (level - 1)))

/-- The lines that a walk to a leaf reads (R478, R480): from the lowest table that the walk cache still has, else from the root. Whether an
entry that was put there is still there is open (log entry 7). -/
def walkLines (l : List (Nat × Nat)) (n v leafLevel : Nat) : Nat :=
  match ([1, 2, 3].filter (fun k => leafLevel < k && l.contains (tableKey k v) && Config.freeBit n k)).head? with
  | some k => k - leafLevel
  | none => 4 - leafLevel

/-- A translation of an address for a unit of a region, or for Hokuec: a leaf found in a cache costs no walk; a walk reads its lines, and its
leaf and tables enter the caches (R478, R480, R665). -/
def State.translate (s : State) (r : Option Nat) (a : Nat) : State :=
  let v := a / 65536
  match lookupK v s.pages with
  | none => s
  | some p =>
    let leaf := p.leaf v
    let die := Config.leafDie leaf % 2
    let level := b2n p.big
    let own := match r with | some g => lookupD [] g s.caches.leaves | none => []
    let shared := lookupD [] die s.caches.shared
    let walks := lookupD [] die s.caches.walks
    let (n, s1) := s.takeFresh
    let hit := own.contains leaf || shared.contains leaf
    let tables := [1, 2, 3].filterMap (fun k => if level < k && !walks.contains (tableKey k v) then some (tableKey k v) else none)
    let c : Caches :=
      { leaves := match r with | some g => insertK g (cachePut leafCacheSize n leaf own) s.caches.leaves | none => s.caches.leaves
        shared := if own.contains leaf then s.caches.shared else insertK die (cachePut sharedCacheSize (n + 1) leaf shared) s.caches.shared
        walks := if hit then s.caches.walks else insertK die (walks ++ tables) s.caches.walks }
    ({ s1 with fresh := s1.fresh + 1, caches := c } : State).count 0 (if hit then 0 else 128 * walkLines walks n v level)

/-- Entries of the page tables changed: no cache keeps the leaves of their pages (R481). -/
def State.forget (s : State) (vs : List Nat) : State :=
  let gone := fun (v : Nat) => vs.contains v || vs.any (fun u => u / 32 * 32 == v)
  let keep := fun (l : List (Nat × List Nat)) => l.map (fun p => (p.1, p.2.filter (fun v => !gone v)))
  { s with caches := { s.caches with leaves := keep s.caches.leaves, shared := keep s.caches.shared } }

/-- The ledger's counts of a read of one piece: memory lines, or PCIe payload (R484, R668). -/
def State.countRead (s : State) (a n : Nat) : State :=
  match s.page? a with
  | none => s
  | some p => if p.host then s.count 2 n else s.count 0 (lineBytes a n)

/-- The counts of a read (R484, R665, R668). -/
def State.touch (s : State) (a n : Nat) (r : Option Nat := none) : State :=
  (pagePieces a n).foldl (fun t p => (t.translate r p.1).countRead p.1 p.2) s

/-- Bytes written in one page: whole lines lose their poison, a partial line is read and merged (R468, R470). -/
def State.writePiece (s : State) (a : Nat) (bs : List Byte) : State :=
  match s.page? a with
  | none => s
  | some p =>
    let at_ := p.at_ * 65536 + a % 65536
    let n := bs.length
    if p.host then { (s.count 3 n) with hostMem := s.hostMem.writeBytes at_ bs }
    else
      let part := b2n (at_ % 128 != 0) + b2n ((at_ + n) % 128 != 0 && at_ / 128 != (at_ + n) / 128)
      let s1 := (s.count 1 (lineBytes at_ n)).count 0 (128 * part)
      { s1 with dram := s.dram.writeBytes at_ bs
                poison := s.poison.filter (fun l => !(at_ ≤ l * 128 && l * 128 + 128 ≤ at_ + n)) }

/-- Bytes written at a virtual address, once translated. -/
def State.writeVA (s : State) (a : Nat) (bs : List Byte) (r : Option Nat := none) : State :=
  (pagePieces a bs.length).foldl (fun t p => (t.translate r p.1).writePiece p.1 ((bs.drop (p.1 - a)).take p.2)) s

/-- Whether a write of these bytes reached a host-backed page (R485). -/
def State.reachesHost (s : State) (us : List Undo) : Bool :=
  us.any (fun u => (pagePieces u.addr u.old.length).any (fun q => match s.page? q.1 with | some p => p.host | none => false))

/-! ## Addresses of commands (R522) -/

/-- A bus address: bit 63 set. -/
def isBus (a : W64) : Bool := a.getLsbD 63
/-- The address bits [51:0]. -/
def addrOf (a : W64) : Nat := a.toNat % 2 ^ 52
/-- Whether bits [62:52] are 0 (R522). -/
def addrLegal (a : W64) : Bool := bits a.toNat 62 52 == 0

/-- A read by Hokuec through an address of R522: the bytes, or why not. -/
def State.sysCheckRead (s : State) (a : W64) (n : Nat) : Access := if isBus a then .ok else s.checkRead (addrOf a) n
/-- The bytes that Hokuec reads. -/
def State.sysBytes (s : State) (a : W64) (n : Nat) : List Byte :=
  if isBus a then s.hostMem.readBytes (addrOf a) n else s.bytesAt (addrOf a) n
/-- The counts of a read by Hokuec. -/
def State.sysTouch (s : State) (a : W64) (n : Nat) : State := if isBus a then s.count 2 n else s.touch (addrOf a) n
/-- The socket number that stands for the device itself where no owner table names one. -/
def localSock : Nat := 4096

/-- Whole bytes as masked bytes. -/
def whole (bs : List Byte) : List (Byte × Byte) := bs.map (fun b => (b, 0xFF#8))

/-- Whether an access waits for a page's move. -/
def Access.moving : Access → Bool
  | .stop c _ => c == 2
  | _ => false

/-- Whether a write of Hokuec's or of the host's window can be made. A page that moves takes it in the frame that the move copies at its end, so
that the write is there for everything that follows it (R488, R519, R525; log entry 175). -/
def State.canWrite (s : State) (a n : Nat) : Bool :=
  let r := s.checkWrite false a n
  r == .ok || r.moving

/-- A write by Hokuec through an address of R522; a write that does not translate is dropped (log entry 12). -/
def State.sysWrite (s : State) (a : W64) (bs : List Byte) : State :=
  if isBus a then { (s.count 3 bs.length) with hostMem := s.hostMem.writeBytes (addrOf a) bs }
  else if s.canWrite (addrOf a) bs.length then s.writeVA (addrOf a) bs else s

/-! ## Interrupts and events -/

/-- A vector raised through the MSI-X table, or marked pending while masked (R512, R528). -/
def State.raise (s : State) (v : Nat) : State :=
  if bit (s.msix.readLe (16 * v + 12) 4) 0 then { s with pba := if s.pba.contains v then s.pba else s.pba ++ [v] }
  else { (s.count 3 4) with raised := s.raised ++ [v] }

/-- The mask bit of a maskable event code (R655). -/
def maskBit : Nat → Option Nat
  | 0x0003 => some 0 | 0x0005 => some 1 | 0x0010 => some 2 | _ => none

/-- The capacity of the device's event queue (R565). -/
def eventQueueSize : Nat := 4096

/-- Whether a core waits until an event of its own that may not be dropped is queued (R565; log entry 183). -/
def State.coreHeld (s : State) (c : Nat) : Bool := s.evq.held.any (fun e => e.core == c)

/-- Whether Hokuec waits for the same: for every such event that names no core. -/
def State.hokuecHeld (s : State) : Bool := s.coreHeld 0xFF

/-- An event raised (R565): suppressed by its mask, queued, merged into the count, or held until there is room. -/
def State.event (s : State) (e : Event) : State :=
  match maskBit e.code with
  | some b =>
    if bit s.settings.eventMask b then s
    else if s.evq.queue.length < eventQueueSize && s.evq.held.isEmpty then { s with evq := { s.evq with queue := s.evq.queue ++ [e] } }
    else { s with evq := { s.evq with merged := s.evq.merged + 1 } }
  | none =>
    if s.evq.queue.length < eventQueueSize && s.evq.held.isEmpty then { s with evq := { s.evq with queue := s.evq.queue ++ [e] } }
    else { s with evq := { s.evq with held := s.evq.held ++ [e] } }

/-- An event without core, dispatch or continuation, its body from bit 128. -/
def State.plainEvent (s : State) (code body : Nat) (st : St := .ok) : State := s.event ⟨code, st, 0, 0xFF, 0, body, none⟩

/-- The 64 bytes of an event entry (R565). -/
def Event.entry (e : Event) (phase : Bool) (seq : W32) : Nat :=
  at_ 511 (b2n phase) + at_ 509 (b2n e.cont.isSome) + at_ 128 (low 381 e.body) + at_ 104 (low 24 e.dispatch) + at_ 96 (low 8 e.core)
    + at_ 72 (low 8 e.detail) + at_ 64 e.st.code + at_ 32 (low 16 e.code) + seq.toNat

/-- The entries of the event ring (R513). -/
def State.evqEntries (s : State) : Nat := 2 ^ bits s.hif.evqSize.toNat 4 0

/-- One 64-byte entry stored at the event ring's tail. -/
def State.evqStore (s : State) (back v : Nat) : State :=
  let a := s.hif.evqBase + BitVec.ofNat 64 (64 * ((s.evq.tail + back) % s.evqEntries))
  s.sysWrite a (leBytes 64 v)

/-- An event written to the event ring: continuation first (R525), then the entry, then the interrupt (R528). -/
def State.writeEvent (s : State) (e : Event) : State :=
  let n := s.evqEntries
  let s1 := match e.cont with
    | none => s
    | some c =>
      let ph := if s.evq.tail + 1 < n then s.evq.phase else !s.evq.phase
      s.evqStore 1 (c % 2 ^ 511 + at_ 511 (b2n ph))
  let s2 := s1.evqStore 0 (e.entry s.evq.phase s.evq.seq)
  let k := 1 + b2n e.cont.isSome
  { s2 with evq := { s2.evq with tail := (s.evq.tail + k) % n, used := s.evq.used + k, seq := s.evq.seq + 1
                                 phase := if s.evq.tail + k < n then s.evq.phase else !s.evq.phase } }.raise 64

/-! ## Replies -/

/-- The kinds of reply (R531). -/
inductive ReplyKind where
  | final | accept
  deriving DecidableEq, Repr

/-- What a reply reports beside the packet's own fields. -/
structure Rep where
  kind : ReplyKind := .final
  st : St := .ok
  detail : Nat := 0
  r0 : Nat := 0
  r1 : Nat := 0
  dispatch : Nat := 0
  flags : Nat := 0
  cont : Option Nat := none
  deriving DecidableEq, Repr

/-- The 32 bytes of a reply entry (R531). -/
def Rep.entry (r : Rep) (phase : Bool) (sqHead opcode tag : Nat) : Nat :=
  at_ 255 (b2n phase) + at_ 252 (if r.kind == .accept then 1 else 0) + at_ 250 (b2n r.cont.isSome) + at_ 232 (low 16 sqHead)
    + at_ 208 (low 24 r.dispatch) + at_ 192 (low 16 r.flags) + at_ 128 (low 64 r.r0) + at_ 64 (low 64 r.r1) + at_ 56 (low 8 r.detail)
    + at_ 48 r.st.code + at_ 32 (low 16 opcode) + low 32 tag

/-- Entries of a ring's completion ring. -/
def Ring.cqEntries (g : Ring) : Nat := 2 ^ g.cqLog
/-- Entries of a ring's submission ring. -/
def Ring.sqEntries (g : Ring) : Nat := 2 ^ g.sqLog

/-- One 32-byte entry stored at a completion ring's tail. -/
def State.cqStore (s : State) (g : Ring) (back v : Nat) : State :=
  s.sysWrite (g.cqBase + BitVec.ofNat 64 (32 * ((g.cqTail + back) % g.cqEntries))) (leBytes 32 v)

/-- Whether an opcode is DISPATCH or CONTRACT, whose FINAL reply has a CONT entry (R532). -/
def dispatchOp (op : Nat) : Bool := op == 0x0402 || op == 0x0403

/-- A reply written to a ring (R524 to R526, R528, R531 to R534). A dispatch that was not accepted gives back its ACCEPT entry too. A ring in ERROR, or a device in a fatal stop, writes none
(R523, R653). -/
def State.replyRing (s : State) (n opcode tag : Nat) (irq : Bool) (r : Rep) : State :=
  match lookupK n s.rings with
  | none => s
  | some g =>
    if g.error || !(s.mode == .running || s.mode == .recovery) then s
    else
      let e := g.cqEntries
      let disp := dispatchOp opcode && r.kind == .final
      let r := if disp && r.cont.isNone then { r with cont := some 0 } else r
      let s1 := match r.cont with
        | none => s
        | some c =>
          let ph := if g.cqTail + 1 < e then g.cqPhase else !g.cqPhase
          s.cqStore g 1 (low 252 c + at_ 252 2 + at_ 255 (b2n ph))
      let s2 := s1.cqStore g 0 (r.entry g.cqPhase g.sqHead opcode tag)
      let k := 1 + b2n r.cont.isSome
      let kept := k + b2n (disp && r.dispatch == 0)
      let unfinal := if r.kind == .final then g.unfinal - 1 else g.unfinal
      let since := g.sinceIrq + 1
      let fire := g.irqCount != 0 && (g.irqCount ≤ since || unfinal == 0 || irq)
      let s3 := s2.updRing n (fun q => { q with
        cqTail := (g.cqTail + k) % e, cqUsed := g.cqUsed + k, cqPhase := if g.cqTail + k < e then g.cqPhase else !g.cqPhase,
        reserved := g.reserved - kept, unfinal := unfinal, sinceIrq := if fire then 0 else since })
      if fire then s3.raise n else s3

/-- The opcode of a packet (R529). -/
def pktOp (p : Packet) : Nat := bits p.toNat 47 32
/-- The tag of a packet. -/
def pktTag (p : Packet) : Nat := bits p.toNat 31 0
/-- CMD.IRQ. -/
def pktIrq (p : Packet) : Bool := p.getLsbD 50
/-- CMD.FENCE. -/
def pktFence (p : Packet) : Bool := p.getLsbD 48
/-- A parameter word. -/
def pktP (p : Packet) (i : Nat) : W64 := BitVec.ofNat 64 (p.toNat >>> (64 * (i + 1)))

/-- The 32 bytes of a reply in a sideband response message; no ring gives its phase bit and head index, which stay open (R619; log
entry 6). -/
def Rep.sideEntry (r : Rep) (p : Packet) : List Byte :=
  leBytes 32 (r.entry (Config.freeBit 0 0) (Config.openDetail 1) (pktOp p) (pktTag p))

/-- The FINAL reply to a packet, on its ring or in a response message of its sideband (R531, R619, R676). -/
def State.answer (s : State) (src : Src) (p : Packet) (r : Rep) : State :=
  match src with
  | .ring n => s.replyRing n (pktOp p) (pktTag p) (pktIrq p) r
  | .sideband _ => { s with sideOut := s.sideOut ++ [r.sideEntry p] }
  | .ledgerBand _ => { s with ledgerOut := s.ledgerOut ++ [r.sideEntry p] }

/-- A reply with a status and a detail. -/
def State.refuse (s : State) (src : Src) (p : Packet) (st : St) (detail : Nat := 0) (r1 : Nat := 0) : State :=
  s.answer src p { st := st, detail := detail, r1 := r1 }

/-- A reply with ST_OK and results. -/
def State.done (s : State) (src : Src) (p : Packet) (r0 : Nat := 0) (r1 : Nat := 0) (detail : Nat := 0) : State :=
  s.answer src p { r0 := r0, r1 := r1, detail := detail }

/-! ## Packets -/

/-- The opcodes of the opcode reference. -/
def listedOp (op : Nat) : Bool :=
  [0x0100, 0x0101, 0x0102, 0x0103, 0x0104, 0x0105, 0x0106, 0x0108, 0x0109, 0x0110, 0x0111, 0x0112, 0x0120, 0x0200, 0x0201, 0x0203,
   0x0204, 0x0205, 0x0206, 0x0207, 0x0208, 0x0300, 0x0301, 0x0302, 0x0303, 0x0304, 0x0305, 0x0306, 0x0307, 0x0400, 0x0401, 0x0402,
   0x0403, 0x0404, 0x0406, 0x0500, 0x0501, 0x0502, 0x0503, 0x0600, 0x0601, 0x0602, 0x0603, 0x0604, 0x0605, 0x0606, 0x0607, 0x0608,
   0x0609, 0x060A, 0x060B, 0x0700, 0x0701, 0x0702, 0x7F00, 0x7F01].contains op

/-- The commands that may appear inside a transaction, with the two that end it (R568). -/
def txnOp (op : Nat) : Bool :=
  [0x0100, 0x0101, 0x0104, 0x0105, 0x0108, 0x0109, 0x0111, 0x0112, 0x0120, 0x0303, 0x0306, 0x0500, 0x0600].contains op

/-- The commands that recovery serves (R625). -/
def recoveryOp (op : Nat) : Bool := [0x0100, 0x0101, 0x0609, 0x060A, 0x060B].contains op
/-- The commands of the management sideband (R620). -/
def sidebandOp (op : Nat) : Bool := [0x0101, 0x060B, 0x0600].contains op
/-- The commands of the ledger sideband (R676). -/
def ledgerOp (op : Nat) : Bool := [0x0700, 0x0701, 0x0702].contains op

/-- All 64 bits. -/
def mAll : Nat := 2 ^ 64 - 1
/-- The bits of an address (R522). -/
def mAddr : Nat := 2 ^ 63 + 2 ^ 52 - 1
/-- The low `n` bits. -/
def mLow (n : Nat) : Nat := 2 ^ n - 1

/-- The bits of each parameter word that an opcode's row names; a parameter not named is 0. -/
def paramMask : Nat → List Nat
  | 0x0102 => [mLow 6, mAddr, mAddr, 0xFF1F1F]
  | 0x0103 => [mLow 6]
  | 0x0104 => [mLow 16, mAll]
  | 0x0105 => [mLow 16]
  | 0x0108 => [mAll, mAll, mAddr]
  | 0x0109 => [mAll, mAll, mAddr]
  | 0x0120 => [mLow 3]
  | 0x0200 => [mAll, 0x1F0F, mAddr, mAll]
  | 0x0201 => [mLow 32]
  | 0x0203 => [mLow 52, mAll]
  | 0x0204 => [mLow 52, mAll, mAddr]
  | 0x0205 => [mLow 52, mAll]
  | 0x0206 => [mLow 52]
  | 0x0207 => [mAddr, mAddr, mAll]
  | 0x0208 => [mAddr, mAll, mLow 8]
  | 0x0300 => [mAddr, 1]
  | 0x0301 => [mLow 32]
  | 0x0302 => [mLow 52, mAll, 1]
  | 0x0303 => [mLow 32, mAll, mAll, mAddr]
  | 0x0304 => [mLow 32]
  | 0x0305 => [mLow 32]
  | 0x0306 => [mAll, mAddr]
  | 0x0307 => [0x3FFFF, mAddr, mLow 32]
  | 0x0400 => [mAddr]
  | 0x0401 => [mLow 32]
  | 0x0402 => [mAddr, mLow 15, mAll, 0x1FFFFFF01FFFFFF]
  | 0x0403 => [mAddr, mLow 15, mAll, 0x1FFFFFF01FFFFFF]
  | 0x0404 => [mLow 24, 1, mLow 32]
  | 0x0406 => [mLow 24, 1]
  | 0x0500 => [mLow 12]
  | 0x0501 => [mLow 12, mAll]
  | 0x0502 => [mLow 12, mAll]
  | 0x0503 => [mLow 12, mAll]
  | 0x0600 => [mLow 4, mAll, mAddr]
  | 0x0601 => [mAll, mLow 7]
  | 0x0602 => [mAll]
  | 0x0603 => [mAll]
  | 0x0604 => [mAll]
  | 0x0605 => [mAll]
  | 0x0606 => [mAll]
  | 0x0607 => [mLow 3]
  | 0x0608 => [mLow 3]
  | 0x0609 => [1, mAddr, mAll]
  | 0x060A => [1]
  | 0x060B => [mAddr, mAddr]
  | 0x0700 => [mAddr, mAll, mAll]
  | 0x0701 => [mAddr]
  | 0x0702 => [mAddr]
  | 0x7F00 => [mLow 4, mAll, mAll, mAll, mAddr]
  | 0x7F01 => [mLow 4, mAll, mAll, mAll, mAddr]
  | _ => []

/-- The parameter masks of a packet by where it comes from: an ATTEST of the sideband takes P2 to P5 and ignores P0 and P1 (R620), a
ledger command of its sideband ignores P0 (R676). -/
def masksOf (src : Src) (op : Nat) : List Nat :=
  match src with
  | .sideband _ => if op == 0x060B then [mAll, mAll, mAll, mAll, mAll, mAll] else paramMask op
  | .ledgerBand _ => mAll :: (paramMask op).drop 1
  | .ring _ => paramMask op

/-- The first parameter word with a bit set that its row does not name (R530). -/
def badParam (src : Src) (p : Packet) : Option Nat :=
  let ms := masksOf src (pktOp p)
  (List.range 7).find? (fun i => (pktP p i).toNat &&& (mAll ^^^ (ms[i]?).getD 0) != 0)

/-- Whether a reserved bit of the header word is set (R529). -/
def badHeader (p : Packet) : Bool := bits p.toNat 63 51 != 0 || p.getLsbD 49

/-- Completion entries that a packet's replies can take (R526). -/
def replyEntries (op : Nat) : Nat := if dispatchOp op then 3 else 1

/-- Ring reading is paused while management processor 0 restarts or is handed over (R654, R657). -/
def State.ringsPaused (s : State) : Bool :=
  s.fw.failed.contains 0 || (match s.fw.handover with | some (p, _, _) => p == 0 | none => false)

/-- The packet at a ring's head, when Hokuec may read it now: the ring is served, nothing waits or is being carried out at its head
(R536), replies have room (R526), and CMD.FENCE is met. -/
def State.headPacket (s : State) (n : Nat) : Option Packet :=
  if s.ringsPaused || !((s.mode == .running || s.mode == .recovery) && s.hif.ready) then none
  else match lookupK n s.rings with
  | none => none
  | some g =>
    let a := g.sqBase + BitVec.ofNat 64 (64 * g.sqHead)
    if g.error || g.sqHead == g.sqTail || g.waiting.isSome || g.busy.isSome || (n == 0 && !s.hif.running) then none
    else if s.sysCheckRead a 64 != .ok then none
    else
      let p : Packet := BitVec.ofNat 512 (ofLe (s.sysBytes a 64))
      if g.cqUsed + g.reserved + replyEntries (pktOp p) > g.cqEntries then none
      else if pktFence p && g.unfinal != 0 then none else some p

/-- Whether the management endpoint answers: from boot step 2 on, while V1P8 and VAON stand (R620, R706), and not once a junction is at 115 °C
(R711). -/
def State.endpointUp (s : State) : Bool := match s.mode with | .off | .railFault | .hot => false | _ => true

/-- The packet that a source offers; the ledger's sideband works while its island does (R679). -/
def State.offered (s : State) (src : Src) : Option Packet :=
  if s.hokuecHeld then none else
  match src with
  | .ring n => s.headPacket n
  | .sideband p => if s.endpointUp then some p else none
  | .ledgerBand p => if s.ledger.up then some p else none

/-- The packet read from its source: a ring's head moves on and its reply entries are reserved (R520, R526). -/
def State.consume (s : State) (src : Src) (p : Packet) : State :=
  match src with
  | .ring n =>
    match lookupK n s.rings with
    | none => s
    | some g =>
      (s.sysTouch (g.sqBase + BitVec.ofNat 64 (64 * g.sqHead)) 64).updRing n (fun q =>
        { q with sqHead := (g.sqHead + 1) % g.sqEntries, reserved := g.reserved + replyEntries (pktOp p), unfinal := g.unfinal + 1 })
  | _ => s

/-- The ring of a source, if it is one. -/
def srcRing? : Src → Option Nat
  | .ring n => some n
  | _ => none

/-- Why a packet is refused before its own checks: an opcode not listed or not served here (R530, R620, R625, R676), the transaction
gate (R568), reserved bits and parameters (R530). A reserved header bit belongs to no parameter word, so its detail is open (log
entry 6). -/
def State.gate (s : State) (src : Src) (p : Packet) : Option (St × Nat) :=
  let op := pktOp p
  let served := match src with
    | .sideband _ => sidebandOp op
    | .ledgerBand _ => ledgerOp op
    | .ring _ => listedOp op
  if !served then some (.opcode, 0)
  else if s.mode == .recovery && !recoveryOp op && (srcRing? src).isSome then some (.busy, 0)
  else if s.txn.any (fun t => src == .ring t.ring) && !txnOp op then some (.txn, 0)
  else if badHeader p then some (.field, Config.openDetail 0)
  else match badParam src p with
    | some i => some (.field, i)
    | none => none

/-- A command of the opcode reference: the packet that its source offers, when its opcode and the form `sel` are the row's, is read,
put through the gate, and carried out. A packet whose opcode no row has is read by any row and refused (R530; log entry 39). Where the
packet is another row's, nothing happens: the event does not occur (log entry 11). -/
def State.command (s : State) (src : Src) (op : Nat) (sel : Packet → Bool) (body : State → Packet → State) : Out :=
  match s.offered src with
  | none => .next s
  | some p =>
    if pktOp p != op || !sel p then
      if listedOp (pktOp p) then .next s else .next ((s.consume src p).refuse src p .opcode)
    else
      let s1 := s.consume src p
      match s1.gate src p with
      | some (st, d) => .next (s1.refuse src p st d)
      | none => .next (body s1 p)

/-- A packet that its ring carries out until a later event replies to it (R536). -/
def State.hold (s : State) (src : Src) (p : Packet) : State :=
  match src with
  | .ring n => s.updRing n (fun g => { g with busy := some p })
  | _ => s

/-- The reply to the packet that a ring carries out. -/
def State.release (s : State) (n : Nat) (r : Rep) : State :=
  match lookupK n s.rings with
  | some g =>
    match g.busy with
    | some p => (s.updRing n (fun g => { g with busy := none })).replyRing n (pktOp p) (pktTag p) (pktIrq p) r
    | none => s
  | none => s

/-- The rings that carry out a packet with an opcode and a property. -/
def State.ringsBusy (s : State) (op : Nat) (q : Packet → Bool) : List Nat :=
  s.rings.filterMap (fun e => match e.2.busy with | some p => if pktOp p == op && q p then some e.1 else none | none => none)

/-! ## Rollback -/

/-- The owner tables that a transaction writes. -/
def Txn.owners (t : Txn) : List Nat := t.staged.filterMap (fun g => match g with | .owner h _ _ => some h | _ => none)

/-- The open transaction of a ring rolled back (R574): every staged change is discarded, and every standby generation that it touched is a
copy of the active one (R297). -/
def State.rollback (s : State) (ring : Nat) : State :=
  match s.txn with
  | some t =>
    if t.ring == ring then
      { s with txn := none, owners := s.owners.map (fun p => if t.owners.contains p.1 && !p.2.sealed_ then
          (p.1, { p.2 with standby := p.2.active }) else p) }
    else s
  | none => s

end Sys2Proof.Machine
end

