-- ==== Sys2Proof/Machine/Operands.lean ====
section
/-! DEFINITION. Tensor descriptors as operands: their fields, their validation (R248 to R264, R292, R298, R299), the addresses of
elements and rows (R255 to R258), bounds (R271 to R274), owner-table mapping (R292, R293), and the fields of cards (R204 to R208). -/
namespace Sys2Proof.Machine

/-! ## Fields -/

/-- The descriptor that the 1,024 bits of an image describe (R249). -/
def Desc.ofImage (w : Nat) : Desc :=
  { handle := 0, alloc := 0, base := bits w 51 0, aux0 := bits w 115 64, aux1 := bits w 179 128, aux2 := bits w 883 832,
    nent := bits w 223 192, owner := bits w 255 224,
    sizes := (List.range 6).map (fun d => bits w (287 + 32 * d) (256 + 32 * d)),
    strides := (List.range 6).map (fun d => sint 48 (bits w (495 + 48 * d) (448 + 48 * d))),
    fmt := bits w 775 768, rank := bits w 778 776, layout := bits w 783 779, sb := bits w 785 784, access := bits w 787 786,
    oob := bits w 788 788, overlap := bit w 789, xpose := bit w 790, scatAcc := bit w 791, kaxis := bits w 792 792,
    append := bit w 793, uscale := bits w 807 800, paysize := bits w 935 896, fore := false }

/-- Whether a reserved bit of an image is set (R249). -/
def descReserved (w : Nat) : Bool :=
  bits w 63 52 != 0 || bits w 127 116 != 0 || bits w 191 180 != 0 || bits w 767 736 != 0 || bits w 799 794 != 0
    || bits w 831 808 != 0 || bits w 895 884 != 0 || bits w 959 936 != 0

/-- The descriptor that a forerunner layout stands for (R298, R299): strides are kept as byte strides over 2 or 4 B elements. -/
def Desc.ofForerunner (w : Nat) : Desc :=
  let b : Nat := if bit w 49 then 4 else 2
  let batch := bits w 159 144
  { handle := 0, alloc := 0, base := bits w 47 0, aux0 := 0, aux1 := 0, aux2 := 0, nent := 0, owner := 0,
    sizes := [bits w 87 64, bits w 111 88, if batch = 0 then 1 else batch, 0, 0, 0],
    strides := [1, (bits w 143 112 : Int) / b, sint 48 (bits w 207 160) / b, 0, 0, 0],
    fmt := if bit w 49 then 0x0A else 0x08, rank := 3, layout := 0, sb := 0, access := if bit w 48 then 2 else 1, oob := 0,
    overlap := false, xpose := false, scatAcc := false, kaxis := 0, append := false, uscale := 0, paysize := 0, fore := true }

/-- The size of a dimension. -/
def Desc.size (d : Desc) (i : Nat) : Nat := (d.sizes[i]?).getD 0
/-- The stride of a dimension, in stride units. -/
def Desc.stride (d : Desc) (i : Nat) : Int := (d.strides[i]?).getD 0

/-- The stride unit in bytes (R255). -/
def Desc.unit (d : Desc) : Nat := if d.sb != 0 || widthOf d.fmt == 4 || widthOf d.fmt == 6 then 64 else widthOf d.fmt / 8
/-- The byte stride of a dimension (R255). -/
def Desc.bstride (d : Desc) (i : Nat) : Int := d.stride i * d.unit
/-- Whether the scales are interleaved. -/
def Desc.inter (d : Desc) : Bool := d.sb == 1
/-- The scale of an element of a tensor without interleaved scales (R251). -/
def Desc.us (d : Desc) : Nat := if d.sb == 2 then d.uscale else 127
/-- The row length L0 in bytes (R257). -/
def Desc.rowLen (d : Desc) : Nat :=
  if d.stride 0 == 0 then widthOf d.fmt / 8 else rowBytes d.fmt (d.size 0) d.inter
/-- An empty tensor (R268). -/
def Desc.empty (d : Desc) : Bool := (List.range d.rank).any (fun i => d.size i == 0)
/-- Tiles of 128 along dimension 0 (R204). -/
def Desc.t0 (d : Desc) : Nat := ceilDiv (d.size 0) 128
/-- Tiles of 128 along dimension 1 (R204). -/
def Desc.t1 (d : Desc) : Nat := ceilDiv (d.size 1) 128
/-- Grids of tiles: the product of the sizes of dimensions 2 and up (R204). -/
def Desc.grids (d : Desc) : Nat := ((List.range d.rank).drop 2).foldl (fun a i => a * d.size i) 1
/-- Folio tiles in all. -/
def Desc.tiles (d : Desc) : Nat := d.t0 * d.t1 * d.grids
/-- The linear grid index over dimensions 2 and above (R204). -/
def Desc.grid (d : Desc) (coord : List Int) : Nat :=
  ((List.range d.rank).drop 2).reverse.foldl (fun a i => a * d.size i + ((coord[i]?).getD 0).toNat) 0
/-- The block edge of a block-sparse layout. -/
def Desc.edge (d : Desc) : Nat := if d.layout == 6 then 32 else 128
/-- The bytes of one block of a block-sparse tensor (R717). -/
def Desc.blockSize (d : Desc) : Nat := roundUp (d.edge * rowBytes d.fmt d.edge d.inter) 64

/-- A BITMAP payload's size in bytes before padding, for n stored values (R206). -/
def bitmapBytes (fmt : Nat) (inter : Bool) (n : Nat) : Nat := (if inter then 512 else 0) + 2048 + packedBytes fmt n
/-- A COORD payload's size before padding (R206). -/
def coordBytes (fmt : Nat) (inter : Bool) (n : Nat) : Nat := (if inter then 512 else 0) + 2 * n + packedBytes fmt n
/-- A DENSE payload's size (R206). -/
def denseBytes (fmt : Nat) (inter : Bool) : Nat := 128 * rowBytes fmt 128 inter
/-- The slot size Z of a BITMAP tensor (R254). -/
def Desc.bitmapSlot (d : Desc) : Nat := roundUp (bitmapBytes d.fmt d.inter 16384) 64

/-! ## Validation -/

/-- The allocation that contains a virtual address. -/
def State.allocAt (s : State) (a : Nat) : Option Alloc :=
  (s.allocs.find? (fun p => p.2.base ≤ a && a < p.2.base + p.2.pages * 65536)).map Prod.snd

/-- Whether `n` bytes from an address lie within the allocation that contains it. -/
def State.inAlloc (s : State) (a n : Nat) : Bool :=
  match s.allocAt a with
  | some l => a + n ≤ l.base + l.pages * 65536
  | none => false

/-- Whether SIZE0 meets the whole-byte rule of a format (R63): an even count of 4-bit elements, a multiple of 4 of 6-bit ones, unless
scales are interleaved, whose rows are whole blocks. -/
def sizeWhole (fmt n : Nat) (inter : Bool) : Bool :=
  if inter then true else if widthOf fmt == 4 then n % 2 == 0 else if widthOf fmt == 6 then n % 4 == 0 else true

/-- The aliasing test of R263: dimensions of size above 1 by magnitude of stride. -/
def aliasDims (d : Desc) : List (Nat × Nat × Nat) :=
  let l := ((List.range d.rank).drop 1).filterMap (fun i => if d.size i > 1 then some ((d.bstride i).natAbs, i, d.size i) else none)
  l.mergeSort (fun a b => a.1 < b.1 || (a.1 == b.1 && a.2.1 ≤ b.2.1))

/-- The first dimension that the aliasing test refuses. -/
def aliasGo : Nat → List (Nat × Nat × Nat) → Option Nat
  | _, [] => none
  | x, (b, i, n) :: r => if b < x then some i else aliasGo (b * (n - 1) + x) r

/-- The extent of a DENSE tensor over dimensions 0 to i (R260). -/
def Desc.extent (d : Desc) (i : Nat) : Int × Int :=
  ((List.range (i + 1)).drop 1).foldl (fun (e : Int × Int) k =>
    let w := ((d.size k : Int) - 1) * d.bstride k
    (e.1 + min 0 w, e.2 + max 0 w)) ((d.base : Int), (d.base : Int) + d.rowLen - 1)

/-- The first dimension whose extent leaves a window (R260, R292). -/
def Desc.badExtent (d : Desc) (lo hi : Int) : Option Nat :=
  (List.range d.rank).find? (fun i => (d.extent i).1 < lo || (d.extent i).2 ≥ hi)

/-- The array tests of R261: the detail of the first array that leaves its allocation, or the owner table's window where the
descriptor has one (R292; log entry 185). -/
def State.badArray (s : State) (d : Desc) : Option Nat :=
  let bad := fun (a n : Nat) =>
    match lookupK d.owner s.owners with
    | some o => !(o.vbase ≤ a && a + n ≤ o.vbase + o.count * 2097152)
    | none => !s.inAlloc a n
  let val := fun (n : Nat) => bad d.base n
  let two := fun (ptr idx : Nat) => if bad d.aux0 ptr then some 8 else if bad d.aux1 idx then some 9 else none
  match d.layout with
  | 1 =>
    if bad d.base (d.paysize * 64) then some 0xFF
    else if bad d.aux0 (32 * d.tiles) then some 8
    else if d.append && bad d.aux2 8 then some 0xFF else none
  | 2 => if val (packedBytes d.fmt d.nent) then some 0xFF else two (8 * (d.size 1 + 1)) (4 * d.nent)
  | 3 => if val (packedBytes d.fmt d.nent) then some 0xFF else two (8 * (d.size 0 + 1)) (4 * d.nent)
  | 4 => if val (packedBytes d.fmt d.nent) then some 0xFF else two (4 * d.nent) (4 * d.nent)
  | 5 => if val (packedBytes d.fmt d.nent) then some 0xFF else two (4 * d.nent) (4 * d.nent)
  | 6 => if val (d.nent * d.blockSize) then some 0xFF else two (8 * (ceilDiv (d.size 1) 32 + 1)) (4 * d.nent)
  | 7 => if val (d.nent * d.blockSize) then some 0xFF else two (8 * (ceilDiv (d.size 1) 128 + 1)) (4 * d.nent)
  | _ => if bad d.base (d.tiles * d.bitmapSlot) then some 0xFF else none

/-- The detail of a breach of check 5 of R259, none when it holds (R253). -/
def Desc.check5 (d : Desc) : Option Nat :=
  match (List.range 6).find? (fun i => d.rank ≤ i && (d.size i != 0 || d.stride i != 0)) with
  | some i => some i
  | none =>
    let noAux := d.layout == 0 || d.layout == 8
    if d.layout != 0 && (List.range 6).any (fun i => d.stride i != 0) then (List.range 6).find? (fun i => d.stride i != 0)
    else if noAux && d.aux0 != 0 then some 8
    else if (noAux || d.layout == 1) && d.aux1 != 0 then some 9
    else if (noAux || d.layout == 1) && d.nent != 0 then some 10
    else if d.layout != 0 && (d.xpose || d.overlap) then some 0xFF
    else if d.layout != 1 && (d.append || d.kaxis != 0 || d.paysize != 0) then some 0xFF
    else if !(d.layout == 1 && d.append) && d.aux2 != 0 then some 0xFF else none

/-- The detail of a misaligned address or stride of check 10 of R259; a forerunner layout gives its strides in bytes (R299). -/
def Desc.check10 (w : Nat) (d : Desc) : Option Nat :=
  if d.fore then
    if d.base % 64 != 0 then some 0xFF
    else if d.size 1 > 1 && bits w 143 112 % 64 != 0 then some 1
    else if d.size 2 > 1 && bits w 207 160 % 64 != 0 then some 2 else none
  else if d.base % 64 != 0 || d.aux2 % 64 != 0 then some 0xFF
  else if d.aux0 % 64 != 0 then some 8
  else if d.aux1 % 64 != 0 then some 9
  else (List.range d.rank).find? (fun i => i ≥ 1 && d.size i > 1 && (d.bstride i) % 64 != 0)

/-- Whether a format lists a scale layout (R251). -/
def Desc.sbAllowed (d : Desc) : Bool := d.sb == 0 || canScale d.fmt

/-- The layouts whose values take no interleaved scales (R200). -/
def plainValues (layout : Nat) : Bool := 2 ≤ layout && layout ≤ 5

/-- The validation checks of R259 in their order; none when every one passes. -/
def State.validate (s : State) (w : Nat) (d : Desc) : Option Stat :=
  let c1 := firstFail [
    (!d.fore && (descReserved w || d.access == 0 || d.sb == 3 || (d.uscale != 0 && d.sb != 2)), .field, 0xFF),
    (d.fore && (bits w 255 208 != 0 || bits w 63 50 != 0), .field, 0xFF),
    (widthOf d.fmt == 0 || !d.sbAllowed || (d.xpose && d.sb != 0) || (plainValues d.layout && d.sb == 1), .format, 0xFF),
    (d.layout > 8, .layout, 0xFF),
    (d.rank < 1 || d.rank > 6 || (d.layout != 0 && d.rank < 2) || (2 ≤ d.layout && d.layout ≤ 7 && d.rank != 2)
      || (d.xpose && d.rank < 2), .rank, 0xFF)]
  match c1 with
  | some e => some e
  | none =>
    match d.check5 with
    | some i => some ⟨.field, i⟩
    | none =>
      if (d.oob == 1 && d.access != 1) || (d.access == 1 && (d.overlap || d.scatAcc)) then some ⟨.policy, 0xFF⟩
      else
        let full := if s.tensors.length ≥ 1048576 then some (⟨.nofit, 0xFF⟩ : Stat) else none
        if d.empty then full
        else if !sizeWhole d.fmt (d.size 0) d.inter then some ⟨.align, 0⟩
        else if !(d.layout != 0 || d.stride 0 == 1 || (d.stride 0 == 0 && d.access == 1 && d.sb == 0 && widthOf d.fmt ≥ 8)) then
          some ⟨.stride, 0⟩
        else match d.check10 w with
        | some i => some ⟨.align, i⟩
        | none =>
          match (if d.layout == 0 && d.access != 1 && !d.overlap then aliasGo d.rowLen (aliasDims d) else none) with
          | some i => some ⟨.alias_, i⟩
          | none =>
            let bounds := match lookupK d.owner s.owners with
              | some o => if d.layout == 0 then d.badExtent o.vbase (o.vbase + o.count * 2097152 : Nat) else s.badArray d
              | none =>
                if d.owner != 0 then none
                else if d.layout == 0 then
                  match s.allocAt d.base with
                  | some l => d.badExtent l.base (l.base + l.pages * 65536 : Nat)
                  | none => some 0
                else s.badArray d
            match bounds with
            | some i => some ⟨.bounds, i⟩
            | none => if d.owner != 0 && (lookupK d.owner s.owners).isNone then some ⟨.handle, 0xFF⟩ else full

/-! ## Addresses -/

/-- The byte address of the row of a DENSE tensor at coordinates 1 and up (R256). -/
def Desc.rowAddr (d : Desc) (coord : List Int) : Int :=
  ((List.range d.rank).drop 1).foldl (fun a i => a + ((coord[i]?).getD 0) * d.bstride i) (d.base : Int)

/-- A coordinate clamped into its dimension (R274). -/
def clampCoord (n : Nat) (c : Int) : Int := if c < 0 then 0 else if c ≥ n then (n : Int) - 1 else c

/-- Whether a coordinate lies within its dimension (R271 to R273). -/
def inDim (n : Nat) (c : Int) : Bool := decide (0 ≤ c) && decide (c < n)

/-- The readable extent of dimension 0 (R272). -/
def Desc.readable0 (d : Desc) : Nat := if d.inter then roundUp (d.size 0) 32 else d.size 0

/-- The first dimension in 1 and up in which coordinates are out of bounds (R273). -/
def Desc.badOuter (d : Desc) (coord : List Int) : Option Nat :=
  ((List.range d.rank).drop 1).find? (fun i => !inDim (d.size i) ((coord[i]?).getD 0))

/-- Coordinates 1 and up under the descriptor's policy: clamped, or the dimension that faults (R273, R274). -/
def Desc.outer (d : Desc) (coord : List Int) : List Int ⊕ Nat :=
  if d.oob == 1 then .inl (coord.zipIdx.map (fun p => if p.2 == 0 then p.1 else clampCoord (d.size p.2) p.1))
  else match d.badOuter coord with
    | some i => .inr i
    | none => .inl coord

/-- Coordinates from a linear index over extents, coordinate 1 fastest: row q of a box (R356). -/
def unrank : List Nat → Nat → List Nat
  | [], _ => []
  | e :: r, q => (if e = 0 then 0 else q % e) :: unrank r (if e = 0 then 0 else q / e)

/-- A list with its first two elements exchanged (R258). -/
def swap01 {α : Type} : List α → List α
  | a :: b :: r => b :: a :: r
  | l => l

/-! ## Owner tables -/

/-- The owning socket and address of an address in an owner table's window under a generation (R292, R295). -/
def Owner.map (o : Owner) (gen : Nat) (v : Nat) : Option (Nat × Nat) :=
  let b := (v - o.vbase) / 2097152
  let e := if gen == o.gen then lookupD 0 b o.active else lookupD 0 b o.standby
  if bit e 63 then some (bits e 59 48, bits e 30 0 * 2097152 + v % 2097152) else none

/-- The device's own socket number (R584). -/
def State.self? (s : State) : Option Nat := (s.routes.find? (fun r => bit r.2 62)).map Prod.fst

/-- A descriptor by handle: of the store, or the device's own for a dispatch. -/
def State.desc? (s : State) (d : Option Nat) (h : Nat) : Option Desc :=
  match lookupK h s.tensors with
  | some t => some t
  | none => match d with
    | some n => (lookupK n s.dispatches).bind (fun x => lookupK h x.internal)
    | none => none

/-! ## Cards -/

/-- CARD.FORM (R205). -/
def cardForm (c : Nat) : Nat := bits c 255 254
/-- CARD.KAXIS. -/
def cardKaxis (c : Nat) : Nat := bits c 253 253
/-- CARD.NNZ. -/
def cardNnz (c : Nat) : Nat := bits c 251 237
/-- CARD.SMAX. -/
def cardSmax (c : Nat) : Nat := bits c 236 229
/-- CARD.SMIN. -/
def cardSmin (c : Nat) : Nat := bits c 228 221
/-- CARD.LEN. -/
def cardLen (c : Nat) : Nat := bits c 220 210
/-- CARD.OFFSET. -/
def cardOffset (c : Nat) : Nat := bits c 209 170
/-- CARD.KSUM. -/
def cardKsum (c : Nat) : Nat := bits c 127 0

/-- A card from its fields (R205). -/
def mkCard (form kaxis : Nat) (snan : Bool) (nnz smax smin len off ksum : Nat) : Nat :=
  at_ 254 form + at_ 253 kaxis + at_ 252 (b2n snan) + at_ 237 nnz + at_ 229 smax + at_ 221 smin + at_ 210 len + at_ 170 off + ksum

/-- The size in bytes of a form's payload for a count of nonzeros (R206). -/
def formBytes (fmt : Nat) (inter : Bool) (form nnz : Nat) : Nat :=
  match form with
  | 0 => 0
  | 1 => denseBytes fmt inter
  | 2 => bitmapBytes fmt inter nnz
  | _ => coordBytes fmt inter nnz

/-- The card-level checks of R208. -/
def cardCheck (d : Desc) (c : Nat) : Option St :=
  if cardNnz c > 16384 then some .card
  else if cardForm c == 0 && (cardNnz c != 0 || cardOffset c != 0 || cardKsum c != 0) then some .card
  else if cardForm c != 0 && cardNnz c == 0 then some .card
  else if cardKaxis c != d.kaxis then some .card
  else if cardLen c != ceilDiv (formBytes d.fmt d.inter (cardForm c) (cardNnz c)) 64 then some .card
  else if bits c 169 128 != 0 then some .card
  else if cardOffset c + cardLen c > d.paysize then some .bounds
  else none

/-- The address of a folio tile's card (R204). -/
def Desc.cardAddr (d : Desc) (g t1 t0 : Nat) : Nat := d.aux0 + 32 * (g * d.t1 * d.t0 + t1 * d.t0 + t0)

end Sys2Proof.Machine
end

