-- ==== Sys2Proof/Machine/Flags.lean ====
section
/-! DEFINITION. Status words, records and headers as bits: BAR0 (R513), channel, port and counter records (R418, R466, R580), the
resume record (R502), the ACC image header (R380), run descriptors (R231), and the flags of a tile and of a dispatch (R79, R187). -/
namespace Sys2Proof.Machine

/-- HIF.ID (R513). -/
def State.hifId (s : State) : Nat := at_ 48 s.partCode + at_ 32 (low 16 s.fuses.stepping) + 0x0A097E90

/-- HIF.STATUS (R513). -/
def State.hifStatus (s : State) : Nat :=
  at_ 8 (low 8 s.hif.lastSt) + at_ 3 (b2n s.hif.evqOn) + at_ 2 (low 1 s.fw.image) + at_ 1 (b2n s.hif.running) + b2n s.hif.ready

/-- A read of an aligned 8-byte register of BAR0 (R513, R622). -/
def State.bar0 (s : State) (off : Nat) : W64 :=
  if off == 0x000 then BitVec.ofNat 64 s.hifId
  else if off == 0x008 then BitVec.ofNat 64 s.hifStatus
  else if !s.hif.ready then 0
  else if off == 0x010 then BitVec.ofNat 64 (at_ 1 (b2n s.hif.evqEn) + b2n s.hif.aqEn)
  else if off == 0x020 then s.hif.asqBase
  else if off == 0x028 then s.hif.acqBase
  else if off == 0x030 then s.hif.aqSize
  else if off == 0x040 then s.hif.evqBase
  else if off == 0x048 then s.hif.evqSize
  else if off == 0x050 then s.hif.evqHead
  else if off == 0x060 then s.hif.winBase
  else if 0x80000 ≤ off && off < 0x81000 then BitVec.ofNat 64 (s.msix.readLe (off - 0x80000) 8)
  else if 0x81000 ≤ off && off < 0x81010 then
    BitVec.ofNat 64 (sumNat ((List.range 64).map (fun i => at_ i (b2n (s.pba.contains ((off - 0x81000) * 8 + i))))))
  else 0

/-- A channel record (R466). -/
def Channel.word (c : Channel) (no poisoned : Nat) : Nat :=
  at_ 123 no + at_ 120 c.state + at_ 104 (if c.state == 1 || c.state == 2 then c.rate else 0)
    + at_ 94 (if c.state == 0 then 0 else low 10 c.size) + at_ 64 (Nat.min 0xFFFF c.retired) + at_ 32 (Nat.min 0xFFFFFFFF c.ce)
    + at_ 16 (Nat.min 0xFFFF c.ue) + Nat.min 0xFFFF poisoned

/-- A port record (R580). -/
def Port.word (p : Port) (no : Nat) : Nat :=
  at_ 124 no + at_ 121 p.state + at_ 117 p.width + at_ 109 p.laneFail + at_ 97 p.peerSock + at_ 93 p.peerPort
    + at_ 32 (Nat.min 0xFFFFFFFF p.fecCorr) + at_ 16 (Nat.min 0xFFFF p.fecUnc) + Nat.min 0xFFFF p.replays

/-- The code of a counter's state (R418). -/
def CtrState.code : CtrState → Nat
  | .idle => 0 | .active => 1 | .draining => 2 | .cancelling => 3

/-- One past the last tile of a counter's range (R418). -/
def Counter.endTile (k : Counter) : Nat := k.ranges.foldl (fun n r => Nat.max n r.2) 0
/-- The first tile of the range not yet in a chunk (R418). -/
def Counter.next (k : Counter) : Nat := match k.unformed.head? with | some r => r.1 | none => k.endTile
/-- The tiles of a counter's ranges that are not committed, from the lowest: the watermark (R418, R425). The committed list holds
every committed tile of the ranges. -/
def waterGo (done : List Nat) : Nat → Nat → Nat → Nat
  | 0, lo, _ => lo
  | f + 1, lo, hi => if lo < hi && done.contains lo then waterGo done f (lo + 1) hi else lo

/-- The lowest tile of the ranges not yet committed (R418, R425). -/
def Counter.water (k : Counter) : Nat :=
  match k.ranges.findSome? (fun r =>
      let w := waterGo k.committed (k.committed.length + 1) r.1 r.2
      if w < r.2 then some w else none) with
  | some w => w
  | none => k.endTile

/-- A desk counter record (R418). -/
def Counter.word (k : Counter) : Nat :=
  at_ 232 (low 24 k.dispatch) + at_ 230 k.prio + at_ 228 k.state.code + at_ 227 (b2n k.inner) + at_ 226 (b2n k.restart)
    + at_ 213 k.win + at_ 197 (low 16 k.stagger) + at_ 160 (low 32 k.next) + at_ 128 (low 32 k.endTile) + at_ 96 (low 32 k.water)
    + at_ 64 (low 32 k.target) + at_ 32 (low 32 k.returned.length) + Nat.min 0xFFFFFFFF k.superseded

/-- A resume record (R502). -/
def Stop.word (t : Stop) (opcode pc shelf accession gen : Nat) : Nat :=
  at_ 504 opcode + at_ 501 t.cause + at_ 500 (b2n t.index) + at_ 480 (low 16 pc) + at_ 448 (low 8 shelf) + at_ 384 (low 52 t.va)
    + at_ 320 (low 64 t.row) + at_ 256 (low 64 t.done) + at_ 192 (low 64 accession) + at_ 160 (low 32 gen)

/-- The header of an ACC image (R380). -/
def TileRec.header (t : TileRec) : Nat :=
  at_ 96 t.fmtB + at_ 88 t.fmtA + at_ 86 (low 2 t.start) + at_ 84 (low 2 t.mode) + at_ 82 t.flow + at_ 72 (t.n / 64)
    + at_ 64 (t.m / 64) + t.st.word

/-- The header checks 1 to 3 of R380 for a LOAD into ACC; R109 and R127 give the shapes of whole-array tiles. -/
def headerCheck (h : Nat) : Option St :=
  let m := 64 * bits h 71 64
  let n := 64 * bits h 79 72
  let mode := bits h 85 84
  let flow := bits h 83 82
  let fa := bits h 95 88
  let fb := bits h 103 96
  let twin := [128, 256, 384, 512]
  if bits h 511 104 != 0 || bits h 81 80 != 0 || bits h 31 26 != 0 || bits h 87 86 > 1 || mode > 1 || flow > 2
      || !isElemFmt fa || !isElemFmt fb || (mode == 0 && bit h 36) then some .field
  else if !(twin.contains m && (if mode == 0 then twin.contains n else n == 128 || n == 256)) then some .shape
  else if mode == 1 && (flow != 0 || bits h 87 86 != 0) then some .mode
  else if (mode == 1 && !(canScale fa && canScale fb)) || isIntFmt fa != isIntFmt fb then some .format
  else none

/-- The tile record that an image's header describes (R366). -/
def TileRec.ofHeader (h : Nat) : TileRec :=
  let m := 64 * bits h 71 64
  let n := 64 * bits h 79 72
  { start := bits h 87 86, m := m, n := n, flow := bits h 83 82, mode := bits h 85 84, fmtA := bits h 95 88, fmtB := bits h 103 96,
    vm := m, vn := n, skipped := [], audited := [], st := AccSt.ofWord (bits h 63 0) }

/-- The tile record of an image, from its header and its elements (R174, R366; log entry 21). -/
def TileRec.ofImage (h : Nat) (rows : List (List Nat)) : TileRec :=
  let r := TileRec.ofHeader h
  { r with st := r.st.settleMet (rows.map (fun l => if l.all (· == 0) then 0 else 1)) }

/-- Bytes of an element of an ACC image: 8 for a twin image, 16 for an exact image (R380). -/
def accElemBytes (mode : Nat) : Nat := if mode == 1 then 16 else 8
/-- Bytes of an ACC image (R366, R380). -/
def accImageBytes (m n mode : Nat) : Nat := 64 + m * n * accElemBytes mode

/-- A run descriptor (R231). -/
def RunDesc.word (r : RunDesc) : Nat :=
  at_ 192 (low 64 r.addr) + at_ 160 (low 32 r.count) + at_ 128 (low 32 r.tile) + at_ 112 (low 16 r.seq) + at_ 108 (low 4 r.flags)
    + at_ 64 (b2n r.inmem) + low 64 r.job

/-- ACC_OVERFLOW of a run (R230, R231): the first flag listed, bit 108. -/
def runOverflow : Nat := 1
/-- KLIMIT of a run. -/
def runKlimit : Nat := 2

/-- The flags of a run in the places of REPLY.FLAGS (R237, R531, R533). -/
def runReplyFlags (f : Nat) : Nat := (if bit f 0 then 16 else 0) + (if bit f 1 then 64 else 0)

end Sys2Proof.Machine
end

