-- ==== Sys2Proof/Machine/Sequencer.lean ====
section
/-! DEFINITION. The sequencer of a core: fetch, issue, the phase rule, faults at issue and after it (R334 to R345, R395 to R397), and
the control instructions SETX, ADDX, LOOP, BR, FENCE, HALT and DBG (R349 to R353, R389 to R391). -/
namespace Sys2Proof.Machine

/-! ## Fetch -/

/-- The code that a core runs: the device's own tile program, or its dispatch's program (R334, R403). -/
def State.codeOf (s : State) (k : Core) : List TileInstr :=
  if !k.own.isEmpty then k.own
  else match k.dispatch.bind (fun n => lookupK n s.dispatches) with
  | none => []
  | some d => match lookupK d.req.program s.programs with
    | some p => p.code
    | none => []

/-- The program whose image the core runs, for the shelves it may use (R401); none for the device's own program. -/
def State.programOf (s : State) (k : Core) : Option Program :=
  if !k.own.isEmpty then none
  else (k.dispatch.bind (fun n => lookupK n s.dispatches)).bind (fun d => lookupK d.req.program s.programs)

/-- The shelves that a core's program may use (R401); the device's own program uses all of them. -/
def State.shelvesOf (s : State) (k : Core) : Nat := match s.programOf k with | some p => p.shelves | none => 256

/-- The instruction at a core's program counter; past the last instruction the program ends as with HALT (log entry 16). -/
def State.instrAt (s : State) (k : Core) : TileInstr := ((s.codeOf k)[k.pc]?).getD .halt

/-- Whether a core's sequencer can issue: it runs a program, is active, present, in a region in service and not stopped by a fault. -/
def State.ready (s : State) (c : Nat) : Bool :=
  let k := s.core c
  s.alive && s.inService (regionOf c) && k.present && k.power == .active && k.dispatch.isSome && k.stopped.isNone && !s.coreHeld c

/-- Waits that end by trying the issue again: a busy engine, an order rule, room for an event (R344, R345, R565). -/
def Wait.retries : Option Wait → Bool
  | none => true
  | some .engine | some .order | some .event => true
  | _ => false

/-! ## The program counter and the loop stack -/

/-- The program counter and loop stack after instruction `i` of a program, in sequence: the bodies that end there loop back or end
(R351). -/
def advanceFrom (i : Nat) : List LoopLevel → Nat × List LoopLevel
  | [] => (i + 1, [])
  | l :: r =>
    if l.last = i then
      if l.count > 1 then (l.first, { l with count := l.count - 1 } :: r) else advanceFrom i r
    else (i + 1, l :: r)

/-- A core moved past instruction `i`. -/
def Core.advance (k : Core) (i : Nat) : Core :=
  let a := advanceFrom i k.loops
  { k with pc := a.1, loops := a.2 }

/-! ## Faults -/

/-- A fault of an instruction: the sequencer stops, and a FAULT event reports the program counter, the status and the detail word
(R395 to R397, R566). A further fault of another instruction is reported too and leaves the first stop standing. -/
def State.faultAt (s : State) (c pc : Nat) (st : St) (detail word : Nat) : State :=
  let k := s.core c
  let acc := match k.held with | some h => h.accession | none => 0
  (s.event ⟨0x0002, st, detail, c, k.dispatch.getD 0, low 16 pc + at_ 64 (low 64 word) + at_ 128 (low 64 acc), none⟩).updCore c
    (fun q => if q.stopped.isSome then q else { q with stopped := some ⟨pc, st, detail⟩ })

/-! ## Issue -/

/-- What trying to issue an instruction gives: a wait, a fault at issue (status, detail, detail word), the effect with the next
instruction in sequence to follow, or the effect with the program counter set by it. -/
inductive Issue where
  | hold (w : Wait)
  | fail (st : St) (detail word : Nat)
  | go (s : State)
  | jump (s : State)

/-- An issue attempt carried out on the state. -/
def State.carry (s : State) (c : Nat) (r : Issue) : State :=
  let pc := (s.core c).pc
  match r with
  | .hold w => s.updCore c (fun k => { k with wait := some w })
  | .fail st d w => (s.updCore c (fun k => { k with wait := none })).faultAt c pc st d w
  | .go t => t.updCore c (fun k => { k.advance pc with wait := none })
  | .jump t => t.updCore c (fun k => { k with wait := none })

/-- An instruction of a core tried for issue (R342 to R347): the instruction at the program counter, when it is the row's, waits for
its phase or is put through its own rules. Where the sequencer cannot issue that instruction the event does not occur (log
entry 11). -/
def State.tryIssue (s : State) (c : Nat) (row : TileInstr → Bool) (body : State → TileInstr → Issue) : Out :=
  if c ≥ s.cores.length then .fault (.noSuchUnit c)
  else
    let k := s.core c
    let i := s.instrAt k
    if !s.ready c || !Wait.retries k.wait || !row i then .next s
    else match i.phase with
    | some p => if p = k.phase then .next (s.carry c (body s i)) else .next (s.carry c (.hold .phase))
    | none => .next (s.carry c (body s i))

/-- An entry of an issued instruction, with the registers read at issue (R336). -/
def Core.flight (k : Core) (i : TileInstr) (reads writes : List Nat) (cycles : Nat) : Inflight :=
  { idx := k.nextIdx, pc := k.pc, instr := i, x := k.x, gens := [], reads := reads, writes := writes, cycles := cycles, row := 0,
    done := 0, stop := none, rows := [], asked := [], got := [], later := [], trail := false, acks := [], undo := [], rerun := false, redo := false,
    cursor := [], sendRoute := none }

/-- An issued instruction added to those that have not completed. -/
def Core.launch (k : Core) (f : Inflight) : Core :=
  { k with inflight := k.inflight ++ [f], nextIdx := k.nextIdx + 1 }

/-- A register range read at issue; none when it runs past x31 (R355). -/
def Core.regs (k : Core) (first n : Nat) : Option (List W64) :=
  if first + n > 32 then none else some ((List.range n).map (fun j => k.xr (first + j)))

/-! ## Control instructions -/

/-- SETX (R349). -/
def doSetx (c : Nat) (s : State) (i : TileInstr) : Issue :=
  match i with
  | .setx xd imm => .go (s.updCore c (fun k => k.setX xd (BitVec.ofInt 64 (sint 48 imm))))
  | _ => .hold .event

/-- ADDX (R349). -/
def doAddx (c : Nat) (s : State) (i : TileInstr) : Issue :=
  match i with
  | .addx xd xs xt sh imm =>
    .go (s.updCore c (fun k => k.setX xd (k.xr xs + (k.xr xt <<< sh) + BitVec.ofInt 64 (sint 32 imm))))
  | _ => .hold .event

/-- The loop stack where a LOOP is the last instruction of a body: that body ends with what the LOOP runs (R351; log entry 184). -/
def endBehind (pc last : Nat) (l : List LoopLevel) : List LoopLevel := l.map (fun x => if x.last = pc then { x with last := last } else x)

/-- LOOP (R351): a count of 0 skips the body; otherwise a level is pushed. -/
def doLoop (c : Nat) (s : State) (i : TileInstr) : Issue :=
  match i with
  | .loop xc imm len =>
    .jump (s.updCore c (fun k =>
      let n := if xc = 0 then imm else (k.xr xc).toNat
      let q := { k with loops := endBehind k.pc (k.pc + len) k.loops }
      if n = 0 then q.advance (k.pc + len)
      else { q with pc := k.pc + 1, loops := ⟨n, k.pc + 1, k.pc + len⟩ :: q.loops }))
  | _ => .hold .event

/-- The conditions of BR (R350). -/
def brHolds (cond : Nat) (a b : W64) : Bool :=
  match cond with
  | 0 => true
  | 1 => a == b
  | 2 => a != b
  | 3 => a.slt b
  | 4 => !a.slt b
  | 5 => a.ult b
  | _ => !a.ult b

/-- BR (R350). A taken branch goes to its target and does not end the body it stands in (log entry 17). -/
def doBr (c : Nat) (s : State) (i : TileInstr) : Issue :=
  match i with
  | .br xs xt cond off =>
    .jump (s.updCore c (fun k =>
      if brHolds cond (k.xr xs) (k.xr xt) then { k with pc := (brTarget k.pc off).toNat } else k.advance k.pc))
  | _ => .hold .event

/-- FENCE (R389). -/
def doFence (c : Nat) (s : State) (_ : TileInstr) : Issue :=
  if (s.core c).inflight.isEmpty then .go s else .hold .fence

/-- The core returned to its desk (R390, R440): it runs no program and holds no tile. -/
def Core.leave (k : Core) : Core :=
  { k with dispatch := none, held := none, own := [], ownChain := none, wait := none, stopped := none, loops := [], inflight := [], freed := false }

/-- HALT (R390): the core returns to its desk once its issued instructions have completed (log entry 15). -/
def doHalt (c : Nat) (s : State) (_ : TileInstr) : Issue :=
  let k := s.core c
  if k.held.isSome then .fail .held 0 0
  else if !k.inflight.isEmpty then .hold .fence
  else .jump (s.updCore c Core.leave)

/-- DBG (R391): a DEBUG event when the dispatch enables them. -/
def doDbg (c : Nat) (s : State) (i : TileInstr) : Issue :=
  match i with
  | .dbg xs code =>
    let k := s.core c
    let on := match k.dispatch.bind (fun n => lookupK n s.dispatches) with | some d => d.req.debug | none => false
    if on then
      .go (s.event ⟨0x0003, .ok, 0, c, k.dispatch.getD 0, low 16 k.pc + at_ 16 (low 16 code) + at_ 64 (k.xr xs).toNat, none⟩)
    else .go s
  | _ => .hold .event

/-- SETX as a row. -/
def execSetx (core : Nat) (s : State) : Out :=
  s.tryIssue core (fun i => match i with | .setx .. => true | _ => false) (doSetx core)
/-- ADDX as a row. -/
def execAddx (core : Nat) (s : State) : Out :=
  s.tryIssue core (fun i => match i with | .addx .. => true | _ => false) (doAddx core)
/-- LOOP as a row. -/
def execLoop (core : Nat) (s : State) : Out :=
  s.tryIssue core (fun i => match i with | .loop .. => true | _ => false) (doLoop core)
/-- BR as a row. -/
def execBr (core : Nat) (s : State) : Out :=
  s.tryIssue core (fun i => match i with | .br .. => true | _ => false) (doBr core)
/-- FENCE as a row. -/
def execFence (core : Nat) (s : State) : Out :=
  s.tryIssue core (fun i => match i with | .fence => true | _ => false) (doFence core)
/-- HALT as a row. -/
def execHalt (core : Nat) (s : State) : Out :=
  s.tryIssue core (fun i => match i with | .halt => true | _ => false) (doHalt core)
/-- DBG as a row. -/
def execDbg (core : Nat) (s : State) : Out :=
  s.tryIssue core (fun i => match i with | .dbg .. => true | _ => false) (doDbg core)

end Sys2Proof.Machine
end

