-- ==== Sys2Proof/Machine/Carrel.lean ====
section
/-! DEFINITION. Objects in the carrel: tags, spans, the layouts of their roles, reading and writing them (R94, R95, R338 to R340,
R356, R380, R401), and the accumulators as words (R90, R118, R128, R380). -/
namespace Sys2Proof.Machine

/-! ## Roles and sizes -/

/-- TAG.ROLE of DATA. -/
def roleData : Nat := 0
/-- TAG.ROLE of KOUTER. -/
def roleKouter : Nat := 1
/-- TAG.ROLE of KINNER. -/
def roleKinner : Nat := 2
/-- TAG.ROLE of STREAM. -/
def roleStream : Nat := 3
/-- TAG.ROLE of RUNSTREAM. -/
def roleRun : Nat := 4
/-- TAG.ROLE of DIRECTORY. -/
def roleDir : Nat := 5
/-- TAG.ROLE of ACCIMAGE. -/
def roleImage : Nat := 6

/-- Bytes of a shelf (R50). -/
def shelfBytes : Nat := 16384
/-- Positions of a group (R356). -/
def groupW (gw : Bool) : Nat := if gw then 64 else 128
/-- K-steps of a KINNER line (R102, R119), by the object's own format and group width (log entry 19). -/
def sliceDepth (fmt : Nat) (gw : Bool) : Nat := (if widthOf fmt == 4 then 256 else 128) / (if gw then 2 else 1)
/-- Bytes of a KOUTER line (R356). -/
def kouterLine (fmt g : Nat) : Nat := roundUp (packedBytes fmt g) 64
/-- Bytes of one group of a KOUTER object: its lines, and a scale line before each 32 K-steps of a scaled operand (R95, R356). -/
def kouterRun (fmt g e1 : Nat) (inter : Bool) : Nat :=
  e1 * kouterLine fmt g + (if inter then ceilDiv e1 32 * roundUp g 64 else 0)
/-- Byte offset of K-step `k` in a group of a KOUTER object. -/
def kouterAt (fmt g k : Nat) (inter : Bool) : Nat := k * kouterLine fmt g + (if inter then (k / 32 + 1) * roundUp g 64 else 0)
/-- Byte offset of the scale line of block `b` of 32 K-steps in a group of a scaled KOUTER object. -/
def kouterScaleAt (fmt g b : Nat) : Nat := b * (32 * kouterLine fmt g + roundUp g 64)
/-- Bytes of a KINNER line (R356). -/
def kinnerLine (fmt d : Nat) (inter : Bool) : Nat := roundUp (rowBytes fmt d inter) 64
/-- Bytes of a row of a DATA object (R356). -/
def dataLine (fmt e0 : Nat) (inter : Bool) : Nat := roundUp (rowBytes fmt e0 inter) 64
/-- Segments of a STREAM object's table (R356, R718). -/
def segCount (gw : Bool) (e0 e1 : Nat) : Nat := ceilDiv e1 (groupW gw) * ceilDiv e0 128

/-- Whether an object's scales are interleaved. -/
def Tag.inter (t : Tag) : Bool := t.sb == 1
/-- The scale of an element of an object without interleaved scales. -/
def Tag.us (t : Tag) : Nat := if t.sb == 2 then t.uscale else 127
/-- The empty tag. -/
def Tag.none : Tag := ⟨0, 0, 0, 0, 0, 0, false, 0, 0, 0, 0⟩

/-- The bytes an object spans; `mode` is ACCH.MODE of an ACCIMAGE object (R356, R380, R718). -/
def Tag.bytes (t : Tag) (mode : Nat) : Nat :=
  match t.role with
  | 0 => t.e1 * dataLine t.fmt t.e0 t.inter
  | 1 => ceilDiv t.e0 (groupW t.gw) * kouterRun t.fmt (groupW t.gw) t.e1 t.inter
  | 2 => ceilDiv t.e0 (sliceDepth t.fmt t.gw) * t.e1 * kinnerLine t.fmt (sliceDepth t.fmt t.gw) t.inter
  | 3 => roundUp (8 * segCount t.gw t.e0 t.e1) 64 + 8 * t.count
  | 4 => 16 * t.count
  | 5 => 16 * t.count
  | _ => accImageBytes t.e1 t.e0 mode

/-- The shelves that a number of bytes needs, at least the first (R339). -/
def shelvesFor (bytes : Nat) : Nat := Nat.max 1 (ceilDiv bytes shelfBytes)

/-! ## Reading objects -/

/-- The tag of a shelf (R338). -/
def Core.tag (k : Core) (sh : Nat) : Tag := lookupD Tag.none sh k.tags

/-- ACCH.MODE of the image that starts at a shelf (R380). -/
def Core.imageMode (k : Core) (sh : Nat) : Nat := bits (k.carrel.readLe (sh * shelfBytes) 16) 85 84

/-- The shelves that the object at a shelf spans. -/
def Core.span (k : Core) (sh : Nat) (t : Tag) : List Nat :=
  (List.range (shelvesFor (t.bytes (if t.role == roleImage then k.imageMode sh else 0)))).map (· + sh)

/-- The tag of the object at a shelf, or the fault of reading it (R340, R401). -/
def Core.object (k : Core) (limit sh : Nat) : Tag ⊕ St :=
  let t := k.tag sh
  if t.fmt == 0 || t.first != sh then .inr .layout
  else
    let sp := k.span sh t
    if sh + sp.length > limit then .inr .bounds
    else if sp.any (fun x => (k.tag x).fmt == 0 || (k.tag x).first != sh) then .inr .layout
    else .inl t

/-- The bytes of an object, cut out of the carrel and rebased at 0. -/
def Core.objMem (k : Core) (sh : Nat) (t : Tag) : Mem :=
  let lo := sh * shelfBytes
  let hi := lo + (k.span sh t).length * shelfBytes
  (k.carrel.filter (fun c => lo ≤ c.1 && c.1 < hi)).map (fun c => (c.1 - lo, c.2))

/-- A list with an element of its own past its end. -/
def nth {α : Type} (d : α) (l : List α) (i : Nat) : α := (l[i]?).getD d

/-- Columns 0 to n − 1 of a list of rows. -/
def columns {α : Type} (d : α) (n : Nat) (rows : List (List α)) : List (List α) :=
  let a := rows.map List.toArray
  (List.range n).map (fun p => a.map (fun r => (r[p]?).getD d))

/-- The elements of one K-step of a group of a KOUTER object (R94, R95). -/
def kouterStep (m : Mem) (t : Tag) (grp kk : Nat) : List Elem :=
  let g := groupW t.gw
  let base := grp * kouterRun t.fmt g t.e1 t.inter
  let raws := unpackElems t.fmt g (m.readBytes (base + kouterAt t.fmt g kk t.inter) (packedBytes t.fmt g))
  if t.inter then
    (raws.zip (m.readBytes (base + kouterScaleAt t.fmt g (kk / 32)) g)).map (fun p => ⟨p.1, p.2.toNat⟩)
  else raws.map (fun r => ⟨r, t.us⟩)

/-- A row of a KINNER object: K-steps `k0` to `k0 + n − 1` of position `p` (R94, R95, R356). -/
def kinnerRow (m : Mem) (t : Tag) (p k0 n : Nat) : List Elem :=
  let d := sliceDepth t.fmt t.gw
  let ln := kinnerLine t.fmt d t.inter
  let s0 := k0 / d
  let s1 := (k0 + n + d - 1) / d
  let all := (List.range (s1 - s0)).flatMap (fun s =>
    bytesToRow t.fmt t.inter t.us d (m.readBytes (((s0 + s) * t.e1 + p) * ln) (rowBytes t.fmt d t.inter)))
  (all.drop (k0 - s0 * d)).take n

/-- The operand that an object holds for positions 0 to n − 1: for each, the K-steps `k0` to `k0 + len − 1`. Positions at or beyond
`valid` are not read and carry +0 (R112). -/
def Core.operand (k : Core) (sh : Nat) (t : Tag) (n valid k0 len : Nat) : List (List Elem) :=
  let m := k.objMem sh t
  let g := groupW t.gw
  let zero := List.replicate len Elem.zero
  let rows : List (List Elem) :=
    if t.role == roleKouter then
      (List.range (ceilDiv valid g)).flatMap (fun grp =>
        columns Elem.zero g ((List.range len).map (fun j => kouterStep m t grp (k0 + j))))
    else (List.range valid).map (fun p => kinnerRow m t p k0 len)
  rows.take valid ++ List.replicate (n - valid) zero

/-- A row of a DATA object (R356). -/
def dataRow (m : Mem) (t : Tag) (q : Nat) : List Elem :=
  bytesToRow t.fmt t.inter t.us t.e0 (m.readBytes (q * dataLine t.fmt t.e0 t.inter) (rowBytes t.fmt t.e0 t.inter))

/-! ## Writing objects -/

/-- A line padded to whole 64 B lines. -/
def padLine (n : Nat) (b : List Byte) : List Byte := b ++ List.replicate (n - b.length) 0#8

/-- The bytes of a DATA object from its rows (R356). -/
def dataBytes (fmt e0 : Nat) (inter : Bool) (rows : List (List Elem)) : List Byte :=
  rows.flatMap (fun r => padLine (dataLine fmt e0 inter) (rowToBytes fmt inter r))

/-- The bytes of a KOUTER object from its positions, each with its K-steps (R94, R95, R356). -/
def kouterBytes (fmt g e1 : Nat) (inter : Bool) (pos : List (List Elem)) : List Byte :=
  (chunksOf g (pos.length + 1) pos).flatMap (fun grp =>
    let full := grp ++ List.replicate (g - grp.length) (List.replicate e1 Elem.zero)
    (columns Elem.zero e1 full).zipIdx.flatMap (fun p =>
      (if inter && p.2 % 32 == 0 then padLine (roundUp g 64) (p.1.map (fun e => BitVec.ofNat 8 e.scale)) else [])
        ++ padLine (kouterLine fmt g) (packElems fmt (p.1.map Elem.raw))))

/-- The bytes of a KINNER object from its positions, each with its K-steps (R94, R95, R356). -/
def kinnerBytes (fmt d e0 : Nat) (inter : Bool) (pos : List (List Elem)) : List Byte :=
  (List.range (ceilDiv e0 d)).flatMap (fun s =>
    pos.flatMap (fun r =>
      let part := (r.drop (s * d)).take d
      padLine (kinnerLine fmt d inter) (rowToBytes fmt inter (part ++ List.replicate (d - part.length) Elem.zero))))

/-- An object written: its bytes, and its tag on every shelf it spans (R339). -/
def Core.writeObject (k : Core) (sh : Nat) (t : Tag) (bytes : List Byte) : Core :=
  let tag := { t with first := sh }
  { k with carrel := k.carrel.writeBytes (sh * shelfBytes) bytes
           tags := (List.range (shelvesFor bytes.length)).foldl (fun l i => insertK (sh + i) tag l) k.tags
           drained := k.drained.filter (fun p => p.1 != sh) }

/-- Tags taken from a run of shelves (R228, R229; log entry 20). -/
def Core.clearTags (k : Core) (sh n : Nat) : Core := { k with tags := k.tags.filter (fun p => !(sh ≤ p.1 && p.1 < sh + n)) }

/-! ## Accumulators -/

/-- The geometry of an instruction tile in the array: edge of a quarter or the array, first row and column, columns per slot. -/
structure Geo where
  g : Nat
  gc : Nat
  row0 : Nat
  col0 : Nat
  exact_ : Bool
  deriving DecidableEq, Repr

/-- The geometry of a quarter (0 to 3) or the whole array (4) (R90, R115, R118, R128). -/
def geoOf (q : Nat) (exact_ : Bool) : Geo :=
  let g := if q == 4 then 128 else 64
  { g := g, gc := if exact_ then g / 2 else g, row0 := if q == 2 || q == 3 then 64 else 0,
    col0 := if q == 1 || q == 3 then 64 else 0, exact_ := exact_ }

/-- The word address (8 B units) of slot `sl` of cell (r, c). -/
def accWord (r c sl : Nat) : Nat := (r * 128 + c) * 16 + sl

/-- The words of a run of rows of cells, by word address relative to the first row. -/
def accRows (acc : Mem) (row0 n : Nat) : Array Nat :=
  let lo := row0 * 16384
  let bytes := acc.readBytes lo (n * 16384)
  ((chunksOf 8 (n * 2048) bytes).map ofLe).toArray

/-- Element (i, j) of a tile of `n` columns from the words of its rows: a twin word, or the 128 bits of an exact pair (R90, R118,
R128, R380). -/
def accElem (w : Array Nat) (q : Geo) (n i j : Nat) : Nat :=
  let sl := i / q.g * (n / q.gc) + j / q.gc
  let at_ := fun c => (w[accWord (i % q.g) c sl]?).getD 0
  if q.exact_ then at_ (q.col0 + 2 * (j % q.gc)) + 2 ^ 64 * at_ (q.col0 + 2 * (j % q.gc) + 1)
  else at_ (q.col0 + j % q.gc)

/-- The elements of an M × N tile as rows. -/
def Core.accTile (k : Core) (q : Geo) (m n : Nat) : List (List Nat) :=
  let w := accRows k.acc q.row0 q.g
  (List.range m).map (fun i => (List.range n).map (fun j => accElem w q n i j))

/-- Rows of elements put into the accumulators. Slots that the tile does not use keep what they hold. -/
def Core.setAccTile (k : Core) (q : Geo) (n : Nat) (rows : List (List Nat)) : Core :=
  let a := (rows.map List.toArray).toArray
  let elem := fun i j => (((a[i]?).getD #[])[j]?).getD 0
  let per := n / q.gc
  let slots := rows.length / q.g * per
  let words : List (Nat × Nat) := (List.range q.g).flatMap (fun r => (List.range q.g).flatMap (fun c =>
    (List.range slots).map (fun sl =>
      let i := sl / per * q.g + r
      let h := if q.exact_ then c / 2 else c
      let e := elem i (sl % per * q.gc + h)
      (accWord (q.row0 + r) (q.col0 + c) sl, if q.exact_ && c % 2 == 1 then e / 2 ^ 64 else e % 2 ^ 64))))
  { k with acc := k.acc.overlay (words.flatMap (fun p => (leBytes 8 p.2).zipIdx.map (fun b => (p.1 * 8 + b.2, b.1)))) }

/-- Every slot of a quarter or the array set to +0 twins (R122). -/
def Core.clearSlots (k : Core) : Core := { k with acc := [], recs := [] }

end Sys2Proof.Machine
end

