-- ==== Sys2Proof/Machine/Sparse.lean ====
section
/-! DEFINITION. The sparse path as computations on carrel contents: entries of streams (R223), engine choice (R213 to R218), the sparse
engine in tile mode (R219, R224 to R228) and run mode (R224 to R231), and predicted skip (R239 to R244). -/
namespace Sys2Proof.Machine

/-! ## Streams -/

/-- An entry of a stream: position along the row axis, K index, value without its scale as FP32, scale byte (R223). -/
structure SEnt where
  row : Nat
  k : Nat
  v : W32
  scale : Nat
  deriving DecidableEq, Repr

/-- The value of an entry with its block scale, lowered by a rerun's output scale (R65, R167). -/
def SEnt.val (e : SEnt) (lower : Nat) : FV :=
  if e.scale == 255 then .nan else (fv e.v).scale ((e.scale : Int) - 127 - lower)

/-- The 8 B tile-mode entry at a byte offset (R223), for a segment that starts at (row0, k0). -/
def tileEntry (m : Mem) (off row0 k0 : Nat) : SEnt :=
  let w := m.readLe off 8
  ⟨row0 + bits w 13 7, k0 + bits w 6 0, BitVec.ofNat 32 (w / 2 ^ 32), bits w 31 24⟩

/-- The entries of a STREAM object in increasing (g, s, row, K) (R356, R718). -/
def streamEntries (m : Mem) (t : Tag) : List SEnt :=
  let gw := groupW t.gw
  let ns := ceilDiv t.e0 128
  let ng := ceilDiv t.e1 gw
  let base := roundUp (8 * (ng * ns)) 64
  (List.range (ng * ns)).flatMap (fun p =>
    let w := m.readLe (8 * p) 8
    (List.range (w / 2 ^ 32)).map (fun i => tileEntry m (base + 8 * (w % 2 ^ 32 + i)) (p / ns * gw) (p % ns * 128)))

/-- The entries of a RUNSTREAM object (R223). -/
def runEntries (m : Mem) (n : Nat) : List SEnt :=
  (List.range n).map (fun i =>
    let w := m.readLe (16 * i) 16
    ⟨bits w 127 96, bits w 95 64, BitVec.ofNat 32 (bits w 63 32), bits w 31 24⟩)

/-- The word of a tile-mode entry (R223). -/
def SEnt.tileWord (e : SEnt) : Nat := at_ 32 e.v.toNat + at_ 24 e.scale + at_ 7 (e.row % 128) + e.k % 128
/-- The word of a run-mode entry (R223). -/
def SEnt.runWord (e : SEnt) : Nat := at_ 96 (low 32 e.row) + at_ 64 (low 32 e.k) + at_ 32 e.v.toNat + at_ 24 e.scale

/-- The bytes of a STREAM object over extents e0 (K) and e1 (rows), from entries in any order within their segments' order, each put down as
`word` says. -/
def streamBytesBy (word : SEnt → List Byte) (gw : Bool) (e0 e1 : Nat) (es : List SEnt) : List Byte :=
  let g := groupW gw
  let ns := ceilDiv e0 128
  let ng := ceilDiv e1 g
  let segs := (List.range (ng * ns)).map (fun p => es.filter (fun e => e.row / g == p / ns && e.k / 128 == p % ns))
  let table := (segs.foldl (fun (st : List Byte × Nat) sg => (st.1 ++ leBytes 8 (st.2 + at_ 32 sg.length), st.2 + sg.length))
    ([], 0)).1
  padLine (roundUp (8 * (ng * ns)) 64) table
    ++ segs.flatMap (fun sg => sg.flatMap (fun e => word { e with row := e.row % g }))

/-- The bytes of a STREAM object whose entries are all known. -/
def streamBytes (gw : Bool) (e0 e1 : Nat) (es : List SEnt) : List Byte :=
  streamBytesBy (fun e => leBytes 8 e.tileWord) gw e0 e1 es

/-! ## Engine choice -/

/-- The cell rate of a format as 2c (R92). -/
def rate2 (fmt : Nat) : Nat := match widthOf fmt with | 4 => 1 | 16 => 4 | 32 => 16 | _ => 2
/-- The rate of an operand pair as 2c: the slower (R92). -/
def pairRate2 (fa fb : Nat) : Nat := Nat.max (rate2 fa) (rate2 fb)

/-- Whether a slice runs on the sparse engine, from the two cards and the weights in force (R215, R216). -/
def choosesSparse (wd ws fixed fa fb ca cb : Nat) : Bool :=
  let m := popcount 128 (cardKsum ca &&& cardKsum cb)
  let pa := popcount 128 (cardKsum ca)
  let pb := popcount 128 (cardKsum cb)
  let p := if m = 0 then 0 else m * cardNnz ca * cardNnz cb / (pa * pb)
  let cs := if fa == 0x0A || fb == 0x0A then 4 else 1
  ws * ceilDiv (p * cs) 128 + 16 * fixed < wd * ceilDiv (m * pairRate2 fa fb) 2

/-- A card of a bank: entry g × S + s (R359). -/
def Bank.card (b : Bank) (g s : Nat) : Option Nat := if s < b.slices then b.cards[g * b.slices + s]? else none

/-- The choice map formed from the two banks (R218, R360): pairs of cards that meet are those of equal slices. -/
def formChoice (wd ws fixed : Nat) (exact_ : Bool) (a b : Bank) : ChoiceMap :=
  let pairs := (List.range a.slices).map (fun s =>
    ((List.range a.groups).filterMap (fun g => a.card g s), (List.range b.groups).filterMap (fun g => b.card g s)))
  let all := pairs.flatMap (fun p => p.1.flatMap (fun x => p.2.map (fun y => (x, y))))
  let live := all.filter (fun p => cardNnz p.1 > 0 && cardNnz p.2 > 0)
  let hi := live.foldl (fun m p => max m ((cardSmax p.1 + cardSmax p.2 : Nat) : Int)) (-1)
  let lo := live.foldl (fun m p => min m ((cardSmin p.1 + cardSmin p.2 : Nat) : Int)) 511
  let wide := !live.isEmpty && decide (hi - lo > 40)
  let sp := (List.range a.groups).flatMap (fun ga => (List.range b.groups).flatMap (fun gb =>
    (List.range a.slices).filterMap (fun s =>
      match a.card ga s, b.card gb s with
      | some x, some y => if choosesSparse wd ws fixed a.fmt b.fmt x y then some (ga, gb, s) else none
      | _, _ => none)))
  { exact_ := exact_, wide := exact_ && wide, ga := a.groups, gb := b.groups, slices := a.slices,
    sparse := if exact_ && !wide then [] else sp }

/-! ## Predicted skip -/

/-- Whether row `i` of a mask is marked (R239). -/
def maskBitAt (mask : List Byte) (i : Nat) : Bool := bit ((mask[i / 8]?).getD 0#8).toNat (i % 8)

/-- The audit hash of a row coordinate (R242). -/
def auditHash (i : Nat) : Nat := i * 0x9E3779B1 % 2 ^ 32

/-- Whether an unmarked row is audited under exponent `a` (R242). -/
def auditedRow (a i : Nat) : Bool := auditHash i / 2 ^ (32 - a) == 0

/-- The rows of a tile skipped and audited under SPECULATIVE (R241, R242): the mask's bit r is tile row r (log entry 22), the audit
uses the output row coordinate row0 + r. -/
def skipRows (mask : List Byte) (a row0 vm : Nat) : List Nat × List Nat :=
  let un := (List.range vm).filter (fun r => !maskBitAt mask r)
  (un.filter (fun r => !auditedRow a ((row0 + r) % 2 ^ 32)), un.filter (fun r => auditedRow a ((row0 + r) % 2 ^ 32)))

/-! ## The sparse engine in tile mode -/

/-- A sparse sum of an output element. -/
structure SSum where
  row : Nat
  col : Nat
  acc : Twin × Bool
  deriving DecidableEq, Repr

/-- A product entered into the first matching entry of a list, or as a new one at its end (R225). -/
def enterAt (row col : Nat) (p : W32 × Bool) : List SSum → List SSum
  | [] => [⟨row, col, (⟨p.1, f0⟩, p.2)⟩]
  | e :: r => if e.row == row && e.col == col then { e with acc := enter e.acc p } :: r else e :: enterAt row col p r

/-- Products of an A entry with the B entries of its K index, by column (R224, R225). -/
def rowProducts (lower : Nat) (a : SEnt) (bs : List (Nat × FV)) : List (Nat × Nat × (W32 × Bool)) :=
  let av := a.val lower
  bs.map (fun b => (a.row, b.1, product av b.2))

/-- The lane cycles that a sequence of output positions takes (R226): at most 128 products a cycle, an early close before an output
entry that the cycle already holds. -/
def laneGo : List (Nat × Nat) → List (Nat × Nat) → Nat → Nat
  | [], cur, n => if cur.isEmpty then n else n + 1
  | p :: r, cur, n => if cur.length ≥ 128 || cur.contains p then laneGo r [p] (n + 1) else laneGo r (p :: cur) n

/-- A tile-mode slice: its A entries against B by K index. Gives the products in order and the cycles of R227. -/
def tileSlice (lower : Nat) (as : List SEnt) (bOf : Nat → List (Nat × FV)) : List (Nat × Nat × (W32 × Bool)) × Nat :=
  let ps := as.flatMap (fun a => rowProducts lower a (bOf a.k))
  (ps, 16 + Nat.max (ceilDiv as.length 64) (laneGo (ps.map (fun p => (p.1, p.2.1))) [] 0))

/-- The sums of one row: products in increasing K, gathered per column. -/
def sparseRow (row : Nat) (ps : List (Nat × Nat × (W32 × Bool))) : List SSum :=
  ps.foldl (fun l p => enterAt row p.2.1 p.2.2 l) []

/-- The sparse sums of one slot's rows from the slices' products, slices in increasing K (R219, R225). -/
def sparseSums (rows : List Nat) (ps : List (Nat × Nat × (W32 × Bool))) : List SSum :=
  rows.flatMap (fun r => sparseRow r (ps.filter (fun p => p.1 == r)))

/-! ## Run mode -/

/-- The partial-sum buffer's capacity (R228). -/
def bufferSize : Nat := 4096

/-- An entry placed in a buffer kept sorted by (row, column) (R229). -/
def insertRun (e : RunEntry) : List RunEntry → List RunEntry
  | [] => [e]
  | f :: r => if e.row < f.row || (e.row == f.row && e.col < f.col) then e :: f :: r else f :: insertRun e r

/-- One run flushed: its entries and whether an overflow was seen among its updates. -/
structure RunOut where
  entries : List RunEntry
  ovf : Bool
  deriving DecidableEq, Repr

/-- The run-mode engine's buffer: entries, overflowed entries by position, and the runs flushed. -/
structure RunBuf where
  buf : List RunEntry
  bad : List (Nat × Nat)
  out : List RunOut
  deriving DecidableEq, Repr

/-- A run made of some entries of the buffer. -/
def RunBuf.flush (b : RunBuf) (keep : RunEntry → Bool) : RunBuf :=
  let es := b.buf.filter (fun e => !keep e)
  if es.isEmpty then b
  else
    { buf := b.buf.filter keep, bad := b.bad.filter (fun p => !es.any (fun e => e.row == p.1 && e.col == p.2)),
      out := b.out ++ [⟨es, es.any (fun e => b.bad.contains (e.row, e.col))⟩] }

/-- A product taken into the buffer (R225, R229, R230). -/
def RunBuf.put (b : RunBuf) (row col : Nat) (p : W32 × Bool) : RunBuf :=
  if b.buf.any (fun e => e.row == row && e.col == col) then
    let q : Twin := ⟨p.1, f0⟩
    let ovf := p.2 || b.buf.any (fun e => e.row == row && e.col == col && add2Ovf e.v q)
    { b with buf := b.buf.map (fun e => if e.row == row && e.col == col then { e with v := add2 e.v q } else e)
             bad := if ovf then (row, col) :: b.bad else b.bad }
  else
    let b1 := if b.buf.length < bufferSize then b
      else if b.buf.any (fun e => e.row < row) then b.flush (fun e => e.row ≥ row) else b.flush (fun _ => false)
    { b1 with buf := insertRun ⟨row, col, ⟨p.1, f0⟩⟩ b1.buf, bad := if p.2 then (row, col) :: b1.bad else b1.bad }

/-- The runs of a row block: A entries in order against the directory's rows of B (R224 to R229). -/
def runMode (as : List SEnt) (dir : Nat → List SEnt) : List RunOut × Nat :=
  let st := as.foldl (fun (st : RunBuf × Nat) a =>
    (dir a.k).foldl (fun (q : RunBuf × Nat) b => (q.1.put a.row b.k (product (a.val 0) (b.val 0)), q.2 + 1)) st)
    ((⟨[], [], []⟩ : RunBuf), 0)
  ((st.1.flush (fun _ => false)).out, st.2)

/-- The entries of a directory object (R356): row, first entry, length. -/
def directory (m : Mem) (n : Nat) : List (Nat × Nat × Nat) :=
  (List.range n).map (fun i => let w := m.readLe (16 * i) 16; (bits w 31 0, bits w 63 32, bits w 95 64))

/-- The 16 bytes of a run entry (R231). -/
def RunEntry.word (e : RunEntry) : Nat := e.v.word + at_ 64 (low 32 e.col) + at_ 96 (low 32 e.row)
/-- A run entry from its 16 bytes (R231). -/
def RunEntry.ofWord (w : Nat) : RunEntry := ⟨bits w 127 96, bits w 95 64, Twin.ofWord (w % 2 ^ 64)⟩

end Sys2Proof.Machine
end

