-- ==== Sys2Proof/Machine/Array.lean ====
section
/-! DEFINITION. The arithmetic of an MMA, SPMA or tile-mode SPGE on operands read from the carrel: native order, column trees, exact mode
with its fallback, forerunner mode, zero-K-step skipping, durations and ledger counts (R90 to R132, R147 to R186, R193 to R198,
R213 to R221, R666, R667). -/
namespace Sys2Proof.Machine

/-- What one run of an instruction tile works on: geometry, extents, modes, formats, operands by position and K, the K-steps each slot
leaves out (R104), the slices each slot gives to the sparse engine (R219), and their products. -/
structure Job1 where
  q : Geo
  m : Nat
  n : Nat
  k : Nat
  vm : Nat
  vn : Nat
  flow : Nat
  mode : Nat
  fa : Nat
  fb : Nat
  a : List (List Elem)
  b : List (List Elem)
  /-- executed K-steps of slot (gi, gj) in order -/
  steps : List (List Nat)
  /-- columns of slots -/
  per : Nat
  deriving DecidableEq, Repr

/-- What one run leaves: elements by row as words of R380, the status word, an overflow mark, and the products by class. -/
structure Ran where
  rows : List (List Nat)
  st : AccSt
  ovf : Bool
  twin : Nat
  exact_ : Nat
  fore : Nat
  deriving DecidableEq, Repr

/-- The elements of a list at given indices. -/
def pick {α : Type} (d : α) (ix : List Nat) (l : List α) : List α :=
  let a := l.toArray
  ix.map (fun i => (a[i]?).getD d)

/-- The values of an operand with its scales lowered by `lower` (R147, R167). -/
def opVals (fmt lower : Nat) (rows : List (List Elem)) : List (List FV) :=
  rows.map (fun r => r.map (fun e => (e.val fmt).scale (-(lower : Int))))

/-- Rows cut into slots: for slot (gi, gj), its block. -/
def cutBlock {α : Type} (q : Geo) (gi gj : Nat) (rows : List (List α)) : List (List α) :=
  ((rows.drop (gi * q.g)).take q.g).map (fun r => (r.drop (gj * q.gc)).take q.gc)

/-- Blocks of slots in slot order put together as rows. -/
def joinBlocks {α : Type} (per : Nat) (blocks : List (List (List α))) : List (List α) :=
  (chunksOf per (blocks.length + 1) blocks).flatMap (fun bs =>
    match bs with
    | [] => []
    | b :: r => r.foldl (fun acc c => List.zipWith (· ++ ·) acc c) b)

/-- A slot's twins after its executed K-steps in native order (R156). -/
def osSlot (start : List (List (Twin × Bool))) (as bs : List (List FV)) : List (List (Twin × Bool)) :=
  List.zipWith (fun st a => List.zipWith (fun t b => enterAll t a b) st bs) start as

/-- The slots of a job in order: index, row group, column group, executed K-steps. -/
def Job1.slots (j : Job1) : List (Nat × Nat × List Nat) :=
  j.steps.zipIdx.map (fun p => (p.2 / j.per, p.2 % j.per, p.1))

/-- Twins of a slot from K-step list `ks`. -/
def Job1.osRun (j : Job1) (av bv : List (List FV)) (gi gj : Nat) (ks : List Nat) (start : List (List (Twin × Bool))) :
    List (List (Twin × Bool)) :=
  osSlot start (((av.drop (gi * j.q.g)).take j.q.g).map (pick .nan ks)) (((bv.drop (gj * j.q.gc)).take j.q.gc).map (pick .nan ks))

/-- Whether any overflow mark is set. -/
def anyOvf (b : List (List (Twin × Bool))) : Bool := b.any (fun r => r.any Prod.snd)

/-- Twins as words. -/
def twinWords (b : List (List (Twin × Bool))) : List (List Nat) := b.map (fun r => r.map (fun t => t.1.word))

/-- A run in OS in twin mode from start values by row (R99, R156). -/
def Job1.runOs (j : Job1) (lower : Nat) (start : List (List Nat)) (st : AccSt) : Ran :=
  let av := opVals j.fa lower j.a
  let bv := opVals j.fb 0 j.b
  let blocks := j.slots.map (fun (gi, gj, ks) =>
    j.osRun av bv gi gj ks ((cutBlock j.q gi gj start).map (fun r => r.map (fun w => (Twin.ofWord w, false)))))
  { rows := joinBlocks j.per (blocks.map twinWords), st := st.count j.k, ovf := blocks.any anyOvf,
    twin := sumNat (j.steps.map (fun ks => ks.length * j.q.g * j.q.gc)), exact_ := 0, fore := 0 }

/-- Products that the slots of a run form when each executed slot runs its K-steps in full (R244, R666). -/
def Job1.products (j : Job1) : Nat := sumNat (j.steps.map List.length) * j.q.g * j.q.gc

/-- Whether the slot of an element is issued: not when predicted skip leaves out all its rows (R244). -/
def Job1.issued (j : Job1) (r c : Nat) : Bool := !((j.steps[r / j.q.g * j.per + c / j.q.gc]?).getD []).isEmpty

/-- A run in WS or IS (R100, R101, R158 to R160); a slot that is not issued keeps its start values (R244). -/
def Job1.runTree (j : Job1) (lower : Nat) (start : List (List Nat)) (st : AccSt) : Ran :=
  let av := opVals j.fa lower j.a
  let bv := opVals j.fb 0 j.b
  let lev := if j.q.g == 128 then 7 else 6
  let out := List.zipWith (fun sr (a : List FV × Nat) => List.zipWith (fun w (b : List FV × Nat) =>
    if j.issued a.2 b.2 then enterGroups lev j.q.g (Twin.ofWord w, false) a.1 b.1 else (Twin.ofWord w, false)) sr bv.zipIdx) start av.zipIdx
  { rows := twinWords out, st := st.count j.k, ovf := anyOvf out, twin := j.products, exact_ := 0, fore := 0 }

/-! ## Exact mode -/

/-- The exact accumulation: slots' integers, extremes of the combined exponent, whether a pair was met (R174, R175). -/
structure ExSt where
  blocks : List (List (List Int))
  emin : Int
  emax : Int
  met : Bool
  deriving DecidableEq, Repr

/-- Whether an element stops exact accumulation: infinite, NaN, or in a block of scale FFh (R177). -/
def Elem.badExact (fmt : Nat) (e : Elem) : Bool := e.scale == 255 || !(rawVal fmt e.raw).isFin

/-- A finite value as an integer multiple of 2^u, none when it is not finite; the values asked for are such multiples. -/
def FV.units (v : FV) (u : Int) : Option Int :=
  match v with
  | .fin s m e =>
    let n : Int := if u ≤ e then (m * 2 ^ (e - u).toNat : Nat) else (m / 2 ^ (u - e).toNat : Nat)
    some (if s then -n else n)
  | _ => none

/-- The pairs of one K-step of a slot: for each row and column, the product as an integer and the combined exponent, where R147's value
is not zero (R173, R174), A's scales lowered by a rerun (R166). The product is the one of R147, rounded once to FP32, which changes it
only in the subnormal range; one beyond the FP32 range is added as its exact value, since an exact accumulator overflows only when it
collapses (R178; log entry 161). -/
def exactPairs (fa fb lower : Nat) (as bs : List Elem) : List (List (Option (Int × Int))) :=
  as.map (fun a => bs.map (fun b =>
    let x := exactInt fa a.raw
    let y := exactInt fb b.raw
    let e : Int := (a.scale : Int) + b.scale - 254 - lower
    let p := fv (product ((a.val fa).scale (-(lower : Int))) (b.val fb)).1
    if x == 0 || y == 0 || p.isZero then none
    else some ((p.units (exactFloor fa + exactFloor fb + e)).getD (x * y), e)))

/-- One K-step of a slot added exactly, or none when the tile has to fall back before it (R174 to R177). -/
def exactStep (fa fb lower : Nat) (sl : Nat) (as bs : List Elem) (va vb : Nat) (over_ : Bool) (s : ExSt) : Option ExSt :=
  let ps := exactPairs fa fb lower as bs
  let es := ps.flatMap (fun r => r.filterMap (fun p => p.map Prod.snd))
  let bad := (as.take va).any (Elem.badExact fa) || (bs.take vb).any (Elem.badExact fb)
  match es with
  | [] => if bad || over_ then none else some s
  | e :: r =>
    let lo := r.foldl min (if s.met then min s.emin e else e)
    let hi := r.foldl max (if s.met then max s.emax e else e)
    if bad || over_ || hi - lo > 40 then none
    else
      let shift : Int := if s.met then 2 ^ (s.emin - lo).toNat else 1
      let blocks := if s.met then s.blocks.map (fun b => b.map (fun r => r.map (· * shift))) else s.blocks
      some { blocks := updateAt blocks sl (fun b => List.zipWith (fun row pr => List.zipWith (fun (x : Int) p =>
                match p with | some (v, c) => x + v * 2 ^ (c - lo).toNat | none => x) row pr) b ps)
             emin := lo, emax := hi, met := true }

/-- The K-steps of a slot added exactly up to the first that forces the fallback: the state, the K-steps done, and those left. -/
def exactGo (fa fb lower sl va vb base kmax : Nat) (a b : Array (Array Elem)) (ar : List Nat) (br : List Nat) :
    List Nat → Nat → ExSt → ExSt × Nat × List Nat
  | [], n, s => (s, n, [])
  | k :: r, n, s =>
    let col := fun (m : Array (Array Elem)) (ix : List Nat) => ix.map (fun i => ((((m[i]?).getD #[])[k]?).getD Elem.zero))
    match exactStep fa fb lower sl (col a ar) (col b br) va vb (base + k + 1 > kmax) s with
    | some t => exactGo fa fb lower sl va vb base kmax a b ar br r (n + 1) t
    | none => (s, n, k :: r)

/-- The slots in order, until one forces the fallback: the state, K-steps added exactly in all, and the slot with the K-steps left. -/
def Job1.exactSlots (j : Job1) (lower base : Nat) (a b : Array (Array Elem)) :
    List ((Nat × Nat × List Nat) × Nat) → ExSt → Nat → ExSt × Nat × Option (Nat × List Nat)
  | [], s, n => (s, n, none)
  | ((gi, gj, ks), i) :: r, s, n =>
    let ar := (List.range j.q.g).map (· + gi * j.q.g)
    let br := (List.range j.q.gc).map (· + gj * j.q.gc)
    match exactGo j.fa j.fb lower i (j.vm - gi * j.q.g) (j.vn - gj * j.q.gc) base (exactKmax j.fa j.fb) a b ar br ks 0 s with
    | (t, d, []) => Job1.exactSlots j lower base a b r t (n + d)
    | (t, d, left) => (t, n + d, some (i, left))

/-- A run in exact mode that is still exact (R172 to R177, R179). ACCST.EMIN and ACCST.EMAX keep what they hold at a fallback (log entry
162). -/
def Job1.runExact (j : Job1) (lower : Nat) (start : List (List Nat)) (st : AccSt) : Ran :=
  let toArr := fun (x : List (List Elem)) => (x.map List.toArray).toArray
  let slots := j.slots
  let blocks := slots.map (fun (gi, gj, _) => (cutBlock j.q gi gj start).map (fun r => r.map (sint 128)))
  let (e, n, stop) := j.exactSlots lower st.kcount (toArr j.a) (toArr j.b) slots.zipIdx ⟨blocks, st.emin, st.emax, st.met⟩ 0
  let one := j.q.g * j.q.gc
  let st1 := { st with emin := e.emin, emax := e.emax, met := e.met }
  let over_ := st.kcount + j.k > exactKmax j.fa j.fb
  match (match stop with | none => if over_ then some (slots.length, []) else none | some x => some x) with
  | none =>
    { rows := joinBlocks j.per (e.blocks.map (fun b => b.map (fun r => r.map (ofInt 128)))), st := st1.count j.k, ovf := false,
      twin := 0, exact_ := n * one, fore := 0 }
  | some (i, left) =>
    let w := exactFloor j.fa + exactFloor j.fb + e.emin
    let av := opVals j.fa lower j.a
    let bv := opVals j.fb 0 j.b
    let todo := slots.zipIdx.map (fun p => if p.2 < i then [] else if p.2 == i then left else p.1.2.2)
    let out := List.zipWith (fun (s : Nat × Nat × List Nat) (x : List Nat × List (List Int)) =>
      j.osRun av bv s.1 s.2.1 x.1 (x.2.map (fun r => r.map (fun v => exactFall v w)))) slots (todo.zip e.blocks)
    let st2 := { st1 with exact_ := false, fallback := true }
    { rows := joinBlocks j.per (out.map twinWords), st := st2.count j.k, ovf := out.any anyOvf,
      twin := sumNat (todo.map List.length) * one, exact_ := n * one, fore := 0 }

/-! ## Forerunner mode -/

/-- A forerunner run: each element's P accumulators, packed 32 bits each (R194, R195). -/
def Job1.runFore (j : Job1) (start : List (List Nat)) (st : AccSt) : Ran :=
  let p := forerunnerP j.m
  let av := opVals j.fa 0 j.a
  let bv := opVals j.fb 0 j.b
  let out := List.zipWith (fun sr (a : List FV × Nat) => List.zipWith (fun w (b : List FV × Nat) =>
    let gs := chunksOf 64 (a.1.length + 1) (List.zipWith (fun x y => (product x y).1) a.1 b.1)
    if j.issued a.2 b.2 then foreEnter (((unpackBits 32 p w)).map (BitVec.ofNat 32)) gs
    else ((unpackBits 32 p w).map (BitVec.ofNat 32), false)) sr bv.zipIdx) start av.zipIdx
  let sat := out.any (fun r => r.any Prod.snd)
  { rows := out.map (fun r => r.map (fun x => packBits 32 (x.1.map BitVec.toNat))), st := { st.count j.k with accSat := st.accSat || sat },
    ovf := false, twin := 0, exact_ := 0, fore := j.products }

/-! ## One run -/

/-- One run of the dense part of a tile (R98, R125, R131); without valid rows or columns nothing is issued, and K is counted all the
same, an exact tile falling back where the count passes Kmax (R176, R177, R369). -/
def Job1.run (j : Job1) (lower : Nat) (start : List (List Nat)) (st : AccSt) : Ran :=
  if j.vm == 0 || j.vn == 0 then
    if st.exact_ && st.kcount + j.k > exactKmax j.fa j.fb then { j.runExact lower start st with twin := 0, exact_ := 0 }
    else ⟨start, st.count j.k, false, 0, 0, 0⟩
  else if j.mode == 2 then j.runFore start st
  else if st.exact_ then j.runExact lower start st
  else if j.flow == 0 then j.runOs lower start st
  else j.runTree lower start st

/-- The twins of sparse sums merged into a tile's elements (R219, R228). -/
def mergeSums (sums : List SSum) (r : Ran) : Ran :=
  let rows := r.rows.zipIdx.map (fun p =>
    let mine := sums.filter (fun e => e.row == p.2)
    if mine.isEmpty then (p.1, false)
    else
      let out := p.1.zipIdx.map (fun x =>
        match mine.find? (fun e => e.col == x.2) with
        | none => (x.1, false)
        | some e => let t := node2 (Twin.ofWord x.1, false) e.acc; (t.1.word, t.2))
      (out.map Prod.fst, out.any Prod.snd))
  { r with rows := rows.map Prod.fst, ovf := r.ovf || rows.any Prod.snd }

/-- Weight-load cycles of a stationary operand (R92, R103, R119). -/
def weightLoad (fmt g : Nat) : Nat :=
  let l := match widthOf fmt with | 16 => 256 | 32 => 512 | _ => 128
  if g == 64 then l / 2 else l

/-- The AC cycles of the dense run (R108, R111, R119, R129, R138, R369). -/
def Job1.cycles (j : Job1) (retime : Nat) : Nat :=
  let c2 := pairRate2 j.fa j.fb
  let d := (if c2 == 1 then 256 else 128) / (if j.q.g == 64 then 2 else 1)
  if j.vm == 0 || j.vn == 0 then 0
  else if j.mode == 1 then sumNat (j.steps.map List.length) + 3 + retime
  else if j.flow == 0 then sumNat (j.steps.map (fun ks => ceilDiv (ks.length * c2) 2)) + 3 + retime
  else if j.flow == 1 then
    weightLoad j.fb j.q.g + j.n / j.q.g * ceilDiv j.k d * (j.m * Nat.max c2 2 / 2) + 10 + retime
  else weightLoad j.fa j.q.g + j.m / j.q.g * ceilDiv j.k d * (j.n * Nat.max c2 2 / 2) + 10 + retime

/-- The format code under which a product is counted (R667). -/
def countFmt (fa fb : Nat) : Nat :=
  if rate2 fa > rate2 fb then fa else if rate2 fb > rate2 fa then fb else Nat.min fa fb

end Sys2Proof.Machine
end

