-- ==== Sys2Proof/Machine/Chains.lean ====
section
/-! DEFINITION. Stages of drain chains and prologues as computations (R303 to R318, R324 to R328), side outputs (R188 to R192, R313,
R314, R328), and the drain of a tile into the carrel (R305, R306, R315 to R318). -/
namespace Sys2Proof.Machine

/-! ## Stages on one value -/

/-- A parameter of a stage as FP32. -/
def pf (n : Nat) : W32 := BitVec.ofNat 32 n

/-- −0. -/
def fNegZero : W32 := 0x80000000#32

/-- Whether a < b as values. -/
def fLt (a b : W32) : Bool := !(fv a).isNan && !(fv b).isNan && (fv a).cmp (fv b) == .lt

/-- Maximum of IEEE 754-2019 with −0 below +0 (R307); a NaN operand gives NaN. -/
def fMax (a b : W32) : W32 :=
  if (fv a).isNan || (fv b).isNan then fNan
  else if fLt a b then b else if fLt b a then a else if a == fNegZero then b else a
/-- Minimum of IEEE 754-2019 with −0 below +0 (R307); a NaN operand gives NaN. -/
def fMin (a b : W32) : W32 :=
  if (fv a).isNan || (fv b).isNan then fNan
  else if fLt a b then a else if fLt b a then b else if a == fNegZero then a else b

/-- POLY on the 16 entries of a table (R310). -/
def polyEval (tab : List Nat) (v : W32) : W32 :=
  let used := fun (i : Nat) =>
    let b := pf (bits ((tab[i]?).getD 0) 159 128)
    i == 0 || (!(fv b).isNan && !fLt v b)
  let i := ((List.range 16).filter used).foldl Nat.max 0
  let e := (tab[i]?).getD 0
  let step := fun (p : W32) (c : Nat) => fadd (fmul p v) (pf c)
  step (step (step (pf (bits e 127 96)) (bits e 95 64)) (bits e 63 32)) (bits e 31 0)

/-- GELU in its tanh form (R309). -/
def fgelu (v : W32) : W32 :=
  if v == fNegInf then fNegZero
  else
    let t2 := fmul (fmul v v) v
    let t4 := fadd v (fmul 0x3D372713#32 t2)
    let t6 := ftanh (fmul 0x3F4C422A#32 t4)
    fmul (fmul fHalf v) (fadd f1 t6)

/-- The activation functions (R309). -/
def activate (op : Nat) (p0 : W32) (tab : List Nat) (v : W32) : W32 :=
  if (fv v).isNan then fNan
  else match op with
  | 0 => if fLt f0 v then v else f0
  | 1 => if fLt v f0 then fmul p0 v else v
  | 2 => fgelu v
  | 3 => if v == fNegInf then fNegZero else fmul v (fsigmoid v)
  | 4 => fsigmoid v
  | 5 => fexp v
  | _ => polyEval tab v

/-- A stage of classes 1 to 5 on one value; `w` is its vector or preload operand (R307, R309). -/
def stageVal (g : Stage) (tab : List Nat) (w v : W32) : W32 :=
  match g.cls with
  | 1 => if g.op == 0 then v else if g.op == 1 then fmul v (pf g.p0) else fmul v w
  | 2 => fadd v w
  | 3 => activate g.op (pf g.p0) tab v
  | 4 => fMin (fMax v (pf g.p0)) (pf g.p1)
  | 5 => if g.op ≤ 1 then fmul v w else fadd v w
  | _ => v

/-- The axis of a stage's vector operand: 1 along N, 2 along M, 3 a residual tile, 0 none (R303). -/
def Stage.axis (g : Stage) : Nat :=
  if g.cls == 1 then (if g.op == 2 then 1 else if g.op == 3 then 2 else 0)
  else if g.cls == 2 then (if g.op == 0 then 1 else if g.op == 1 then 2 else 3)
  else if g.cls == 5 && g.op ≤ 3 then (if g.op % 2 == 0 then 1 else 2) else 0

/-! ## Reductions -/

/-- The LSE pair (m, s) of a list of candidates (R313). -/
def lseOf (l : List Cand) : W32 × W32 :=
  let m := (maxOf l).v
  if l.isEmpty then (fNegInf, f0) else (m, sumOf (l.map (fun c => fexp (fsub c.v m))))

/-- LSE partials combined in order (R328). -/
def combineLse (ps : List (W32 × W32)) : W32 × W32 :=
  let m := (maxOf (ps.zipIdx.map (fun p => ⟨p.1.1, p.2⟩))).v
  if m == fNegInf then (m, f0)
  else (m, sumOf ((ps.filter (fun p => p.1 != fNegInf)).map (fun p => fmul p.2 (fexp (fsub p.1 m)))))

/-- The entry of a side output over its candidates: FP32 for SUM and SUMSQ, else 64 bits (R313, R314). -/
def sideEntry (kind : Nat) (l : List Cand) : Nat :=
  match kind with
  | 0 => (sumOf (l.map Cand.v)).toNat
  | 1 => (sumOf (l.map (fun c => fmul c.v c.v))).toNat
  | 2 => let m := maxOf l; m.v.toNat + at_ 32 (low 32 m.idx)
  | _ => let p := lseOf l; p.1.toNat + at_ 32 p.2.toNat

/-- Bytes of an entry of a side output (R314). -/
def sideBytes (kind : Nat) : Nat := if kind ≤ 1 then 4 else 8

/-! ## A tile on its way through a chain -/

/-- A tile in the drain: values by row, valid rows and columns, rows skipped without audit, origin, and what has been gathered. -/
structure Flow where
  vals : List (List W32)
  vm : Nat
  vn : Nat
  skipped : List Nat
  row0 : Nat
  col0 : Nat
  /-- entries of side-output records, 128 or 64 at least (R314) -/
  unit : Nat
  flags : Nat
  sides : List (Stage × List Nat)
  deriving DecidableEq, Repr

/-- Whether a row takes part in results and reductions (R112, R241). -/
def Flow.live (f : Flow) (r : Nat) : Bool := r < f.vm && !f.skipped.contains r

/-- The drain applies the output scale: v × 2^s, saturating (R306). -/
def Flow.applyScale (f : Flow) (s : Nat) : Flow :=
  if s == 0 then f
  else
    let one := fun (v : W32) =>
      let t := ((fv v).scale s).toF32 .rne
      if isInf t && isFin v then ((FV.fin (v.getLsbD 31) fp32.maxMant fp32.maxExp).toF32 .rne, true) else (t, false)
    let vs := f.vals.map (fun r => r.map one)
    let sat := vs.zipIdx.any (fun p => f.live p.2 && (p.1.take f.vn).any Prod.snd)
    { f with vals := vs.map (fun r => r.map Prod.fst), flags := f.flags ||| (if sat then flagSaturated else 0) }

/-- A side output taken (R313, R314, R241). -/
def Flow.side (f : Flow) (g : Stage) : Flow :=
  let kind := bits g.op 2 0
  let lists : List (List Cand) :=
    if g.op ≥ 8 then
      let n := (f.vals.head?.map List.length).getD 0
      (columns f0 n f.vals).zipIdx.map (fun c =>
        if c.2 < f.vn then c.1.zipIdx.filterMap (fun p => if f.live p.2 then some ⟨p.1, low 32 (f.row0 + p.2)⟩ else none) else [])
    else f.vals.zipIdx.map (fun r => if f.live r.2 then ((r.1.take f.vn).zipIdx.map (fun p => ⟨p.1, low 32 (f.col0 + p.2)⟩)) else [])
  let full := lists ++ List.replicate (f.unit - lists.length) []
  { f with sides := f.sides ++ [(g, full.map (sideEntry kind))] }

/-- The operand of a stage for tile row r, column c, from its table: one row for a vector, a row per tile row for a residual (R308). -/
def Stage.operand (g : Stage) (w : Array (Array W32)) (r c : Nat) : W32 :=
  match g.axis with
  | 1 => ((w[0]?).getD #[]).getD c f0
  | 2 => ((w[0]?).getD #[]).getD r f0
  | 3 => ((w[r]?).getD #[]).getD c f0
  | _ => f0

/-- A stage of classes 1 to 6; `w` is the table of its operand. -/
def Flow.stage (f : Flow) (g : Stage) (tab : List Nat) (w : Array (Array W32)) : Flow :=
  if g.cls == 6 then f.side g
  else if g.cls ≥ 7 then f
  else { f with vals := f.vals.zipIdx.map (fun r => r.1.zipIdx.map (fun c => stageVal g tab (g.operand w r.2 c.2) c.1)) }

/-- Whether the output scale is carried into block scales (R306). -/
def carries (st : List Stage) : Bool :=
  st.any (fun g => g.cls == 7 && g.sbmode == 1) && !st.any (fun g => 2 ≤ g.cls && g.cls ≤ 6)

/-- The stages before quantisation in order, with the output scale applied at its place (R304, R306). -/
def Flow.run (f : Flow) (st : List Stage) (s : Nat) (tabs : Nat → List Nat) (vec : Stage → Array (Array W32)) : Flow :=
  let go := fun (f : Flow) (l : List Stage) => l.foldl (fun q g => q.stage g (tabs g.aux) (vec g)) f
  let first := st.filter (fun g => g.cls == 1)
  let rest := st.filter (fun g => g.cls != 1)
  let f1 := go f first
  go (if carries st then f1 else f1.applyScale s) rest

/-! ## Quantisation -/

/-- A quantised tile: its format, scale mode and byte, its rows of elements as far as they are written, and their full length. -/
structure Quant where
  fmt : Nat
  sb : Nat
  us : Nat
  rows : List (List Elem)
  e0 : Nat
  flags : Nat
  lfsr : W32
  deriving DecidableEq, Repr

/-- A row quantised: the written prefix of its elements. Invalid positions in a written block are masked; a row skipped without audit is
zero (R241, R315 to R317). -/
def quantRow (g : Option Stage) (s : Nat) (zero : Bool) (v : Nat) (row : List (W32 × RMode)) : List Elem × Nat :=
  let part := row.take v
  match g with
  | none => if zero then (part.map (fun _ => ⟨0, 127⟩), 0)
      else
        let cs := part.map (fun p => convert 0x0A true .rne (fv p.1))
        (cs.map (fun c => ⟨c.1, 127⟩), cs.foldl (fun a c => a ||| c.2) 0)
  | some q =>
    if q.sbmode == 1 then
      let n := ceilDiv v 32 * 32
      let full := (row ++ List.replicate (n - row.length) (f0, RMode.rne)).take n
      if zero then (full.map (fun _ => ⟨0, 127⟩), 0)
      else
        let blocks := chunksOf 32 (full.length + 1) (full.zipIdx.map (fun p => (if p.2 < v then some (fv p.1.1) else none, p.1.2)))
        let outs := blocks.map (quantBlock q.fmt q.sat q.sr s)
        (outs.flatMap (fun o => o.2.1.map (fun r => ⟨r, o.1⟩)), outs.foldl (fun a o => a ||| o.2.2) 0)
    else
      let us := if q.sbmode == 2 then q.p1 % 256 else 127
      if zero then (part.map (fun _ => ⟨0, us⟩), 0)
      else
        let cs := part.map (fun p => convert q.fmt q.sat p.2 ((fv p.1).scale (127 - (us : Int))))
        (cs.map (fun c => ⟨c.1, us⟩), cs.foldl (fun a c => a ||| c.2) 0)

/-- The rounding of every position of a tile, drawn in row order (R83, R84). -/
def drawModes (g : Option Stage) (row0 col0 m n : Nat) : List (List RMode) × W32 :=
  match g with
  | some q =>
    if q.sr then
      let (l, w) := lfsrDraws (m * n) (lfsrLoad (pf q.p0) (pf row0) (pf col0))
      (chunksOf n (m + 1) (l.map RMode.sr), w)
    else (List.replicate m (List.replicate n .rne), 0)
  | none => (List.replicate m (List.replicate n .rne), 0)

/-- A transposed row whose scaled blocks of nothing but skipped rows have scale 7Fh (R241): the block of a position is the 32 rows of the tile
that it lies among, of which `vm` are valid. -/
def skippedBlocks (skipped : List Nat) (vm : Nat) (l : List Elem) : List Elem :=
  l.zipIdx.map (fun p =>
    let b := p.2 / 32 * 32
    if (List.range (Nat.min 32 (vm - b))).all (fun i => skipped.contains (b + i)) && b < vm then ⟨0, 127⟩ else p.1)

/-- The tile quantised, transposed where the chain says so (R315 to R318). `s` is the carried output scale. -/
def Flow.quantise (f : Flow) (st : List Stage) (s : Nat) : Quant :=
  let g := st.find? (fun x => x.cls == 7)
  let xp := st.any (fun x => x.cls == 8)
  let m := f.vals.length
  let n := (f.vals.head?.map List.length).getD 0
  let sb := match g with | some q => q.sbmode | none => 0
  let (modes, w) := drawModes g f.row0 f.col0 m n
  let grid := List.zipWith List.zip f.vals modes
  let c := if carries st then s else 0
  let fmt := match g with | some q => q.fmt | none => 0x0A
  let us := match g with | some q => if q.sbmode == 2 then q.p1 % 256 else 0 | none => 0
  if xp && sb == 1 then
    let cols := columns (f0, RMode.rne) n grid
    let rows := cols.zipIdx.map (fun p =>
      if p.2 < f.vn then quantRow g c false f.vm (p.1.zipIdx.map (fun x => if f.skipped.contains x.2 then (f0, RMode.rne) else x.1))
      else ([], 0))
    ⟨fmt, sb, us, rows.map (fun r => skippedBlocks f.skipped f.vm r.1), m, rows.foldl (fun a r => a ||| r.2) 0, w⟩
  else
    let rows := grid.zipIdx.map (fun p => if p.2 < f.vm then quantRow g c (f.skipped.contains p.2) f.vn p.1 else ([], 0))
    let fl := rows.foldl (fun a r => a ||| r.2) 0
    if xp then ⟨fmt, sb, us, ((columns Elem.zero n (rows.map Prod.fst)).map (fun r => r.take f.vm)).zipIdx.map
        (fun p => if p.2 < f.vn then p.1 else []), m, fl, w⟩
    else ⟨fmt, sb, us, rows.map Prod.fst, n, fl, w⟩

/-! ## Into the carrel -/

/-- The elements of a row written over what its bytes held: the written prefix only (R317). -/
def mergeRow (fmt : Nat) (inter : Bool) (old : List Byte) (row : List Elem) : List Byte :=
  if row.isEmpty then old
  else if inter then
    let b := rowToBytes fmt true row
    b ++ old.drop b.length
  else
    let w := widthOf fmt * row.length
    leBytes old.length (ofLe old / 2 ^ w * 2 ^ w + packBits (widthOf fmt) (row.map Elem.raw))

/-- A quantised tile written as a DATA object (R317, R339); its valid part is kept for folio stores. -/
def Core.putTile (k : Core) (sh : Nat) (q : Quant) (vw vr : Nat) : Core :=
  let inter := q.sb == 1
  let ln := dataLine q.fmt q.e0 inter
  let tag : Tag := ⟨q.rows.length, q.e0, sh, 0, 0, roleData, false, q.sb, q.fmt, q.us, 0⟩
  let m := k.objMem sh tag
  let bytes := q.rows.zipIdx.flatMap (fun r => mergeRow q.fmt inter (m.readBytes (r.2 * ln) ln) r.1)
  let k1 := k.writeObject sh tag bytes
  { k1 with drained := if vw == q.e0 && vr == q.rows.length then k1.drained else (sh, vw, vr) :: k1.drained }

/-- A side-output record written at a line of a shelf (R314): the records at a shelf form one DATA object whose rows are records from
line 0 (log entry 25). -/
def Core.putRecord (k : Core) (sh line kind : Nat) (es : List Nat) : Core :=
  let fmt := if kind ≤ 1 then 0x0A else 0x11
  let w := sideBytes kind
  let n := es.length
  let old := k.tag sh
  let rows := Nat.max (if old.role == roleData && old.fmt == fmt && old.e0 == n && old.first == sh then old.e1 else 0)
    (ceilDiv (line * 64 + n * w) (n * w))
  let tag : Tag := ⟨rows, n, sh, 0, 0, roleData, false, 0, fmt, 0, 0⟩
  { k with carrel := k.carrel.writeBytes (sh * shelfBytes + line * 64) (es.flatMap (leBytes w))
           tags := (List.range (shelvesFor (rows * n * w))).foldl (fun l i => insertK (sh + i) tag l) k.tags }

/-- The table of a stage's operand for a tile of m rows and n columns, read from the carrel (R308). -/
def Core.vecTable (k : Core) (m n : Nat) (g : Stage) : Array (Array W32) :=
  let base := g.shelf * shelfBytes + g.line * 64
  let cut := fun (a len : Nat) =>
    ((unpackElems g.fmt len (k.carrel.readBytes a (packedBytes g.fmt len))).map (fun r => (rawVal g.fmt r).toF32 .rne)).toArray
  match g.axis with
  | 1 => #[cut base n]
  | 2 => #[cut base m]
  | 3 => ((List.range m).map (fun r => cut (base + r * dataLine g.fmt (k.tag g.shelf).e0 false) n)).toArray
  | _ => #[]

/-- The fault at issue of a chain's carrel operands (R308, R340). -/
def Core.chainFault (k : Core) (limit : Nat) (st : List Stage) : Option St :=
  st.findSome? (fun g =>
    if g.axis == 0 then none
    else match k.object limit g.shelf with
    | .inr e => some e
    | .inl t => if t.fmt == g.fmt then none else some .format)

/-- The shelves that side outputs of a chain write, for `n` entries each (R314). -/
def sideShelves (st : List Stage) (entries : Stage → Nat) : List (Nat × Nat) :=
  st.filterMap (fun g => if g.cls == 6 then
    some (g.shelf, (g.line * 64 + entries g * sideBytes (bits g.op 2 0) + shelfBytes - 1) / shelfBytes) else none)

/-- Cycles of a stage's latency (R303). -/
def stageLatency (g : Stage) : Nat :=
  match g.cls with
  | 3 => (match g.op with | 0 => 1 | 1 => 1 | 2 => 6 | 3 => 4 | 4 => 3 | 5 => 2 | _ => 4)
  | 7 => 2
  | 6 => 0 | 8 => 0 | 9 => 0
  | _ => 1

/-- The AC cycles of a drain of M × N values (R321). -/
def drainCycles (st : List Stage) (m n : Nat) : Nat :=
  let lanes := if st.any (fun g => g.cls == 8) then 32 else 128
  m * n / lanes + 3 + sumNat (st.map stageLatency)
    + sumNat (st.map (fun g => if g.axis == 1 then ceilDiv (n * widthOf g.fmt / 8) 512 else 0))

end Sys2Proof.Machine
end

