-- ==== Sys2Proof/Machine/Contract.lean ====
section
/-! DEFINITION. The grid of a dispatch (R407 to R410), and the device's own tile programs: how a contraction is tiled and what code its
tiles run (R403, R404, R432 to R439, R556 to R559). -/
namespace Sys2Proof.Machine

/-! ## Grids -/

/-- An extent of the grid. -/
def Request.extent (q : Request) (i : Nat) : Nat := (q.ext[i]?).getD 0
/-- A step of the grid. -/
def Request.stepOf (q : Request) (i : Nat) : Nat := (q.step[i]?).getD 1
/-- Positions along a coordinate of the grid (R407). -/
def Request.span (q : Request) (i : Nat) : Nat := ceilDiv (q.extent i) (q.stepOf i)
/-- Output positions of the grid. -/
def Request.outputs (q : Request) : Nat := q.span 0 * q.span 1 * q.span 2

/-- The split count of a request: 1 without split-K. -/
def Request.splits (q : Request) : Nat := match q.contract with | some c => c.tiling.s | none => 1

/-- The tiles of a request: with split-K, the split tiles and then a combine tile per output (R407, R436). -/
def Request.tiles (q : Request) : Nat := if q.splits > 1 then (q.splits + 1) * q.outputs else q.outputs

/-- The grid position of a tile number (R409, R436): coordinates 0, 1, 2. -/
def Request.position (q : Request) (t : Nat) : Nat × Nat × Nat :=
  let u := if q.splits > 1 && q.outputs != 0 then t % q.outputs else t
  let a := q.span 0
  let b := q.span 1
  if q.inner then (u / b % a, u % b, u / (a * b)) else (u % a, u / a % b, u / (a * b))

/-- The length of a line (R410). -/
def Request.line (q : Request) : Nat := if q.inner then q.span 1 else q.span 0

/-- The eight registers that TAKE writes for a tile (R381). -/
def Request.registers (q : Request) (t : Nat) : List W64 :=
  let p := q.position t
  let col := p.1 * q.stepOf 0
  let row := p.2.1 * q.stepOf 1
  let vn := Nat.min (q.stepOf 0) (q.extent 0 - col)
  let vm := Nat.min (q.stepOf 1) (q.extent 1 - row)
  [col, row, p.2.2 * q.stepOf 2, t, vn, vm, vm + 65536 * vn, row + 2 ^ 32 * col].map (BitVec.ofNat 64)

/-- The registers that TAKE writes when the counter is exhausted (R381). -/
def exhaustedRegs : List W64 := [0, 0, 0, BitVec.allOnes 64, 0, 0, 0, 0]

/-- The cost of a tile (R411). -/
def Request.cost (q : Request) (t : Nat) : Nat :=
  match q.costs with
  | some l => (l[t]?).getD 0
  | none => 1

/-! ## Operands of a contraction -/

/-- The sizes of a tensor as instructions see its dimensions (R258). -/
def Desc.lsizes (d : Desc) : List Nat := if d.xpose then swap01 d.sizes else d.sizes
/-- A size as instructions see it. -/
def Desc.lsize (d : Desc) (i : Nat) : Nat := (d.lsizes[i]?).getD 0

/-- The handle of the device's own descriptor number `n` of a dispatch. -/
def ownHandle (n : Nat) : Nat := 2 ^ 32 + n

/-- The bounds policy of the device's own operand descriptors: positions past the tensor read +0, so that K is padded (R113, R435). -/
def oobZero : Nat := 2

/-- Whether a contraction reads an operand as a stream: a sparse tensor whose engine selection forces the sparse engine (R96, R199, R213). -/
def Contraction.streams (c : Contraction) (d : Desc) : Bool := c.eng == 2 && d.layout != 0

/-- Whether engine choice applies (R213, R218). -/
def Contraction.chooses (c : Contraction) (a b : Desc) : Bool :=
  c.eng == 0 && c.mode != 2 && [a, b].any (fun d => d.layout == 1 || 6 ≤ d.layout)

/-- The device's own view of an operand: dimensions 0 and 1 exchanged where the layout it loads asks for the other order (R96, R356).
`kFirst` says that dimension 0 lies along K. -/
def Contraction.view (c : Contraction) (d : Desc) (kFirst inner : Bool) : Desc :=
  let flip := !c.streams d && (if inner then !kFirst else kFirst && !d.inter)
  { d with xpose := d.xpose != flip, oob := oobZero, kaxis := if flip then 1 - d.kaxis else d.kaxis }

/-- Whether coordinate 0 of the device's view lies along K. -/
def Contraction.viewK (c : Contraction) (d : Desc) (kFirst inner : Bool) : Bool :=
  if c.streams d then kFirst else if inner then true else d.inter

/-! ## Tiling -/

/-- Cores that the part has (R436). -/
def State.partCores (s : State) : Nat := if s.fuses.part0961 then 96 else 128

/-- Shelves of the object of an operand over `p` positions and `k` K-steps (R356). -/
def operandShelves (fmt p k : Nat) (inter inner gw : Bool) : Nat :=
  let t : Tag := { Tag.none with fmt := fmt, sb := if inter then 1 else 0, gw := gw, role := if inner then roleKinner else roleKouter,
                                 e0 := if inner then k else p, e1 := if inner then p else k }
  shelvesFor (t.bytes 0)

/-- Shelves of a STREAM object over `p` positions and `k` K-steps that lists every position (R356, R718). -/
def streamShelves (p k : Nat) (gw : Bool) : Nat := shelvesFor (roundUp (8 * segCount gw k p) 64 + 8 * (p * k))

/-- The shelves that the objects of an operand take for `k` K-steps: its lines, unless it is read as a stream, and its stream, where one is
written or engine choice may write one (R356, R361, R435; log entry 169). -/
def Contraction.shelves (c : Contraction) (d : Desc) (p k : Nat) (inner gw choice : Bool) : Nat :=
  (if c.streams d then 0 else operandShelves d.fmt p k d.inter inner gw) + (if c.streams d || choice then streamShelves p k gw else 0)

/-- The K chunk (R435): the largest multiple of 128 whose objects fit in 216 shelves, never more than the K range rounded up to 32. -/
def Contraction.kChunk (c : Contraction) (a b : Desc) (mt nt range : Nat) (fore gw : Bool) : Nat :=
  let ch := c.chooses a b && !gw
  let fits := fun k => c.shelves a mt k fore gw ch + c.shelves b nt k false gw ch ≤ 216
  let best := (((List.range 1024).map (fun i => 128 * (i + 1))).filter fits).foldl Nat.max 0
  Nat.min best (roundUp range 32)

/-- The tiling of a contraction (R432 to R436). -/
def Contraction.tilingOf (c : Contraction) (cores : Nat) (a b : Desc) (m n k batch : Nat) : Tiling :=
  let kp := roundUp k 32
  let u := ceilDiv m 128 * ceilDiv n 128 * batch
  let want := Nat.max (ceilDiv kp (2 ^ 20)) (if u < cores && u != 0 then Nat.min (cores / u) (kp / 512) else 0)
  let s := if c.mode == 2 then 1 else Nat.max 1 (Nat.min want (if c.mode == 1 then 12 else 24))
  if c.mode == 2 then
    let mt := 64 * (c.fm + 1)
    let nt := 64 * (c.fn + 1)
    ⟨mt, nt, 1, true, 1, kp, c.kChunk a b mt nt kp true true, m, n, k, batch⟩
  else if s > 1 then
    let ks := roundUp (ceilDiv kp s) 128
    ⟨128, 128, 0, false, ceilDiv kp ks, ks, c.kChunk a b 128 128 (Nat.min ks kp) false false, m, n, k, batch⟩
  else if m ≤ 64 && n ≤ 64 then ⟨64, 64, 0, true, 1, kp, c.kChunk a b 64 64 kp false true, m, n, k, batch⟩
  else
    let mt := if m ≥ 256 then 256 else 128
    let nt := if n ≥ 256 then 256 else 128
    ⟨mt, nt, 0, false, 1, kp, c.kChunk a b mt nt kp false false, m, n, k, batch⟩

/-- The code of a tile edge in the ACCEPT reply (R556). -/
def edgeCode (n : Nat) : Nat := if n == 64 then 0 else if n == 128 then 1 else 2

/-- REPLY.RESULT0 of the ACCEPT reply to CONTRACT (R556). An edge of 192, which only a forerunner tile has, has no code listed: the
field stays open (log entry 6). -/
def Tiling.word (t : Tiling) : Nat :=
  let e := fun n => if n == 192 then Config.openDetail 2 % 4 else edgeCode n
  e t.mt + at_ 2 (e t.nt) + at_ 4 t.flow + at_ 6 (b2n t.split) + at_ 8 (low 8 t.s) + at_ 16 (low 32 t.kc)

/-- Bytes of an image of the scratch allowance (R438). -/
def Contraction.imageBytes (c : Contraction) : Nat := accImageBytes 128 128 (if c.mode == 1 then 1 else 0)

/-- Scratch bytes of the split images (R438). -/
def Request.imageScratch (q : Request) : Nat :=
  match q.contract with
  | some c => if c.tiling.s > 1 then c.tiling.s * q.outputs * c.imageBytes else 0
  | none => 0

/-- Bytes of the staging tensor. -/
def stagingBytes (d : Desc) : Nat :=
  if d.overlap then roundUp (rowBytes d.fmt (d.lsize 0) d.inter) 64 * d.lsize 1 * (if d.rank ≥ 3 then d.lsize 2 else 1) else 0

/-- The scratch bytes that a contraction needs (R266, R438). -/
def Request.needsScratch (q : Request) (cd : Desc) : Nat :=
  if cd.overlap then roundUp q.imageScratch 64 + stagingBytes cd else q.imageScratch

/-- The bytes of a row mask: those of the first run of its tensor along dimension 0 (R239; log entry 176). -/
def Desc.maskBytes (d : Desc) : Nat := rowBytes d.fmt (d.size 0) d.inter

/-! ## The tile programs of a contraction -/

/-- Slot of A in the device's own tile program, and the number of its own descriptor. -/
def slA : Nat := 0
/-- Slot of B, likewise. -/
def slB : Nat := 1
/-- Slot of C, likewise. -/
def slC : Nat := 2
/-- The number of the device's own descriptor of the row mask. -/
def ownMaskNo : Nat := 3
/-- The number of the device's own descriptor of the split images. -/
def slImage : Nat := 4

/-- The stages of a contraction's chain. -/
def Contraction.stages (c : Contraction) : List Stage := match c.chain with | some ch => ch.stages | none => []

/-- The stages that read a vector operand of the contraction, in order (R558). -/
def Stage.readsVec (g : Stage) : Bool := (g.cls == 1 && g.axis != 0) || g.cls == 5

/-- Whether a contraction has a preload or class-2 operand. -/
def Contraction.usesPre (c : Contraction) : Bool := c.start == 1 || c.stages.any (fun g => g.cls == 2)
/-- The vector operands that a contraction's chain reads. -/
def Contraction.vecCount (c : Contraction) : Nat := (c.stages.filter Stage.readsVec).length
/-- The side outputs that it writes. -/
def Contraction.sideCount (c : Contraction) : Nat := (c.stages.filter (fun g => g.cls == 6)).length

/-- Slot of the preload or class-2 operand: the descriptors that a contraction needs beside A, B and C are bound from d3 on, in the order preload,
vectors, side outputs, mask, split images (log entry 26). -/
def slPre : Nat := 3
/-- First slot of the vector operands. -/
def Contraction.slVec (c : Contraction) : Nat := slPre + b2n c.usesPre
/-- First slot of the side outputs. -/
def Contraction.slSide (c : Contraction) : Nat := c.slVec + c.vecCount
/-- Slot of the row mask. -/
def Contraction.slMask (c : Contraction) : Nat := c.slSide + c.sideCount
/-- Slot of the split images. -/
def Contraction.slImages (c : Contraction) : Nat := c.slMask + b2n (c.pskip != 0)

/-- The slots of the device's own program (R334; log entry 26). -/
def ownSlots (c : Contraction) : List Nat :=
  let l := [ownHandle slA, ownHandle slB, ownHandle slC] ++ (if c.usesPre then [c.pre] else [])
    ++ (List.range c.vecCount).map (fun i => (c.vecs[i]?).getD 0) ++ (List.range c.sideCount).map (fun i => (c.sides[i]?).getD 0)
    ++ (if c.pskip != 0 then [ownHandle ownMaskNo] else []) ++ (if c.tiling.s > 1 then [ownHandle slImage] else [])
  l ++ List.replicate (8 - l.length) 0

/-! Shelves of the device's own objects (log entry 26). A, B and their streams, or the split images, lie below shelf 216. The spill area, the
preload and the mask lie above; the spill area of a sparse tile may take the shelves of a RESIDUAL preload, which the tile has read by then.
What the drain reads and writes is placed once the last MMA has read A and B. -/
/-- First shelf of the spill area. -/
def ownSpill : Nat := 216
/-- Shelf of the preload. -/
def ownPre : Nat := 232
/-- Shelf of the row mask. -/
def ownMask : Nat := 248
/-- Shelf of the class-2 operand. -/
def ownPre2 : Nat := 0
/-- First shelf of the vectors. -/
def ownVec : Nat := 16
/-- First shelf of the side records. -/
def ownSide : Nat := 20
/-- The drained tile, or the split image. -/
def ownC : Nat := 32

/-- SETX of a run of registers. -/
def setRegs (first : Nat) (vs : List Nat) : List TileInstr := vs.zipIdx.map (fun p => .setx (first + p.2) (low 47 p.1))
/-- A register set to a 56-bit value. -/
def setBig (r v : Nat) : List TileInstr := [.setx r (v / 2 ^ 24), .addx r 0 r 24 (v % 2 ^ 24)]

/-- The fields of a transfer between a slot and a shelf through origin register 1 and extent register 7. -/
def ownTF (slot sh role : Nat) (gw : Bool) : TF :=
  ⟨slot, sh, 0, 1, 7, role, gw, 0, 0, false, 0, 0, false, false⟩

/-- A LOAD of a box. -/
def ownLoad (f : TF) (origin ext : List Nat) : List TileInstr := setRegs 1 origin ++ setRegs 7 ext ++ [.load f]
/-- A STORE of a box. -/
def ownStore (slot sh : Nat) (origin ext : List Nat) : List TileInstr :=
  setRegs 1 origin ++ setRegs 7 ext ++ [.store (ownTF slot sh roleData false)]

/-- The chain with the shelves of the device's own objects (R558). -/
def Contraction.ownChain (c : Contraction) : Option Chain :=
  c.chain.map (fun ch =>
    let st := ch.stages
    { ch with stages := st.zipIdx.map (fun p =>
        let before := st.take p.2
        if p.1.readsVec then { p.1 with shelf := ownVec + (before.filter Stage.readsVec).length, line := 0 }
        else if p.1.cls == 2 then { p.1 with shelf := ownPre2, line := 0 }
        else if p.1.cls == 6 then { p.1 with shelf := ownSide + (before.filter (fun g => g.cls == 6)).length, line := 0 }
        else p.1) })

/-- The tile that code is made for: origins, valid counts, batch, column and row tile index. -/
structure TilePos where
  m0 : Nat
  n0 : Nat
  vm : Nat
  vn : Nat
  batch : Nat
  g0 : Nat
  g1 : Nat
  t0 : Nat
  t1 : Nat
  deriving DecidableEq, Repr

/-- A coordinate of dimension 2 of an operand: a batch size of 1 is broadcast (R557). -/
def batchOf (d : Desc) (b : Nat) : List Nat := if d.rank ≥ 3 then [if d.size 2 ≤ 1 then 0 else b] else []
/-- The extent of dimension 2. -/
def batchExt (d : Desc) : List Nat := if d.rank ≥ 3 then [1] else []

/-- A LOAD of a preload or class-2 operand of a kind (R153): 0 along N, 1 along M, 2 a tile. -/
def preCode (d : Desc) (kind sh : Nat) (p : TilePos) : List TileInstr :=
  let f := ownTF slPre sh roleData false
  if kind == 0 then ownLoad f [p.n0] [p.vn]
  else if kind == 1 then ownLoad f [p.m0] [p.vm]
  else ownLoad f ([p.n0, p.m0] ++ batchOf d p.batch) ([p.vn, p.vm] ++ batchExt d)

/-- LOADs of the chain's operands. -/
def chainLoads (c : Contraction) (pre : Option Desc) (p : TilePos) : List TileInstr :=
  (match pre, c.stages.find? (fun g => g.cls == 2) with
   | some d, some g => preCode d g.op ownPre2 p
   | _, _ => [])
  ++ (c.stages.filter Stage.readsVec).zipIdx.flatMap (fun q =>
    ownLoad (ownTF (c.slVec + q.2) (ownVec + q.2) roleData false) [if q.1.axis == 1 then p.n0 else p.m0]
      [if q.1.axis == 1 then p.vn else p.vm])

/-- DRAIN through the chain and the STOREs of the tile and its side outputs (R327, R558). -/
def drainCode (c : Contraction) (cd : Desc) (qtr : Nat) (p : TilePos) : List TileInstr :=
  let xp := c.stages.any (fun g => g.cls == 8)
  let two := fun (a b : Nat) => if xp then [b, a] else [a, b]
  [.drain (if c.chain.isSome then 1 else 0) ownC 27 qtr]
  ++ ownStore slC ownC (two p.n0 p.m0 ++ (if cd.rank ≥ 3 then [p.batch] else [])) (two p.vn p.vm ++ batchExt cd)
  ++ (c.stages.filter (fun g => g.cls == 6)).zipIdx.flatMap (fun q =>
    let col := q.1.op ≥ 8
    ownStore (c.slSide + q.2) (ownSide + q.2)
      (if col then [p.n0, p.batch * p.t1 + p.g1] else [p.m0, p.batch * p.t0 + p.g0])
      [if col then p.vn else p.vm, 1])

/-- The registers that an instruction tile of the device's own program reads, 14 the tile control word and 15 the first row coordinate, with the
LOAD of its rows' part of the mask (R239, R368). -/
def controlCode (c : Contraction) (p : TilePos) : List TileInstr :=
  (if c.pskip != 0 then ownLoad (ownTF c.slMask ownMask roleData false) [p.m0 / 8] [ceilDiv p.vm 8] else [])
  ++ setBig 14 (p.vm + 65536 * p.vn + at_ 35 c.audit + at_ 40 ownSpill + at_ 48 (if c.pskip != 0 then ownMask else 0)) ++ setRegs 15 [p.m0]

/-- The matrix instruction of a contraction's chunk: an MMA, or where the sparse engine is forced an SPGE of two sparse operands or an SPMA of a
sparse A and a dense B (R199, R213, R222). -/
def Contraction.matrix (c : Contraction) (a b : Desc) (f : MF) : TileInstr :=
  if c.streams a && c.streams b then .spge { f with flow := 0, eng := 0 }
  else if c.streams a then .spma { f with flow := 0, eng := 0 } else .mma f

/-- The LOADs and the matrix instruction of one K chunk of `len` K-steps from `k0` (R435). `start` gives the start. -/
def chunkCode (c : Contraction) (a b : Desc) (qtr : Nat) (p : TilePos) (k0 len start : Nat) : List TileInstr :=
  let t := c.tiling
  let fore := c.mode == 2
  let gw := t.split
  let ch := c.chooses a b
  let road := ch && !gw
  let shB := c.shelves a t.mt t.kc fore gw road
  let linesA := if c.streams a then 0 else operandShelves a.fmt t.mt t.kc a.inter fore gw
  let linesB := if c.streams b then 0 else operandShelves b.fmt t.nt t.kc b.inter false gw
  let roleA := if c.streams a then roleStream else if fore then roleKinner else roleKouter
  let roleB := if c.streams b then roleStream else roleKouter
  let box := fun (d : Desc) (kFirst : Bool) (x v : Nat) =>
    ((if kFirst then [k0, x] else [x, k0]) ++ batchOf d p.batch, (if kFirst then [len, v] else [v, len]) ++ batchExt d)
  let boxA := box a (c.viewK a (!c.axa) fore) p.m0 p.vm
  let boxB := box b (c.viewK b c.axb false) p.n0 p.vn
  let cards := fun (bank : Nat) (slot : Nat) (bx : List Nat × List Nat) (choice : Bool) =>
    setRegs 1 bx.1 ++ setRegs 7 bx.2
      ++ [TileInstr.loadcard ⟨slot, 0, 2, 1, 7, bank, false, 0, 0, false, 0, 0, choice, choice && c.mode == 1⟩]
  let load := fun (slot shelf role st : Nat) (bx : List Nat × List Nat) =>
    ownLoad { ownTF slot shelf role gw with choice := road, ss := if road then st else 0 } bx.1 bx.2
  let useA := ch || (a.layout == 1 && !c.streams a)
  let useB := ch || (b.layout == 1 && !c.streams b)
  (if useA then cards 0 slA (box a (c.viewK a (!c.axa) fore) p.m0 (roundUp p.vm 128)) false else [])
  ++ (if useB then cards 1 slB (box b (c.viewK b c.axb false) p.n0 (roundUp p.vn 128)) ch else [])
  ++ load slA 0 roleA linesA boxA
  ++ load slB shB roleB (shB + linesB) boxB
  ++ controlCode c p
  ++ setBig 13 len
  ++ [c.matrix a b ⟨0, shB, ownPre, 13, 14, (if gw then t.mt / 64 else t.mt / 128) - 1,
        (if gw then t.nt / 64 else t.nt / 128) - 1, t.flow, start, c.pkind, c.mode, c.eng, qtr, c.noskip, c.pskip, useA, useB⟩]

/-- The code of a contraction's tile, between its TAKE and its COMMIT (R432 to R437). -/
def Request.tileCode (q : Request) (c : Contraction) (a b cd : Desc) (pre : Option Desc) (tile : Nat) : List TileInstr :=
  let t := c.tiling
  let g := q.position tile
  let p : TilePos := { m0 := g.2.1 * t.mt, n0 := g.1 * t.nt, vm := Nat.min t.mt (t.m - g.2.1 * t.mt), vn := Nat.min t.nt (t.n - g.1 * t.nt),
                       batch := g.2.2, g0 := g.1, g1 := g.2.1, t0 := q.span 0, t1 := q.span 1 }
  let qtr := if t.split then 0 else 4
  let kp := roundUp t.k 32
  let i := if t.s > 1 then tile / q.outputs else 0
  let image := fun (j : Nat) => (j * q.outputs + tile % q.outputs) * (c.imageBytes / 4)
  let drain := chainLoads c (if c.start == 1 then none else pre) p ++ drainCode c cd qtr p
  if t.s > 1 && i ≥ t.s then
    let sh := shelvesFor c.imageBytes
    (List.range t.s).flatMap (fun j => ownLoad (ownTF c.slImages (j * sh) roleImage false) [image j] [0])
    ++ controlCode c p ++ setRegs 13 [t.s] ++ [.reduceSplitk 0 0 13 true]
    ++ drain
  else
    let lo := if t.s > 1 then i * t.ks else 0
    let hi := if t.s > 1 then Nat.min ((i + 1) * t.ks) kp else kp
    let n := ceilDiv (hi - lo) t.kc
    let preload := c.start == 1 && i == 0
    (if preload then (match pre with | some d => preCode d c.pkind ownPre p | none => []) else [])
    ++ (List.range n).flatMap (fun j =>
      let k0 := lo + j * t.kc
      chunkCode c a b qtr p k0 (Nat.min t.kc (hi - k0)) (if j > 0 then 2 else if preload then 1 else 0))
    ++ (if t.s > 1 then [.drainPartial ownC 27 qtr] ++ ownStore c.slImages ownC [image i] [0] else drain)

/-- The device's own program at its TAKE: a tile's code with the COMMIT and the way back, or the end when the counter is exhausted. -/
def ownProgram (code : Option (List TileInstr)) : List TileInstr :=
  match code with
  | none => [.take 20 0, .halt]
  | some l => [.take 20 0] ++ l ++ [.commit 28, .br 0 0 0 (2 ^ 16 - (l.length + 2))]

end Sys2Proof.Machine
end

