-- ==== Sys2Proof/Machine/Links.lean ====
section
/-! DEFINITION. Sending between sockets: routes (R582 to R586), streams (R588 to R590), tallies (R596, R597), send routes (R598, R599). -/
namespace Sys2Proof.Machine

/-- The route entry of a socket (R582). -/
def State.routeOf (s : State) (sock : Nat) : Nat := lookupD 0 sock s.routes
/-- ROUTE.EPOCH. -/
def routeEpoch (e : Nat) : Nat := bits e 49 42
/-- Whether a port is UP and takes new packets (R585, R662). -/
def State.portUp (s : State) (p : Nat) : Bool := match s.ports[p]? with | some q => q.state == 2 && !q.closing | none => false

/-- The port by which a packet leaves for a socket, with whether it moves to virtual lane 1 (R585 to R587); none when unroutable. -/
def State.exitPort (s : State) (sock : Nat) : Option (Nat × Bool) :=
  let e := s.routeOf sock
  if !bit e 63 || bit e 61 then none
  else if s.portUp (bits e 59 56) then some (bits e 59 56, bit e 51)
  else if bit e 60 && s.portUp (bits e 55 52) then some (bits e 55 52, bit e 50) else none

/-- The stream with a socket (R588). -/
def State.stream (s : State) (sock : Nat) : Stream := lookupD ⟨0, [], 0, false, []⟩ sock s.streams

/-- The stream with a socket changed. -/
def State.updStream (s : State) (sock : Nat) (f : Stream → Stream) : State :=
  { s with streams := insertK sock (f (s.stream sock)) s.streams }

/-- Payload bytes of a packet, in whole 64 B units (R581); a request without data and an atomic are headers (log entry 27). -/
def payloadOf : FBody → Nat
  | .write _ bs _ => roundUp bs.length 64
  | .readData _ bs => roundUp bs.length 64
  | _ => 0

/-- Bytes of a packet with its header (R581). -/
def packetSize (p : FPacket) : Nat := 32 + payloadOf p.body

/-- Why an instruction cannot reach a socket: the detail of ST_NOOWNER (R584, R604). -/
def State.remoteFault (s : State) (sock : Nat) : Option Nat :=
  match s.self? with
  | none => some 1
  | some me => if sock == me then none else if (s.stream sock).unreachable || (s.exitPort sock).isNone then some 2 else none

/-- A packet put on a port. -/
def State.emit (s : State) (port : Nat) (p : FPacket) : State := { s with fabricOut := s.fabricOut ++ [(port, p)] }

/-- A packet sent on the stream to a socket (R588, R589), numbered and kept until it is acknowledged. A socket that cannot be reached is
marked (R586, R604) and the packet is not sent. -/
def State.post (s : State) (sock : Nat) (body : FBody) : State :=
  match s.exitPort sock with
  | none => s.updStream sock (fun t => { t with unreachable := true })
  | some (port, dl) =>
    let t := s.stream sock
    let p : FPacket := ⟨sock, s.self?.getD 0, routeEpoch (s.routeOf sock), t.nextSeq, b2n dl, body⟩
    ((s.updStream sock (fun q => { q with nextSeq := q.nextSeq + 1, unacked := q.unacked ++ [p] })).emit port p).count 4 (packetSize p)

/-- An acknowledgement, replay request or notice, which no stream numbers (R586, R589). -/
def State.postRaw (s : State) (sock seq : Nat) (body : FBody) : State :=
  match s.exitPort sock with
  | none => s
  | some (port, dl) =>
    let p : FPacket := ⟨sock, s.self?.getD 0, routeEpoch (s.routeOf sock), seq, b2n dl, body⟩
    (s.emit port p).count 4 (packetSize p)

/-- The packets put on the stream to a socket between two states. -/
def State.sentSince (t s : State) (sock : Nat) : List (Nat × Nat) :=
  (List.range ((t.stream sock).nextSeq - (s.stream sock).nextSeq)).map (fun i => (sock, (s.stream sock).nextSeq + i))

/-- A run of masked bytes sent as writes of at most 512 B (R581), with an accession number (R320, R386). -/
def State.postMasked (s : State) (sock addr : Nat) (bs : List (Byte × Byte)) (acc : Nat := 0) : State :=
  (pieces 512 (bs.length / 512 + 2) addr bs.length).foldl
    (fun t p => t.post sock (.write p.1 ((bs.drop (p.1 - addr)).take p.2) acc)) s

/-- A run of bytes sent as writes. -/
def State.postWrite (s : State) (sock addr : Nat) (bs : List Byte) (acc : Nat := 0) : State := s.postMasked sock addr (whole bs) acc

/-- The value of a tally; 0 after reset (R597). -/
def State.tally (s : State) (n : Nat) : W64 := lookupD 0#64 n s.tallies
/-- A tally set. -/
def State.setTally (s : State) (n : Nat) (v : W64) : State := { s with tallies := insertK n v s.tallies }
/-- An addition to a tally, modulo 2^64 (R387, R563). -/
def State.addTally (s : State) (n : Nat) (v : W64) : State := s.setTally n (s.tally n + v)
/-- The tally condition (R388). -/
def State.tallyMet (s : State) (n : Nat) (v : W64) : Bool := (s.tally n - v).toNat < 2 ^ 63

/-- The send-route entry that a dispatch uses (R599). -/
def State.sendRoute (s : State) (ver route : Nat) : Nat :=
  lookupD 0 route (if ver == s.sendVer then s.sendRoutes else s.sendPrev)
/-- SR.VALID. -/
def srValid (e : Nat) : Bool := bit e 255
/-- SR.NOTALLY. -/
def srNoTally (e : Nat) : Bool := bit e 254
/-- SR.SOCKET. -/
def srSocket (e : Nat) : Nat := bits e 251 240
/-- SR.TALLY. -/
def srTally (e : Nat) : Nat := bits e 239 228
/-- SR.SLOT in bytes. -/
def srSlot (e : Nat) : Nat := bits e 223 200 * 64
/-- SR.SIZE in bytes. -/
def srSize (e : Nat) : Nat := bits e 191 152 * 64
/-- SR.BASE. -/
def srBase (e : Nat) : Nat := bits e 115 64

/-- A FAULT event for an arrival addition that cannot be delivered (R606). -/
def State.arrivalLost (s : State) (c dispatch accession : Nat) : State :=
  s.event ⟨0x0002, .noowner, 2, c, dispatch, at_ 128 (low 64 accession), none⟩

/-- An arrival addition at a socket (R603), remembered until it is acknowledged (R606). -/
def State.tallyAt (s : State) (sock n : Nat) (v : W64) (c dispatch accession : Nat) : State :=
  if s.self? == some sock then s.addTally n v
  else if (s.remoteFault sock).isSome then s.arrivalLost c dispatch accession
  else (s.updStream sock (fun q => { q with arrivals := q.arrivals ++ [(q.nextSeq, c, dispatch, accession)] })).post sock (.tallyInc n v)

end Sys2Proof.Machine
end

