-- ==== Sys2Proof/Machine/Desk.lean ====
section
/-! DEFINITION. The circulation desks: chunks, TAKE, the window, commits, returned and suspended tiles, pre-emption and contexts (R411 to
R431, R437, R440 to R449), and what leaves a core when a tile or a program ends. -/
namespace Sys2Proof.Machine

/-! ## Counters -/

/-- The accession number of a tile (R421). -/
def accessionOf (dispatch tile : Nat) : Nat := low 24 dispatch * 2 ^ 32 + low 32 tile

/-- Tiles above the watermark that are taken, committed or suspended, each once (R419). -/
def Counter.above (k : Counter) : List Nat :=
  ((k.taken.map Prod.fst ++ k.suspended ++ k.committed).filter (fun t => t > k.water)).dedup

/-- Whether a tile may be taken within the window (R419). -/
def Counter.room (k : Counter) (t : Nat) : Bool := t ≤ k.water || k.above.contains t || k.above.length < k.win

/-- Whether a tile holds a marked row of the mask (R240); every tile does where no mask orders them. -/
def Request.holds (q : Request) (t : Nat) : Bool := match q.marked with | some l => l.contains t | none => true

/-- Tiles of an open chunk from `t` on (R413), with fuel. Under R240 a chunk does not pass from tiles with marked rows to tiles without. -/
def chunkGo (q : Request) (target hi : Nat) : Nat → Nat → Nat → List Nat
  | 0, _, _ => []
  | f + 1, t, sum =>
    let sum' := sum + q.cost t
    if sum' ≥ target || (t + 1) % Nat.max 1 q.line == 0 || t + 1 ≥ hi || q.holds (t + 1) != q.holds t then [t]
    else t :: chunkGo q target hi f (t + 1) sum'

/-- The tile at which the next chunk starts, with the end of its unformed range: the first unformed tile (R413), under R240 the first that holds
a marked row. -/
def Counter.firstFree (k : Counter) (q : Request) : Option (Nat × Nat) :=
  match q.marked.bind (fun l => l.find? (fun t => k.unformed.any (fun r => r.1 ≤ t && t < r.2))) with
  | some t => (k.unformed.find? (fun r => r.1 ≤ t && t < r.2)).map (fun r => (t, r.2))
  | none => k.unformed.head?

/-- Ranges without the tiles `lo` to `hi - 1`. -/
def cutRanges (lo hi : Nat) (l : List (Nat × Nat)) : List (Nat × Nat) :=
  l.flatMap (fun r =>
    if hi ≤ r.1 || r.2 ≤ lo then [r]
    else (if r.1 < lo then [(r.1, lo)] else []) ++ (if hi < r.2 then [(hi, r.2)] else []))

/-- A range put in its place among ranges in rising order, joined with those that it touches. -/
def addRange (r : Nat × Nat) : List (Nat × Nat) → List (Nat × Nat)
  | [] => [r]
  | x :: l =>
    if r.2 < x.1 then r :: x :: l
    else if x.2 < r.1 then x :: addRange r l
    else addRange (Nat.min r.1 x.1, Nat.max r.2 x.2) l

/-- A chunk formed (R413): its tiles and the ranges still unformed. -/
def Counter.form (k : Counter) (q : Request) : List Nat × List (Nat × Nat) :=
  match k.firstFree q with
  | none => ([], [])
  | some (lo, hi) =>
    let c := chunkGo q k.target hi 256 lo 0
    (c, cutRanges lo (lo + c.length) k.unformed)

/-- The open chunk of a core. -/
def Counter.chunk (k : Counter) (c : Nat) : List Nat := lookupD [] c k.chunks

/-- A core's open chunk replaced; an empty one is dropped. -/
def Counter.setChunk (k : Counter) (c : Nat) (l : List Nat) : Counter :=
  { k with chunks := if l.isEmpty then eraseK c k.chunks else insertK c l k.chunks }

/-- The chunk from which a core steals (R416): the greatest untaken cost, ties to the lowest core number. -/
def Counter.victim (k : Counter) (q : Request) (c : Nat) : Option (Nat × List Nat) :=
  (k.chunks.filter (fun p => p.1 != c && !p.2.isEmpty)).foldl (fun best p =>
    match best with
    | none => some p
    | some b =>
      let x := sumNat (p.2.map q.cost)
      let y := sumNat (b.2.map q.cost)
      if y < x || (x == y && p.1 < b.1) then some p else some b) none

/-- The tile that steps 1 to 4 of R415 give a core, with the counter after it; tiles that are not available are passed over
(R415 step 6). -/
def Counter.candidate (k : Counter) (q : Request) (avail : Nat → Bool) (c : Nat) : Option (Nat × Counter) :=
  match minNat? (k.returned.filter avail) with
  | some t => some (t, { k with returned := k.returned.filter (· != t) })
  | none =>
    match k.chunk c with
    | t :: r => if avail t then some (t, k.setChunk c r) else none
    | [] =>
      match k.firstFree q with
      | some (lo, _) =>
        if avail lo then
          let f := k.form q
          some (lo, { k.setChunk c (f.1.drop 1) with unformed := f.2 })
        else none
      | none =>
        match k.victim q c with
        | some (v, l) =>
          match l.getLast? with
          | some t => if avail t then some (t, k.setChunk v l.dropLast) else none
          | none => none
        | none => none

/-- What the desk answers a TAKE. -/
inductive Serve where
  | tile (t : Nat) (k : Counter)
  | wait
  | exhausted

/-- The suspended tile that R431 reissues: the lowest that no core computes again already. -/
def Counter.reissue (k : Counter) : Option Nat :=
  minNat? (k.suspended.filter (fun t => !(k.taken.map Prod.fst).contains t && !k.returned.contains t))

/-- The tile at the watermark, where the order of R240 has left it out of every chunk: it goes before a tile that the window holds back. The
two rules would otherwise wait for each other for ever (DESIGN CHOICE, log entry 170). -/
def Counter.lowest (k : Counter) (avail : Nat → Bool) : Option (Nat × Counter) :=
  match k.unformed with
  | (lo, _) :: _ => if lo ≤ k.water && avail lo then some (lo, { k with unformed := cutRanges lo (lo + 1) k.unformed }) else none
  | [] => none

/-- The desk's answer to a TAKE (R415, R419, R431, R437). -/
def Counter.serve (k : Counter) (q : Request) (avail : Nat → Bool) (c : Nat) : Serve :=
  let again := fun (e : Serve) =>
    match k.reissue with
    | some t => Serve.tile t k
    | none => e
  if k.state == .cancelling then .exhausted
  else match k.candidate q avail c with
  | some (t, k') => if k.room t then .tile t k' else
      match k.lowest avail with
      | some (u, k2) => .tile u k2
      | none => again .wait
  | none =>
    again (if k.returned.isEmpty && k.unformed.isEmpty && k.chunks.all (fun p => p.2.isEmpty) then .exhausted else .wait)

/-- DESK.STATE follows what is left to take (R418). -/
def Counter.settle (k : Counter) : Counter :=
  if k.state == .cancelling || k.state == .idle then k
  else
    let none_ := k.unformed.isEmpty && k.returned.isEmpty && k.chunks.all (fun p => p.2.isEmpty) && k.suspended.isEmpty
    { k with state := if none_ then .draining else .active }

/-- Tiles given to a counter: unformed ranges and tiles to be taken again (R417, R426, R649). -/
def Counter.adopt (k : Counter) (free : List (Nat × Nat)) (back : List Nat) : Counter :=
  ({ k with ranges := (free ++ back.map (fun t => (t, t + 1))).foldl (fun l r => addRange r l) k.ranges
            unformed := free.foldl (fun l r => addRange r l) k.unformed
            returned := k.returned ++ back } : Counter).settle

/-- Whether a counter's window holds the tiles above its watermark (R419). -/
def Counter.fits (k : Counter) : Bool := k.above.length ≤ k.win

/-- A tile taken by a core. -/
def Counter.give (k : Counter) (t c : Nat) : Counter := { k with taken := k.taken ++ [(t, c)] }.settle
/-- A tile that a core holds no longer. -/
def Counter.drop (k : Counter) (t c : Nat) : Counter := { k with taken := k.taken.filter (fun p => p != (t, c)) }
/-- Whether a tile lies in the counter's ranges. -/
def Counter.owns (k : Counter) (t : Nat) : Bool := k.ranges.any (fun r => r.1 ≤ t && t < r.2)
/-- A tile returned to the return queue (R426), unless it is committed or the counter is being cancelled. -/
def Counter.giveBack (k : Counter) (t c : Nat) : Counter :=
  let k1 := k.drop t c
  if k.state == .cancelling || k.committed.contains t then k1.settle
  else { k1 with returned := if k1.returned.contains t then k1.returned else k1.returned ++ [t] }.settle
/-- A tile suspended with its context (R430). -/
def Counter.suspend (k : Counter) (t c : Nat) : Counter :=
  let k1 := k.drop t c
  { k1 with suspended := if k1.suspended.contains t then k1.suspended else k1.suspended ++ [t] }.settle
/-- A suspended tile held by a core again (R448). -/
def Counter.resume (k : Counter) (t c : Nat) : Counter :=
  { k with suspended := k.suspended.filter (· != t), taken := k.taken ++ [(t, c)] }.settle

/-! ## Dispatches at a desk -/

/-- An accepted dispatch by number. -/
def State.dispatch? (s : State) (n : Nat) : Option Dispatch := lookupK n s.dispatches

/-- The counter of a dispatch in a region (R555). -/
def Dispatch.counterIn (d : Dispatch) (r : Nat) : Option Nat := (d.counters.find? (fun p => p.1 == r)).map Prod.snd

/-- The counters of a dispatch with their places. -/
def State.countersOf (s : State) (d : Dispatch) : List (Nat × Nat × Counter) :=
  d.counters.filterMap (fun p => (s.counter? p.1 p.2).map (fun k => (p.1, p.2, k)))

/-- The counter to which a tile of a dispatch belongs (R417). -/
def State.homeOf (s : State) (d : Dispatch) (t : Nat) : Option (Nat × Nat × Counter) := (s.countersOf d).find? (fun p => p.2.2.owns t)

/-- Whether a tile of a dispatch is committed. -/
def State.tileDone (s : State) (d : Dispatch) (t : Nat) : Bool := (s.countersOf d).any (fun p => p.2.2.committed.contains t)

/-- Whether a tile may be computed yet: a combine tile waits for its split tiles (R437). -/
def State.available (s : State) (d : Dispatch) (t : Nat) : Bool :=
  let q := d.req
  if q.splits > 1 && t ≥ q.splits * q.outputs then
    (List.range q.splits).all (fun i => s.tileDone d (i * q.outputs + t % q.outputs))
  else true

/-- Whether a dispatch may take tiles (R540, R542, R450). -/
def Dispatch.runnable (d : Dispatch) : Bool := d.deps.isEmpty && d.ready && !d.cancelling

/-- Whether Hokuec withholds new tiles (R49, R710). -/
def State.withheld (s : State) : Bool := s.thermal || s.powerCap

/-- The desk's answer to a TAKE of a core for a dispatch. -/
def State.serveTake (s : State) (c : Nat) (d : Dispatch) : Serve :=
  match if d.dropped.contains c then none else d.counterIn (regionOf c) with
  | none => .exhausted
  | some n =>
    match s.counter? (regionOf c) n with
    | none => .exhausted
    | some k =>
      match k.serve d.req (s.available d) c with
      | .tile t k' => if s.withheld || !d.runnable then .wait else .tile t k'
      | e => e

/-- Whether the desk has a tile for a core of a dispatch. -/
def State.canServe (s : State) (c : Nat) (d : Dispatch) : Bool := match s.serveTake c d with | .tile _ _ => true | _ => false

/-- Whether a core is idle: present, in a region in service, running nothing (R441). -/
def State.idleCore (s : State) (c : Nat) : Bool :=
  let k := s.core c
  c < s.cores.length && k.present && k.dispatch.isNone && s.inService (regionOf c)

/-- The cores of a region by number. -/
def regionCores (r : Nat) : List Nat := (List.range 8).map (· + 8 * r)

/-- Whether a dispatch of a higher class that fits `only` wants a core of a region: it can be served there and finds no idle core there
(R444, read region by region: log entry 38). -/
def State.wanted (s : State) (c : Nat) (lower : Nat) (only : Nat → Bool) : Bool :=
  s.dispatches.any (fun p =>
    p.2.req.prio > lower && only p.2.req.prio && s.canServe c p.2
      && !(regionCores (regionOf c)).any (fun e => s.idleCore e && !p.2.dropped.contains e))

/-- The class that a core runs. -/
def State.prioOf (s : State) (k : Core) : Nat := match k.dispatch.bind s.dispatch? with | some d => d.req.prio | none => 0

/-- Whether pre-emption takes effect at a tile boundary of a core (R444): by NORMAL always, by URGENT in split and forerunner mode. -/
def State.boundaryPreempt (s : State) (c : Nat) : Bool :=
  let k := s.core c
  s.wanted c (s.prioOf k) (fun p => p == 1 || k.split || k.fore)

/-! ## What leaves a core -/

/-- A run admitted or pending lies in these shelves of a carrel. -/
def Run.inCore (r : Run) (c : Nat) : Bool := match r.core with | some p => p.1 == c | none => false

/-- A tile returned by a core to the desk, with what its commit would have carried dropped (R384, R426). -/
def State.returnTile (s : State) (c : Nat) : State :=
  match (s.core c).held with
  | none => s
  | some h =>
    let s1 := s.updCore c (fun k => { k with held := none })
    match s1.dispatch? h.dispatch with
    | none => s1
    | some d =>
      match s1.homeOf d h.tile with
      | some (r, n, _) => s1.updCounter r n (fun k => k.giveBack h.tile c)
      | none => s1

/-- The bytes of free values that the n-th unspecified event leaves in a run of addresses (log entry 5). -/
def freeBytes (n a len : Nat) : List Byte := (List.range len).map (fun i => Config.freeByte n (a + i))

/-- Runs of main memory left with unspecified bytes. -/
def State.freeMemory (s : State) (a len : Nat) : State :=
  let (n, s1) := s.takeFresh
  s1.writeVA a (freeBytes n a len)

/-- The writes of a core's unfinished transfers that are not known to be accepted: none when the tile that it holds was committed from
another core, since the effects of an accepted commit stay (R431, R451). -/
def State.openWrites (s : State) (k : Core) : List Undo :=
  match k.held.bind (fun h => (s.dispatch? h.dispatch).bind (fun d => (s.homeOf d h.tile).map (fun x => x.2.2.committed.contains h.tile))) with
  | some true => []
  | _ => k.inflight.flatMap Inflight.undo

/-- Bytes of a write not known to be accepted, reverted where the manual leaves it open (R452, R605). A byte that no longer holds what the write
put there was written again since, and stays (R451). -/
def State.undoWrites (s : State) (us : List Undo) : State :=
  us.foldl (fun t u =>
    let (n, t1) := t.takeFresh
    (pagePieces u.addr u.old.length).foldl (fun t p =>
      match t.page? p.1 with
      | none => t
      | some g =>
        let at_ := g.at_ * 65536 + p.1 % 65536
        let mem := if g.host then t.hostMem else t.dram
        let cut := fun (l : List Byte) => (l.drop (p.1 - u.addr)).take p.2
        let bs := ((cut u.old).zip ((cut u.new).zip (mem.readBytes at_ p.2))).zipIdx.map (fun x =>
          if x.1.2.1 == x.1.2.2 && Config.freeBit n (p.1 + x.2) then x.1.1 else x.1.2.2)
        if g.host then { t with hostMem := t.hostMem.writeBytes at_ bs } else { t with dram := t.dram.writeBytes at_ bs }) t1) s

/-! ## Commits -/

/-- A run placed in a job by its tile and flush number (R233). -/
def insertRunOf (r : Run) : List Run → List Run
  | [] => [r]
  | x :: l => if r.tile < x.tile || (r.tile == x.tile && r.seq < x.seq) then r :: x :: l else x :: insertRunOf r l

/-- The entries of a run in a carrel (R231). -/
def Core.runEntriesAt (k : Core) (d : RunDesc) : List RunEntry :=
  (chunksOf 16 (d.count + 1) (k.carrel.readBytes d.addr (16 * d.count))).map (fun b => RunEntry.ofWord (ofLe b))

/-- The least region in which a dispatch has a counter. -/
def Dispatch.lowestRegion (d : Dispatch) : Nat := (minNat? (d.counters.map Prod.fst)).getD 0

/-- A job handed its first run: it belongs to the run's dispatch (R550), goes to its region (R460), and waits for the bindery there from
then on (R33; log entry 137). -/
def State.claimJob (s : State) (job n : Nat) : State :=
  match lookupK job s.jobs with
  | none => s
  | some j =>
    if j.dispatch.isSome then s
    else
      let r := j.region.getD (match s.dispatch? n with | some d => d.lowestRegion | none => 0)
      { s with jobs := updK job (fun x => { x with dispatch := some n, region := some r }) s.jobs }.updRegion r (fun g =>
        { g with jobQueue := g.jobQueue ++ [job] })

/-- The runs of a held tile admitted to their jobs (R232). -/
def State.admitRuns (s : State) (c : Nat) (h : Held) : State :=
  h.runs.foldl (fun t d =>
    let sh := (List.range ((d.addr % shelfBytes + 16 * d.count + shelfBytes - 1) / shelfBytes)).map (· + d.addr / shelfBytes)
    let r : Run := ⟨d.tile, d.seq, (t.core d.core).runEntriesAt d, d.flags, some (d.core, sh), false, d.addr, false⟩
    let t1 := t.claimJob d.job h.dispatch
    { t1 with jobs := updK d.job (fun j => if j.finished then j else { j with runs := insertRunOf r j.runs }) t1.jobs }) (s.updCore c id)

/-- Whether a held tile's runs go to a job that is gone or belongs to another dispatch (R550). -/
def State.strangeJob (s : State) (h : Held) : Bool :=
  h.runs.any (fun d => match lookupK d.job s.jobs with
    | some j => j.dispatch.any (· != h.dispatch)
    | none => true)

/-- The arrival tallies of a landed tile (R603). -/
def State.arrivals (s : State) (c : Nat) (h : Held) (ver : Nat) : State :=
  h.sends.foldl (fun t p =>
    let e := t.sendRoute ver p.1
    if srNoTally e then t
    else t.tallyAt (srSocket e) (srTally e) (BitVec.ofNat 64 p.2) c h.dispatch h.accession) s

/-- APPEND cards written when the tile's commit lands (R212). -/
def State.landCards (s : State) (h : Held) : State :=
  h.cards.foldl (fun t w =>
    let bs := leBytes 32 w.card
    if w.sock == localSock || t.self? == some w.sock then t.sysWrite (BitVec.ofNat 64 w.addr) bs
    else t.postWrite w.sock w.addr bs) s

/-- A commit offered to the desk (R424, R425): the state after it and whether it landed. -/
def State.offer (s : State) (c : Nat) (h : Held) : State × Bool :=
  match s.dispatch? h.dispatch with
  | none => (s, false)
  | some d =>
    match s.homeOf d h.tile with
    | none => (s, false)
    | some (r, n, k) =>
      if k.state == .cancelling || d.cancelling then (s, false)
      else if k.committed.contains h.tile then
        ((s.updCounter r n (fun q => { q.drop h.tile c with superseded := q.superseded + 1 })).updDispatch d.number (fun e =>
          { e with superseded := e.superseded + 1 }), false)
      else
        let s1 := s.updCounter r n (fun q =>
          { q.drop h.tile c with committed := insertSet h.tile q.committed, suspended := q.suspended.filter (· != h.tile),
                                 returned := q.returned.filter (· != h.tile) }.settle)
        let s2 := s1.updDispatch d.number (fun e =>
          { e with committed := e.committed + 1, flags := e.flags ||| h.flags, skipped := e.skipped + h.skipped,
                   audited := e.audited + h.audited, misses := e.misses + h.misses })
        ((((s2.landCards h).admitRuns c h).arrivals c h d.routeVer), true)
where
  /-- A number added to a rising list without repeats. -/
  insertSet (t : Nat) : List Nat → List Nat
    | [] => [t]
    | x :: r => if t < x then t :: x :: r else if t = x then x :: r else x :: insertSet t r

/-! ## TAKE -/

/-- The held tile that a TAKE gives. -/
def heldOf (d : Dispatch) (r n t : Nat) : Held :=
  ⟨accessionOf d.number t, t, d.number, r, n, [], [], false, [], 0, 0, 0, 0⟩

/-- The code of a tile of the device's own program (R403). -/
def State.codeFor (s : State) (d : Dispatch) (c : Contraction) (t : Nat) : List TileInstr :=
  match s.desc? (some d.number) (ownHandle slA), s.desc? (some d.number) (ownHandle slB), s.desc? (some d.number) (ownHandle slC) with
  | some a, some b, some cd =>
    d.req.tileCode c a b cd (s.desc? (some d.number) c.pre) t
  | _, _, _ => []

/-- The eight registers from XD written (R381). -/
def Core.takeRegs (k : Core) (xd : Nat) (vs : List W64) : Core := vs.zipIdx.foldl (fun q p => q.setX (xd + p.2) p.1) k

/-- A tile given to a core: its registers, the held tile, and the code of the device's own program. -/
def State.giveTile (s : State) (c xd : Nat) (d : Dispatch) (t : Nat) (k' : Counter) : State :=
  let r := regionOf c
  let n := (d.counterIn r).getD 0
  let replay := match s.counter? r n with | some k => k.returned.contains t | none => false
  let own := d.req.contract.map (fun x => ownProgram (some (s.codeFor d x t)))
  let s1 := (s.updCounter r n (fun _ => k'.give t c)).updDispatch d.number (fun e =>
    { e with replayed := e.replayed + b2n replay })
  s1.updCore c (fun k =>
    { k.takeRegs xd (d.req.registers t) with held := some (heldOf d r n t), runSeq := 0, mism := [], begun := 0, own := own.getD k.own,
                                             ownChain := match d.req.contract with | some x => x.ownChain | none => none })

/-- An exhausted counter reported to a core (R381). -/
def State.giveNone (s : State) (c xd : Nat) : State :=
  s.updCore c (fun k => { k.takeRegs xd exhaustedRegs with own := if k.own.isEmpty then [] else ownProgram none })

/-- The first TAKE of a core marked as answered (R443). -/
def State.answered (s : State) (c : Nat) (d : Dispatch) : State :=
  match d.counterIn (regionOf c) with
  | some n => s.updCounter (regionOf c) n (fun k => { k with starts := k.starts.map (fun p => if p.1 == c then (c, true) else p) })
  | none => s

/-- The desk answers a core's TAKE, or says what it waits for. -/
def State.answerTake (s : State) (c xd : Nat) (d : Dispatch) : State ⊕ Wait :=
  match s.serveTake c d with
  | .tile t k' => .inl ((s.giveTile c xd d t k').answered c d)
  | .exhausted => .inl ((s.giveNone c xd).answered c d)
  | .wait => .inr .take

/-- Whether a TAKE of a lower core number of the region waits for the same counter and can be served: it goes first (R419). -/
def State.lowerWaits (s : State) (c : Nat) (d : Dispatch) : Bool :=
  (regionCores (regionOf c)).any (fun e =>
    e < c && (s.core e).wait == some .take && (s.core e).dispatch == some d.number && s.canServe e d)

/-- Whether the first TAKE of a core is still held by the spacing of R443. -/
def State.staggered (s : State) (c : Nat) (d : Dispatch) : Bool :=
  match (d.counterIn (regionOf c)).bind (s.counter? (regionOf c)) with
  | some k => k.stagger != 0 && (match k.starts.findIdx? (fun p => p.1 == c) with
      | some j => j != 0 && (match k.starts[j]? with | some p => !p.2 | none => false)
      | none => false)
  | none => false

/-! ## Contexts -/

/-- Whether a carrel byte belongs to a run that the held tile has made (R231, R373). -/
def Core.inHeldRun (k : Core) (a : Nat) : Bool :=
  match k.held with
  | some h => h.runs.any (fun r => r.addr ≤ a && a < r.addr + 16 * r.count)
  | none => false

/-- The carrel of a saved context: the shelves below a limit that carry an object, and the runs that go with the held tile (R402, R447; log
entry 164). -/
def Core.savedCarrel (k : Core) (limit : Nat) : Mem :=
  k.carrel.filter (fun c => (c.1 / shelfBytes < limit && (k.tag (c.1 / shelfBytes)).fmt != 0) || k.inHeldRun c.1)

/-- The context of a core (R447): what a save keeps of it. -/
def Core.context (k : Core) (limit : Nat) : Core :=
  let whole := (lookupK 4 k.recs).isSome
  { k with carrel := k.savedCarrel limit, tags := k.tags.filter (fun p => p.1 < limit && p.2.fmt != 0), wait := none,
           acc := if whole then k.acc else [], recs := k.recs.filter (fun p => p.1 == 4), stat := [], statNext := [], mism := k.mism.map (fun m => (m.1, m.2.1, 0)), again := none, lfsr := [], foreShelves := [] }

/-- Bytes that a save writes (R447). -/
def Core.contextBytes (k : Core) : Nat :=
  k.tags.length * shelfBytes
    + (match k.held with | some h => sumNat (h.runs.map (fun r => 16 * r.count)) | none => 0)
    + (match lookupK 4 k.recs with | some t => accImageBytes t.m t.n (if t.mode == 1 then 1 else 0) | none => 0)

/-- A core's context saved in its region and the core left idle (R445 to R447). -/
def State.saveContext (s : State) (c : Nat) : State :=
  let k := s.core c
  let x := k.context (s.shelvesOf k)
  let n := k.dispatch.getD 0
  let s1 := match k.held with
    | some h => match (s.dispatch? h.dispatch).bind (fun d => s.homeOf d h.tile) with
      | some (r, m, _) => s.updCounter r m (fun q => q.suspend h.tile c)
      | none => s
    | none => s
  let s2 := s1.updRegion (regionOf c) (fun g => { g with contexts := g.contexts ++ [⟨n, s.prioOf k, s.nextOrder, x⟩] })
  { (s2.count 1 (lineBytes 0 x.contextBytes)) with nextOrder := s.nextOrder + 1 }.updCore c (fun k => { k.leave with freed := true })

/-- The context that an idle core of a region resumes (R441): the highest class, then the earliest. -/
def Region.nextContext (g : Region) : Option Context :=
  g.contexts.foldl (fun best x =>
    match best with
    | none => some x
    | some b => if b.prio < x.prio || (b.prio == x.prio && x.order < b.order) then some x else some b) none

/-- A saved context put on core number `c` (R448): the restored shelves over what the carrel held, every other shelf without a tag; the
held tile's runs lie in this core's carrel from now on. -/
def Core.restore (k x : Core) (c : Nat) : Core :=
  { x with power := k.power, present := k.present, spare := k.spare, repair := k.repair, sparseFenced := k.sparseFenced, lfsr := k.lfsr,
           stat := k.stat, statNext := k.statNext, again := k.again,
           held := x.held.map (fun h => { h with runs := h.runs.map (fun r => { r with core := c }) }), nextIdx := Nat.max k.nextIdx x.nextIdx, split := false, fore := false, wait := none, stopped := none, freed := false,
           carrel := Mem.overlay (k.carrel.filter (fun c => (x.tag (c.1 / shelfBytes)).fmt == 0 && !x.inHeldRun c.1)) x.carrel, phase := x.phase }

/-! ## Program start -/

/-- The state of a core at the start of a program (R334). -/
def Core.start (k : Core) (d : Dispatch) (slots : List Nat) (entry : Nat) (own : List TileInstr) : Core :=
  { k with dispatch := some d.number, slots := slots,
           x := (List.range 32).map (fun i => if 1 ≤ i && i ≤ 15 then (d.req.params[i - 1]?).getD 0#64 else 0#64),
           tags := [], loops := [], bankA := none, bankB := none, choice := none, recs := [], held := none, phase := .load, pc := entry,
           own := own, ownChain := none, wait := none, stopped := none, inflight := [], prog := [], runSeq := 0, foreShelves := [],
           mism := [], begun := 0, drained := [], fore := false, freed := false }

/-- A dispatch's program started on a core (R427, R441, R442): at IMG.ENTRY with the state of R334. -/
def State.startProgram (s : State) (c : Nat) (d : Dispatch) : State :=
  match d.req.contract with
  | some x => s.updCore c (fun k => k.start d (ownSlots x) 0 (ownProgram none))
  | none =>
    match lookupK d.req.program s.programs with
    | none => s
    | some p => (s.count 0 (lineBytes 0 p.size)).updCore c (fun k => k.start d d.req.slots p.entry [])

/-- The core recorded among those that started the dispatch in its region (R443). -/
def State.recordStart (s : State) (c : Nat) (d : Dispatch) : State :=
  match d.counterIn (regionOf c) with
  | some n => s.updCounter (regionOf c) n (fun k =>
      { k with starts := if k.starts.any (fun p => p.1 == c) then k.starts else k.starts ++ [(c, false)] })
  | none => s

/-- The dispatch that an idle core starts (R441): the highest class among those that the desk can serve, then the earliest accepted. -/
def State.nextDispatch (s : State) (c : Nat) : Option Dispatch :=
  (s.dispatches.filter (fun p => s.canServe c p.2)).foldl (fun best p =>
    match best with
    | none => some p.2
    | some b => if b.req.prio < p.2.req.prio || (b.req.prio == p.2.req.prio && p.2.order < b.order) then some p.2 else some b) none

/-! ## Rows -/

/-- TAKE (R381, R382, R415, R443, R445). -/
def doTake (c : Nat) (s : State) (i : TileInstr) : Issue :=
  match i with
  | .take xd ctr =>
    let k := s.core c
    match k.dispatch.bind s.dispatch? with
    | none => .hold .take
    | some d =>
      if k.held.isSome then .fail .held 0 0
      else if ctr != 0 then .fail .handle 0 0
      else if s.boundaryPreempt c && (d.req.restart || !k.split) then
        if d.req.restart then .go (s.giveNone c xd)
        else if k.inflight.any (fun f => f.stop.isNone) then .hold .engine else .jump (s.saveContext c)
      else if s.staggered c d then .hold .stagger
      else if s.lowerWaits c d then .hold .take
      else match s.answerTake c xd d with
      | .inl t => .go t
      | .inr w => .hold w
  | _ => .hold .event

/-- TAKE as a row. -/
def execTake (core : Nat) (s : State) : Out :=
  s.tryIssue core (fun i => match i with | .take .. => true | _ => false) (doTake core)

/-- A waiting TAKE answered by the desk, when it can be. -/
def State.serveWaiting (s : State) (c : Nat) (want : Wait) (ok : Dispatch → Bool) : Out :=
  if c ≥ s.cores.length then .fault (.noSuchUnit c)
  else
    let k := s.core c
    match s.instrAt k, k.dispatch.bind s.dispatch? with
    | .take xd _, some d =>
      if !s.ready c || k.wait != some want || !ok d then .next s
      else if s.boundaryPreempt c && (d.req.restart || !k.split) then
        if d.req.restart then .next (s.carry c (.go (s.giveNone c xd)))
        else if k.inflight.any (fun f => f.stop.isNone) then .next s else .next (s.saveContext c)
      else if s.lowerWaits c d then .next (s.carry c (.hold .take))
      else match s.answerTake c xd d with
      | .inl t => .next (s.carry c (.go t))
      | .inr w => .next (s.carry c (.hold w))
    | _, _ => .next s

/-- TAKE_SERVED (R419, R437): the desk serves a TAKE that waited on the window or for a combine tile. -/
def execTakeServed (core : Nat) (s : State) : Out := s.serveWaiting core .take (fun _ => true)

/-- FIRST_TAKE_STAGGER_ELAPSED (R443): not before the first core's TAKE was answered. -/
def execFirstTakeStaggerElapsed (core : Nat) (s : State) : Out :=
  s.serveWaiting core .stagger (fun d =>
    match (d.counterIn (regionOf core)).bind (s.counter? (regionOf core)) with
    | some k => (match k.starts with | p :: _ => p.2 | [] => true)
    | none => true)

/-- COMMIT (R383): waits for every issued instruction, then for the desk. -/
def doCommit (c : Nat) (s : State) (_ : TileInstr) : Issue :=
  let k := s.core c
  if k.held.isNone then .fail .held 0 0
  else if !k.inflight.isEmpty then .hold .commit else .hold .offer

/-- COMMIT as a row. -/
def execCommit (core : Nat) (s : State) : Out :=
  s.tryIssue core (fun i => match i with | .commit .. => true | _ => false) (doCommit core)

/-- COMMIT_OFFER (R383, R424): the desk accepts the offered commit. -/
def execCommitOffer (core : Nat) (s : State) : Out :=
  if core ≥ s.cores.length then .fault (.noSuchUnit core)
  else
    let k := s.core core
    match s.instrAt k, k.held with
    | .commit xd, some h =>
      if !s.ready core || !(k.wait == some .commit || k.wait == some .offer) || !k.inflight.isEmpty then .next s
      else if s.strangeJob h then .next (s.carry core (.fail .handle 0 0))
      else
        let r := s.offer core h
        let v : W64 := if !r.2 then 1 else if h.nofit then 2 else 0
        .next (r.1.carry core (.go (r.1.updCore core (fun q => { q.setX xd v with held := none, mism := [] }))))
    | _, _ => .next s

/-- YIELD (R384, R445). -/
def doYield (c : Nat) (s : State) (_ : TileInstr) : Issue :=
  let k := s.core c
  match k.held with
  | some _ => .go (s.returnTile c)
  | none =>
    match k.dispatch.bind s.dispatch? with
    | some d => if !s.boundaryPreempt c || d.req.restart || k.split then .go s
      else if k.inflight.any (fun f => f.stop.isNone) then .hold .engine else .jump (s.saveContext c)
    | none => .go s

/-- YIELD as a row. -/
def execYield (core : Nat) (s : State) : Out :=
  s.tryIssue core (fun i => match i with | .yield => true | _ => false) (doYield core)

/-- PREEMPT_MID_TILE (R444, R446, R507): an URGENT dispatch takes a core in whole-array mode; a transfer stopped at a translation fault
counts as completed. -/
def execPreemptMidTile (core : Nat) (poolFull : Bool) (s : State) : Out :=
  if core ≥ s.cores.length then .fault (.noSuchUnit core)
  else
    let k := s.core core
    if !s.ready core || k.split || k.fore || !k.inflight.all (fun f => f.stop.isSome) || !s.wanted core (s.prioOf k) (fun p => p == 2) then
      .next s
    else if poolFull then
      let n := k.dispatch.getD 0
      let s1 := if k.held.isSome then s.updDispatch n (fun d => { d with abandoned := d.abandoned + 1 }) else s
      .next ((s1.returnTile core).updCore core (fun q => { q.leave with freed := true }))
    else .next (s.saveContext core)

/-- TILE_RANGE_MOVE (R417): unformed tiles from the end of one counter's range go to another counter of the same dispatch, where its window
still holds what stands above its watermark then (R419). -/
def execTileRangeMove (fromRegion fromCounter toRegion toCounter count : Nat) (s : State) : Out :=
  if fromRegion ≥ s.regions.length then .fault (.noSuchUnit fromRegion)
  else if toRegion ≥ s.regions.length then .fault (.noSuchUnit toRegion)
  else match s.counter? fromRegion fromCounter, s.counter? toRegion toCounter with
  | some a, some b =>
    match a.unformed.getLast? with
    | some (lo, hi) =>
      let same := a.ranges.any (fun r => r.1 ≤ lo && hi == r.2)
      if !s.running || a.dispatch != b.dispatch || (fromRegion, fromCounter) == (toRegion, toCounter) || count == 0 || hi - lo < count
          || !same || a.state == .cancelling || b.state == .cancelling then .next s
      else
        let cut := hi - count
        let ranges := a.ranges.flatMap (fun r =>
          if r.1 ≤ lo && hi ≤ r.2 then (if r.1 < cut then [(r.1, cut)] else []) ++ (if hi < r.2 then [(hi, r.2)] else []) else [r])
        let b1 := b.adopt [(cut, hi)] []
        if !b1.fits then .next s
        else
          let s1 := s.updCounter fromRegion fromCounter (fun k =>
            { k with unformed := k.unformed.dropLast ++ (if lo < cut then [(lo, cut)] else []), ranges := ranges }.settle)
          .next (s1.updCounter toRegion toCounter (fun _ => b1))
    | none => .next s
  | _, _ => .next s

end Sys2Proof.Machine
end

