-- ==== Sys2Proof/Machine/Contain.lean ====
section
/-! DEFINITION. Containment of errors in a core: fencing, quarantine and spare cores (R142, R426, R427, R643 to R645), and the
events of mismatches and repairs (R655). -/
namespace Sys2Proof.Machine

/-- The accession number of the tile that a core holds, 0 for none. -/
def Core.accession (k : Core) : Nat := match k.held with | some h => h.accession | none => 0

/-- A service event of a core (R655). -/
def State.coreEvent (s : State) (c code body : Nat) (st : St := .ok) : State :=
  s.event ⟨code, st, 0, c, (s.core c).dispatch.getD 0, body, none⟩

/-- A core quarantined (R427, R644): it stops, its tile `acc` is returned, and the region's spare takes its number and starts its
program afresh, where one is left. -/
def State.quarantine (s : State) (c : Nat) (cause : QuarCause) (acc : Nat) : State :=
  let r := regionOf c
  let d := (s.core c).dispatch.bind s.dispatch?
  let s1 := s.returnTile c
  let g := s1.region r
  let spare := g.spareOk && !g.spareUsed
  let word := lookupD 0 r s.fuses.spareRepair
  let s2 :=
    if spare then
      let t := (s1.updRegion r (fun g => { g with spareUsed := true })).updCore c (fun _ => Core.fresh (.ofWord word) true true)
      match d with
      | some x => if x.cancelling then t else (t.startProgram c x).recordStart c x
      | none => t
    else s1.updCore c (fun k => { k.leave with present := false, tags := [], recs := [] })
  s2.event ⟨0x0016, .ok, 0, c, (s.core c).dispatch.getD 0, cause.code + at_ 4 (b2n spare) + at_ 64 (low 64 acc), none⟩

/-- An engine of a core fenced (R142, R642, R643): the tile is returned and the core quarantined at once. -/
def State.fence (s : State) (c : Nat) (sparse : Bool) : State :=
  let acc := (s.core c).accession
  let s1 := s.updCore c (fun k =>
    if sparse then { k with sparseFenced := true } else { k with repair := { k.repair with fenced := true, pending := [] } })
  let s2 := (s1.coreEvent c 0x0015 (b2n sparse + at_ 64 (low 64 acc))).returnTile c
  s2.quarantine c .fence acc

/-- Flags and counts of a tile recorded with the held tile, for its commit (R79, R187, R243); without one they go to the dispatch at once. -/
def State.noteFlags (s : State) (c flags skipped audited misses : Nat) : State :=
  match (s.core c).held with
  | some _ => s.updCore c (fun k => { k with held := k.held.map (fun h =>
      { h with flags := h.flags ||| flags, skipped := h.skipped + skipped, audited := h.audited + audited, misses := h.misses + misses }) })
  | none =>
    match (s.core c).dispatch with
    | some n => s.updDispatch n (fun d =>
        { d with flags := d.flags ||| flags, skipped := d.skipped + skipped, audited := d.audited + audited, misses := d.misses + misses })
    | none => s

/-- A MISMATCH event (R655). -/
def State.mismatchEvent (s : State) (c q : Nat) (sparse : Bool) (m : Mismatch) (step : Nat) : State :=
  s.coreEvent c 0x0013 (q + at_ 3 (b2n sparse) + at_ 4 (low 7 m.row) + at_ 11 step + at_ 13 (b2n m.residue)
    + at_ 64 (low 64 (s.core c).accession))

/-- A REPAIR event (R655). -/
def State.repairEvent (s : State) (c : Nat) (command : Bool) (st : St := .ok) : State :=
  s.coreEvent c 0x0014 ((s.core c).repair.word + at_ 32 (b2n command)) st

/-- Whether a spare row is free for another repair (R143); a pending repair has its own. -/
def Repair.free (r : Repair) : Bool := b2n r.sp0.isSome + b2n r.sp1.isSome + r.pending.length < 2

/-- A spare row switched in, spare 0 first (R146). -/
def Repair.switch (r : Repair) (row : Nat) : Repair :=
  if r.sp0.isNone then { r with sp0 := some row } else if r.sp1.isNone then { r with sp1 := some row } else r

/-- The pending repairs switched in together (R146). -/
def Repair.switchAll (r : Repair) : Repair := { r.pending.foldl (fun q p => q.switch p.1) r with pending := [] }

/-- Whether a spare is active, with the retime of R138. -/
def Repair.retime (r : Repair) : Bool := r.sp0.isSome || r.sp1.isSome

/-- What the mismatches of an instruction's runs come to (R142, R641, R642). -/
inductive Verdict where
  /-- the last run stands -/
  | stands
  /-- the tile is returned and the program starts again (R641) -/
  | restart
  /-- a repair waits for the tile boundary, then the instruction runs again -/
  | repair
  /-- the engine is fenced -/
  | fence
  deriving DecidableEq, Repr

/-- The mismatches of successive runs of an instruction answered in order: the state, the verdict, and how many runs were made. `cont` says
that the start cannot be restored (R641). -/
def State.judge (c q : Nat) (sparse cont : Bool) : List Mismatch → State → Nat → State × Verdict × Nat
  | [], s, runs => (s, .stands, runs)
  | m :: r, s, runs =>
    let key := if sparse then 5 else q
    let old := lookupD (0, 0) key (s.core c).mism
    let n := old.2 + 1
    let s1 := (s.updCore c (fun k => { k with mism := insertK key (old.1, n) k.mism })).mismatchEvent c q sparse m (Nat.min n 3)
    if n == 1 then if cont then (s1, .restart, runs) else State.judge c q sparse cont r s1 (runs + 1)
    else if sparse || n ≥ 3 then (s1, .fence, runs)
    else if !(s1.core c).repair.free then
      let s2 := s1.updCore c (fun k => { k with repair := { k.repair with exhausted := true } })
      (s2.repairEvent c false .exhausted, .fence, runs)
    else
      (s1.updCore c (fun k => { k with repair := { k.repair with pending := k.repair.pending ++ [(m.row, false)] } }), if cont then .restart else .repair, runs)

/-- The held tile returned and the program started again on the same core, which keeps the tile's counts of mismatches (R641). -/
def State.restartProgram (s : State) (c : Nat) : State :=
  let kept := (s.core c).held.map (fun h => (h.accession, (s.core c).mism))
  let s1 := (s.returnTile c).updCore c (fun k => { k with inflight := [], recs := [], wait := none })
  (match (s1.core c).dispatch.bind s1.dispatch? with
  | some d => s1.startProgram c d
  | none => s1).updCore c (fun k => { k with again := kept })

/-- An instruction tile begun on an engine: it is the next of the held tile, and has the mismatches that R641 kept for it, or none
(R641; log entry 163). -/
def Core.beginTile (k : Core) (key : Nat) : Core :=
  let n := match k.again, k.held with
    | some (acc, l), some h => if acc == h.accession && (lookupD (0, 0) key l).1 == k.begun then (lookupD (0, 0) key l).2 else 0
    | _, _ => 0
  { k with begun := k.begun + 1, mism := insertK key (k.begun, n) k.mism }

/-- The places of `len` bytes, 16 B apart, that a spill area of `size` bytes has between the runs it holds, given as offsets and lengths
in rising order: for each gap its first place and how many it has. -/
def spillGaps (size len : Nat) : Nat → List (Nat × Nat) → List (Nat × Nat)
  | from_, [] => if from_ + len ≤ size then [(from_, (size - len - from_) / 16 + 1)] else []
  | from_, (o, l) :: r =>
    let rest := spillGaps size len (Nat.max from_ (o + l)) r
    if from_ + len ≤ o then (from_, (o - len - from_) / 16 + 1) :: rest else rest

/-- The n-th place of a list of gaps. -/
def gapAt : List (Nat × Nat) → Nat → Option Nat
  | [], _ => none
  | (o, m) :: r, n => if n < m then some (o + 16 * n) else gapAt r (n - m)

/-- Where a run of `len` bytes goes in a job's spill area: a place that no run of the job in memory takes; which one the manual leaves open
(R236; log entry 28). -/
def Job.spillPlace (j : Job) (a : Alloc) (n len : Nat) : Option Nat :=
  let used := ((j.runs.filter (fun r => r.inmem)).map (fun r => (r.addr - a.base, 16 * r.entries.length))).mergeSort (fun x y => x.1 ≤ y.1)
  let gaps := spillGaps (a.pages * 65536) len 0 used
  let total := sumNat (gaps.map Prod.snd)
  if total = 0 then none else (gapAt gaps (Config.freeNat n % total)).map (· + a.base)

/-- A committed run written from its carrel to its job's spill area, with RUN.INMEM set and its address kept (R236); where the area has
no room left the run keeps its place (log entry 28). -/
def State.spillRun (s : State) (job i : Nat) : State :=
  match lookupK job s.jobs with
  | none => s
  | some j =>
    let (n, s1) := s.takeFresh
    let bytes := match j.runs[i]? with | some r => r.entries.flatMap (fun (e : RunEntry) => leBytes 16 e.word) | none => []
    match (lookupK j.spill s1.allocs).bind (fun a => j.spillPlace a n bytes.length) with
    | some at_ =>
      let s2 := s1.writeVA at_ bytes
      { s2 with jobs := updK job (fun x => { x with runs := updateAt x.runs i (fun r =>
          { r with core := none, buffered := false, addr := at_, inmem := true }) }) s2.jobs }
    | none => { s1 with jobs := updK job (fun x => { x with runs := updateAt x.runs i (fun r => { r with core := none }) }) s1.jobs }

/-- Shelves of a carrel about to be written: the committed runs that lie in them are spilled first (R236). -/
def State.reuse (s : State) (c : Nat) (shs : List Nat) : State :=
  s.jobs.foldl (fun t j => j.2.runs.zipIdx.foldl (fun u r =>
    match r.1.core with
    | some p => if p.1 == c && p.2.any shs.contains then u.spillRun j.1 r.2 else u
    | none => u) t) s

end Sys2Proof.Machine
end

