-- ==== Sys2Proof/Machine/Engines.lean ====
section
/-! DEFINITION. MMA, SPMA, SPGE and EWISE DIAG as instructions: issue checks and waits (R109 to R137, R345, R370 to R374), their effect,
overflow reruns (R166 to R170), mismatches and the repair switch (R140 to R142). -/
namespace Sys2Proof.Machine

/-! ## Units -/

/-- Whether an MMA gives slices to the sparse engine (R213, R218, R371). -/
def Core.usesSparse (k : Core) (f : MF) : Bool :=
  f.qtr == 4 && f.flow == 0 && f.mode != 2 &&
    (f.eng == 2 || (f.eng == 0 && (f.cardA || f.cardB) &&
      (match k.choice with | some c => !c.sparse.isEmpty && (f.mode == 0 || c.wide) | none => false)))

/-- The engines that an instruction occupies (R345): quarters 0 to 3, the array 4, the sparse engine 5, the drain unit 6, the drain of
a quarter 8 and up (R322). -/
def Core.unitsOf (k : Core) (i : TileInstr) : List Nat :=
  match i with
  | .mma f => f.qtr :: (if k.usesSparse f then [5] else [])
  | .spma _ => [5]
  | .spge _ => [5]
  | .ewiseDiag f => [f.qtr]
  | .ewiseChain .. | .reduce .. | .reduceSplitk .. => [6]
  | .drain _ _ _ q => [if q == 4 then 6 else 8 + q]
  | .drainPartial _ _ q => [if q == 4 then 6 else 8 + q]
  | .setx .. | .addx .. | .loop .. | .br .. | .load .. | .store .. | .gather .. | .scatter .. | .loadcard .. | .take .. | .commit ..
  | .yield | .send .. | .tally .. | .wait .. | .fence | .halt | .dbg .. => []

/-- The issued instructions on an engine. -/
def Core.onUnit (k : Core) (u : Nat) : List Inflight := k.inflight.filter (fun f => (k.unitsOf f.instr).contains u)

/-- Whether an engine of an instruction holds a running and a waiting instruction already, or has a rerun or a re-execution due
(R123, R345). -/
def Core.unitBusy (k : Core) (i : TileInstr) : Bool :=
  (k.unitsOf i).any (fun u => let l := k.onUnit u; l.length ≥ 2 || l.any (fun f => f.rerun || f.redo))

/-- Whether an instruction of the array or a quarter has not completed. -/
def Core.arrayBusy (k : Core) : Bool := k.inflight.any (fun f => (k.unitsOf f.instr).any (· ≤ 4))

/-- The array's tile boundary: no tile is in progress in the whole array or in any quarter, but for one that a pending repair stopped
(R140; log entry 167). -/
def Core.boundary (k : Core) : Bool := k.inflight.all (fun f => !(k.unitsOf f.instr).any (· ≤ 4) || f.redo)

/-- Whether an instruction works on the whole-array record from the sparse engine: SPMA, or SPGE in TILE (R373). -/
def tileSparse (i : TileInstr) : Bool :=
  match i with
  | .spma _ => true
  | .spge f => f.flow == 0
  | _ => false

/-- Whether an instruction works on accumulators: a tile of the array or of the sparse engine, or what takes a tile out of them or puts one
there (R26). -/
def onAccumulators (k : Core) (i : TileInstr) : Bool :=
  (k.unitsOf i).any (· ≤ 4) || tileSparse i || (match i with | .drain .. | .drainPartial .. | .reduceSplitk _ _ _ true => true | _ => false)

/-- Whether the accumulators are in use by an instruction that has not completed (R26). -/
def Core.accBusy (k : Core) : Bool := k.inflight.any (fun f => onAccumulators k f.instr)

/-! ## Fields of an instruction tile -/

/-- Rows of an instruction tile. -/
def tileM (f : MF) : Nat := (if f.qtr == 4 then 128 else 64) * (f.mc + 1)
/-- Columns of an instruction tile. -/
def tileN (f : MF) : Nat := (if f.qtr == 4 then 128 else 64) * (f.nc + 1)
/-- The K range (M.XK). -/
def Core.kLen (k : Core) (f : MF) : Nat := bits (k.xr f.xk).toNat 31 0
/-- The first K-step within the operand objects (M.XK). -/
def Core.kFirst (k : Core) (f : MF) : Nat := bits (k.xr f.xk).toNat 63 32
/-- The tile control word (R368). -/
def Core.tcw (k : Core) (f : MF) : Nat := (k.xr f.xv).toNat
/-- TCW.VM. -/
def tcwVm (w : Nat) : Nat := bits w 15 0
/-- TCW.VN. -/
def tcwVn (w : Nat) : Nat := bits w 31 16
/-- TCW.AUDIT. -/
def tcwAudit (w : Nat) : Nat := bits w 39 35
/-- TCW.SPILL. -/
def tcwSpill (w : Nat) : Nat := bits w 47 40
/-- TCW.MASK. -/
def tcwMask (w : Nat) : Nat := bits w 55 48

/-- K-steps that an operand object holds (R356, R718). -/
def Tag.kExt (t : Tag) : Nat := if t.role == roleKouter then t.e1 else t.e0
/-- Positions that an operand object holds. -/
def Tag.posExt (t : Tag) : Nat := if t.role == roleKouter then t.e0 else t.e1

/-- The dimension of the tensor along K, for an operand object (R207, R356, R718); a stream follows its descriptor. -/
def Tag.kAxis (t : Tag) (any_ : Nat) : Nat :=
  if t.role == roleKouter then (if t.inter then 0 else 1) else if t.role == roleKinner then 0 else any_

/-- The roles of A and B (R96, R222, R370 check 3): `kind` is 0 MMA, 1 SPMA, 2 SPGE. -/
def rolesOk (kind : Nat) (f : MF) (a b : Tag) : Bool :=
  let pair := fun (x y : Nat) => a.role == x && b.role == y
  match kind with
  | 1 => pair roleStream roleKouter
  | 2 => pair roleStream roleStream
  | _ =>
    if f.flow == 1 then pair roleKinner roleKouter
    else if f.flow == 2 then pair roleKouter roleKinner
    else pair roleKouter roleKouter

/-- The stream that a slice on the sparse engine reads (R361, R371): the object itself, or the one its TAG.LINK names. -/
def Core.streamOf (k : Core) (limit sh : Nat) (t : Tag) : Option (Nat × Tag) :=
  if t.role == roleStream then some (sh, t)
  else match k.object limit t.link with
    | .inl u => if u.role == roleStream then some (t.link, u) else none
    | .inr _ => none

/-- Whether a preload object covers the tile (R153, R370 check 5). -/
def preCovers (kind vm vn : Nat) (t : Tag) : Bool :=
  match kind with
  | 0 => t.e0 ≥ vn && t.e1 ≥ 1
  | 1 => t.e0 ≥ vm && t.e1 ≥ 1
  | _ => t.e0 ≥ vn && t.e1 ≥ vm

/-- Whether a bank holds the cards of the tile for an operand (R370 check 8). -/
def bankOk (b : Option Bank) (size kEnd : Nat) (t : Tag) : Bool :=
  match b with
  | some x => x.groups ≥ ceilDiv size 128 && x.slices ≥ ceilDiv kEnd 128 && x.kaxis == t.kAxis x.kaxis
  | none => false

/-- The issue checks of R370 for MMA, SPMA and SPGE in TILE, with R126, R132 and R371, in their order. An operand's group width is no
check of R370: values are read by position from the object's own layout (log entry 37). -/
def Core.mmaCheck (k : Core) (limit kind : Nat) (f : MF) : Option St :=
  let kl := k.kLen f
  let k0 := k.kFirst f
  let w := k.tcw f
  let vm := tcwVm w
  let vn := tcwVn w
  let bad1 := (kind != 0 && f.qtr != 4) || (f.mode == 2 && (f.qtr == 4 || f.flow != 1 || kind != 0)) || (k.fore && f.mode != 2)
    || (f.mode == 1 && f.flow != 0)
  let bad2 := kl == 0 || kl % 32 != 0 || (f.mode == 1 && f.nc > 1) || vm > (tileM f) || vn > (tileN f)
  if bad1 then some .mode
  else if bad2 then some .shape
  else match k.object limit f.sa, k.object limit f.sb with
  | .inr e, _ => some e
  | _, .inr e => some e
  | .inl a, .inl b =>
    let preT := if f.start == 1 then (match k.object limit f.sp with | .inl t => some (some t) | .inr _ => some none) else none
    let preE := match preT with
      | some (some t) => if t.role == roleData then none else some St.layout
      | some none => (match k.object limit f.sp with | .inr e => some e | .inl _ => none)
      | none => none
    let sparse := kind != 0 || k.usesSparse f
    if !rolesOk kind f a b then some .layout
    else if preE.isSome then preE
    else if !isElemFmt a.fmt || !isElemFmt b.fmt || isIntFmt a.fmt != isIntFmt b.fmt then some .format
    else if f.mode == 1 && !(canScale a.fmt && canScale b.fmt) then some .format
    else if f.mode == 2 && !(a.fmt == 0x08 && b.fmt == 0x08) then some .mode
    else if (match preT with | some (some t) => !isVecFmt t.fmt || (f.mode == 2 && t.fmt == 0x09) | _ => false) then some .format
    else if k0 + kl > a.kExt || k0 + kl > b.kExt || ceilDiv vm (groupW a.gw) > ceilDiv a.posExt (groupW a.gw)
        || ceilDiv vn (groupW b.gw) > ceilDiv b.posExt (groupW b.gw) then some .bounds
    else if (match preT with | some (some t) => !preCovers f.pkind vm vn t | _ => false) then some .bounds
    else if sparse && tcwSpill w + shelvesFor ((tileM f) * (tileN f) * 8) > limit then some .bounds
    else if f.pskip != 0 && (match k.object limit (tcwMask w) with | .inr _ => true | .inl t => t.e0 * widthOf t.fmt < vm) then
      (match k.object limit (tcwMask w) with | .inr e => some e | .inl _ => some .bounds)
    else if f.start == 2 && (match lookupK f.qtr k.recs with
        | some r => r.m != (tileM f) || r.n != (tileN f) || r.flow != f.flow || r.mode != f.mode || r.fmtA != a.fmt || r.fmtB != b.fmt
                    || k.split != (f.qtr != 4)
        | none => true) then some .mode
    else if (f.mode == 1 && f.start == 1) || (f.mode == 2 && f.start == 2) then some .mode
    else if f.mode == 1 && (f.eng == 2 || kind != 0) then some .mode
    else if kind == 0 && f.eng == 0 && f.mode != 2 && (f.cardA || f.cardB)
        && (match k.choice with | some c => c.exact_ != (f.mode == 1) | none => false) then some .mode
    else if kind == 0 && k.usesSparse f && ((k.streamOf limit f.sa a).isNone || (k.streamOf limit f.sb b).isNone) then some .layout
    else if (f.cardA && !bankOk k.bankA (tileM f) (k0 + kl) a) || (f.cardB && !bankOk k.bankB (tileN f) (k0 + kl) b) then some .layout
    else none

/-- The checks that need the operands' descriptors: an operand whose format R199 does not list in its role, as B of an SPGE a CSC or
block-sparse tensor (ST_FORMAT), and a folio whose KAXIS does not name the contraction dimension, with or without a card bank (ST_LAYOUT,
R207, R370 check 8). -/
def State.formCheck (s : State) (k : Core) (kind : Nat) (f : MF) : Option St :=
  let desc := fun (t : Tag) => s.desc? k.dispatch ((k.slots[t.slot]?).getD 0)
  let axis := fun (t : Tag) => match desc t with | some d => d.layout == 1 && t.kAxis d.kaxis != d.kaxis | none => false
  let a := k.tag f.sa
  let b := k.tag f.sb
  if kind == 2 && (match desc b with | some d => d.layout == 3 || d.layout == 6 || d.layout == 7 | none => false) then some .format
  else if axis a || axis b then some .layout
  else none

/-! ## One run of an instruction tile -/

/-- What an instruction tile works on, read at issue: its fields, the operands' tags, the rows skipped and audited, whether the tile runs
in twin mode from its first K-step (R218), and the slices on the sparse engine by slot. -/
structure Work where
  f : MF
  kind : Nat
  a : Tag
  b : Tag
  kl : Nat
  k0 : Nat
  vm : Nat
  vn : Nat
  skipped : List Nat
  audited : List Nat
  wide : Bool
  deriving DecidableEq, Repr

/-- The rows of a tile that its mask skips and audits, from the registers of an instruction tile (R241, R242, R368). -/
def Core.maskRows (k : Core) (xv : Nat) : List Nat × List Nat :=
  let w := (k.xr xv).toNat
  skipRows (k.carrel.readBytes (tcwMask w * shelfBytes) (ceilDiv (tcwVm w) 8)) (tcwAudit w) (bits (k.xr (xv + 1)).toNat 31 0) (tcwVm w)

/-- The work of an instruction tile. -/
def Core.workOf (k : Core) (kind : Nat) (f : MF) : Work :=
  let w := k.tcw f
  let vm := tcwVm w
  let sk := if f.pskip == 2 then k.maskRows f.xv else ([], [])
  let wide := f.mode == 1 && f.eng == 0 && (f.cardA || f.cardB) && (match k.choice with | some c => c.exact_ && c.wide | none => false)
  ⟨f, kind, k.tag f.sa, k.tag f.sb, k.kLen f, k.kFirst f, vm, tcwVn w, sk.1, sk.2, wide⟩

/-- The geometry of the tile. -/
def Work.geo (w : Work) : Geo := geoOf w.f.qtr (w.f.mode == 1)

/-- Whether slice `t` of a slot runs on the sparse engine (R214, R219, R371). -/
def Work.onSparse (w : Work) (k : Core) (gi gj t : Nat) : Bool :=
  if w.kind != 0 then true
  else if !k.usesSparse w.f then false
  else if w.f.eng == 2 then true
  else match k.choice with
    | some c => c.sparse.contains (gi * w.geo.g / 128, gj * w.geo.gc / 128, (w.k0 + 128 * t) / 128)
    | none => false

/-- Whether an operand's cards let K-steps be skipped: a folio's, and those synthesised for a bitmap or block-sparse tensor (R104, R199,
R214); a dense tensor has no card of its own. -/
def State.cardBank (s : State) (k : Core) (b : Bank) : Bool :=
  match s.desc? k.dispatch ((k.slots[b.slot]?).getD 0) with | some d => d.layout == 1 || 6 ≤ d.layout | none => false

/-- Whether a card marks K-step `kk` as all-zero (R104). -/
def Bank.zeroStep (b : Bank) (grp kk : Nat) : Bool :=
  match b.card grp (kk / 128) with | some c => !bit (cardKsum c) (kk % 128) | none => false

/-- The K-steps that a slot executes on the dense engine in order (R99, R104 to R107, R219, R244). -/
def State.slotSteps (s : State) (k : Core) (w : Work) (gi gj : Nat) : List Nat :=
  let q := w.geo
  let rows := ((List.range q.g).map (· + gi * q.g)).filter (· < w.vm)
  if !rows.isEmpty && rows.all w.skipped.contains then []
  else
    let skips := w.f.flow == 0 && w.f.mode == 0 && !w.f.noskip
    let za := fun (kk : Nat) => match k.bankA with | some b => w.f.cardA && s.cardBank k b && b.zeroStep (gi * q.g / 128) kk | none => false
    let zb := fun (kk : Nat) => match k.bankB with | some b => w.f.cardB && s.cardBank k b && b.zeroStep (gj * q.gc / 128) kk | none => false
    (List.range w.kl).filter (fun i => !w.onSparse k gi gj (i / 128) && !(skips && (za (w.k0 + i) || zb (w.k0 + i))))

/-- The dense job of an instruction tile. Rows skipped without audit are masked (R244). -/
def State.jobOf (s : State) (k : Core) (w : Work) : Job1 :=
  let q := w.geo
  let per := (tileN w.f) / q.gc
  let zero := List.replicate w.kl Elem.zero
  let read := fun (sh : Nat) (t : Tag) (n v : Nat) =>
    if t.role == roleKouter || t.role == roleKinner then k.operand sh t n v w.k0 w.kl else List.replicate n zero
  let a := (read w.f.sa w.a (tileM w.f) w.vm).zipIdx.map (fun p => if w.skipped.contains p.2 then zero else p.1)
  { q := q, m := (tileM w.f), n := (tileN w.f), k := w.kl, vm := w.vm, vn := w.vn, flow := w.f.flow, mode := w.f.mode, fa := w.a.fmt, fb := w.b.fmt,
    a := a, b := read w.f.sb w.b (tileN w.f) w.vn, per := per,
    steps := (List.range ((tileM w.f) / q.g * per)).map (fun i => s.slotSteps k w (i / per) (i % per)) }

/-- What the sparse engine leaves of a run: its sums, products formed, and cycles (R224 to R227). -/
structure SparseRan where
  sums : List SSum
  count : Nat
  cycles : Nat
  deriving DecidableEq, Repr

/-- The sparse slices of a run. -/
def Core.sparseRun (k : Core) (limit : Nat) (w : Work) (lower : Nat) : SparseRan :=
  let q := w.geo
  let per := (tileN w.f) / q.gc
  let stream := fun (sh : Nat) (t : Tag) => (show List SEnt from
    match k.streamOf limit sh t with
    | some (x, u) => (streamEntries (k.objMem x u) u).filter (fun (e : SEnt) => w.k0 ≤ e.k && e.k < w.k0 + w.kl)
    | none => [])
  let as := (stream w.f.sa w.a).filter (fun e => e.row < w.vm && !w.skipped.contains e.row)
  let dense := if w.kind == 1 then ((k.operand w.f.sb w.b (tileN w.f) w.vn w.k0 w.kl).map List.toArray).toArray else #[]
  let bs := if w.kind == 1 then [] else (stream w.f.sb w.b).filter (fun e => e.row < w.vn)
  let bOf := fun (kk : Nat) =>
    if w.kind == 1 then
      (List.range w.vn).map (fun j => (j, (((((dense[j]?).getD #[])[kk - w.k0]?).getD Elem.zero).val w.b.fmt)))
    else (bs.filter (fun e => e.k == kk)).map (fun e => (e.row, e.val 0))
  let out := (List.range ((tileM w.f) / q.g * per)).map (fun i =>
    let gi := i / per
    let gj := i % per
    let sl := (List.range (ceilDiv w.kl 128)).filter (w.onSparse k gi gj)
    let parts := sl.map (fun t =>
      tileSlice lower
        (as.filter (fun e => e.row / q.g == gi && (e.k - w.k0) / 128 == t))
        (fun kk => (bOf kk).filter (fun p => p.1 / q.gc == gj)))
    let ps := parts.flatMap Prod.fst
    let rows := (List.range q.g).map (· + gi * q.g)
    (sparseSums rows ps, ps.length, sumNat (parts.map Prod.snd)))
  ⟨out.flatMap (fun o => o.1), sumNat (out.map (fun o => o.2.1)), sumNat (out.map (fun o => o.2.2))⟩

/-- Words of a forerunner tile: each element's P accumulators as FP32 (R195), from slots of the quarter. -/
def Core.foreTile (k : Core) (q : Geo) (m n : Nat) : List (List Nat) :=
  let w := accRows k.acc q.row0 q.g
  let p := forerunnerP m
  (List.range m).map (fun i => (List.range n).map (fun j =>
    let sl := i / q.g * (n / q.g) + j / q.g
    packBits 32 ((List.range p).map (fun x => ((w[accWord (i % q.g) (q.col0 + j % q.g) (sl * p + x)]?).getD 0) % 2 ^ 32))))

/-- A forerunner tile put into its slots. -/
def Core.setForeTile (k : Core) (q : Geo) (m n : Nat) (rows : List (List Nat)) : Core :=
  let a := (rows.map List.toArray).toArray
  let p := forerunnerP m
  let cells := (List.range q.g).flatMap (fun r => (List.range q.g).flatMap (fun c =>
    (List.range (m / q.g * (n / q.g))).flatMap (fun sl =>
      let e := (((a[sl / (n / q.g) * q.g + r]?).getD #[])[sl % (n / q.g) * q.g + c]?).getD 0
      (unpackBits 32 p e).zipIdx.map (fun x => (accWord (q.row0 + r) (q.col0 + c) (sl * p + x.2), x.1)))))
  { k with acc := Mem.overlay k.acc (cells.flatMap (fun x => (leBytes 8 x.2).zipIdx.map (fun b => (x.1 * 8 + b.2, b.1)))) }

/-- The tile in the accumulators, by its mode. -/
def Core.tileRows (k : Core) (r : TileRec) (q : Nat) : List (List Nat) :=
  if r.mode == 2 then k.foreTile (geoOf q false) r.m r.n else k.accTile (geoOf q (r.mode == 1)) r.m r.n

/-- The preload value of an element (R153); +0 at a position that the preload object does not hold, which only a masked position may be
(R370 check 5; log entry 165). -/
def preValue (k : Core) (f : MF) : Nat → Nat → W32 :=
  let t := k.tag f.sp
  let m := k.objMem f.sp t
  let rows := ((List.range (if f.pkind == 2 then t.e1 else 1)).map (fun r => (dataRow m t r).toArray)).toArray
  fun i j =>
    let (r, c) := match f.pkind with | 0 => (0, j) | 1 => (0, i) | _ => (i, j)
    ((((rows[r]?).getD #[])[c]?).getD Elem.zero).toF32 t.fmt

/-- Whether a CONTINUE MMA finds an exact tile that its choice map puts into twin mode from its first K-step (R218). -/
def Core.falls (k : Core) (w : Work) : Bool :=
  w.f.start == 2 && w.wide && (match lookupK w.f.qtr k.recs with | some r => r.st.exact_ | none => false)

/-- The start values of an instruction tile by row, as words (R152, R153, R167, R177, R195, R218). -/
def Core.startRows (k : Core) (w : Work) (lower : Nat) : List (List Nat) :=
  if w.f.start == 2 then
    match lookupK w.f.qtr k.recs with
    | some r =>
      let x := exactFloor r.fmtA + exactFloor r.fmtB + r.st.emin
      if k.falls w then (k.tileRows r w.f.qtr).map (fun l => l.map (fun e => (exactToTwin (sint 128 e) x).word)) else k.tileRows r w.f.qtr
    | none => []
  else if w.f.start == 1 then
    let v := preValue k w.f
    (List.range (tileM w.f)).map (fun i => (List.range (tileN w.f)).map (fun j =>
      (((fv (v i j)).scale (-(lower : Int))).toF32 .rne).toNat))
  else List.replicate (tileM w.f) (List.replicate (tileN w.f) 0)

/-- The status word that an instruction tile starts with (R152, R177, R186, R218). -/
def Core.startSt (k : Core) (w : Work) (reruns outscale : Nat) : AccSt :=
  if w.f.start == 2 then
    match lookupK w.f.qtr k.recs with
    | some r =>
      if k.falls w then
        { r.st with exact_ := false, fallback := true,
                    accOvf := r.st.accOvf || (k.startRows w 0).any (fun l => l.any (fun e => isInf (BitVec.ofNat 32 e))) }
      else r.st
    | none => .zero
  else { AccSt.zero with exact_ := w.f.mode == 1 && !w.wide, fallback := w.wide, reruns := reruns, outscale := outscale }

/-- Whether a rerun answers an overflow (R166, R168, R169): a ZERO or PRELOAD MMA with a scaled-block operand, at most three times, and not
of an exact tile that fell back (R177). -/
def Work.reruns (w : Work) (r : Ran) (done : Nat) : Bool :=
  w.kind == 0 && w.f.start != 2 && (w.a.inter || w.b.inter) && done < 3 && (w.wide || !r.st.fallback)

/-- The lowering of A's scales under which a run enters its products: the rerun's (R166), or in a CONTINUE MMA the output scale of the tile it
continues, which an exact accumulator takes only at its collapse (R171, R178; log entry 166). -/
def Core.lowering (k : Core) (w : Work) (outscale : Nat) : Nat :=
  if w.f.start == 2 then (let st := k.startSt w 0 0; if st.exact_ then 0 else st.outscale) else outscale

/-- One run: dense slices, sparse slices, merge (R219, R228): what it leaves, the sparse part, and the cycles. -/
def State.runTile (s : State) (k : Core) (limit : Nat) (w : Work) (reruns outscale : Nat) : Ran × SparseRan × Nat :=
  let j := s.jobOf k w
  let low := k.lowering w outscale
  let sp := if (w.kind != 0 || k.usesSparse w.f) && w.vm != 0 && w.vn != 0 then k.sparseRun limit w low else ⟨[], 0, 0⟩
  let d := if w.kind != 0 && w.f.start != 2 then { st := (k.startSt w reruns outscale).count w.kl, rows := k.startRows w outscale,
                                                    ovf := false, twin := 0, exact_ := 0, fore := 0 : Ran }
    else if w.kind != 0 then ⟨k.startRows w outscale, (k.startSt w reruns outscale).count w.kl, false, 0, 0, 0⟩
    else j.run low (k.startRows w outscale) (k.startSt w reruns outscale)
  let r := if sp.sums.isEmpty then d else mergeSums sp.sums d
  let merged := if sp.sums.isEmpty then 0 else (sp.sums.map (fun e => e.row)).dedup.length + 3
  (r, sp, Nat.max (if w.kind == 0 then j.cycles (b2n k.repair.retime) else 0) sp.cycles + merged)

/-- The products of a run counted `n` times (R665 to R667). -/
def State.countRun (s : State) (w : Work) (r : Ran) (sp : SparseRan) (n : Nat) : State :=
  let fm := countFmt w.a.fmt w.b.fmt
  ((((s.countMac 0 fm (n * r.twin)).countMac 1 fm (n * r.exact_)).countMac 2 fm (n * r.fore))).countMac 3 fm (n * sp.count)

/-- The word of a stationary register that holds the elements of one or two K-steps (R98, R158): one element widened to FP32 (R135); how two
elements share the 32 bits the manual does not state (log entry 8). -/
def statWord (fmt : Nat) (two : Bool) (a b : Elem) : Nat :=
  if two then Config.unstated 25 (a.raw + 16 * b.raw) % 2 ^ 32 else (a.toF32 fmt).toNat

/-- The stationary registers as slice `sl` of column or row group `g` fills them: cell row r holds K-step k0 + r, and at c = 0.5 also
k0 + G + r (R98, R100 to R102, R158). Rows past the slice's K-steps take part in no sum, and what they hold is not stated (log entry 5). -/
def Core.statSlice (k : Core) (w : Work) (n g sl : Nat) : List (Nat × Byte) :=
  let q := w.geo
  let two := pairRate2 w.a.fmt w.b.fmt == 1
  let d := if two then 2 * q.g else q.g
  let (sh, t, size, valid) := if w.f.flow == 1 then (w.f.sb, w.b, (tileN w.f), w.vn) else (w.f.sa, w.a, (tileM w.f), w.vm)
  let len := Nat.min d (w.kl - sl * d)
  let pos := (((k.operand sh t size valid (w.k0 + sl * d) len).drop (g * q.g)).map List.toArray).toArray
  let el := fun (j r : Nat) => (((pos[j]?).getD #[])[r]?).getD Elem.zero
  (List.range q.g).flatMap (fun r => (List.range q.g).flatMap (fun j =>
    let at_ := ((q.row0 + r) * 128 + q.col0 + j) * 4
    let bytes := if r < len then leBytes 4 (statWord t.fmt two (el j r) (el j (q.g + r))) else freeBytes n at_ 4
    bytes.zipIdx.map (fun b => (at_ + b.2, b.1))))

/-- The stationary registers after a WS or IS run: the one in use holds the last slice of the last group, the other the slice before it, or what
was in use before the run when it had one slice alone (R89, R98, R100, R101). -/
def Core.loadStat (k : Core) (w : Work) (n : Nat) : Core :=
  if w.f.flow == 0 || w.vm == 0 || w.vn == 0 then k
  else
    let q := w.geo
    let d := if pairRate2 w.a.fmt w.b.fmt == 1 then 2 * q.g else q.g
    let slices := ceilDiv w.kl d
    let groups := (if w.f.flow == 1 then tileN w.f else tileM w.f) / q.g
    let all := groups * slices
    let before := if all > 1 then k.stat.overlay (k.statSlice w n ((all - 2) / slices) ((all - 2) % slices)) else k.stat
    { k with stat := k.stat.overlay (k.statSlice w n (groups - 1) (slices - 1)), statNext := before }

/-- The result of a run kept: accumulators, tile record, its flags for the reply, stationary registers (R187, R366, R372), and the spill area:
the rows that received a sparse product pass through it (R228), each at its place by row and column (log entry 20), and leave bytes there that
the manual does not state (log entry 5). -/
def State.keepRun (s : State) (c : Nat) (w : Work) (r : Ran) (sums : List SSum) : State :=
  let (n, s1) := s.takeFresh
  let base := tcwSpill ((s.core c).tcw w.f)
  let line := (tileN w.f) * 8
  let rows := (sums.map SSum.row).dedup
  let shs := (rows.flatMap (fun i => [base + i * line / shelfBytes, base + ((i + 1) * line - 1) / shelfBytes])).dedup
  ((s1.reuse c shs).noteFlags c r.st.flags 0 0 0).updCore c (fun k =>
    let old := lookupK w.f.qtr k.recs
    let rec_ : TileRec :=
      { start := if w.f.start == 2 then (match old with | some o => o.start | none => 0) else w.f.start, m := (tileM w.f), n := (tileN w.f), flow := w.f.flow,
        mode := w.f.mode, fmtA := w.a.fmt, fmtB := w.b.fmt, vm := w.vm, vn := w.vn, skipped := w.skipped, audited := w.audited, st := r.st }
    let k1 := if w.f.mode == 2 then k.setForeTile w.geo (tileM w.f) (tileN w.f) r.rows else k.setAccTile w.geo (tileN w.f) r.rows
    let k2 := k1.loadStat w n
    let k3 := rows.foldl (fun (k : Core) i =>
        { k with carrel := k.carrel.writeBytes (base * shelfBytes + i * line) (freeBytes n (base * shelfBytes + i * line) line) })
      { k2 with tags := k2.tags.filter (fun p => !shs.contains p.1) }
    { k3 with recs := insertK w.f.qtr rec_ k3.recs })

/-- The run after its mismatches were judged: kept when it stands, with an overflow rerun due where R166 asks for one. `idx` is the issued
instruction; `x` are its registers as read at issue. -/
def State.settleRun (s : State) (c limit idx : Nat) (w : Work) (x : List W64) (reruns outscale : Nat) (mis : List Mismatch) : State :=
  let k := { s.core c with x := x }
  let (r, sp, cyc) := s.runTile k limit w reruns outscale
  let (s1, v, runs) := State.judge c w.f.qtr (w.kind != 0) (w.f.start == 2) mis s 1
  match v with
  | .restart => (s1.countRun w r sp runs).restartProgram c
  | .fence => (s1.countRun w r sp runs).fence c (w.kind != 0)
  | .repair =>
    (s1.countRun w r sp runs).updCore c (fun q =>
      { q.updInflight idx (fun f => { f with redo := true, cycles := f.cycles + runs * cyc }) with recs := eraseK w.f.qtr q.recs })
  | .stands =>
    if r.ovf && w.reruns r reruns then
      let (n, s2) := s1.takeFresh
      let part := fun (t : Nat) => Config.freeNat (4 * n) % (t + 1)
      let cut : Ran := { r with twin := part r.twin, exact_ := part r.exact_, fore := part r.fore }
      let s3 := (s2.countRun w r sp (runs - 1)).countRun w cut { sp with count := part sp.count } 1
      s3.updCore c (fun q => { q.updInflight idx (fun f => { f with rerun := true, cycles := f.cycles + runs * cyc + 4 }) with
        recs := insertK w.f.qtr ⟨w.f.start, (tileM w.f), (tileN w.f), w.f.flow, w.f.mode, w.a.fmt, w.b.fmt, w.vm, w.vn, w.skipped, w.audited,
                  { k.startSt w reruns outscale with kcount := 0 }⟩ q.recs })
    else
      let r1 := if r.ovf then { r with st := { r.st with accOvf := true } } else r
      let s2 := (s1.countRun w r sp runs).updCore c (fun q =>
        q.updInflight idx (fun f => { f with rerun := false, redo := false, cycles := f.cycles + runs * cyc }))
      ((s2.updCore c (fun q => { q with x := x })).keepRun c w r1 sp.sums).updCore c (fun q => { q with x := (s.core c).x })

/-- The RERUN_STEP in force for a core's dispatch (R166, R216). -/
def State.stepOf (s : State) (k : Core) : Nat :=
  match k.dispatch.bind s.dispatch? with | some d => d.rerunStep | none => s.settings.rerunStep

/-! ## Issue -/

/-- A core put into split or whole-array mode: a change clears every slot (R121, R122). -/
def Core.enterMode (k : Core) (split : Bool) : Core := if k.split == split then k else { k.clearSlots with split := split }

/-- MMA, SPMA, or SPGE in TILE tried for issue (R370 to R373). -/
def tryMma (c kind : Nat) (mis : List Mismatch) (s : State) (i : TileInstr) (f : MF) : Issue :=
  let k := s.core c
  let limit := s.shelvesOf k
  match (match k.mmaCheck limit kind f with | some e => some e | none => s.formCheck k kind f) with
  | some e => .fail e 0 0
  | none =>
    let split := f.qtr != 4
    let others := k.inflight.any (fun g => tileSparse g.instr)
    if k.unitBusy i || (kind == 0 && others) || (kind != 0 && k.arrayBusy) || (k.split != split && k.arrayBusy)
        || (f.mode == 2 && !k.fore && k.arrayBusy) || (!k.repair.pending.isEmpty && (f.start != 2 || k.boundary)) then .hold .engine
    else
      let k1 := k.enterMode split
      let w := k1.workOf kind f
      let fl := k1.flight i [f.sa, f.sb] [] 0
      let s1 := s.updCore c (fun _ =>
        let k2 := k1.launch fl
        { (if f.start == 2 then k2 else k2.beginTile (if kind == 0 then f.qtr else 5)) with fore := k1.fore || f.mode == 2 })
      let s2 := s1.settleRun c limit fl.idx w k1.x 0 0 mis
      if (s2.core c).inflight.any (fun g => g.idx == fl.idx) && (s2.core c).dispatch == k.dispatch && (s2.core c).nextIdx > fl.idx then .go s2
      else .jump s2

/-- MMA (R96 to R132, R370 to R372). -/
def doMma (c : Nat) (mis : List Mismatch) (s : State) (i : TileInstr) : Issue :=
  match i with
  | .mma f => tryMma c 0 mis s i f
  | _ => .hold .event

/-- SPMA (R222, R373). -/
def doSpma (c : Nat) (mis : List Mismatch) (s : State) (i : TileInstr) : Issue :=
  match i with
  | .spma f => tryMma c 1 mis s i f
  | _ => .hold .event

/-- MMA as a row. -/
def execMma (core : Nat) (mis : List Mismatch) (s : State) : Out :=
  s.tryIssue core (fun i => match i with | .mma _ => true | _ => false) (doMma core mis)
/-- SPMA as a row. -/
def execSpma (core : Nat) (mis : List Mismatch) (s : State) : Out :=
  s.tryIssue core (fun i => match i with | .spma _ => true | _ => false) (doSpma core mis)

/-! ## SPGE in run mode -/

/-- The shelves of the run area (R368). -/
def runArea (w : Nat) : Nat := bits w 8 0

/-- SPGE in RUN tried for issue (R222, R229, R370, R373). It continues no tile, so that M.START CONTINUE fails check 6 of R370. The shelves
that its flushes write lose their tags (log entry 20). -/
def tryRun (c : Nat) (mis : List Mismatch) (s : State) (i : TileInstr) (f : MF) : Issue :=
  let k := s.core c
  let limit := s.shelvesOf k
  let jobNo := (k.xr f.xk).toNat
  let area := runArea (k.tcw f)
  match k.object limit f.sa, k.object limit f.sb with
  | .inr e, _ => .fail (if f.qtr != 4 || f.mode == 2 then .mode else e) 0 0
  | _, .inr e => .fail (if f.qtr != 4 || f.mode == 2 then .mode else e) 0 0
  | .inl a, .inl b =>
    if f.qtr != 4 || f.mode == 2 then .fail .mode 0 0
    else if a.role != roleRun || b.role != roleDir then .fail .layout 0 0
    else match k.object limit b.link with
    | .inr e => .fail e 0 0
    | .inl bl =>
      if bl.role != roleRun then .fail .layout 0 0
      else if !isElemFmt a.fmt || !isElemFmt b.fmt || isIntFmt a.fmt != isIntFmt b.fmt
          || (f.mode == 1 && !(canScale a.fmt && canScale b.fmt)) then .fail .format 0 0
      else if f.sp + area > limit then .fail .bounds 0 0
      else if f.start == 2 || f.mode == 1 || f.pskip != 0 then .fail .mode 0 0
      else if (f.cardA && !bankOk k.bankA (tileM f) a.kExt a) || (f.cardB && !bankOk k.bankB (tileN f) b.kExt b) then .fail .layout 0 0
      else if k.held.isNone then .fail .held 0 0
      else if !(s.jobs.any (fun j => j.1 == jobNo && !j.2.finished)) then .fail .handle 0 0
      else if k.unitBusy i then .hold .engine
      else
        let es := runEntries (k.objMem f.sa a) a.count
        let be := (runEntries (k.objMem b.link bl) bl.count).toArray
        let dir := directory (k.objMem f.sb b) b.count
        let of := fun (kk : Nat) =>
          dir.flatMap (fun d => if d.1 == kk then (List.range d.2.2).filterMap (fun j => be[d.2.1 + j]?) else [])
        let (outs, n) := runMode es of
        let fm := countFmt a.fmt b.fmt
        let fl := k.flight i [f.sa, f.sb, b.link] ((List.range area).map (· + f.sp)) (16 + n / 128)
        let s1 := s.updCore c (fun q => (q.launch fl).beginTile 5)
        let (s2, v, runs) := State.judge c 4 true (!outs.isEmpty) mis s1 1
        let s3 := s2.countMac 3 fm (runs * n)
        match v with
        | .restart => .jump (s3.restartProgram c)
        | .fence => .jump (s3.fence c true)
        | _ =>
          let total := sumNat (outs.map (fun o => o.entries.length))
          let fits := outs.foldl (fun (st : Nat × List RunOut) o =>
            if st.1 + o.entries.length * 16 ≤ area * shelfBytes && st.2.length == (outs.takeWhile (fun x => x != o)).length then
              (st.1 + o.entries.length * 16, st.2 ++ [o]) else st) (0, [])
          let kept := if total * 16 ≤ area * shelfBytes then outs else fits.2
          let used := shelvesFor (16 * sumNat (kept.map (fun o => o.entries.length)))
          let wr := if kept.isEmpty then 0 else used
          let s4 := (s3.reuse c ((List.range wr).map (· + f.sp))).updCore c (fun q =>
            let bytes := kept.flatMap (fun o => o.entries.flatMap (fun e => leBytes 16 e.word))
            let descs := (kept.foldl (fun (st : Nat × List RunDesc) o =>
              (st.1 + 16 * o.entries.length,
               st.2 ++ [⟨f.sp * shelfBytes + st.1, o.entries.length, (q.held.map (fun h => h.tile)).getD 0, q.runSeq + st.2.length,
                         if o.ovf then runOverflow else 0, false, jobNo, c⟩])) (0, [])).2
            { q.clearTags f.sp wr with
              carrel := q.carrel.writeBytes (f.sp * shelfBytes) bytes, runSeq := q.runSeq + kept.length,
              held := q.held.map (fun h => { h with runs := h.runs ++ descs }) })
          if kept.length < outs.length then
            .go (s4.faultAt c k.pc .nofit 0 0)
          else .go s4

/-- SPGE (R222, R373). -/
def doSpge (c : Nat) (mis : List Mismatch) (s : State) (i : TileInstr) : Issue :=
  match i with
  | .spge f => if f.flow == 1 then tryRun c mis s i f else tryMma c 2 mis s i f
  | _ => .hold .event

/-- SPGE as a row. -/
def execSpge (core : Nat) (mis : List Mismatch) (s : State) : Out :=
  s.tryIssue core (fun i => match i with | .spge _ => true | _ => false) (doSpge core mis)

/-! ## EWISE DIAG -/

/-- The FP32 values of a carrel object of wires: line t, element i (R135). -/
def Core.wires (k : Core) (sh : Nat) (t : Tag) (g : Nat) : Array (Array W32) :=
  let m := k.objMem sh t
  ((List.range g).map (fun l => ((kouterStep m t 0 l).map (fun e => e.toF32 t.fmt)).toArray)).toArray

/-- The stationary registers of a quarter or the array as FP32. -/
def Core.statAt (k : Core) (r c : Nat) : W32 := BitVec.ofNat 32 (k.stat.readLe ((r * 128 + c) * 4) 4)

/-- A pass over a slot (R133, R134). -/
def Core.diagPass (k : Core) (q : Geo) (f : DiagF) (w : Array (Array W32)) (sl : Nat) : Core :=
  let cells := (List.range q.g).flatMap (fun i => (List.range q.g).map (fun j =>
    let at_ := accWord (q.row0 + i) (q.col0 + j) sl
    let v := (Twin.ofWord (k.acc.readLe (at_ * 8) 8)).collapse
    let ww := (((w[(j + q.g - i) % q.g]?).getD #[])[i]?).getD f0
    let ss := k.statAt (q.row0 + i) (q.col0 + j)
    let x := if f.xsel then ww else ss
    let y := if f.xsel then ss else ww
    let p := FV.mul (fv v) (fv x)
    (at_, ((if f.mad then FV.add p (fv y) else p).toF32 .rne).toNat)))
  { k with acc := Mem.overlay k.acc (cells.mergeSort (fun a b => a.1 ≤ b.1) |>.flatMap (fun x =>
      (leBytes 8 x.2).zipIdx.map (fun b => (x.1 * 8 + b.2, b.1)))) }

/-- The stationary registers of a quarter or of the array loaded with a wire tile S (R135). -/
def Core.loadWires (k : Core) (q : Geo) (v : Array (Array W32)) : Core :=
  { k with stat := k.stat.overlay ((List.range q.g).flatMap (fun a => (List.range q.g).flatMap (fun b =>
      (leBytes 4 ((((v[a]?).getD #[])[b]?).getD f0).toNat).zipIdx.map (fun x =>
        (((q.row0 + a) * 128 + q.col0 + b) * 4 + x.2, x.1))))) }

/-- EWISE DIAG (R133 to R137, R374). W is read as a KOUTER object of the quarter's group width, as S is (log entry 168). A pass changes the
slots in place, so that its start cannot be restored, and a mismatch in it is answered as in a CONTINUE MMA (R142, R641; log entry 163). -/
def doDiag (c : Nat) (mis : List Mismatch) (s : State) (i : TileInstr) : Issue :=
  match i with
  | .ewiseDiag f =>
    let k := s.core c
    let limit := s.shelvesOf k
    match lookupK f.qtr k.recs with
    | none => .fail .mode 0 0
    | some r =>
      let q := geoOf f.qtr false
      let wire := fun (sh : Nat) =>
        match k.object limit sh with
        | .inr e => some e
        | .inl t =>
          if t.role != roleKouter || t.gw != (f.qtr != 4) then some St.layout
          else if !isElemFmt t.fmt then some .format
          else if t.e1 < q.g then some .bounds else none
      if r.mode != 0 || k.fore || k.split != (f.qtr != 4) then .fail .mode 0 0
      else match wire f.wsh, (if f.loads then wire f.ssh else none) with
      | some e, _ => .fail e 0 0
      | none, some e => .fail e 0 0
      | none, none =>
        if k.unitBusy i || k.inflight.any (fun g => tileSparse g.instr) || (!k.repair.pending.isEmpty && k.boundary) then .hold .engine
        else
          let slots := r.m / q.g * (r.n / q.g)
          let todo := if f.all then List.range slots else [f.slotno]
          let k1 := if f.loads then k.loadWires q (k.wires f.ssh (k.tag f.ssh) q.g) else k
          let w := k1.wires f.wsh (k1.tag f.wsh) q.g
          let k2 := todo.foldl (fun a sl => a.diagPass q f w sl) k1
          let cyc := todo.length * q.g + 3 + b2n k.repair.retime
            + (if f.loads then weightLoad (k.tag f.ssh).fmt q.g else 0)
          let fl := k2.flight i ([f.wsh] ++ (if f.loads then [f.ssh] else [])) [] cyc
          let (s1, v, runs) := State.judge c f.qtr false true mis (s.updCore c (fun _ => k2.launch fl)) 1
          let s2 := s1.countMac 4 0x0A (runs * (todo.length * q.g * q.g))
          match v with
          | .stands => .go s2
          | .fence => .jump (s2.fence c false)
          | _ => .jump (s2.restartProgram c)
  | _ => .hold .event

/-- EWISE_DIAG as a row. -/
def execEwiseDiag (pass : Pass) (s : State) : Out :=
  s.tryIssue pass.core (fun i => match i with | .ewiseDiag _ => true | _ => false) (doDiag pass.core pass.mis)

/-! ## Reruns and repairs -/

/-- The matrix instruction of an issued entry: its kind and fields. -/
def matrixOf (i : TileInstr) : Option (Nat × MF) :=
  match i with
  | .mma f => some (0, f)
  | .spma f => some (1, f)
  | .spge f => if f.flow == 0 then some (2, f) else none
  | _ => none

/-- Whether an engine may go on: the core is present and its region in service. -/
def State.unitAlive (s : State) (c : Nat) : Bool :=
  let k := s.core c
  s.alive && k.present && k.power == .active && s.inService (regionOf c) && !s.coreHeld c

/-- TILE_RERUN (R166 to R170): the tile starts again with A's scales lowered by one more step, with mismatches of its own (R142). -/
def execTileRerun (pass : Pass) (idx : Nat) (s : State) : Out :=
  if pass.core ≥ s.cores.length then .fault (.noSuchUnit pass.core)
  else
    let k := s.core pass.core
    match k.inflight.find? (fun f => f.idx == idx) with
    | none => .next s
    | some fl =>
      match matrixOf fl.instr with
      | none => .next s
      | some (kind, f) =>
        match lookupK f.qtr k.recs with
        | none => .next s
        | some r =>
          if !fl.rerun || !s.unitAlive pass.core then .next s
          else
            let limit := s.shelvesOf k
            let w := { k with x := fl.x }.workOf kind f
            .next (s.settleRun pass.core limit idx w fl.x (r.st.reruns + 1) (r.st.outscale + s.stepOf k) pass.mis)

/-- The slots and stationary registers of a repaired row set to +0 across its 128 columns (R139, R141). -/
def Core.clearRow (k : Core) (row : Nat) : Core :=
  { k with acc := k.acc.clear (row * 16384) 16384, stat := k.stat.clear (row * 512) 512, statNext := k.statNext.clear (row * 512) 512 }

/-- REPAIR_SWITCH (R140 to R142, R146): the pending repairs are switched in, and the instruction that waits for them runs again. -/
def execRepairSwitch (core : Nat) (mis : List Mismatch) (s : State) : Out :=
  if core ≥ s.cores.length then .fault (.noSuchUnit core)
  else
    let k := s.core core
    match k.repair.pending with
    | [] => .next s
    | ps =>
      if !s.unitAlive core || !k.boundary then .next s
      else
        let s0 := s.updCore core (fun q => ps.foldl (fun a p => a.clearRow p.1) { q with repair := q.repair.switchAll })
        let s1 := ps.foldl (fun t p => t.repairEvent core p.2) s0
        match k.inflight.find? (fun f => f.redo) with
        | none => .next s1
        | some fl =>
          match matrixOf fl.instr with
          | none => .next s1
          | some (kind, f) =>
            let limit := s.shelvesOf k
            let w := { s1.core core with x := fl.x }.workOf kind f
            let s2 := s1.updCore core (fun q => q.updInflight fl.idx (fun g => { g with redo := false }))
            .next (s2.settleRun core limit fl.idx w fl.x 0 0 mis)

end Sys2Proof.Machine
end

