-- ==== Sys2Proof/Machine/Moves.lean ====
section
/-! DEFINITION. What transfers, drains and sends share: the shelves and chains of a core's program, owner-table generations, stops at translation
faults with their resume records and events (R494 to R503), and sends (R386, R600 to R603). -/
namespace Sys2Proof.Machine

/-! ## What the program of a core gives -/

/-- The shelves that a core's instructions may use (R401). -/
def State.limitOf (s : State) (c : Nat) : Nat := s.shelvesOf (s.core c)

/-- The chain that a core's instruction names, none for 0 (R304, R362, R378). -/
def State.chainOf (s : State) (k : Core) (n : Nat) : Option Chain :=
  if n == 0 then none
  else if !k.own.isEmpty then k.ownChain
  else (s.programOf k).bind (fun p => lookupK n p.chains)

/-- The stages of a chain, none where there is no chain. -/
def stagesOf (c : Option Chain) : List Stage := match c with | some x => x.stages | none => []

/-- The version of a polynomial table that the core's dispatch uses (R312). -/
def State.polyOf (s : State) (k : Core) (n : Nat) : List Nat :=
  match s.polys[n]? with
  | none => []
  | some t =>
    match k.dispatch.bind s.dispatch? with
    | some d => if (d.polyVers[n]?).getD t.ver == t.ver then t.cur else t.prev
    | none => t.cur

/-- The descriptor in a slot of a core. -/
def State.slotDesc (s : State) (k : Core) (slot : Nat) : Option Desc := s.desc? k.dispatch ((k.slots[slot]?).getD 0)

/-! ## Stops -/

/-- The descriptor slot whose progress area a transfer uses (R502). -/
def slotOf? (i : TileInstr) : Option Nat :=
  match i with
  | .load f => some f.slot
  | .store f => some f.slot
  | .gather f => some f.slot
  | .scatter f => some f.slot
  | .loadcard f => some f.slot
  | _ => none

/-- The first shelf that a resume record reports (R502). -/
def shelfOf (i : TileInstr) : Nat :=
  match i with
  | .load f => f.sh
  | .store f => f.sh
  | .gather f => f.sh
  | .scatter f => f.sh
  | .loadcard f => f.sh
  | .send sh _ _ _ => sh
  | .drain _ dsh _ _ => dsh
  | _ => 0

/-- A HOSTPAGE event, one for an episode of its page (R503). -/
def State.hostPageEvent (s : State) (va core dispatch record : Nat) : State :=
  match s.page? va with
  | none => s
  | some p =>
    if p.episode then s
    else ({ s with pages := updK (va / 65536) (fun q => { q with episode := true }) s.pages }).event
      ⟨0x0001, .ok, 0, core, dispatch, va - va % 65536, some record⟩

/-- The generation that a resume record reports (R502): the one sampled for the data descriptor's owner table. -/
def State.recordGen (s : State) (k : Core) (f : Inflight) : Nat :=
  match (slotOf? f.instr).bind (s.slotDesc k) with
  | some d => lookupD 0 d.owner f.gens
  | none => 0

/-- An issued transfer stopped at a translation fault (R498, R502, R503). A send has no descriptor slot and leaves no record in a progress
area (log entry 29). -/
def State.stopAt (s : State) (c idx : Nat) (t : Stop) : State :=
  let k := s.core c
  match k.inflight.find? (fun f => f.idx == idx) with
  | none => s
  | some f =>
    let word := t.word f.instr.opcode f.pc (shelfOf f.instr) k.accession (s.recordGen k f)
    let s1 := s.updCore c (fun q =>
      { q.updInflight idx (fun g => { g with stop := some t, row := t.row, done := t.done }) with
        prog := match slotOf? f.instr with | some n => insertK n word q.prog | none => q.prog })
    if t.cause == 1 then s1.hostPageEvent t.va c (k.dispatch.getD 0) word else s1

/-- An issued instruction that faulted after issue (R396): it has ended. -/
def State.faultIn (s : State) (c idx : Nat) (st : St) (detail word : Nat) : State :=
  match (s.core c).inflight.find? (fun f => f.idx == idx) with
  | none => s
  | some f => (s.faultAt c f.pc st detail word).updCore c (fun k => { k with inflight := k.inflight.filter (fun g => g.idx != idx) })

/-! ## Sends -/

/-- Where a send lands: socket and device virtual address there. -/
structure Landing where
  sock : Nat
  addr : Nat
  deriving DecidableEq, Repr

/-- The send-route entry that a core's instruction uses (R599). -/
def State.routeEntry (s : State) (k : Core) (route : Nat) : Nat :=
  s.sendRoute (match k.dispatch.bind s.dispatch? with | some d => d.routeVer | none => s.sendVer) route

/-- The landing of a send, or its fault at issue (R584, R600, R604). -/
def State.landing (s : State) (k : Core) (route off len : Nat) (drain : Bool) : Landing ⊕ (St × Nat) :=
  let e := s.routeEntry k route
  if s.self?.isNone then .inr (.noowner, 1)
  else if !srValid e then .inr (.handle, 0)
  else if off % 64 != 0 then .inr (.align, 0)
  else if off + len > srSize e then .inr (.bounds, 0)
  else if drain && len > srSlot e then .inr (.bounds, 0)
  else match s.remoteFault (srSocket e) with
    | some d => .inr (.noowner, d)
    | none => .inl ⟨srSocket e, srBase e + off⟩

/-- A send counted for its tile, or for its completion without one (R603). -/
def State.countSend (s : State) (c idx route : Nat) : State :=
  s.updCore c (fun k =>
    match k.held with
    | some h => { k with held := some { h with sends := insertK route (lookupD 0 route h.sends + 1) h.sends } }
    | none => k.updInflight idx (fun f => { f with sendRoute := some route }))

/-- The bytes of an issued send, or of a class-9 stage, carried to their landing (R320, R601, R602): through main memory on the own socket, in
packets to another. A send stopped at a translation fault keeps its route, landing and bytes with its instruction. -/
def State.sendTo (s : State) (c idx route : Nat) (l : Landing) (bs : List Byte) : State :=
  if s.self? == some l.sock then
    match s.checkWrite false l.addr bs.length with
    | .ok =>
      let old := s.bytesAt l.addr bs.length
      let s1 := s.writeVA l.addr bs (some (regionOf c))
      let put : Undo := ⟨l.addr, old, s1.bytesAt l.addr bs.length⟩
      (s1.updCore c (fun k => k.updInflight idx (fun f =>
        { f with stop := none, rows := [], trail := f.trail || s.reachesHost [put], undo := put :: f.undo }))).countSend c idx route
    | .stop cause va => (s.stopAt c idx ⟨0, 0, cause, false, va⟩).updCore c (fun k =>
        k.updInflight idx (fun f => { f with rows := [(route, l.sock :: l.addr :: bs.map BitVec.toNat)] }))
    | .fault st va => s.faultIn c idx st 0 va
  else
    let s1 := s.postWrite l.sock l.addr bs (s.core c).accession
    (s1.updCore c (fun k => k.updInflight idx (fun f =>
      { f with acks := f.acks ++ s1.sentSince s l.sock }))).countSend c idx route

/-- Shelves that instructions of the drain unit still write (R344). -/
def Core.drainWrites (k : Core) : List Nat :=
  (k.inflight.filter (fun f => (k.unitsOf f.instr).any (· ≥ 6))).flatMap Inflight.writes

/-- Whether an instruction that reads a shelf waits for the drain unit (R344). -/
def Core.drainWaits (k : Core) (shs : List Nat) : Bool := shs.any k.drainWrites.contains

/-- A transfer through a slot that has not completed (R502). -/
def Core.slotBusy (k : Core) (slot : Nat) : Bool := k.inflight.any (fun f => slotOf? f.instr == some slot)

/-- SEND tried for issue (R386, R600). -/
def doSend (c : Nat) (s : State) (i : TileInstr) : Issue :=
  match i with
  | .send sh xn route xa =>
    let k := s.core c
    let len := (k.xr xn).toNat
    match (if s.self?.isNone then .inr .noowner else k.object (s.limitOf c) sh) with
    | .inr e => .fail e (if e == .noowner then 1 else 0) 0
    | .inl t =>
      let span := k.span sh t
      if k.drainWaits span then .hold .order
      else if sh * shelfBytes + len > s.limitOf c * shelfBytes then .fail .bounds 0 0
      else match s.landing k route (k.xr xa).toNat len false with
      | .inr e => .fail e.1 e.2 0
      | .inl l =>
        let fl := k.flight i span [] 0
        .go ((s.updCore c (fun q => q.launch fl)).sendTo c fl.idx route l (k.carrel.readBytes (sh * shelfBytes) len))
  | _ => .hold .event

/-- SEND as a row. -/
def execSend (core : Nat) (s : State) : Out :=
  s.tryIssue core (fun i => match i with | .send .. => true | _ => false) (doSend core)

end Sys2Proof.Machine
end

