-- ==== Sys2Proof/Machine/Drain.lean ====
section
/-! DEFINITION. DRAIN, EWISE CHAIN and REDUCE (R305 to R322, R331, R375 to R379, R180 to R184). -/
namespace Sys2Proof.Machine

/-! ## What leaves the accumulators -/

/-- The output scale that the collapse of an exact tile takes, and whether an accumulator still overflows (R178). -/
def exactScale (rows : List (List Nat)) (w : Int) (step outscale : Nat) : Nat × Bool :=
  let ns := rows.map (fun r => r.map (sint 128))
  let fits := fun (os : Nat) => ns.all (fun r => r.all (fun n => isFin (exactCollapse n w os)))
  if fits outscale then (outscale, false)
  else match [step, 2 * step, 3 * step].find? fits with
    | some os => (os, false)
    | none => (3 * step, true)

/-- The collapsed values of a tile, with its status word (R151, R178, R195, R198, R305). -/
def Core.collapsed (k : Core) (r : TileRec) (q step : Nat) : List (List W32) × AccSt :=
  let rows := k.tileRows r q
  if r.mode == 2 then
    let out := rows.map (fun l => l.map (fun e =>
      foreCombine r.n ((unpackBits 32 (forerunnerP r.m) e).map (BitVec.ofNat 32))))
    (out.map (fun l => l.map Prod.fst), { r.st with accSat := r.st.accSat || out.any (fun l => l.any Prod.snd) })
  else if r.mode == 1 && r.st.exact_ then
    let w := exactFloor r.fmtA + exactFloor r.fmtB + r.st.emin
    let (os, ovf) := exactScale rows w step r.st.outscale
    (rows.map (fun l => l.map (fun e => exactCollapse (sint 128 e) w os)),
     { r.st with outscale := os, accOvf := r.st.accOvf || ovf })
  else (rows.map (fun l => l.map (fun e => (Twin.ofWord (e % 2 ^ 64)).collapse)), r.st)

/-! ## The object that a chain writes -/

/-- The tag of the DATA object that a chain makes of M × N values (R317, R318, R378; log entry 23). -/
def outTag (st : List Stage) (m n : Nat) : Tag :=
  let g := st.find? (fun x => x.cls == 7)
  let xp := st.any (fun x => x.cls == 8)
  { Tag.none with e1 := if xp then n else m, e0 := if xp then m else n, role := roleData,
                  sb := (match g with | some q => q.sbmode | none => 0), fmt := (match g with | some q => q.fmt | none => 0x0A) }

/-- Shelves that a chain's outputs take: of the tile, and of each side output with its first shelf (R314, R317). -/
def outShelves (st : List Stage) (m n unit dsh : Nat) : List (Nat × Nat) :=
  (dsh, shelvesFor ((outTag st m n).bytes 0)) :: sideShelves st (fun g => Nat.max unit (if g.op ≥ 8 then n else m))

/-- The shelf numbers of runs of shelves. -/
def shelfList (l : List (Nat × Nat)) : List Nat := l.flatMap (fun p => (List.range p.2).map (· + p.1))

/-- Whether a chain may drain a forerunner tile (R331). -/
def foreChain (st : List Stage) : Bool :=
  match st with
  | [g] => g.cls == 7 && (g.fmt == 0x08 || g.fmt == 0x0A) && !g.sr && g.sbmode == 0
  | _ => false

/-- The bytes that a send stage transmits: the tile as it was written to the carrel (R320). -/
def Core.tileBytes (k : Core) (sh : Nat) (st : List Stage) (m n : Nat) : List Byte :=
  k.carrel.readBytes (sh * shelfBytes) ((outTag st m n).bytes 0)

/-- A flow put into the carrel: side-output records, then the quantised tile (R313 to R318). -/
def Core.putFlow (k : Core) (dsh : Nat) (st : List Stage) (f : Flow) (scale : Nat) : Core × Nat :=
  let q := f.quantise st scale
  let xp := st.any (fun x => x.cls == 8)
  let k1 := f.sides.foldl (fun c p => c.putRecord p.1.shelf p.1.line (bits p.1.op 2 0) p.2) k
  (k1.putTile dsh q (if xp then f.vm else f.vn) (if xp then f.vn else f.vm), f.flags ||| q.flags)

/-- Forerunner mode ends when every forerunner tile is drained and stored (R132). -/
def Core.settleFore (k : Core) : Core :=
  { k with fore := k.fore && (k.recs.any (fun p => p.2.mode == 2) || !k.foreShelves.isEmpty) }

/-- The rows of a stored tile that hold an element other than zero: the misses among audited rows (R243). -/
def missRows (q : Quant) (xp : Bool) (audited : List Nat) : Nat :=
  (audited.filter (fun r =>
    if xp then q.rows.any (fun l => match l[r]? with | some e => e.nonzero q.fmt | none => false)
    else match q.rows[r]? with | some l => l.any (fun e => e.nonzero q.fmt) | none => false)).length

/-! ## DRAIN -/

/-- DRAIN tried for issue (R305 to R322, R331, R378, R600). -/
def doDrain (c : Nat) (s : State) (i : TileInstr) : Issue :=
  match i with
  | .drain chn dsh xr qtr =>
    let k := s.core c
    let st := stagesOf (s.chainOf k chn)
    match lookupK qtr k.recs with
    | none => .fail .mode 0 0
    | some r =>
      let unit := if qtr == 4 then 128 else 64
      let outs := outShelves st r.m r.n unit dsh
      let route := (st.find? (fun g => g.cls == 9)).map Stage.aux
      if (st.any (fun g => g.cls == 2) && r.start == 1) || (r.mode == 2 && !foreChain st) then .fail .mode 0 0
      else match k.chainFault (s.limitOf c) st with
      | some e => .fail e 0 0
      | none =>
        if outs.any (fun p => p.1 + p.2 > s.limitOf c) then .fail .bounds 0 0
        else
          let len := (outTag st r.m r.n).bytes 0
          let land := match route, k.held with
            | none, _ => Sum.inl none
            | some _, none => Sum.inr (St.held, 0)
            | some n, some h =>
              match s.landing k n (h.tile * srSlot (s.routeEntry k n)) len true with
              | .inl l => Sum.inl (some (n, l))
              | .inr e => Sum.inr e
          match land with
          | .inr e => .fail e.1 e.2 0
          | .inl dest =>
            if k.unitBusy i then .hold .engine
            else
              let (vals, acc) := k.collapsed r qtr (s.stepOf k)
              let x := (k.xr xr).toNat
              let f0_ : Flow := { vals := vals, vm := r.vm, vn := r.vn, skipped := r.skipped, row0 := bits x 31 0, col0 := bits x 63 32,
                                  unit := unit, flags := 0, sides := [] }
              let f := f0_.run st acc.outscale (s.polyOf k) (k.vecTable r.m r.n)
              let q := f.quantise st acc.outscale
              let xp := st.any (fun g => g.cls == 8)
              let (k1, flags) := k.putFlow dsh st f acc.outscale
              let fl := k1.flight i (st.filterMap (fun g => if g.axis == 0 then none else some g.shelf)) (shelfList outs)
                (drainCycles st r.m r.n)
              let k2 := { k1.launch fl with recs := eraseK qtr k1.recs
                                            foreShelves := if r.mode == 2 then dsh :: k1.foreShelves else k1.foreShelves }
              let s1 := ((s.reuse c (shelfList outs)).updCore c (fun _ =>
                  match st.find? (fun g => g.cls == 7 && g.sr) with
                  | some _ => { k2 with lfsr := insertK qtr q.lfsr k2.lfsr }
                  | none => k2)).noteFlags c
                (flags ||| acc.flags) r.skipped.length r.audited.length (missRows q xp r.audited)
              .go (match dest with
                | some (n, l) => s1.sendTo c fl.idx n l ((s1.core c).tileBytes dsh st r.m r.n)
                | none => s1)
  | _ => .hold .event

/-- DRAIN as a row. -/
def execDrain (core : Nat) (s : State) : Out :=
  s.tryIssue core (fun i => match i with | .drain .. => true | _ => false) (doDrain core)

/-- The bytes of an ACC image: header and elements (R380). -/
def imageBytesOf (r : TileRec) (rows : List (List Nat)) : List Byte :=
  leBytes 64 r.header ++ rows.flatMap (fun l => l.flatMap (leBytes (accElemBytes r.mode)))

/-- The tag of an ACCIMAGE object (R366). -/
def imageTag (m n : Nat) : Tag := { Tag.none with e1 := m, e0 := n, role := roleImage, fmt := 0x11 }

/-- The elements of a tile as its image holds them: a fallen-back exact tile's twins in the low 8 bytes (R380). -/
def imageRows (r : TileRec) (rows : List (List Nat)) : List (List Nat) :=
  if r.mode == 1 && !r.st.exact_ then rows.map (fun l => l.map (· % 2 ^ 64)) else rows

/-- The contraction that a core's own program carries out, when it splits K (R432, R437). -/
def State.splitOf (s : State) (k : Core) : Option Contraction :=
  if k.own.isEmpty then none
  else ((k.dispatch.bind s.dispatch?).bind (fun d => d.req.contract)).filter (fun c => c.tiling.s > 1)

/-- DRAIN with D.PARTIAL tried for issue (R379, R380). The rows of a contraction's split are counted once, by its combine tile (R243). -/
def doDrainPartial (c : Nat) (s : State) (i : TileInstr) : Issue :=
  match i with
  | .drainPartial dsh _ qtr =>
    let k := s.core c
    match lookupK qtr k.recs with
    | none => .fail .mode 0 0
    | some r =>
      let sp := shelfList [(dsh, shelvesFor (accImageBytes r.m r.n r.mode))]
      if r.mode == 2 then .fail .mode 0 0
      else if dsh + sp.length > s.limitOf c then .fail .bounds 0 0
      else if k.unitBusy i then .hold .engine
      else
        let k1 := k.writeObject dsh (imageTag r.m r.n) (imageBytesOf r (imageRows r (k.tileRows r qtr)))
        let fl := k1.flight i [] sp (drainCycles [] r.m r.n)
        let rows := if (s.splitOf k).isSome then (0, 0) else (r.skipped.length, r.audited.length)
        .go (((s.reuse c sp).updCore c (fun _ => { k1.launch fl with recs := eraseK qtr k1.recs })).noteFlags c r.st.flags rows.1 rows.2 0)
  | _ => .hold .event

/-- DRAIN_PARTIAL as a row. -/
def execDrainPartial (core : Nat) (s : State) : Out :=
  s.tryIssue core (fun i => match i with | .drainPartial .. => true | _ => false) (doDrainPartial core)

/-! ## EWISE CHAIN -/

/-- EWISE CHAIN tried for issue (R305 to R317, R375, R600). -/
def doChain (c : Nat) (s : State) (i : TileInstr) : Issue :=
  match i with
  | .ewiseChain src dst chn xr =>
    let k := s.core c
    let st := stagesOf (s.chainOf k chn)
    match k.object (s.limitOf c) src with
    | .inr e => .fail e 0 0
    | .inl t =>
      let outs := outShelves st t.e1 t.e0 128 dst
      let reads := k.span src t ++ st.filterMap (fun g => if g.axis == 0 then none else some g.shelf)
      let route := (st.find? (fun g => g.cls == 9)).map Stage.aux
      if t.role != roleData then .fail .layout 0 0
      else if !isElemFmt t.fmt then .fail .format 0 0
      else if st.any (fun g => g.cls == 2) then .fail .mode 0 0
      else match k.chainFault (s.limitOf c) st with
      | some e => .fail e 0 0
      | none =>
        if outs.any (fun p => p.1 + p.2 > s.limitOf c) then .fail .bounds 0 0
        else
          let land := match route, k.held with
            | none, _ => Sum.inl none
            | some _, none => Sum.inr (St.held, 0)
            | some n, some h =>
              match s.landing k n (h.tile * srSlot (s.routeEntry k n)) ((outTag st t.e1 t.e0).bytes 0) true with
              | .inl l => Sum.inl (some (n, l))
              | .inr e => Sum.inr e
          match land with
          | .inr e => .fail e.1 e.2 0
          | .inl dest =>
            if k.drainWaits reads then .hold .order
            else if k.unitBusy i then .hold .engine
            else
              let m := k.objMem src t
              let x := (k.xr xr).toNat
              let f0_ : Flow := { vals := (List.range t.e1).map (fun r => (dataRow m t r).map (fun e => e.toF32 t.fmt)), vm := t.e1,
                                  vn := t.e0, skipped := [], row0 := bits x 31 0, col0 := bits x 63 32, unit := 128, flags := 0,
                                  sides := [] }
              let f := f0_.run st 0 (s.polyOf k) (k.vecTable t.e1 t.e0)
              let (k1, flags) := k.putFlow dst st f 0
              let fl := k1.flight i reads (shelfList outs) (drainCycles st t.e1 t.e0)
              let s1 := ((s.reuse c (shelfList outs)).updCore c (fun _ =>
                  match st.find? (fun g => g.cls == 7 && g.sr) with
                  | some _ => { k1.launch fl with lfsr := insertK 4 (f.quantise st 0).lfsr k1.lfsr }
                  | none => k1.launch fl)).noteFlags c flags 0 0 0
              .go (match dest with
                | some (n, l) => s1.sendTo c fl.idx n l ((s1.core c).tileBytes dst st t.e1 t.e0)
                | none => s1)
  | _ => .hold .event

/-- EWISE_CHAIN as a row. -/
def execEwiseChain (core : Nat) (s : State) : Out :=
  s.tryIssue core (fun i => match i with | .ewiseChain .. => true | _ => false) (doChain core)

/-! ## REDUCE -/

/-- Entry `r` of the inputs of a REDUCE, combined by R328. -/
def reduceEntry (kind : Nat) (ws : List Nat) : Nat :=
  match kind with
  | 0 => (sumOf (ws.map (BitVec.ofNat 32))).toNat
  | 1 =>
    let m := maxOf (ws.map (fun w => ⟨BitVec.ofNat 32 w, w / 2 ^ 32⟩))
    m.v.toNat + at_ 32 (low 32 m.idx)
  | _ =>
    let p := combineLse (ws.map (fun w => (BitVec.ofNat 32 w, BitVec.ofNat 32 (w / 2 ^ 32))))
    p.1.toNat + at_ 32 p.2.toNat

/-- REDUCE SUM, MAX or LSE tried for issue (R328, R376). -/
def doReduce (c : Nat) (s : State) (i : TileInstr) : Issue :=
  match i with
  | .reduce kind src dst xn =>
    let k := s.core c
    let n := (k.xr xn).toNat
    let limit := s.limitOf c
    let w := if kind == 0 then 4 else 8
    let lines := if kind == 0 then 8 else 16
    match k.object limit src with
    | .inr e => .fail e 0 0
    | .inl t =>
      let reads := (List.range (shelvesFor (n * lines * 64))).map (· + src)
      let writes := shelfList [(dst, shelvesFor (128 * w))]
      if n == 0 then .fail .shape 0 0
      else if t.role != roleData then .fail .layout 0 0
      else if t.fmt != (if kind == 0 then 0x0A else 0x11) then .fail .format 0 0
      else if src + reads.length > limit || dst + writes.length > limit then .fail .bounds 0 0
      else if reads.any (fun x => (k.tag x).fmt == 0 || (k.tag x).first != src) then .fail .layout 0 0
      else if k.drainWaits reads then .hold .order
      else if k.unitBusy i then .hold .engine
      else
        let m := k.objMem src t
        let ins := (List.range n).map (fun t => ((chunksOf w 129 (m.readBytes (t * lines * 64) (128 * w))).map ofLe).toArray)
        let outs := (List.range 128).map (fun r => reduceEntry kind (ins.map (fun a => (a[r]?).getD 0)))
        let k1 := k.putRecord dst 0 (if kind == 0 then 0 else 2) outs
        let fl := k1.flight i reads writes (8 + n * (if kind == 2 then 4 else 1))
        .go ((s.reuse c writes).updCore c (fun _ => k1.launch fl))
  | _ => .hold .event

/-- REDUCE as a row. -/
def execReduce (core : Nat) (s : State) : Out :=
  s.tryIssue core (fun i => match i with | .reduce .. => true | _ => false) (doReduce core)

/-- The images of a REDUCE SPLITK: from a shelf on, each starts at the shelf after the one before it, or the fault of reading one
(R340, R377). -/
def Core.imagesAt (k : Core) (limit : Nat) : Nat → Nat → List (Nat × Tag) ⊕ St
  | 0, _ => .inl []
  | n + 1, sh =>
    match k.object limit sh with
    | .inr e => .inr e
    | .inl t =>
      if t.role != roleImage then .inr .layout
      else match k.imagesAt limit n (sh + (k.span sh t).length) with
        | .inl l => .inl ((sh, t) :: l)
        | .inr e => .inr e

/-- A partial of R181 from its image. -/
def Core.partialAt (k : Core) (sh : Nat) (t : Tag) : Partial :=
  let m := k.objMem sh t
  let h := m.readLe 0 64
  let st := AccSt.ofWord (bits h 63 0)
  let w := accElemBytes (bits h 85 84)
  let es := (chunksOf w (t.e0 * t.e1 + 1) (m.readBytes 64 (t.e0 * t.e1 * w))).map ofLe
  { st := st.settleMet es, elems := es
    w := exactFloor (bits h 95 88) + exactFloor (bits h 103 96) + st.emin }

/-- The rows that the combine tile of a split contraction skips and audits: those of its splits, by the same mask (R241, R243, R437). -/
def State.splitRows (s : State) (k : Core) : List Nat × List Nat :=
  match s.splitOf k with
  | some c => if c.pskip == 2 then k.maskRows 14 else ([], [])
  | none => ([], [])

/-- The quarter, or the whole array, that takes an image of M × N: one that the whole array cannot lay out goes to quarter 0 (R379; log entry
187). -/
def imageQtr (m n : Nat) : Nat := if m % 128 == 0 && n % 128 == 0 then 4 else 0

/-- REDUCE SPLITK tried for issue (R180 to R184, R187, R377). -/
def doSplitk (c : Nat) (s : State) (i : TileInstr) : Issue :=
  match i with
  | .reduceSplitk src dst xn toacc =>
    let k := s.core c
    let n := (k.xr xn).toNat
    let limit := s.limitOf c
    if n == 0 then .fail .shape 0 0
    else match k.imagesAt limit (Nat.min n (limit + 1)) src with
    | .inr e => .fail e 0 0
    | .inl imgs =>
      match imgs with
      | [] => .fail .shape 0 0
      | (sh0, t0) :: _ =>
        let h := (k.objMem sh0 t0).readLe 0 64
        let mode := bits h 85 84
        let reads := imgs.flatMap (fun p => k.span p.1 p.2)
        let writes := if toacc then [] else shelfList [(dst, shelvesFor (accImageBytes t0.e1 t0.e0 mode))]
        if imgs.any (fun p => p.2.e0 != t0.e0 || p.2.e1 != t0.e1 || k.imageMode p.1 != mode) then .fail .shape 0 0
        else if toacc && !k.recs.isEmpty then .fail .held 0 0
        else if writes.any (· ≥ limit) then .fail .bounds 0 0
        else if k.drainWaits reads then .hold .order
        else if k.unitBusy i then .hold .engine
        else
          let ps := imgs.map (fun p => k.partialAt p.1 p.2)
          let (es, st) := combinePartials (bits h 95 88) (bits h 103 96) (mode == 1) ps
          let rows := chunksOf t0.e0 (t0.e1 + 1) es
          let sk := s.splitRows k
          let own := s.splitOf k
          let r0 : TileRec := { TileRec.ofHeader h with start := 0, skipped := sk.1, audited := sk.2, st := st }
          let r := if own.isSome then { r0 with vm := tcwVm (k.xr 14).toNat, vn := tcwVn (k.xr 14).toNat } else r0
          let q := match own with | some x => if x.tiling.split then 0 else 4 | none => imageQtr t0.e1 t0.e0
          let k1 := if toacc then
              let k0 := k.enterMode (q != 4)
              { k0.setAccTile (geoOf q (mode == 1)) t0.e0 rows with recs := insertK q r k0.recs }
            else k.writeObject dst (imageTag t0.e1 t0.e0) (imageBytesOf r rows)
          let fl := k1.flight i reads writes (t0.e0 * t0.e1 / 128 * n + 8)
          .go (((s.reuse c writes).updCore c (fun _ => k1.launch fl)).noteFlags c st.flags 0 0 0)
  | _ => .hold .event

/-- REDUCE_SPLITK as a row. -/
def execReduceSplitk (core : Nat) (s : State) : Out :=
  s.tryIssue core (fun i => match i with | .reduceSplitk .. => true | _ => false) (doSplitk core)

end Sys2Proof.Machine
end

