-- ==== Sys2Proof/Machine/Reach.lean ====
section
/-! DEFINITION. Memory as transfers reach it: errors met by an access (R469 to R473), owner-table mapping and remote reads (R292 to R296, R591,
R592), rows of DENSE tensors under their bounds policy (R256 to R258, R271 to R275), and writes (R296, R468, R593). -/
namespace Sys2Proof.Machine

/-! ## Errors of memory -/

/-- The virtual address of a local memory line, 0 when no page maps its frame. -/
def State.lineVA (s : State) (frame line : Nat) : Nat :=
  match s.pages.find? (fun p => !p.2.host && p.2.at_ == frame) with
  | some p => p.1 * 65536 + line * 128
  | none => 0

/-- A frame retired (R471): it is not allocated again before the next reset. -/
def State.retireFrame (s : State) (ch frame : Nat) : State :=
  ({ s with retired := frame :: s.retired, cleared := s.cleared.filter (· != frame) }.updChannel ch (fun c =>
    { c with retired := c.retired + 1 })).plainEvent 0x0012 (ch + at_ 8 (low 24 frame))

/-- The channel of a memory line of a page: its 256 B lines rotate over the page's channels (R457). -/
def wayOf (ways : List Nat) (line : Nat) : Option Nat := ways[line / 2 % ways.length]?

/-- Whether a line of a frame can lie on a channel: that of the page that holds the frame, or moves to it; a frame without a page may have its
lines anywhere (R457). -/
def State.onChannel (s : State) (frame line ch : Nat) : Bool :=
  match s.pages.find? (fun p => !p.2.host && (p.2.at_ == frame || p.2.moving == some frame)) with
  | none => true
  | some p =>
    let ways := if p.2.at_ == frame then p.2.ways else p.2.wayNext
    ways.isEmpty || wayOf ways line == some ch

/-- Whether a frame holds page-table lines. The frames of Hokuec's reserve are numbered above those of memory (R464, R476; log entry 181). -/
def holdsTables (frame : Nat) : Bool := 100663296 ≤ frame && Config.tableFrame frame

/-- A frame due for retirement (R471, R473): its page waits for a move to a spare frame, after the move that it is in or that brings it there; a
frame that holds no page is retired at once. -/
def State.frameDue (s : State) (ch frame : Nat) : State :=
  if s.retired.contains frame || (lookupK frame s.retireDue).isSome then s
  else if !s.pages.any (fun p => !p.2.host && (p.2.at_ == frame || p.2.moving == some frame)) then s.retireFrame ch frame
  else if s.spareFrames ≤ s.retireDue.length then s.plainEvent 0x0012 (ch + at_ 8 (low 24 frame) + at_ 32 1)
  else { s with retireDue := s.retireDue ++ [(frame, ch)] }

/-- An error that a read of a memory line meets, on the channel where the line lies (R469 to R471). A channel that is being evacuated still
serves what it holds. An uncorrectable error in a page-table line is corrected from the line's other copy (R476). -/
def State.memErr (patrol : Bool) (s : State) (e : MemErr) : State :=
  let line := e.line % 512
  let no := e.frame * 512 + line
  match s.channels[e.channel]? with
  | none => s
  | some ch =>
    if !(ch.state == 1 || ch.state == 2) || !s.onChannel e.frame line e.channel then s
    else if e.corrected then
      let n := lookupD 0 no s.ceLines + 1
      let s1 := { (s.updChannel e.channel (fun c => { c with ce := c.ce + 1 })) with ceLines := insertK no n s.ceLines }
      let s2 := if s.ceFrames.contains e.frame then s1
        else { s1 with ceFrames := e.frame :: s1.ceFrames }.plainEvent 0x0010
          (e.channel + at_ 8 (low 24 e.frame) + at_ 32 (Nat.min 0xFFFFFFFF (ch.ce + 1)))
      if n == 3 then s2.frameDue e.channel e.frame else s2
    else
      let s1 := { (s.updChannel e.channel (fun c => { c with ue := c.ue + 1 })) with
        poison := if holdsTables e.frame || s.poison.contains no then s.poison else no :: s.poison
        poisonAt := if holdsTables e.frame then s.poisonAt else insertK no e.channel s.poisonAt }
      (s1.plainEvent 0x0011 (e.channel + at_ 8 (low 24 e.frame) + at_ 32 line + at_ 41 (b2n patrol)
        + at_ 64 (low 52 (s.lineVA e.frame line))) .poison).frameDue e.channel e.frame

/-- The errors that an instruction's accesses meet. -/
def State.memErrs (s : State) (es : List MemErr) : State := es.foldl (State.memErr false) s

/-! ## What a read gives -/

/-- What reading for a row of a transfer gives: a value with the runs of local memory that were read, a translation stop, an instruction
fault (status, detail, detail word), or a read of another socket that has not been answered. -/
inductive Fetch (α : Type) where
  | ok (a : α) (t : List (Nat × Nat))
  | stop (cause va : Nat) (index : Bool)
  | fault (st : St) (detail word : Nat)
  | need (n : RemoteNeed)

/-- A value that needs no read. -/
def Fetch.pure {α : Type} (a : α) : Fetch α := .ok a []

/-- A read followed by another that depends on it. -/
def Fetch.bind {α β : Type} (x : Fetch α) (f : α → Fetch β) : Fetch β :=
  match x with
  | .ok a t => match f a with
    | .ok b u => .ok b (t ++ u)
    | .stop c v i => .stop c v i
    | .fault s d w => .fault s d w
    | .need n => .need n
  | .stop c v i => .stop c v i
  | .fault s d w => .fault s d w
  | .need n => .need n

/-- A read's value changed. -/
def Fetch.map {α β : Type} (f : α → β) (x : Fetch α) : Fetch β := x.bind (fun a => .pure (f a))

/-- Whether a read fails for a reason that comes before every line is read (R497): all but poison and an unanswered remote read. -/
def Fetch.early {α : Type} (x : Fetch α) : Bool :=
  match x with
  | .stop .. => true
  | .fault st _ _ => st != .poison
  | _ => false

/-- The values of a list of reads that all succeed. -/
def Fetch.seq {α : Type} : List (Fetch α) → Fetch (List α)
  | [] => .pure []
  | x :: r => x.bind (fun a => (Fetch.seq r).map (fun l => a :: l))

/-- A list of reads of one row: every page translates before any line is read (R497). -/
def Fetch.all {α : Type} (l : List (Fetch α)) : Fetch (List α) :=
  match l.find? Fetch.early with
  | some (.stop c v i) => .stop c v i
  | some (.fault s d w) => .fault s d w
  | _ => Fetch.seq l

/-! ## Owner tables -/

/-- Where an address of a descriptor lies: here, on another socket, or nowhere, with the detail of ST_NOOWNER. -/
inductive Place where
  | here (va : Nat)
  | there (sock va : Nat)
  | lost (detail : Nat)
  deriving DecidableEq, Repr

/-- An address mapped through a descriptor's owner table under the generation sampled at issue (R292, R293, R295). -/
def State.place (s : State) (gens : List (Nat × Nat)) (owner va : Nat) : Place :=
  if owner == 0 then .here va
  else match lookupK owner s.owners with
  | none => .lost 0
  | some o =>
    match o.map (lookupD o.gen owner gens) va with
    | none => .lost 0
    | some (sock, a) =>
      if s.self? == some sock then .here a
      else match s.remoteFault sock with
      | some d => .lost d
      | none => .there sock a

/-- A read of a run of addresses for an issued instruction (R291 to R295, R494, R497, R592). -/
def State.fetch (s : State) (f : Inflight) (owner va n : Nat) (index : Bool) : Fetch (List Byte) :=
  (Fetch.all ((pieces 2097152 (n / 2097152 + 2) va n).map (fun p =>
    match s.place f.gens owner p.1 with
    | .here a =>
      match s.checkRead a p.2 with
      | .ok => .ok (s.bytesAt a p.2) [(a, p.2)]
      | .stop c v => .stop c v index
      | .fault st v => .fault st 0 v
    | .lost d => .fault .noowner d p.1
    | .there sock a =>
      (Fetch.all ((pieces 512 (p.2 / 512 + 2) a p.2).map (fun q =>
        match f.got.find? (fun g => g.1 == (⟨sock, q.1, q.2⟩ : RemoteNeed)) with
        | some g => Fetch.pure g.2
        | none => .need ⟨sock, q.1, q.2⟩))).map List.flatten))).map List.flatten

/-- A little-endian number read at an address. -/
def State.fetchLe (s : State) (f : Inflight) (owner va n : Nat) (index : Bool) : Fetch Nat :=
  (s.fetch f owner va n index).map ofLe

/-! ## Rows of DENSE tensors -/

/-- Coordinates of memory from coordinates as instructions give them (R258). -/
def Desc.mem {α : Type} (d : Desc) (c : List α) : List α := if d.xpose then swap01 c else c

/-- Coordinates 1 and up under the policy: placed, past the tensor in a device's own operand, or faulting in a dimension (R273, R274). -/
def Desc.outerOf (d : Desc) (coord : List Int) : Option (List Int) ⊕ Nat :=
  if d.oob == oobZero then .inl (if (d.badOuter coord).isSome then none else some coord)
  else match d.outer coord with
    | .inl c => .inl (some c)
    | .inr i => .inr i

/-- A coordinate of dimension 0 under the policy; none reads +0 (R271 to R274). -/
def Desc.innerOf (d : Desc) (x : Int) : Option Nat :=
  if inDim d.readable0 x then some x.toNat
  else if d.oob == oobZero then none else some (clampCoord (d.size 0) x).toNat

/-- Elements `lo` to `lo + n − 1` of the row at an address (R61, R62, R66, R68, R255 to R257, R272). -/
def State.rowSpan (s : State) (f : Inflight) (d : Desc) (at_ : Nat) (lo n : Nat) (index : Bool) : Fetch (List Elem) :=
  let w := widthOf d.fmt
  if d.inter then
    let b0 := lo / 32
    let nb := (lo + n + 31) / 32 - b0
    (s.fetch f d.owner (at_ + b0 * blockBytes d.fmt) (nb * blockBytes d.fmt) index).map (fun bs =>
      ((bytesToRow d.fmt true 127 (nb * 32) bs).zipIdx.map (fun p => if b0 * 32 + p.2 < d.size 0 then p.1 else ⟨0, p.1.scale⟩)).drop (lo % 32)
        |>.take n)
  else if d.stride 0 == 0 then
    (s.fetch f d.owner at_ (w / 8) index).map (fun bs => List.replicate n ⟨ofLe bs, d.us⟩)
  else
    let a := lo * w / 8
    (s.fetch f d.owner (at_ + a) ((lo + n) * w / 8 + b2n ((lo + n) * w % 8 != 0) - a) index).map (fun bs =>
      (unpackBits w n (ofLe bs / 2 ^ (lo * w % 8))).map (fun r => ⟨r, d.us⟩))

/-- Elements of a DENSE tensor at memory coordinates: `outer` gives coordinates 1 and up, `xs` those along dimension 0 (R271 to R275). -/
def State.readRun (s : State) (f : Inflight) (d : Desc) (slot : Nat) (outer : List Int) (xs : List Int) (index : Bool) : Fetch (List Elem) :=
  if d.oob == 0 && xs.any (fun x => !inDim d.readable0 x) then .fault .bounds 0 slot
  else match d.outerOf outer with
  | .inr i => .fault .bounds i slot
  | .inl none => .pure (xs.map (fun _ => Elem.zero))
  | .inl (some c) =>
    let ix := xs.map d.innerOf
    match minNat? (ix.filterMap id) with
    | none => .pure (xs.map (fun _ => Elem.zero))
    | some lo =>
      let hi := maxNat (ix.filterMap id)
      (s.rowSpan f d (d.rowAddr c).toNat lo (hi + 1 - lo) index).map (fun l =>
        let a := l.toArray
        ix.map (fun x => match x with | some i => (a[i - lo]?).getD Elem.zero | none => Elem.zero))

/-- An entry of an index tensor or block-coordinate list (R280, R287, R363). -/
def State.readIndex (s : State) (f : Inflight) (d : Desc) (slot : Nat) (pos : Nat) : Fetch Int :=
  (s.readRun f d slot [0] [(pos : Int)] true).map (fun l => sint 32 ((l.head?.map Elem.raw).getD 0))

/-! ## Writes -/

/-- The bytes that a write covers. -/
def putLen : Put → Nat
  | .data _ bs => bs.length
  | .add _ fmt _ => widthOf fmt / 8

/-- The address of a write. -/
def putAt : Put → Nat
  | .data va _ => va
  | .add va _ _ => va

/-- Whether a write is an addition. -/
def putAtomic : Put → Bool
  | .data .. => false
  | .add .. => true

/-- The pieces of a write that stay in one block of 2 MiB, as (address, length). -/
def putPieces (p : Put) : List (Nat × Nat) := pieces 2097152 (putLen p / 2097152 + 2) (putAt p) (putLen p)

/-- What stands in the way of a write (R292, R482, R486, R488, R494). -/
def State.checkPut (s : State) (f : Inflight) (owner : Nat) (p : Put) : Fetch Unit :=
  (Fetch.all ((putPieces p).map (fun q =>
    match s.place f.gens owner q.1 with
    | .here a =>
      match s.checkWrite (putAtomic p) a q.2 with
      | .ok => Fetch.pure ()
      | .stop c v => .stop c v false
      | .fault st v => .fault st 0 v
    | .there _ _ => .pure ()
    | .lost d => .fault .noowner d q.1))).map (fun _ => ())

/-- Bytes merged into what memory holds (R468). -/
def mergeBytes (old : List Byte) (bs : List (Byte × Byte)) : List Byte :=
  List.zipWith (fun o b => (o &&& ~~~b.2) ||| (b.1 &&& b.2)) old bs

/-- The element that an addition leaves, with the conversion flags: one rounding with SAT, FP32 included (R76, R285). -/
def scatSum (fmt old val : Nat) : Nat × Nat := convert fmt true .rne (FV.add (rawVal fmt old) (rawVal fmt val))

/-- A write performed in local memory. -/
def State.putHere (s : State) (p : Put) (r : Option Nat := none) : State :=
  match p with
  | .data va bs => s.writeVA va (mergeBytes (s.bytesAt va bs.length) bs) r
  | .add va fmt val =>
    let n := widthOf fmt / 8
    s.writeVA va (leBytes n (scatSum fmt (ofLe (s.bytesAt va n)) val).1) r

/-- A part of a write, moved to another address. -/
def putPart (p : Put) (from_ len to_ : Nat) : Put :=
  match p with
  | .data va bs => .data to_ ((bs.drop (from_ - va)).take len)
  | .add _ fmt val => .add to_ fmt val

/-- Whether a write of an instruction that sampled a generation is held by a switch of its owner table (R296, step 2). -/
def State.putHeld (s : State) (gens : List (Nat × Nat)) (owner va : Nat) : Bool :=
  match lookupK owner s.owners with
  | some o =>
    let b := (va - o.vbase) / 2097152
    o.sealed_ && lookupD o.gen owner gens == o.gen && lookupD 0 b o.active != lookupD 0 b o.standby
  | none => false

/-- A write performed: in local memory, at its owner, or held for the core and issued instruction `who` (R293, R296, R593). Gives the writes
replaced, for R452, and the packets sent. -/
def State.perform (s : State) (gens : List (Nat × Nat)) (owner : Nat) (p : Put) (who : Option (Nat × Nat) := none) :
    State × List Undo × List (Nat × Nat) :=
  (putPieces p).foldl (fun st q =>
    let t := st.1
    if owner != 0 && t.putHeld gens owner q.1 then
      ({ t with owners := updK owner (fun o => { o with heldWrites := o.heldWrites ++ [⟨who, putPart p q.1 q.2 q.1⟩] }) t.owners }, st.2)
    else match t.place gens owner q.1 with
    | .here a =>
      let u := t.putHere (putPart p q.1 q.2 a) (who.map (fun w => regionOf w.1))
      (u, ⟨a, t.bytesAt a q.2, u.bytesAt a q.2⟩ :: st.2.1, st.2.2)
    | .there sock a =>
      let u := match putPart p q.1 q.2 a with
        | .data va bs => t.postMasked sock va bs
        | .add va fmt val => t.post sock (.addTo fmt va val)
      (u, st.2.1, st.2.2 ++ u.sentSince t sock)
    | .lost _ => st) (s, [], [])

/-- The flags that an addition sets (R79, R285): those of its conversion where it is made here. Another socket makes it in its own memory, and no
packet that the manual describes brings its flags back: SATURATED is a free value there (log entry 174). A held addition sets its flags when it
is performed. -/
def State.putFlags (s : State) (gens : List (Nat × Nat)) (owner : Nat) (p : Put) : State × Nat :=
  match p with
  | .data .. => (s, 0)
  | .add va fmt val =>
    if owner != 0 && s.putHeld gens owner va then (s, 0)
    else match s.place gens owner va with
    | .here a => (s, (scatSum fmt (ofLe (s.bytesAt a (widthOf fmt / 8))) val).2)
    | .there _ a => let (n, t) := s.takeFresh; (t, b2n (Config.freeBit n a))
    | .lost _ => (s, 0)

end Sys2Proof.Machine
end

