-- ==== Sys2Proof/Machine/Payload.lean ====
section
/-! DEFINITION. Sparse structures in memory as transfers read and write them: folio tiles and their cards (R204 to R210), bitmap slots
(R254), blocks (R717), pointer and coordinate arrays (R201, R252), and the synthesised cards of R214. -/
namespace Sys2Proof.Machine

/-! ## Tiles -/

/-- The K axis in memory's own coordinates: a device's own view may exchange dimensions 0 and 1. -/
def Desc.memK (d : Desc) : Nat := if d.xpose then 1 - d.kaxis else d.kaxis

/-- Positions of tile (t1, t0) within the tensor: rows, columns (R204). -/
def Desc.edges (d : Desc) (t1 t0 : Nat) : Nat × Nat := (Nat.min 128 (d.size 1 - 128 * t1), Nat.min 128 (d.size 0 - 128 * t0))

/-- A tile whose positions all read +0. -/
def Desc.emptyTile (d : Desc) : Array Elem := Array.replicate 16384 ⟨0, d.us⟩

/-- A tile with some of its positions (128 r + q) given, its scales in an array of one byte per 32 columns. -/
def Desc.fillTile (d : Desc) (scales : List Byte) (at_ : List Nat) (raws : List Nat) : Array Elem :=
  let sc := scales.toArray
  let base : Array Elem := if d.inter then (Array.range 16384).map (fun p => ⟨0, ((sc[p / 32]?).getD 127#8).toNat⟩) else d.emptyTile
  (at_.zip raws).foldl (fun a p => a.modify p.1 (fun e => { e with raw := p.2 })) base

/-- The positions that a bitmap marks (R206). -/
def bitmapPositions (b : List Byte) : List Nat :=
  b.zipIdx.flatMap (fun p => if p.1 == 0#8 then [] else ((List.range 8).filter (fun i => p.1.getLsbD i)).map (· + 8 * p.2))

/-- Whether a position of a tile counts as a nonzero of it (R209). -/
def Desc.counts (d : Desc) (e : Nat × Nat) (p : Nat) (x : Elem) : Bool :=
  x.nonzero d.fmt && (x.scale != 255 || (p / 128 < e.1 && p % 128 < e.2))

/-- The K-step of a position (R205). -/
def Desc.kOf (d : Desc) (p : Nat) : Nat := if d.memK == 0 then p % 128 else p / 128

/-- A payload decoded, or none where a check of R208 fails. -/
def Desc.decodeTile (d : Desc) (card t1 t0 : Nat) (bs : List Byte) : Option (Array Elem) :=
  let edge := d.edges t1 t0
  let sc := if d.inter then bs.take 512 else []
  let body := if d.inter then bs.drop 512 else bs
  let n := cardNnz card
  let ks := cardKsum card
  let ok := fun (t : Array Elem) => t.toList.zipIdx.all (fun x => !d.counts edge x.2 x.1 || bit ks (d.kOf x.2))
  match cardForm card with
  | 0 => some d.emptyTile
  | 1 =>
    let rb := rowBytes d.fmt 128 d.inter
    let t := ((chunksOf rb 128 bs).flatMap (bytesToRow d.fmt d.inter d.us 128)).toArray
    if (t.toList.zipIdx.filter (fun x => d.counts edge x.2 x.1)).length == n && ok t then some t else none
  | 2 =>
    let ps := bitmapPositions (body.take 2048)
    let t := d.fillTile sc ps (unpackElems d.fmt n (body.drop 2048))
    if ps.length == n && ok t then some t else none
  | _ =>
    let ps := (chunksOf 2 n (body.take (2 * n))).map ofLe
    let rising := ps.all (· < 16384) && (List.zipWith (fun a b => decide (a < b)) ps (ps.drop 1)).all id
    let t := d.fillTile sc ps (unpackElems d.fmt n (body.drop (2 * n)))
    if rising && ok t then some t else none

/-- The card of a folio tile, checked (R208). -/
def State.readCard (s : State) (f : Inflight) (d : Desc) (g t1 t0 : Nat) : Fetch Nat :=
  let a := d.cardAddr g t1 t0
  (s.fetchLe f d.owner a 32 false).bind (fun c =>
    match cardCheck { d with kaxis := d.memK } c with
    | some st => .fault st 0 a
    | none => .pure c)

/-- A tile of a folio: card and, where it is needed, payload (R204, R208). -/
def State.folioTile (s : State) (f : Inflight) (d : Desc) (g t1 t0 : Nat) (need : Nat → Bool) : Fetch (Array Elem) :=
  (s.readCard f d g t1 t0).bind (fun c =>
    if cardForm c == 0 || !need c then .pure d.emptyTile
    else
      (s.fetch f d.owner (d.base + 64 * cardOffset c) (64 * cardLen c) false).bind (fun bs =>
        match d.decodeTile c t1 t0 bs with
        | some t => .pure t
        | none => .fault .card 0 (d.cardAddr g t1 t0)))

/-- The slot of a tile of a BITMAP tensor: its positions and, where they are asked for, its elements (R206, R254). -/
def State.bitmapTile (s : State) (f : Inflight) (d : Desc) (x : Nat) : Fetch (Array Elem) :=
  let a := d.base + x * d.bitmapSlot
  let h := (if d.inter then 512 else 0) + 2048
  (s.fetch f d.owner a h false).bind (fun bs =>
    let ps := bitmapPositions (bs.drop (h - 2048))
    (s.fetch f d.owner (a + h) (packedBytes d.fmt ps.length) false).map (fun vs =>
      d.fillTile (if d.inter then bs.take 512 else []) ps (unpackElems d.fmt ps.length vs)))

/-! ## Pointers and indices -/

/-- Whether two neighbouring pointers breach R201: `i` is the first one's number, of `n` rows, over `nent` entries. -/
def ptrBad (i n nent p q : Nat) : Bool := (i == 0 && p != 0) || decide (q < p) || decide (q > nent) || (i + 1 == n && q != nent)

/-- Whether a list rises strictly. -/
def rising (l : List Nat) : Bool := (List.zipWith (fun a b => decide (a < b)) l (l.drop 1)).all id

/-- The entries that a pointer pair gives a row, as (index, entry number), checked (R201). -/
def State.pointerRow (s : State) (f : Inflight) (d : Desc) (i rows size : Nat) : Fetch (List (Nat × Nat)) :=
  (s.fetch f d.owner (d.aux0 + 8 * i) 16 false).bind (fun bs =>
    let p := ofLe (bs.take 8)
    let q := ofLe (bs.drop 8)
    if ptrBad i rows d.nent p q then .fault .order 0 (d.aux0 + 8 * i)
    else (s.fetch f d.owner (d.aux1 + 4 * p) (4 * (q - p)) false).bind (fun ib =>
      let ix := (chunksOf 4 (q - p) ib).map ofLe
      if ix.any (fun x => decide (x ≥ size)) then .fault .bounds 0 (d.aux1 + 4 * p)
      else if !rising ix then .fault .order 0 (d.aux1 + 4 * p)
      else .pure (ix.zipIdx.map (fun x => (x.1, p + x.2)))))

/-- Values `p` to `p + n − 1` of the packed values array (R61, R62, R200). -/
def State.values (s : State) (f : Inflight) (d : Desc) (p n : Nat) : Fetch (List Nat) :=
  let w := widthOf d.fmt
  let a := p * w / 8
  (s.fetch f d.owner (d.base + a) (ceilDiv ((p + n) * w) 8 - a) false).map (fun bs => unpackBits w n (ofLe bs / 2 ^ (p * w % 8)))

/-- A tile of a block-sparse tensor (R201, R717): the blocks present, by position in the tile. -/
def State.blocksOf (s : State) (f : Inflight) (d : Desc) (t1 t0 : Nat) : Fetch (List (Nat × Nat × Nat)) :=
  let b := d.edge
  let per := 128 / b
  let rows := ceilDiv (d.size 1) b
  (Fetch.all (((List.range per).filter (fun j => t1 * per + j < rows)).map (fun j =>
    (s.pointerRow f d (t1 * per + j) rows (ceilDiv (d.size 0) b)).map (fun l =>
      (l.filter (fun e => e.1 / per == t0)).map (fun e => (j, e.1 % per, e.2)))))).map List.flatten

/-- A tile of a block-sparse tensor (R717). -/
def State.blockTile (s : State) (f : Inflight) (d : Desc) (t1 t0 : Nat) : Fetch (Array Elem) :=
  let b := d.edge
  let rb := rowBytes d.fmt b d.inter
  (s.blocksOf f d t1 t0).bind (fun bl =>
    (Fetch.all (bl.map (fun e =>
      (s.fetch f d.owner (d.base + e.2.2 * d.blockSize) (b * rb) false).map (fun bs =>
        ((chunksOf rb b bs).map (bytesToRow d.fmt d.inter d.us b)).zipIdx.flatMap (fun r =>
          r.1.zipIdx.map (fun c => ((e.1 * b + r.2) * 128 + e.2.1 * b + c.2, c.1))))))).map (fun ls =>
      ls.flatten.foldl (fun (t : Array Elem) p => t.setIfInBounds p.1 p.2) d.emptyTile))

/-- The positions that a bitmap marks in a tile of a BITMAP tensor, or that the present blocks of a block-sparse tensor cover, as elements of raw
value 1 (R203, R254, R717). -/
def State.listedTile (s : State) (f : Inflight) (d : Desc) (g t1 t0 : Nat) : Fetch (Array Elem) :=
  let mark := fun (ps : List Nat) => ps.foldl (fun (a : Array Elem) p => a.setIfInBounds p ⟨1, 127⟩) (Array.replicate 16384 ⟨0, 127⟩)
  if d.layout == 8 then
    (s.fetch f d.owner (d.base + ((g * d.t1 + t1) * d.t0 + t0) * d.bitmapSlot + (if d.inter then 512 else 0)) 2048 false).map (fun bs =>
      mark (bitmapPositions bs))
  else
    let b := d.edge
    (s.blocksOf f d t1 t0).map (fun bl => mark (bl.flatMap (fun e =>
      (List.range b).flatMap (fun r => (List.range b).map (fun q => (e.1 * b + r) * 128 + e.2.1 * b + q)))))

/-- A tile of a FOLIO, BITMAP or block-sparse tensor in dense form (R358). -/
def State.anyTile (s : State) (f : Inflight) (d : Desc) (g t1 t0 : Nat) (need : Nat → Bool) : Fetch (Array Elem) :=
  if d.layout == 1 then s.folioTile f d g t1 t0 need
  else if d.layout == 8 then s.bitmapTile f d ((g * d.t1 + t1) * d.t0 + t0)
  else s.blockTile f d t1 t0

/-! ## Synthesised cards -/

/-- KSUM over some K-steps. -/
def ksumOf (ks : List Nat) : Nat := ks.foldl (fun a k => a ||| at_ k 1) 0

/-- A card that is not stored (R214): its scale extremes stay open for interleaved scales (log entry 8). -/
def Desc.synthCard (d : Desc) (nnz ksum : Nat) : Nat :=
  if nnz == 0 then mkCard 0 d.memK false 0 127 127 0 0 0
  else if d.inter then mkCard 1 d.memK false nnz (Config.unstated 21 0 % 256) (Config.unstated 21 1 % 256) 0 0 ksum
  else mkCard 1 d.memK false nnz 127 127 0 0 ksum

/-- The card of a tile of any operand (R205, R214). -/
def State.anyCard (s : State) (f : Inflight) (d : Desc) (g t1 t0 : Nat) : Fetch Nat :=
  let e := d.edges t1 t0
  if d.layout == 1 then s.readCard f d g t1 t0
  else if d.layout == 0 then
    .pure (d.synthCard (e.1 * e.2) (ksumOf (List.range (if d.memK == 0 then e.2 else e.1))))
  else if d.layout == 8 then
    let h := (if d.inter then 512 else 0)
    (s.fetch f d.owner (d.base + ((g * d.t1 + t1) * d.t0 + t0) * d.bitmapSlot + h) 2048 false).map (fun bs =>
      let ps := bitmapPositions bs
      d.synthCard ps.length (ksumOf (ps.map d.kOf)))
  else
    let b := d.edge
    (s.blocksOf f d t1 t0).map (fun bl =>
      d.synthCard (bl.length * b * b) (ksumOf (bl.flatMap (fun e =>
        (List.range b).map (· + (if d.memK == 0 then e.2.1 else e.1) * b)))))

/-! ## Pointer-indexed and coordinate tensors -/

/-- A read without its counts: a search whose accesses the manual does not count. -/
def Fetch.quiet {α : Type} (x : Fetch α) : Fetch α :=
  match x with
  | .ok a _ => .ok a []
  | y => y

/-- The entries of one row of a sorted COO tensor, as (column, entry number) (R201). -/
def State.cooPlaces (s : State) (f : Inflight) (d : Desc) (i : Nat) : Fetch (List (Nat × Nat)) :=
  (s.fetch f d.owner d.aux0 (4 * d.nent) false).quiet.bind (fun bs =>
    let rows := (chunksOf 4 d.nent bs).map ofLe
    if rows.any (fun r => decide (r ≥ d.size 1)) then .fault .bounds 0 d.aux0
    else if !(List.zipWith (fun a b => decide (a ≤ b)) rows (rows.drop 1)).all id then .fault .order 0 d.aux0
    else
      let p := (rows.takeWhile (· < i)).length
      let n := ((rows.drop p).takeWhile (· == i)).length
      (s.fetch f d.owner (d.aux0 + 4 * p) (4 * n) false).bind (fun _ =>
        (s.fetch f d.owner (d.aux1 + 4 * p) (4 * n) false).bind (fun cb =>
          let cols := (chunksOf 4 n cb).map ofLe
          if cols.any (fun x => decide (x ≥ d.size 0)) then .fault .bounds 0 (d.aux1 + 4 * p)
          else if !rising cols then .fault .order 0 (d.aux1 + 4 * p)
          else .pure (cols.zipIdx.map (fun x => (x.1, p + x.2))))))

/-- The entries of one row of a CSR or sorted COO tensor, or of one column of a CSC tensor, as (index, entry number) (R200, R201). -/
def State.sparsePlaces (s : State) (f : Inflight) (d : Desc) (i : Nat) : Fetch (List (Nat × Nat)) :=
  if d.layout == 4 then s.cooPlaces f d i
  else
    let csc := d.layout == 3
    s.pointerRow f d i (d.size (if csc then 0 else 1)) (d.size (if csc then 1 else 0))

/-- Entries of a piece sorted by (row, column): those with equal coordinates combined by ADD2 in the order of the list (R202). -/
def cooFold : List (Nat × Nat × W32) → List (Nat × Nat × Twin) → List (Nat × Nat × Twin)
  | [], acc => acc.reverse
  | e :: r, acc =>
    match acc with
    | g :: t => if e.1 == g.1 && e.2.1 == g.2.1 then cooFold r ((g.1, g.2.1, add2 g.2.2 ⟨e.2.2, f0⟩) :: t)
        else cooFold r ((e.1, e.2.1, ⟨e.2.2, f0⟩) :: acc)
    | [] => cooFold r [(e.1, e.2.1, ⟨e.2.2, f0⟩)]

/-- An entry combined into a run sorted by (row, column): ADD2 where the coordinates are equal, with an overflow (R234). -/
def addEntry (e : RunEntry) : List RunEntry → List RunEntry × Bool
  | [] => ([e], false)
  | f :: r =>
    if e.row == f.row && e.col == f.col then ({ f with v := add2 f.v e.v } :: r, add2Ovf f.v e.v)
    else if e.row < f.row || (e.row == f.row && e.col < f.col) then (e :: f :: r, false)
    else let q := addEntry e r; (f :: q.1, q.2)

/-- The runs of a group merged into one, in increasing run position (R233, R234). -/
def mergeGroup (rs : List Run) : Run :=
  let st := rs.foldl (fun (a : List RunEntry × Bool) r =>
    r.entries.foldl (fun (b : List RunEntry × Bool) e => let q := addEntry e b.1; (q.1, b.2 || q.2)) a) ([], false)
  let first := rs.head?
  { tile := (first.map Run.tile).getD 0, seq := (first.map Run.seq).getD 0, entries := st.1
    flags := rs.foldl (fun a r => a ||| r.flags) (if st.2 then runOverflow else 0), core := none, buffered := false, addr := 0, inmem := false }

/-- Passes of the bindery over runs, groups of up to 8 in each, until one is left (R233). -/
def mergePasses : Nat → List Run → List Run
  | 0, l => l
  | f + 1, l => if l.length ≤ 1 then l else mergePasses f ((chunksOf 8 (l.length + 1) l).map mergeGroup)

/-- The entries of an unsorted list sorted: in pieces of 4,096, each sorted and combined by itself, which passes of the bindery merge (R202). -/
def cooMerge (es : List (Nat × Nat × W32)) : List RunEntry :=
  let runs := (chunksOf 4096 (es.length / 4096 + 1) es).zipIdx.map (fun p =>
    let l := cooFold (p.1.mergeSort (fun a b => a.1 < b.1 || (a.1 == b.1 && a.2.1 ≤ b.2.1))) []
    (⟨p.2, 0, l.map (fun e => ⟨e.1, e.2.1, e.2.2⟩), 0, none, false, 0, false⟩ : Run))
  match mergePasses runs.length runs with
  | r :: _ => r.entries
  | [] => []

/-- The passes that a sort of n entries takes (R202). -/
def cooPasses (n : Nat) : Nat := 1 + (List.range 16).countP (fun i => 8 ^ i < ceilDiv n 4096)

/-- An unsorted COO tensor as its sorted FP32 copy: (row, column, value) (R202). -/
def State.cooSorted (s : State) (f : Inflight) (d : Desc) : Fetch (List (Nat × Nat × W32)) :=
  (s.fetch f d.owner d.aux0 (4 * d.nent) false).bind (fun rb =>
    (s.fetch f d.owner d.aux1 (4 * d.nent) false).bind (fun cb =>
      let rows := (chunksOf 4 d.nent rb).map ofLe
      let cols := (chunksOf 4 d.nent cb).map ofLe
      if rows.any (fun r => decide (r ≥ d.size 1)) then .fault .bounds 0 d.aux0
      else if cols.any (fun r => decide (r ≥ d.size 0)) then .fault .bounds 0 d.aux1
      else (s.values f d 0 d.nent).map (fun vs =>
        let es := (rows.zip (cols.zip vs)).map (fun e => (e.1, e.2.1, (Elem.mk e.2.2 d.us).toF32 d.fmt))
        (cooMerge es).map (fun e => (e.row, e.col, e.v.collapse)))))

/-! ## Packing -/

/-- A tile packed: its card without offset, and its payload padded to whole 64 B units (R206, R209, R210). Positions outside the box, masked
positions and positions beyond the edge come as zero. -/
def Desc.packTile (d : Desc) (t1 t0 : Nat) (t : Array Elem) : Nat × List Byte :=
  let e := d.edges t1 t0
  let nz := (t.toList.zipIdx.filter (fun x => x.1.nonzero d.fmt && x.2 / 128 < e.1 && x.2 % 128 < e.2)).map (fun x => (x.2, x.1))
  let held := fun (b : Nat) => nz.any (fun x => x.1 / 32 == b)
  let blocks := (List.range 512).map (fun b => if held b then ((t[32 * b]?).getD Elem.zero).scale else 127)
  let sc := blocks.map (BitVec.ofNat 8)
  let n := nz.length
  let snan := d.inter && blocks.contains 255
  let size := fun form => roundUp (formBytes d.fmt d.inter form n) 64
  let form := if n == 0 then 0 else if snan || (size 1 ≤ size 2 && size 1 ≤ size 3) then 1 else if size 2 ≤ size 3 then 2 else 3
  let used := if d.inter then ((List.range 512).filter held).map (fun b => (blocks[b]?).getD 127) else []
  let smax := match used with | [] => 127 | _ => maxNat used
  let smin := (minNat? used).getD 127
  let ba := blocks.toArray
  let vals := packElems d.fmt (nz.map (fun x => x.2.raw))
  let head := if d.inter then sc else []
  let body := match form with
    | 0 => []
    | 1 => (chunksOf 128 129 (t.toList.zipIdx.map (fun x =>
        (⟨if x.2 / 128 < e.1 && x.2 % 128 < e.2 then x.1.raw else 0, (ba[x.2 / 32]?).getD 127⟩ : Elem)))).flatMap (rowToBytes d.fmt d.inter)
    | 2 => head ++ leBytes 2048 (ksumOf (nz.map Prod.fst)) ++ vals
    | _ => head ++ nz.flatMap (fun x => leBytes 2 x.1) ++ vals
  let ksum := ksumOf (nz.map (fun x => d.kOf x.1))
  (mkCard form d.memK snan n smax smin (if form == 0 then 0 else size form / 64) 0 ksum,
   if form == 0 then [] else padLine (size form) body)

end Sys2Proof.Machine
end

