-- ==== Sys2Proof/Machine/Transfer.lean ====
section
/-! DEFINITION. Transfers as sequences of rows (R496 to R504): how rows are read and assembled into objects (R356 to R362), prologues
(R324 to R328), gathers (R280 to R283), block lists (R287, R288), and the engine that carries a transfer out row by row. -/
namespace Sys2Proof.Machine

/-! ## Rows -/

/-- An index register as an issued instruction read it. -/
def Inflight.xr (f : Inflight) (n : Nat) : W64 := if n = 0 then 0#64 else (f.x[n]?).getD 0#64

/-- The product of a list of numbers. -/
def prodNat (l : List Nat) : Nat := l.foldl (· * ·) 1

/-- The rows that a transfer moves: how many, the elements of each, and the coordinates of a row's first element. -/
structure Rows where
  n : Nat
  e0 : Nat
  start : Nat → Fetch (List Int)

/-- The rows of a box (R354, R356). -/
def boxRows (o : List Int) (e : List Nat) : Rows :=
  { n := prodNat (e.drop 1), e0 := nth 0 e 0,
    start := fun q => .pure (List.zipWith (fun x (i : Nat) => x + (i : Int)) o (0 :: unrank (e.drop 1) q)) }

/-- The rows of the blocks of a block-coordinate list (R287, R288). -/
def State.listRows (s : State) (f : Inflight) (li : Desc) (slot2 rank first n : Nat) (shape : List Nat) : Rows :=
  let per := prodNat (shape.drop 1)
  { n := n * per, e0 := nth 0 shape 0,
    start := fun q =>
      let x := Fetch.all ((List.range rank).map (fun i => s.readIndex f li slot2 ((first + q / per) * rank + i)))
      (if q % per == 0 then x else x.quiet).map (fun cs =>
        List.zipWith (fun c (p : Nat × Nat) => c * (p.1 : Int) + (p.2 : Int)) cs (shape.zip (0 :: unrank (shape.drop 1) (q % per)))) }

/-- Coordinates with the first one moved by x. -/
def shift0 (c : List Int) (x : Nat) : List Int :=
  match c with
  | a :: r => (a + (x : Int)) :: r
  | [] => []

/-- Elements of some rows of one plane of a DENSE tensor, at some positions of each, by row (R258, R271 to R278). -/
def State.readDense (s : State) (f : Inflight) (d : Desc) (slot : Nat) (cs : List (List Int)) (xs : List Nat) : Fetch (List Elem) :=
  if d.xpose then
    match cs with
    | [] => .pure []
    | c :: _ =>
      (Fetch.all (xs.map (fun x => s.readRun f d slot (swap01 (shift0 c x)) (cs.map (fun e => nth 0 e 1)) false))).map (fun cols =>
        (columns Elem.zero cs.length cols).flatten)
  else (Fetch.all (cs.map (fun c => s.readRun f d slot c (xs.map (fun (x : Nat) => nth 0 c 0 + (x : Int))) false))).map List.flatten

/-- A coordinate of memory under the policy of a tiled tensor: a position, none for +0, or the dimension that faults (R273, R274). -/
def Desc.place1 (d : Desc) (dim : Nat) (x : Int) : Option Nat ⊕ Nat :=
  if inDim (if dim == 0 then d.readable0 else d.size dim) x then .inl (some x.toNat)
  else if d.oob == oobZero then .inl none
  else if d.oob == 1 then .inl (some (clampCoord (d.size dim) x).toNat) else .inr dim

/-- Elements of some rows of a tiled tensor, at some positions of each, by row, with the tiles that `tile` reads (R204, R358). Padding positions
along dimension 0 read +0 (R272). -/
def Desc.tiled (d : Desc) (slot : Nat) (cs : List (List Int)) (xs : List Nat) (tile : Nat × Nat × Nat → Fetch (Array Elem)) :
    Fetch (List Elem) :=
  let pts := cs.flatMap (fun c => xs.map (fun x => d.mem (shift0 c x)))
  let put := fun (c : List Int) => (c.zipIdx.map (fun p => d.place1 p.2 p.1))
  match pts.findSome? (fun c => (put c).findSome? (fun p => match p with | .inr i => some i | .inl _ => none)) with
  | some i => .fault .bounds i slot
  | none =>
    let at_ := pts.map (fun c => (put c).map (fun p => match p with | .inl (some x) => some x | _ => none))
    let where_ := at_.map (fun c =>
      if c.any Option.isNone then none
      else
        let n := c.map (fun x => x.getD 0)
        let g := d.grid (n.map (fun (x : Nat) => (x : Int)))
        some ((g, nth 0 n 1 / 128, nth 0 n 0 / 128), nth 0 n 1 % 128 * 128 + nth 0 n 0 % 128, decide (nth 0 n 0 < d.size 0)))
    let tiles := (where_.filterMap (fun w => w.map Prod.fst)).dedup
    (Fetch.all (tiles.map tile)).map (fun ts =>
      let table := tiles.zip ts
      where_.map (fun w =>
        match w with
        | none => Elem.zero
        | some (t, p, inside) =>
          let e := match table.find? (fun e => e.1 == t) with | some e => (e.2[p]?).getD Elem.zero | none => Elem.zero
          if inside then e else ⟨0, e.scale⟩))

/-- Elements of some rows of a tiled tensor (R358). -/
def State.readTiles (s : State) (f : Inflight) (d : Desc) (slot : Nat) (cs : List (List Int)) (xs : List Nat)
    (need : Nat → Bool) : Fetch (List Elem) :=
  d.tiled slot cs xs (fun t => s.anyTile f d t.1 t.2.1 t.2.2 need)

/-- Elements of some rows of a tensor of any layout that has dense form. -/
def State.readUnit (s : State) (f : Inflight) (d : Desc) (slot : Nat) (r : Rows) (qs xs : List Nat) (need : Nat → Bool) :
    Fetch (List Elem) :=
  (Fetch.all (qs.map r.start)).bind (fun cs =>
    if d.layout == 0 then s.readDense f d slot cs xs else s.readTiles f d slot cs xs need)

/-! ## Order of rows (R496) -/

/-- Numbers 0 to n − 1 in runs of equal key. -/
def runsOf (key : Nat → Nat) : Nat → List (List Nat)
  | 0 => []
  | n + 1 =>
    match (runsOf key n).reverse with
    | [] => [[n]]
    | l :: r => if l.head?.map key == some (key n) then (r.reverse ++ [l ++ [n]]) else (r.reverse ++ [l, [n]])

/-- A row of a transfer for each box row. -/
def rowUnits (r : Rows) : List (List Nat × List Nat) := (List.range r.n).map (fun q => ([q], List.range r.e0))

/-- Groups of positions along coordinates 1 and 0 of a box, plane by plane; `xFirst` says that coordinate 0 is the outer of the two. -/
def planeUnits (e : List Nat) (g1 g0 : List (List Nat)) (xFirst : Bool) : List (List Nat × List Nat) :=
  let e1 := if e.length < 2 then 1 else nth 0 e 1
  (List.range (prodNat (e.drop 2))).flatMap (fun h =>
    let qs := g1.map (fun l => l.map (· + h * e1))
    if xFirst then g0.flatMap (fun x => qs.map (fun q => (q, x))) else qs.flatMap (fun q => g0.map (fun x => (q, x))))

/-- A row of a transfer for each 32 × 32 block (R278, R496). -/
def blockUnits (e : List Nat) (xpose : Bool) : List (List Nat × List Nat) :=
  planeUnits e (runsOf (· / 32) (if e.length < 2 then 1 else nth 0 e 1)) (runsOf (· / 32) (nth 0 e 0)) xpose

/-- A row of a transfer for each tile that a box touches (R204, R496). -/
def Desc.tileUnits (d : Desc) (o : List Int) (e : List Nat) : List (List Nat × List Nat) :=
  let ax := fun (i : Nat) => if d.xpose then 1 - i else i
  let key := fun (i x : Nat) =>
    let c := nth 0 o i + (x : Int)
    (if d.oob == oobZero then c else clampCoord (d.size (ax i)) c).toNat / 128
  planeUnits e (runsOf (key 1) (nth 0 e 1)) (runsOf (key 0) (nth 0 e 0)) d.xpose

/-! ## Objects -/

/-- An element as a transfer keeps it. -/
def Elem.code (e : Elem) : Nat := e.raw % 2 ^ 64 * 256 + e.scale % 256
/-- The element that a transfer keeps. -/
def Elem.ofCode (n : Nat) : Elem := ⟨n / 256 % 2 ^ 64, n % 256⟩

/-- An element as a transfer keeps it for a stream, with whether the structure lists it (R203). -/
def Elem.listedCode (e : Elem) (listed : Bool) : Nat := e.code + b2n listed * 2 ^ 80
/-- A position that the structure lists, whose element has not been delivered. -/
def codeAwaited : Nat := 2 ^ 80 + 2 ^ 81
/-- The stream element that a kept code stands for, none where the structure lists nothing; one not delivered has no scale byte. -/
def Elem.ofListed (n : Nat) : Option Elem :=
  if n < 2 ^ 80 then none else some (if n < 2 ^ 81 then Elem.ofCode n else ⟨0, 256⟩)

/-- The positions of a stream's entries read from the structure alone: the pointers, bitmaps or cards of the box (R203, R718). A folio's lie in
its payload. -/
def State.readListed (s : State) (f : Inflight) (d : Desc) (slot : Nat) (r : Rows) (qs xs : List Nat) : Fetch (List Bool) :=
  if 6 ≤ d.layout then
    (Fetch.all (qs.map r.start)).bind (fun cs =>
      (d.tiled slot cs xs (fun t => s.listedTile f d t.1 t.2.1 t.2.2)).map (fun es => es.map (fun e => e.raw != 0)))
  else (s.readUnit f d slot r qs xs (fun _ => true)).map (fun es => es.map (fun e => e.nonzero d.fmt))

/-- Elements of some rows as a transfer keeps them, with whether a stream lists them: in a block-sparse tensor every position of a stored block,
in other forms those whose value is nonzero (R203, R358; log entry 127). -/
def State.readCodes (s : State) (f : Inflight) (d : Desc) (slot : Nat) (r : Rows) (qs xs : List Nat) (need : Nat → Bool) : Fetch (List Nat) :=
  (s.readUnit f d slot r qs xs need).bind (fun es =>
    if d.layout == 6 || d.layout == 7 then (s.readListed f d slot r qs xs).quiet.map (fun l => List.zipWith Elem.listedCode es l)
    else .pure (es.map (fun e => e.listedCode (e.nonzero d.fmt))))

/-- The values that rows of a transfer have delivered, by box row and position. -/
def assemble (n e0 : Nat) (units : Array (List Nat × List Nat)) (rows : List (Nat × List Nat)) : List (List (Option Nat)) :=
  let m0 : Array (Array (Option Nat)) := Array.replicate n (Array.replicate e0 none)
  let m := rows.foldl (fun (m : Array (Array (Option Nat))) p =>
    let u := (units[p.1]?).getD ([], [])
    ((u.1.flatMap (fun q => u.2.map (fun x => (q, x)))).zip p.2).foldl (fun m c =>
      m.modify c.1.1 (fun (r : Array (Option Nat)) => r.setIfInBounds c.1.2 (some c.2))) m) m0
  m.toList.map Array.toList

/-- Blocks of a row of interleaved elements that come from two blocks of the source: their scale stays open (log entry 8). -/
def mixScales (l : List (Option Elem)) : List (Option Elem) :=
  (chunksOf 32 (l.length + 1) l).flatMap (fun b =>
    match b.findSome? id with
    | none => b
    | some e => if b.all (fun x => match x with | some y => y.scale == e.scale | none => true) then b
        else b.map (fun x => x.map (fun y => { y with scale := Config.unstated 20 e.scale % 256 })))

/-- What a LOAD or GATHER writes: shelf, slot, role, group width, format, scale mode and byte. -/
structure Target where
  sh : Nat
  slot : Nat
  role : Nat
  gw : Bool
  fmt : Nat
  sb : Nat
  us : Nat
  deriving DecidableEq, Repr

/-- The tag of the object over n box rows of e0 positions (R338, R356). -/
def Target.tag (t : Target) (n e0 : Nat) : Tag :=
  let swap := t.role == roleKouter && t.sb == 1
  { Tag.none with e1 := if swap then e0 else n, e0 := if swap then n else e0, slot := t.slot, role := t.role, gw := t.gw, sb := t.sb,
                  fmt := t.fmt, uscale := t.us }

/-- The bytes of the object whose box rows are given (R356). -/
def Target.bytes (t : Target) (n e0 : Nat) (rows : List (List Elem)) : List Byte :=
  let g := groupW t.gw
  if t.role == roleKouter then
    if t.sb == 1 then kouterBytes t.fmt g e0 true rows else kouterBytes t.fmt g n false (columns Elem.zero e0 rows)
  else if t.role == roleKinner then kinnerBytes t.fmt (sliceDepth t.fmt t.gw) e0 (t.sb == 1) rows
  else dataBytes t.fmt e0 (t.sb == 1) rows

/-- Box rows put into the carrel. Positions that are not given leave the bytes of `base` (R498). -/
def Core.putRows (k : Core) (t : Target) (n e0 link : Nat) (rows : List (List (Option Elem))) (base : List Byte) : Core :=
  let tag := { t.tag n e0 with link := link }
  let bs := t.bytes n e0 (rows.map (fun r => r.map (fun e => e.getD Elem.zero)))
  if rows.all (fun r => r.all Option.isSome) then k.writeObject t.sh tag bs
  else
    let one : Elem := ⟨2 ^ widthOf t.fmt - 1, 255⟩
    let mask := t.bytes n e0 (rows.map (fun r => r.map (fun e => if e.isSome then one else ⟨0, 0⟩)))
    k.writeObject t.sh tag (List.zipWith (fun p b => (p.1 &&& p.2) ||| (b &&& ~~~p.2)) (bs.zip mask) base)

/-! ## Prologues -/

/-- An FP32 value divided by a whole number, one rounding (R327). -/
def fdivNat (a : W32) (n : Nat) : W32 :=
  match fv a with
  | .fin s m e =>
    let k := 64 + Nat.log2 n
    let p := m * 2 ^ k
    (FV.fin s (2 * (p / n) + b2n (p % n != 0)) (e - k - 1)).toF32 .rne
  | .inf s => (FV.inf s).toF32 .rne
  | .nan => fNan

/-- Elements of a vector as FP32 (R308, R325). -/
def State.readVec (s : State) (f : Inflight) (k : Core) (slot : Nat) (xs : List Int) (outer : List Int) : Fetch (List Nat) :=
  match s.slotDesc k slot with
  | none => .fault .handle 0 slot
  | some d => (s.readRun f d slot outer xs false).map (fun l => l.map (fun e =>
      if d.fmt == 0x11 then e.raw else ((e.toF32 d.fmt)).toNat))

/-- The partial statistics of a row, in increasing t (R327). -/
def State.readStats (s : State) (f : Inflight) (k : Core) (slot : Nat) (row : Int) : Fetch (List Nat) :=
  match s.slotDesc k slot with
  | none => .fault .handle 0 slot
  | some d => (Fetch.all ((List.range (d.lsize 1)).map (fun (t : Nat) =>
      if d.xpose then s.readVec f k slot [(t : Int)] [0, row] else s.readVec f k slot [row] [0, (t : Int)]))).map List.flatten

/-- The statistics that a row operation reads for a row (R327, R328): for NORM the mean and the factor, for SOFTMAX the maximum and the
sum, for AFFINE_ROW its two coefficients. -/
def State.rowStats (s : State) (f : Inflight) (k : Core) (g : Stage) (row : Int) : Fetch (W32 × W32) :=
  if g.op == 8 then
    (s.readVec f k g.aux [row] [0]).map (fun l => let w := nth 0 l 0; (pf w, pf (w / 2 ^ 32)))
  else if g.op == 9 then
    (s.readStats f k g.aux row).bind (fun a => (s.readStats f k (g.aux + 1) row).map (fun b =>
      let mu := fdivNat (sumOf (a.map pf)) g.p1
      let q := fdivNat (sumOf (b.map pf)) g.p1
      let v := fsub q (fmul mu mu)
      let var := if v == fNegZero || fLt v f0 then f0 else v
      (mu, frsqrt (fadd var (pf g.p0)))))
  else
    (s.readStats f k g.aux row).map (fun a => combineLse (a.map (fun w => (pf w, pf (w / 2 ^ 32)))))

/-- The coordinate of the element that a position reads: clamped under CLAMP (R274). -/
def Desc.readCoord (d : Desc) (i : Nat) (x : Int) : Int := if d.oob == 1 then clampCoord (d.lsize i) x else x

/-- One stage of a prologue on the values of a row at coordinates xs of dimension 0 (R325, R327). -/
def State.proStage (s : State) (f : Inflight) (k : Core) (g : Stage) (row : Int) (xs : List Int) (vs : List W32) : Fetch (List W32) :=
  if g.cls == 5 && g.op ≥ 8 then
    (s.rowStats f k g row).map (fun p => vs.map (fun v =>
      if g.op == 8 then fadd (fmul v p.1) p.2
      else if g.op == 9 then fmul (fsub v p.1) p.2 else fdiv (fexp (fsub v p.1)) p.2))
  else if g.cls == 5 then
    let n := g.op % 2 == 0
    (s.readVec f k g.aux (if n then xs else [row]) [0]).map (fun w =>
      let a := w.toArray
      vs.zipIdx.map (fun v => stageVal g [] (pf ((a[if n then v.2 else 0]?).getD 0)) v.1))
  else if g.cls == 3 || g.cls == 4 then .pure (vs.map (stageVal g (s.polyOf k g.aux) f0))
  else .pure vs

/-- A row of elements through the stages of a prologue before its quantisation, as FP32 words. Padding positions are the value 0, whatever the
scale of their block (R68). -/
def State.prologue (s : State) (f : Inflight) (k : Core) (d : Desc) (st : List Stage) (c : List Int) (xs : List Nat) (es : List Elem) :
    Fetch (List Nat) :=
  let row := d.readCoord 1 (nth 0 c 1)
  let cols := xs.map (fun (x : Nat) => d.readCoord 0 (nth 0 c 0 + (x : Int)))
  let vals := (es.zip cols).map (fun e => if d.inter && decide (e.2 ≥ (d.size 0 : Int)) then f0 else e.1.toF32 d.fmt)
  (st.foldl (fun (a : Fetch (List W32)) g => a.bind (s.proStage f k g row cols)) (.pure vals)).map
    (fun l => l.map BitVec.toNat)

/-- Box rows of FP32 words quantised by a prologue's class-7 stage, blocks formed from the first element of each row (R325), with the
flags of the rows that are whole. -/
def proQuant (g : Option Stage) (rows : List (List (Option Nat))) : List (List (Option Elem)) × Nat :=
  let out := rows.map (fun r => quantRow g 0 false r.length (r.map (fun v => (pf (v.getD 0), RMode.rne))))
  (List.zipWith (fun r o => List.zipWith (fun v e => v.map (fun _ => e)) r (Prod.fst o)) rows out,
   out.foldl (fun a o => a ||| o.2) 0)

/-! ## The engine -/

/-- What reads do for the rows of a transfer: how many rows, what a row reads, the bytes it delivers, the row number that a resume record
reports, and how the rows delivered are put in place, whole or at a stop. -/
structure Reader where
  rows : Nat
  get : State → Inflight → Nat → Fetch (List Nat)
  size : Nat → List Nat → Nat
  pos : Nat → Nat
  put : State → Inflight → Bool → State ⊕ (St × Nat × Nat)
  /-- the slices read from other sockets that the row after this one may still use (R282) -/
  keep : Inflight → Nat → List (RemoteNeed × List Byte) := fun _ _ => []

/-- What writes do for the rows of a transfer: a row reads what it needs and gives its writes. -/
structure Writer where
  rows : Nat
  owner : Nat
  get : State → Inflight → Nat → Fetch (List Put)
  /-- 64 B units that a row reserves at an APPEND cursor (R212) -/
  units : Nat → Nat
  cursor : Nat
  limit : Nat
  size : Nat → Nat
  pos : Nat → Nat
  done : State → Inflight → State

/-- The issued instruction of a core with an index. -/
def State.flightOf (s : State) (c idx : Nat) : Option Inflight := (s.core c).inflight.find? (fun f => f.idx == idx)

/-- An issued instruction of a core changed. -/
def State.updFlight (s : State) (c idx : Nat) (g : Inflight → Inflight) : State := s.updCore c (fun k => k.updInflight idx g)

/-- A transfer that needs a read of another socket asks for it and waits (R592). -/
def State.ask (s : State) (c idx row : Nat) (n : RemoteNeed) : State :=
  ({ s with nextReq := s.nextReq + 1 }.updFlight c idx (fun f => { f with row := row, asked := f.asked ++ [(s.nextReq, n)] })).post n.sock
    (.read s.nextReq n.addr n.len)

/-- A transfer stopped at a row: what has been delivered is put in place, and the record reports the row (R498, R502). -/
def State.pauseAt (s : State) (c idx row pos done cause va : Nat) (index : Bool) : State :=
  (s.stopAt c idx ⟨pos, done, cause, index, va⟩).updFlight c idx (fun f => { f with row := row })

/-- How a row of a transfer goes: on, or the transfer ends or pauses there. -/
inductive RowEnd where
  | next (s : State)
  | halt (s : State)

/-- Rows carried out in order until one halts. -/
def goRows (step : Nat → State → RowEnd) : List Nat → State → RowEnd
  | [], s => .next s
  | i :: r, s =>
    match step i s with
    | .next t => goRows step r t
    | .halt t => .halt t

/-- Runs of local memory that were read, counted. -/
def State.touchAll (s : State) (t : List (Nat × Nat)) (r : Option Nat := none) : State := t.foldl (fun u p => u.touch p.1 p.2 r) s

/-- What a read that does not give its value does to its transfer. -/
def State.failRow {α : Type} (s : State) (c idx row pos done : Nat) (x : Fetch α) : State :=
  match x with
  | .ok _ _ => s
  | .stop cause va i => s.pauseAt c idx row pos done cause va i
  | .fault st d w => s.faultIn c idx st d w
  | .need n => s.ask c idx row n

/-- A carrel in which the objects that begin at some shelves stand as they did before: those of later LOAD-phase instructions keep their bytes and
tags (R344). -/
def Core.keepLater (k before : Core) (heads : List Nat) : Core :=
  heads.foldl (fun q h =>
    let n := (before.tag h).bytes 0
    { q with carrel := q.carrel.writeBytes (h * shelfBytes) (before.carrel.readBytes (h * shelfBytes) n)
             tags := (List.range (shelvesFor n)).foldl (fun t i => insertK (h + i) (before.tag (h + i)) t) q.tags }) k

/-- The rows of a transfer put in place over what later instructions have not written. -/
def Reader.land (rd : Reader) (s : State) (c : Nat) (f : Inflight) (final : Bool) : State ⊕ (St × Nat × Nat) :=
  match rd.put s f final with
  | .inl t => .inl (if f.later.isEmpty then t else t.updCore c (fun k => k.keepLater (s.core c) f.later))
  | .inr e => .inr e

/-- Rows delivered so far put in place at a pause. -/
def Reader.pausePut (rd : Reader) (s : State) (c idx : Nat) : State :=
  match s.flightOf c idx with
  | none => s
  | some f => match rd.land s c f false with | .inl t => t | .inr _ => s

/-- One row of a reading transfer. -/
def Reader.step (rd : Reader) (c idx i : Nat) (s : State) : RowEnd :=
  match s.flightOf c idx with
  | none => .halt s
  | some f =>
    match rd.get s f i with
    | .ok v t =>
      .next ((s.touchAll t (some (regionOf c))).updFlight c idx (fun g => { g with rows := (i, v) :: g.rows, done := g.done + rd.size i v, got := rd.keep f i }))
    | x => .halt ((rd.pausePut s c idx).failRow c idx i (rd.pos i) f.done x)

/-- A reading transfer carried out from the row it stands at. -/
def Reader.run (rd : Reader) (c idx : Nat) (s : State) : State :=
  match s.flightOf c idx with
  | none => s
  | some f =>
    match goRows (rd.step c idx) ((List.range rd.rows).drop f.row) s with
    | .halt t => t
    | .next t =>
      match t.flightOf c idx with
      | none => t
      | some g =>
        match rd.land t c g true with
        | .inl u => u.updFlight c idx (fun h => { h with rows := [], got := [], stop := none, row := rd.rows })
        | .inr (st, d, w) => t.faultIn c idx st d w

/-- A cursor's value that says that its payload area is full (R212). -/
def cursorFull : Nat := 2 ^ 64

/-- The reservation of a row at an APPEND cursor, made once (R212, R501): whether the row may go on. -/
def Writer.reserve (wr : Writer) (c idx i : Nat) (f : Inflight) (s : State) : RowEnd :=
  let n := wr.units i
  if n == 0 || (lookupK i f.cursor).isSome then .next s
  else match s.place f.gens wr.owner wr.cursor with
  | .lost d => .halt (s.faultIn c idx .noowner d wr.cursor)
  | .here a =>
    match s.checkWrite true a 8 with
    | .stop cause va => .halt (s.pauseAt c idx i (wr.pos i) f.done cause va false)
    | .fault st va => .halt (s.faultIn c idx st 0 va)
    | .ok =>
      match s.checkRead a 8 with
      | .stop cause va => .halt (s.pauseAt c idx i (wr.pos i) f.done cause va false)
      | .fault st va => .halt (s.faultIn c idx st 0 va)
      | .ok =>
        let cur := ofLe (s.bytesAt a 8)
        let fits := cur + n ≤ wr.limit
        let rg := some (regionOf c)
        let s1 := if fits then (s.touch a 8 rg).writeVA a (leBytes 8 (cur + n)) rg else s.touch a 8 rg
        .next (s1.updFlight c idx (fun g => { g with cursor := insertK i (if fits then cur else cursorFull) g.cursor }))
  | .there sock a =>
    .halt (({ s with nextReq := s.nextReq + 1 }.updFlight c idx (fun g =>
      { g with row := i, asked := g.asked ++ [(s.nextReq, (⟨sock, a, 0⟩ : RemoteNeed))] })).post sock (.reserve s.nextReq a n wr.limit))

/-- One row of a writing transfer: every page translates before any write (R497), and the writes replaced are kept for R452. -/
def Writer.step (wr : Writer) (c idx i : Nat) (s : State) : RowEnd :=
  match s.flightOf c idx with
  | none => .halt s
  | some f0_ =>
    match wr.reserve c idx i f0_ s with
    | .halt t => .halt t
    | .next s1 =>
      match s1.flightOf c idx with
      | none => .halt s1
      | some f =>
        match wr.get s1 f i with
        | .ok ps t =>
          match Fetch.all (ps.map (s1.checkPut f wr.owner)) with
          | .ok _ _ =>
            let s2 := ps.foldl (fun (u : State) p =>
              let (u1, fl) := u.putFlags f.gens wr.owner p
              let r := u1.perform f.gens wr.owner p (some (c, idx))
              (r.1.updFlight c idx (fun g =>
                { g with undo := r.2.1 ++ g.undo, trail := g.trail || s1.reachesHost r.2.1, acks := g.acks ++ r.2.2 })).noteFlags c fl 0 0 0)
              (s1.touchAll t (some (regionOf c)))
            .next (s2.updFlight c idx (fun g => { g with done := g.done + wr.size i }))
          | x => .halt (s1.failRow c idx i (wr.pos i) f.done x)
        | x => .halt (s1.failRow c idx i (wr.pos i) f.done x)

/-- A writing transfer carried out from the row it stands at. -/
def Writer.run (wr : Writer) (c idx : Nat) (s : State) : State :=
  match s.flightOf c idx with
  | none => s
  | some f =>
    match goRows (wr.step c idx) ((List.range wr.rows).drop f.row) s with
    | .halt t => t
    | .next t =>
      match t.flightOf c idx with
      | none => t
      | some g => (wr.done t g).updFlight c idx (fun h => { h with rows := [], got := [], stop := none, row := wr.rows })

end Sys2Proof.Machine
end

