-- ==== Sys2Proof/Machine/Loads.lean ====
section
/-! DEFINITION. LOAD, GATHER and LOADCARD (R280 to R283, R287, R288, R298, R354 to R363, R366, R367). -/
namespace Sys2Proof.Machine

/-! ## Reading dense forms -/

/-- Bytes that a row of a transfer delivers (PROG.DONE; log entry 30). -/
def Desc.unitBytes (d : Desc) (u : List Nat × List Nat) : Nat := u.1.length * rowBytes d.fmt u.2.length d.inter

/-- The dense slices and the sparse slices of a choice map (R361). -/
def ChoiceMap.marks (m : ChoiceMap) (sparse : Bool) (s : Nat) : Bool :=
  let hit := fun (g h : Nat) => m.sparse.contains (g, h, s)
  (List.range m.ga).any (fun g => (List.range m.gb).any (fun h => hit g h == sparse))

/-- Whether a tile's payload is needed under a choice map: some card that it meets shares a K-step with it (R208, R215). -/
def Core.needTile (k : Core) (slot sl card : Nat) : Bool :=
  let other := if k.bankA.any (fun b => b.slot == slot) then k.bankB else k.bankA
  match k.choice, other with
  | some _, some b => (List.range b.groups).any (fun g =>
      match b.card g sl with | some o => cardKsum card &&& cardKsum o != 0 | none => true)
  | _, _ => true

/-- The stream entries of box rows, from their codes (R203, R358), K along coordinate 0 or 1 (R718), sorted by (row, K). An entry that has not been
delivered has no scale byte. -/
def streamOf (fmt : Nat) (kFirst : Bool) (rows : List (List Nat)) : List SEnt :=
  let es := rows.zipIdx.flatMap (fun r => r.1.zipIdx.filterMap (fun e => (Elem.ofListed e.1).map (fun x =>
    (⟨if kFirst then r.2 else e.2, if kFirst then e.2 else r.2, (rawVal fmt x.raw).toF32 .rne, x.scale⟩ : SEnt))))
  if kFirst then es else es.mergeSort (fun a b => a.row < b.row || (a.row == b.row && a.k ≤ b.k))

/-- Bytes of a stream's entry as `word` lays it out, open while the entry has not been delivered (R498). -/
def SEnt.bytesOr (n len : Nat) (word : SEnt → Nat) (e : SEnt) : List Byte :=
  if e.scale ≥ 256 then freeBytes n (len * (e.row * 2 ^ 32 + e.k)) len else leBytes len (word e)

/-- A STREAM or RUNSTREAM object put into the carrel, or its fault (R223, R356, R718). -/
def State.putStream (s : State) (c sh : Nat) (t : Tag) (es : List SEnt) (row0 k0 : Int) : State ⊕ (St × Nat × Nat) :=
  let run := t.role == roleRun
  let tag := { t with count := es.length }
  let (fr, s0) := if es.any (fun e => e.scale ≥ 256) then s.takeFresh else (0, s)
  let bytes := if run then es.flatMap (SEnt.bytesOr fr 16 (fun e => ({ e with row := ofInt 32 (row0 + (e.row : Int)),
                                                                              k := ofInt 32 (k0 + (e.k : Int)) } : SEnt).runWord))
    else streamBytesBy (SEnt.bytesOr fr 8 SEnt.tileWord) t.gw t.e0 t.e1 es
  let n := shelvesFor (tag.bytes 0)
  if sh + n > s.limitOf c then .inr (.bounds, 0, 0)
  else .inl ((s0.reuse c ((List.range n).map (· + sh))).updCore c (fun k => k.writeObject sh tag bytes))

/-- A stream stopped before its structure can be read to the end: its tag's count and its bytes are open until it is complete (R498; log
entry 31). -/
def State.freeStream (s : State) (c sh : Nat) (t : Tag) : State :=
  let (n, s1) := s.takeFresh
  let room := (s.limitOf c - sh) * shelfBytes
  let base := { t with count := 0 }.bytes 0
  let each := if t.role == roleStream then 8 else 16
  let tag := { t with count := Config.freeNat n % ((room - base) / each + 1) }
  let len := tag.bytes 0
  let shs := (List.range (shelvesFor len)).map (· + sh)
  (s1.reuse c shs).updCore c (fun k => k.writeObject sh tag (freeBytes n 0 len))

/-- The rows of a transfer, those not delivered read for their structure alone: none where it cannot be read (R498, R718). -/
def wholeRows (n : Nat) (rows : List (Nat × List Nat)) (rest : Nat → Fetch (List Nat)) : Option (List (Nat × List Nat)) :=
  match Fetch.seq ((List.range n).map (fun i => (match lookupK i rows with
    | some v => Fetch.pure (i, v)
    | none => (rest i).map (fun v => (i, v))))) with
  | .ok l _ => some l.reverse
  | _ => none

/-- The codes of a row's listed positions, without their elements. -/
def State.awaited (s : State) (f : Inflight) (d : Desc) (slot : Nat) (r : Rows) (u : List Nat × List Nat) : Fetch (List Nat) :=
  (s.readListed f d slot r u.1 u.2).map (fun l => l.map (fun b => if b then codeAwaited else 0))

/-- A reader of box rows that makes a DATA, KOUTER or KINNER object (R356 to R358, R361, R362). -/
def State.lineReader (c : Nat) (k : Core) (d : Desc) (tf : TF) (t : Target) (r : Rows) (units : List (List Nat × List Nat)) (st : List Stage) :
    Reader :=
  let ua := units.toArray
  let quant := st.find? (fun g => g.cls == 7)
  let kx := t.sb == 1
  let slice := fun (u : List Nat × List Nat) => (((if kx then u.2 else u.1).head?).getD 0) / 128
  let chosen := fun (q : Core) => if tf.choice && t.role == roleKouter then q.choice else none
  { rows := units.length
    get := fun s f i =>
      let u := (ua[i]?).getD ([], [])
      let need := if tf.choice then k.needTile tf.slot (slice u) else fun _ => true
      if st.isEmpty then s.readCodes f d tf.slot r u.1 u.2 need
      else (s.readUnit f d tf.slot r u.1 u.2 need).bind (fun es => (Fetch.all (u.1.map r.start)).bind (fun cs =>
        (Fetch.all ((cs.zip (chunksOf u.2.length (cs.length + 1) es)).map (fun p => s.prologue f k d st p.1 u.2 p.2))).map List.flatten))
    size := fun i _ => d.unitBytes ((ua[i]?).getD ([], []))
    pos := id
    put := fun s f final =>
      let raw := assemble r.n r.e0 ua f.rows
      let (rows, fl) := if st.isEmpty then
          (raw.map (fun l => let e := l.map (fun v => v.map Elem.ofCode); if d.inter then mixScales e else e), 0)
        else proQuant quant raw
      let len := (t.tag r.n r.e0).bytes 0
      let (n, s1) := s.takeFresh
      match chosen (s1.core c) with
      | none =>
        if final then .inl ((s.noteFlags c fl 0 0 0).updCore c (fun q => q.putRows t r.n r.e0 0 rows []))
        else .inl (s1.updCore c (fun q => q.putRows t r.n r.e0 0 rows (freeBytes n (t.sh * shelfBytes) len)))
      | some m =>
        let sl := fun (q x : Nat) => (if kx then x else q) / 128
        let open_ := fun (q x : Nat) => Elem.ofCode (ofLe (freeBytes n (9 * (q * 2 ^ 32 + x)) 9) % 2 ^ 72)
        let keep := rows.zipIdx.map (fun l => l.1.zipIdx.map (fun e =>
          if m.marks false (sl l.2 e.2) || sl l.2 e.2 ≥ m.slices then some (e.1.getD (open_ l.2 e.2)) else none))
        let any_ := (List.range m.slices).any (m.marks true)
        let s2 := if final then s.noteFlags c fl 0 0 0 else s1
        let s3 := s2.updCore c (fun q => q.putRows t r.n r.e0 (if any_ then tf.ss else 0) keep
          (q.carrel.readBytes (t.sh * shelfBytes) len))
        if !any_ then .inl s3
        else
          let tag : Tag := { Tag.none with e1 := (if kx then r.n else r.e0), e0 := (if kx then r.e0 else r.n), slot := tf.slot,
                                           role := roleStream, gw := tf.gw, sb := t.sb, fmt := t.fmt, uscale := t.us }
          let codes := if st.isEmpty then wholeRows units.length f.rows (fun i => s.awaited f d tf.slot r ((ua[i]?).getD ([], [])))
            else some []
          match codes with
          | none => .inl (s3.freeStream c tf.ss tag)
          | some cs =>
            let at_ := if st.isEmpty then (assemble r.n r.e0 ua cs).map (fun l => l.map (fun v => v.getD 0))
              else rows.map (fun l => l.map (fun v => match v with | some e => e.listedCode (e.nonzero t.fmt) | none => codeAwaited))
            s3.putStream c tf.ss tag (streamOf t.fmt kx (at_.zipIdx.map (fun l => l.1.zipIdx.map (fun e =>
              if m.marks true (sl l.2 e.2) then e.1 else 0)))) 0 0 }

/-- The tag of a stream over a box of K extent e0 and row extent e1 (R718). -/
def Desc.streamTag (d : Desc) (tf : TF) (e0 e1 : Nat) : Tag :=
  { Tag.none with e1 := e1, e0 := e0, slot := tf.slot, role := tf.role, gw := tf.gw, sb := if d.layout == 5 then 0 else d.sb,
                  fmt := if d.layout == 5 then 0x0A else d.fmt, uscale := if d.layout == 5 then 0 else d.uscale }

/-- A reader of tiles that makes a stream (R358, R718). -/
def State.tileStreamReader (c : Nat) (d : Desc) (tf : TF) (o : List Int) (r : Rows) (units : List (List Nat × List Nat)) : Reader :=
  let ua := units.toArray
  let kFirst := if d.layout ≤ 1 then d.kaxis == 0 else true
  let tag := d.streamTag tf (if kFirst then r.e0 else r.n) (if kFirst then r.n else r.e0)
  { rows := units.length
    get := fun s f i =>
      let u := (ua[i]?).getD ([], [])
      s.readCodes f d tf.slot r u.1 u.2 (fun _ => true)
    size := fun i _ => d.unitBytes ((ua[i]?).getD ([], []))
    pos := id
    put := fun s f _ =>
      match wholeRows units.length f.rows (fun i => s.awaited f d tf.slot r ((ua[i]?).getD ([], []))) with
      | none => .inl (s.freeStream c tf.sh tag)
      | some l =>
        let rows := (assemble r.n r.e0 ua l).map (fun x => x.map (fun v => v.getD 0))
        s.putStream c tf.sh tag (streamOf d.fmt kFirst rows) (nth 0 o (if kFirst then 1 else 0)) (nth 0 o (if kFirst then 0 else 1)) }

/-- The positions of a box of n from x0 along a dimension of `size` that read an index, under CLAMP or FAULT (R273, R274). -/
def hits (size n : Nat) (x0 : Int) (idx : Nat) : List Nat :=
  let j := (idx : Int) - x0
  (if 0 ≤ j && j < n then [j.toNat] else [])
    ++ (if idx == 0 then (List.range n).filter (fun (i : Nat) => decide (x0 + (i : Int) < 0)) else [])
    ++ (if idx + 1 == size then (List.range n).filter (fun (i : Nat) => decide (x0 + (i : Int) ≥ size)) else [])

/-- The entries of row x of a CSR or COO tensor, or of column x of a CSC tensor: index and value, without the values where `vals` does not ask
for them (R201, R202). -/
def State.rowEntries (s : State) (f : Inflight) (d : Desc) (vals : Bool) (x : Nat) : Fetch (List (Nat × Option W32)) :=
  if d.layout == 5 then (s.cooSorted f d).map (fun l => (l.filter (fun t => t.1 == x)).map (fun t => (t.2.1, some t.2.2)))
  else (s.sparsePlaces f d x).bind (fun l =>
    match l with
    | [] => .pure []
    | e :: _ =>
      if vals then (s.values f d e.2 l.length).map (fun vs => (l.zip vs).map (fun p => (p.1.1, some ((rawVal d.fmt p.2).toF32 .rne))))
      else .pure (l.map (fun p => (p.1, none))))

/-- An entry of a stream from its place and value; one whose value has not been delivered has no scale byte. -/
def SEnt.of (row k us : Nat) (v : Option W32) : SEnt := match v with | some x => ⟨row, k, x, us⟩ | none => ⟨row, k, 0, 256⟩

/-- Line i of a box of a CSR, CSC or COO tensor: one row, one column for CSC (R496), with the positions that read it (R273, R274, R718). -/
def State.boxLine (s : State) (d : Desc) (tf : TF) (o : List Int) (e : List Nat) (vals : Bool) (f : Inflight) (i : Nat) : Fetch (List SEnt) :=
  let rd := if d.layout == 3 then 0 else 1
  let kd := 1 - rd
  let kn := nth 0 e kd
  let k0 := nth 0 o kd
  if d.oob == 0 && (k0 < 0 || k0 + (kn : Int) > d.size kd) then .fault .bounds kd tf.slot
  else match d.place1 rd (nth 0 o rd + (i : Int)) with
  | .inr j => .fault .bounds j tf.slot
  | .inl none => .pure []
  | .inl (some x) =>
    let row := s.rowEntries f d vals x
    (if d.layout == 5 && i != 0 then row.quiet else row).map (fun l =>
      (l.flatMap (fun p => (hits (d.size kd) kn k0 p.1).map (fun j => SEnt.of i j (if d.layout == 5 then 127 else d.us) p.2))).mergeSort
        (fun a b => a.k ≤ b.k))

/-- Box row q of the listed blocks of a CSR, CSC or COO tensor (R287, R288, R496): its entries, rows and K as R718 places them. -/
def State.listLine (s : State) (d : Desc) (tf : TF) (r : Rows) (vals : Bool) (f : Inflight) (q : Nat) : Fetch (List SEnt) :=
  (r.start q).bind (fun cs =>
    let c0 := nth 0 cs 0
    let c1 := nth 0 cs 1
    let us := if d.layout == 5 then 127 else d.us
    match d.place1 1 c1 with
    | .inr j => .fault .bounds j tf.slot
    | .inl none => .pure []
    | .inl (some y) =>
      if d.oob == 0 && (c0 < 0 || c0 + (r.e0 : Int) > d.size 0) then .fault .bounds 0 tf.slot
      else if d.layout == 3 then
        (Fetch.all ((List.range r.e0).map (fun (x : Nat) => match d.place1 0 (c0 + (x : Int)) with
          | .inl (some col) => (s.rowEntries f d vals col).map (fun l => (l.filter (fun p => p.1 == y)).map (fun p => SEnt.of x q us p.2))
          | _ => .pure []))).map List.flatten
      else (s.rowEntries f d vals y).map (fun l =>
        (l.flatMap (fun p => (hits (d.size 0) r.e0 c0 p.1).map (fun j => SEnt.of q j us p.2))).mergeSort (fun a b => a.k ≤ b.k)))

/-- An entry as a transfer keeps it. -/
def SEnt.keep (e : SEnt) : Nat := ({ e with scale := e.scale % 256 } : SEnt).runWord + b2n (e.scale ≥ 256) * 2 ^ 128
/-- The entry that a transfer keeps. -/
def SEnt.ofKept (w : Nat) : SEnt := ⟨bits w 127 96, bits w 95 64, BitVec.ofNat 32 (bits w 63 32), bits w 31 24 + b2n (w ≥ 2 ^ 128) * 256⟩

/-- Where the sorted copy of an unsorted COO tensor lies in the scratch area of a dispatch, beyond what R266 and R438 give of it: an open place, none
where it has no room (R202; log entry 173). -/
def State.sortPlace (s : State) (q : Request) (handle n : Nat) : Option Nat :=
  match lookupK q.scratch s.allocs with
  | none => none
  | some a =>
    let cd := q.contract.bind (fun c => lookupK c.c s.tensors)
    let used := roundUp (match cd with | some d => q.needsScratch d | none => 0) 64
    let room := a.pages * 65536
    let len := 3 * roundUp (4 * n) 64
    if room < used + len then none else some (a.base + used + 64 * (Config.unstated 27 handle % ((room - used - len) / 64 + 1)))

/-- The sort of an unsorted COO tensor for a core's dispatch: the bytes that its passes read and write, and the sorted FP32 copy (R202). -/
def State.sortCopy (s : State) (c : Nat) (f : Inflight) (d : Desc) : State :=
  match s.cooSorted f d, (s.core c).dispatch.bind s.dispatch? with
  | .ok es _, some p =>
    let n := cooPasses d.nent * 16 * d.nent
    let s1 := (s.count 0 n).count 1 n
    match s1.sortPlace p.req d.handle es.length with
    | none => s1
    | some a =>
      let step := roundUp (4 * es.length) 64
      let put := fun (t : State) (i : Nat) (l : List Nat) => t.sysWrite (BitVec.ofNat 64 (a + i * step)) (l.flatMap (leBytes 4))
      put (put (put s1 0 (es.map Prod.fst)) 1 (es.map (fun e => e.2.1))) 2 (es.map (fun e => e.2.2.toNat))
  | _, _ => s

/-- A reader of a CSR, CSC or COO tensor line by line (R201, R202, R358, R718): `line` reads one, over e0 K-steps and e1 rows. -/
def State.pointerReader (c : Nat) (d : Desc) (tf : TF) (n e0 e1 : Nat) (row0 k0 : Int) (line : State → Bool → Inflight → Nat → Fetch (List SEnt)) :
    Reader :=
  let tag := d.streamTag tf e0 e1
  { rows := n
    get := fun s f i => (line s true f i).map (fun l => l.map SEnt.keep)
    size := fun _ v => v.length * (widthOf tag.fmt / 8)
    pos := id
    put := fun s f final =>
      match wholeRows n f.rows (fun i => (line s false f i).map (fun l => l.map SEnt.keep)) with
      | none => .inl (s.freeStream c tf.sh tag)
      | some l =>
        let es := ((l.reverse.flatMap Prod.snd).map SEnt.ofKept).mergeSort (fun a b => a.row < b.row || (a.row == b.row && a.k ≤ b.k))
        (if final && d.layout == 5 then s.sortCopy c f d else s).putStream c tf.sh tag es row0 k0 }

/-! ## ACC images -/

/-- A reader of an ACC image into the accumulators or an ACCIMAGE object (R366, R380). -/
def State.imageReader (c : Nat) (d : Desc) (tf : TF) (x0 : Int) : Reader :=
  let base := (d.base : Int) + 4 * x0
  let inside := fun (n : Nat) => 0 ≤ x0 && 4 * x0 + (n : Int) ≤ 4 * (d.size 0 : Int)
  let at_ := base.toNat
  { rows := 512
    get := fun s f i =>
      let head : Option Nat := (f.rows.getLast?).bind (fun p => p.2.head?)
      let rowOf := fun (h : Nat) =>
        let n := 64 * bits h 79 72
        let w := accElemBytes (bits h 85 84)
        (s.fetch f d.owner (at_ + 64 + i * n * w) (n * w) false).map (fun bs => (chunksOf w n bs).map ofLe)
      if i == 0 then
        if !inside 64 then .fault .bounds 0 tf.slot
        else (s.fetchLe f d.owner at_ 64 false).bind (fun h =>
          match headerCheck h with
          | some st => .fault st 0 at_
          | none =>
            if !inside (accImageBytes (64 * bits h 71 64) (64 * bits h 79 72) (bits h 85 84)) then .fault .bounds 0 tf.slot
            else (rowOf h).map (fun l => h :: l))
      else match head with
        | some h => if i < 64 * bits h 71 64 then rowOf h else .pure []
        | none => .pure []
    size := fun i v => if i == 0 then 64 + (v.length - 1) * accElemBytes (bits (nth 0 v 0) 85 84)
      else if v.isEmpty then 0 else v.length * 8
    pos := id
    put := fun s f final =>
      match (f.rows.getLast?).bind (fun p => p.2.head?) with
      | none => .inl s
      | some h =>
        let m := 64 * bits h 71 64
        let n := 64 * bits h 79 72
        let mode := bits h 85 84
        let w := accElemBytes mode
        let rows := f.rows.reverse.map (fun p => if p.1 == 0 then p.2.drop 1 else p.2)
        if tf.ps == 1 then
          if !final then .inl s
          else .inl (s.updCore c (fun k =>
            { k.setAccTile (geoOf 4 (mode == 1)) n (rows.take m) with recs := insertK 4 (TileRec.ofImage h rows) k.recs }))
        else
          let bytes := leBytes 64 h ++ rows.flatMap (fun l => l.flatMap (leBytes w))
          let total := accImageBytes m n mode
          let shs := (List.range (shelvesFor total)).map (· + tf.sh)
          if tf.sh + shs.length > s.limitOf c then .inr (.bounds, 0, 0)
          else
            let (fr, s1) := s.takeFresh
            .inl ((s1.reuse c shs).updCore c (fun k =>
              k.writeObject tf.sh { imageTag m n with slot := tf.slot }
                (bytes ++ freeBytes fr (tf.sh * shelfBytes + bytes.length) (total - bytes.length)))) }

/-! ## Issue -/

/-- What a transfer's issue finds: a fault, or the transfer ready to run with the shelves it reads and writes; `none` moves nothing. -/
inductive Ready (α : Type) where
  | bad (st : St) (detail word : Nat)
  | empty
  | run (x : α) (reads writes : List Nat)

/-- The first of a list of faults. -/
def Ready.check {α : Type} (l : List (Bool × St × Nat)) (x : Ready α) : Ready α :=
  match l.find? (fun p => p.1) with
  | some p => .bad p.2.1 p.2.2 0
  | none => x

/-- An index tensor or block-coordinate list by its slot, or its fault (R363, R365). -/
def State.indexDesc (s : State) (k : Core) (slot : Nat) : Desc ⊕ St :=
  match s.slotDesc k slot with
  | none => .inr .handle
  | some d =>
    if d.access == 2 then .inr .access
    else if d.layout != 0 || d.rank != 1 then .inr .layout
    else if d.fmt != 0x10 then .inr .format else .inl d

/-- Formats that the transposer cannot carry (R277). -/
def noXpose (fmt : Nat) : Bool := fmt == 0x10 || fmt == 0x11

/-- The fault of a prologue's vectors (R277, R308, R324, R327, R365). -/
def State.vecFault (s : State) (k : Core) (st : List Stage) : Option St :=
  let one := fun (slot fmt rank : Nat) =>
    match s.slotDesc k slot with
    | none => some St.handle
    | some d =>
      if d.access == 2 then some .access
      else if d.layout != 0 || d.rank != rank then some .layout
      else if d.fmt != fmt || (d.xpose && noXpose d.fmt) then some .format else none
  st.findSome? (fun g =>
    if g.cls != 5 then none
    else if g.op ≤ 3 then one g.aux g.fmt 1
    else if g.op == 8 then one g.aux 0x11 1
    else if g.op == 9 then (match one g.aux 0x0A 2 with | some e => some e | none => one (g.aux + 1) 0x0A 2)
    else one g.aux 0x11 2)

/-- Whether a prologue reads a vector that is empty (R269). -/
def State.vecEmpty (s : State) (k : Core) (st : List Stage) : Bool :=
  st.any (fun g => g.cls == 5 && ((s.slotDesc k g.aux).any Desc.empty || (g.op == 9 && (s.slotDesc k (g.aux + 1)).any Desc.empty)))

/-- The stages of a prologue, empty for none. -/
def State.proStages (s : State) (k : Core) (n : Nat) : List Stage := stagesOf (s.chainOf k n)

/-- The target of a load, by the descriptor or the prologue's class-7 stage (R356, R362). -/
def Desc.target (d : Desc) (tf : TF) (st : List Stage) : Target :=
  match st.find? (fun g => g.cls == 7) with
  | some g => ⟨tf.sh, tf.slot, tf.role, tf.gw, g.fmt, g.sbmode, if g.sbmode == 2 then g.p1 % 256 else 0⟩
  | none => ⟨tf.sh, tf.slot, tf.role, tf.gw, d.fmt, d.sb, d.uscale⟩

/-- Whether a register range runs past x31 (R355). -/
def pastX31 (first n : Nat) : Bool := decide (first + n > 32)

/-- The checks of a descriptor of an image (R366). -/
def Desc.imageFault (d : Desc) : Option St :=
  if d.fore then some .mode else if d.layout != 0 || d.rank != 1 then some .layout else if d.fmt != 0x0A || d.sb != 0 then some .format else none

/-- The registers of a box as coordinates and extents (R354). -/
def Inflight.box (f : Inflight) (tf : TF) (rank : Nat) : List Int × List Nat :=
  ((List.range rank).map (fun i => (f.xr (tf.xo + i)).toInt), (List.range rank).map (fun i => (f.xr (tf.xe + i)).toNat))

/-- The shelves from a first one. -/
def shelvesFrom (sh bytes : Nat) : List Nat := (List.range (shelvesFor bytes)).map (· + sh)

/-- A LOAD made ready from its registers (R354 to R362, R366, R367). -/
def State.readyLoad (s : State) (c : Nat) (f : Inflight) (tf : TF) : Ready Reader :=
  let k := s.core c
  match s.slotDesc k tf.slot with
  | none => .bad .handle 0 tf.slot
  | some d =>
    let image := tf.ps == 1 || tf.role == roleImage
    let stream := tf.role == roleStream || tf.role == roleRun
    let pointed := 2 ≤ d.layout && d.layout ≤ 5
    let st := s.proStages k tf.chn
    let chosen := tf.choice && k.choice.isSome
    let bank := [k.bankA, k.bankB].findSome? (fun b => b.bind (fun x => if x.slot == tf.slot then some x else none))
    if d.access == 2 then .bad .access 0 tf.slot
    else if image then
      Ready.check [(d.imageFault.isSome, d.imageFault.getD .layout, 0), (pastX31 tf.xo 1, .encoding, 0),
          (tf.ps == 1 && k.split, .mode, 0), (tf.ps == 1 && !k.recs.isEmpty, .held, 0)]
        (if d.empty then .empty else .run (State.imageReader c d tf (f.xr tf.xo).toInt) [] (if tf.ps == 1 then [] else [tf.sh]))
    else
      let li := if tf.bl then some (s.indexDesc k tf.slot2) else none
      let regs := if tf.bl then pastX31 tf.xo 2 || pastX31 tf.xe d.rank else pastX31 tf.xo d.rank || pastX31 tf.xe d.rank
      Ready.check [
        (d.fore && tf.role > roleKinner, .mode, 0),
        (tf.role > roleRun || (d.layout == 0 && stream) || (pointed && !stream), .layout, 0),
        (tf.chn != 0 && (d.layout != 0 || tf.bl || stream), .layout, 0),
        ((s.vecFault k st).isSome, (s.vecFault k st).getD .format, 0),
        (match li with | some (.inr e) => (true, e, 0) | _ => (false, .layout, 0)),
        (match li with | some (.inl x) => (x.size 0 % d.rank != 0, .shape, 0) | _ => (false, .shape, 0)),
        (regs, .encoding, 0),
        (d.xpose && noXpose d.fmt, .format, 0),
        (chosen && (match bank with | some b => b.fmt != d.fmt || (d.layout == 1 && b.kaxis != d.kaxis) | none => true), .layout, 0)]
        (let (o, e) := f.box tf d.rank
         let shape := e
         let n := (f.xr (tf.xo + 1)).toNat
         let r := match li with
           | some (.inl x) => s.listRows f x tf.slot2 d.rank (f.xr tf.xo).toNat n shape
           | _ => boxRows o e
         let t := d.target tf st
         let len := (t.tag r.n r.e0).bytes 0
         let units := if tf.bl then rowUnits r
           else if d.layout != 0 then d.tileUnits o e
           else if (d.xpose || (tf.role == roleKouter && t.sb == 1)) then blockUnits e d.xpose
           else rowUnits r
         let listed := match li with | some (.inl x) => x.empty || n == 0 | _ => false
         let csc := d.layout == 3
         if d.empty || e.any (· == 0) || listed || s.vecEmpty k st then .empty
         else if pointed && tf.bl then
           .run (State.pointerReader c d tf r.n (if csc then r.n else r.e0) (if csc then r.e0 else r.n) 0 0 (fun t v g q => t.listLine d tf
             (match li with | some (.inl x) => t.listRows g x tf.slot2 d.rank (g.xr tf.xo).toNat n shape | _ => r) v g q)) [] [tf.sh]
         else if pointed then
           let rd := if csc then 0 else 1
           .run (State.pointerReader c d tf (nth 0 e rd) (nth 0 e (1 - rd)) (nth 0 e rd) (nth 0 o rd) (nth 0 o (1 - rd)) (fun t v g i =>
             t.boxLine d tf o e v g i)) [] [tf.sh]
         else if stream then .run (State.tileStreamReader c d tf (if tf.bl then [] else o) r units) [] [tf.sh]
         else if tf.sh + shelvesFor len > s.limitOf c then .bad .bounds 0 0
         else .run (State.lineReader c k d tf t r units st) [] (shelvesFrom tf.sh len))

/-! ## GATHER -/

/-- The index of a list entry, with its window's check (R282, R283), and whether its slice has been fetched in its window already. `from_` is
the entry at which the GATHER started or resumed (R504). The detail word of a fault holds the list position, and the descriptor slot in bits
[63:56] (R273, R283; log entry 6). -/
def State.gatherIndex (s : State) (f : Inflight) (d li : Desc) (slot slot2 g first n from_ j : Nat) : Fetch (Int × Bool) :=
  let w := j / 64 * 64
  let all := Fetch.all ((List.range (Nat.min 64 (n - w))).map (fun i => s.readIndex f li slot2 (first + w + i)))
  (if j == w || j == from_ then all else all.quiet).bind (fun l =>
    match (if d.oob == 0 then l.findIdx? (fun x => !inDim (d.lsize g) x) else none) with
    | some i => .fault .bounds g (w + i + at_ 56 slot)
    | none =>
      let v := fun (x : Int) => if d.oob == 1 then clampCoord (d.lsize g) x else x
      let me := nth 0 l (j - w)
      .pure (me, ((l.take (j - w)).drop (from_ - w)).any (fun x => v x == v me)))

/-- Coordinates of a row of a slice: dimensions below g, the index, and the coordinates given (R280, R363). -/
def Inflight.sliceCoord (f : Inflight) (d : Desc) (tf : TF) (inner : Nat) (idx : Int) : List Int :=
  let low := if tf.gdim == 0 then [] else 0 :: (unrank ((d.lsizes.take tf.gdim).drop 1) inner).map (fun (x : Nat) => (x : Int))
  low ++ [idx] ++ (List.range (d.rank - 1 - tf.gdim)).map (fun i => (f.xr (tf.xo + 2 + i)).toInt)

/-- A reader of the slices of a GATHER (R280 to R283). -/
def State.gatherReader (c : Nat) (d li : Desc) (tf : TF) (t : Target) (first n per : Nat) (st : List Stage) (k : Core) : Reader :=
  let e0 := if tf.gdim == 0 then n else d.lsize 0
  let rows := if tf.gdim == 0 then 1 else n * per
  let units : Array (List Nat × List Nat) :=
    if tf.gdim == 0 then (Array.range n).map (fun j => ([0], [j])) else (Array.range rows).map (fun q => ([q], List.range e0))
  let quant := st.find? (fun g => g.cls == 7)
  { rows := n * per
    get := fun s f i =>
      let j := i / per
      (s.gatherIndex f d li tf.slot tf.slot2 tf.gdim first n (f.row / per) j).bind (fun ix =>
        let start := f.sliceCoord d tf (i % per) ix.1
        let xs := if tf.gdim == 0 then [0] else List.range e0
        let r : Rows := ⟨1, xs.length, fun _ => .pure start⟩
        let x := s.readUnit f d tf.slot r [0] xs (fun _ => true)
        (if ix.2 then x.quiet else x).bind (fun es =>
          if st.isEmpty then .pure (es.map Elem.code) else s.prologue f k d st start xs es))
    size := fun _ v => rowBytes d.fmt v.length d.inter
    pos := fun i => i / per
    put := fun s f final =>
      let raw := assemble rows e0 units f.rows
      let (out, fl) := if st.isEmpty then (raw.map (fun l => l.map (fun v => v.map Elem.ofCode)), 0) else proQuant quant raw
      let (fr, s1) := s.takeFresh
      if final then .inl ((s.noteFlags c fl 0 0 0).updCore c (fun q => q.putRows t rows e0 0 out []))
      else .inl (s1.updCore c (fun q => q.putRows t rows e0 0 out (freeBytes fr (t.sh * shelfBytes) ((t.tag rows e0).bytes 0))))
    keep := fun f i => if (i / per + 1) % 64 == 0 && (i + 1) % per == 0 then [] else f.got }

/-- A reader of the rows of a CSR tensor into a DIRECTORY and its entries (R356). -/
def State.directoryReader (c : Nat) (d li : Desc) (tf : TF) (first n : Nat) : Reader :=
  let tag : Tag := { Tag.none with e1 := n, e0 := d.size 0, link := tf.ss, slot := tf.slot, role := roleDir, sb := d.sb, fmt := d.fmt,
                                   uscale := d.uscale, count := n }
  let run : Tag := { tag with link := 0, role := roleRun }
  let line := fun (s : State) (f : Inflight) (vals : Bool) (i : Nat) =>
    (s.gatherIndex f d li tf.slot tf.slot2 1 first n f.row i).bind (fun ix =>
      let x := (if d.oob == 1 then clampCoord (d.size 1) ix.1 else ix.1).toNat
      let row := s.rowEntries f d vals x
      (if ix.2 then row.quiet else row).map (fun l => x :: l.map (fun p => (SEnt.of x p.1 d.us p.2).keep)))
  { rows := n
    get := fun s f i => line s f true i
    size := fun _ v => (v.length - 1) * widthOf d.fmt / 8
    pos := id
    put := fun s f _ =>
      match wholeRows n f.rows (line s f false) with
      | none =>
        let (fr, s1) := s.takeFresh
        .inl ((s1.updCore c (fun k => k.writeObject tf.sh tag (freeBytes fr 0 (16 * n)))).freeStream c tf.ss run)
      | some l =>
        let rows := (l.reverse.map Prod.snd).mergeSort (fun a b => nth 0 a 0 ≤ nth 0 b 0)
        let dir := (rows.foldl (fun (a : List Nat × Nat) r =>
          (a.1 ++ [nth 0 r 0 + at_ 32 a.2 + at_ 64 (r.length - 1)], a.2 + (r.length - 1))) ([], 0)).1
        let es := (rows.flatMap (fun r => r.drop 1)).map SEnt.ofKept
        (s.updCore c (fun k => k.writeObject tf.sh tag (dir.flatMap (leBytes 16)))).putStream c tf.ss run es 0 0
    keep := fun f i => if (i + 1) % 64 == 0 then [] else f.got }

/-- A GATHER made ready (R280 to R283, R289, R363). -/
def State.readyGather (s : State) (c : Nat) (f : Inflight) (tf : TF) : Ready Reader :=
  let k := s.core c
  match s.slotDesc k tf.slot with
  | none => .bad .handle 0 tf.slot
  | some d =>
    let st := s.proStages k tf.chn
    let dir := tf.role == roleDir
    let li := s.indexDesc k tf.slot2
    let pointed := 2 ≤ d.layout && d.layout ≤ 5
    Ready.check [
      (d.access == 2, .access, 0), (d.fore, .mode, 0), (tf.bl, .layout, 0),
      (!(tf.role == roleData || (tf.role == roleKinner && tf.gdim == 1) || (dir && tf.gdim == 1 && d.layout == 2)), .layout, 0),
      (pointed && !dir, .layout, 0), (tf.chn != 0 && d.layout != 0, .layout, 0),
      ((s.vecFault k st).isSome, (s.vecFault k st).getD .format, 0),
      (match li with | .inr e => (true, e, 0) | .inl _ => (false, .layout, 0)),
      (tf.gdim ≥ d.rank, .rank, 0),
      (tf.gdim == 0 && (d.inter || widthOf d.fmt < 8), .format, 0),
      (pastX31 tf.xo (2 + (d.rank - 1 - tf.gdim)), .encoding, 0),
      (d.xpose && noXpose d.fmt, .format, 0)]
      (match li with
       | .inr e => .bad e 0 tf.slot2
       | .inl x =>
         let first := (f.xr tf.xo).toNat
         let n := (f.xr (tf.xo + 1)).toNat
         let per := prodNat ((d.lsizes.take tf.gdim).drop 1)
         let t := d.target tf st
         let e0 := if tf.gdim == 0 then n else d.lsize 0
         let rows := if tf.gdim == 0 then 1 else n * per
         let len := if dir then 16 * n else (t.tag rows e0).bytes 0
         if d.empty || x.empty || n == 0 || s.vecEmpty k st then .empty
         else if tf.sh + shelvesFor len > s.limitOf c then .bad .bounds 0 0
         else if dir then .run (State.directoryReader c d x tf first n) [] (shelvesFrom tf.sh len ++ [tf.ss])
         else .run (State.gatherReader c d x tf t first n per st k) [] (shelvesFrom tf.sh len))

/-! ## LOADCARD -/

/-- The choice map formed at the end of a LOADCARD with T.CHOICE, or its fault (R216, R360). Engine choice asks for an operand in folio, bitmap or
block-sparse form: without one every slice is DENSE (R213). -/
def State.makeChoice (s : State) (c : Nat) (exact_ : Bool) : State ⊕ (St × Nat × Nat) :=
  let k := s.core c
  match k.bankA, k.bankB with
  | some a, some b =>
    if a.cards.isEmpty || b.cards.isEmpty || a.slices != b.slices then .inr (.card, 0, 0)
    else
      let (wd, ws, fx) := match k.dispatch.bind s.dispatch? with
        | some d => (d.wd, d.ws, d.fixed)
        | none => (s.settings.costWd, s.settings.costWs, s.settings.costFixed)
      let map := formChoice wd ws fx exact_ a b
      let sparse := if s.cardBank k a || s.cardBank k b then map.sparse else []
      .inl (s.updCore c (fun q => { q with choice := some { map with sparse := sparse } }))
  | _, _ => .inr (.card, 0, 0)

/-- A reader of the cards of a box into a bank (R214, R359, R360). -/
def State.cardReader (c : Nat) (d : Desc) (tf : TF) (o : List Int) (kax n1 n0 : Nat) : Reader :=
  let split := fun (i : Nat) => if d.xpose then (i % n1, i / n1) else (i / n0, i % n0)
  let lead := fun (a : Nat) (i : Nat) => nth 0 o a + (128 * i : Nat)
  { rows := n1 * n0
    get := fun s f i =>
      let (i1, i0) := split i
      let m := d.mem ([lead 0 i0, lead 1 i1] ++ o.drop 2)
      let cl := fun (a : Nat) => d.place1 a (nth 0 m a)
      match (List.range d.rank).findSome? (fun a => match cl a with | .inr j => some j | .inl _ => none) with
      | some j => .fault .bounds j tf.slot
      | none =>
        let v := (List.range d.rank).map (fun a => match cl a with | .inl (some x) => some x | _ => none)
        if v.any Option.isNone then .pure [d.synthCard 0 0]
        else
          let p := v.map (fun x => x.getD 0)
          (s.anyCard f d (d.grid (p.map (fun (x : Nat) => (x : Int)))) (nth 0 p 1 / 128) (nth 0 p 0 / 128)).map (fun x => [x])
    size := fun _ _ => 32
    pos := id
    put := fun s f final =>
      let (fr, s1) := s.takeFresh
      let cards := (List.range (n1 * n0)).map (fun e =>
        let (g, sl) := if kax == 0 then (e / n0, e % n0) else (e / n1, e % n1)
        let (i1, i0) := if kax == 0 then (g, sl) else (sl, g)
        let i := if d.xpose then i0 * n1 + i1 else i1 * n0 + i0
        match lookupK i f.rows with
        | some (x :: _) => x
        | _ => ofLe (freeBytes fr (32 * e) 32))
      let b : Bank := ⟨tf.slot, d.fmt, kax, if kax == 0 then n1 else n0, if kax == 0 then n0 else n1, cards⟩
      let s2 := (if final then s else s1).updCore c (fun k => if tf.role == 0 then { k with bankA := some b } else { k with bankB := some b })
      if final && tf.choice then s2.makeChoice c tf.exact_ else .inl s2 }

/-- A LOADCARD made ready (R214, R359, R360, R367). -/
def State.readyCard (s : State) (c : Nat) (f : Inflight) (tf : TF) : Ready Reader :=
  let k := s.core c
  match s.slotDesc k tf.slot with
  | none => .bad .handle 0 tf.slot
  | some d0 =>
    let kax := if d0.layout == 1 then d0.kaxis else if d0.inter then 0 else 1
    let d := { d0 with kaxis := kax }
    let (o, e) := f.box tf d.rank
    let n1 := ceilDiv (nth 0 e 1) 128
    let n0 := ceilDiv (nth 0 e 0) 128
    let ends := [0, 1].find? (fun a =>
      let x := nth 0 o a + ((nth 0 e a : Nat) : Int)
      d.oob == 0 && (nth 0 o a < 0 || x > (d.lsize a : Int)))
    Ready.check [
      (d.access == 2, .access, 0), (d.fore, .mode, 0), (tf.chn != 0 || tf.bl, .layout, 0),
      (tf.role > 1 || (2 ≤ d.layout && d.layout ≤ 5) || d.rank < 2, .layout, 0),
      (pastX31 tf.xo d.rank || pastX31 tf.xe d.rank, .encoding, 0),
      ((nth 0 o 0) % 128 != 0 || (nth 0 o 1) % 128 != 0, .align, 0),
      ((e.drop 2).any (· != 1), .shape, 0),
      (n1 * n0 > 512, .bounds, 0)]
      (if d.empty || e.any (· == 0) then .empty
       else match ends with
       | some a => .bad .bounds (if d.xpose then 1 - a else a) tf.slot
       | none => .run (State.cardReader c d tf o kax n1 n0) [] [])

/-! ## Rows of the table -/

/-- First shelves of the objects that a reading transfer writes. -/
def headsOf (i : TileInstr) : List Nat :=
  match i with
  | .load tf => if tf.ps == 1 then [] else tf.sh :: (if tf.choice then [tf.ss] else [])
  | .gather tf => tf.sh :: (if tf.role == roleDir then [tf.ss] else [])
  | _ => []

/-- A transfer issued: it is entered among the issued instructions and run. The transfers issued before it that have not completed leave its objects
as they are (R344). -/
def State.launchRead (s : State) (c : Nat) (i : TileInstr) (gens : List (Nat × Nat)) (rd : Option Reader) (reads writes : List Nat) :
    State :=
  let k := s.core c
  let fl := { k.flight i reads writes 0 with gens := gens }
  let s1 := (s.reuse c writes).updCore c (fun q => q.launch fl)
  match rd with
  | none => s1
  | some r => (r.run c fl.idx s1).updCore c (fun q =>
      { q with inflight := q.inflight.map (fun f => if f.idx < fl.idx && (slotOf? f.instr).isSome then { f with later := f.later ++ headsOf i } else f) })

/-- The generations of owner tables as an instruction samples them at issue (R295). -/
def State.sampleGens (s : State) : List (Nat × Nat) := s.owners.map (fun p => (p.1, p.2.gen))

/-- A transfer that reads, made ready by its opcode. -/
def State.readyRead (s : State) (c : Nat) (f : Inflight) : Option (Ready Reader) :=
  match f.instr with
  | .load tf => some (s.readyLoad c f tf)
  | .gather tf => some (s.readyGather c f tf)
  | .loadcard tf => some (s.readyCard c f tf)
  | _ => none

/-- A reading transfer tried for issue; the memory errors that its accesses meet come first. -/
def tryRead (c : Nat) (errs : List MemErr) (s0 : State) (i : TileInstr) : Issue :=
  let s := s0.memErrs errs
  let k := s.core c
  let fl := k.flight i [] [] 0
  let slot := (slotOf? i).getD 0
  match s.readyRead c fl with
  | none => .hold .event
  | some r =>
    match r with
    | .bad st d w => .fail st d w
    | .empty => if k.slotBusy slot then .hold .order else .go (s.launchRead c i s.sampleGens none [] [])
    | .run rd reads writes =>
      if k.slotBusy slot then .hold .order else .go (s.launchRead c i s.sampleGens (some rd) reads writes)

/-- LOAD (R354 to R362, R366). -/
def doLoad (c : Nat) (errs : List MemErr) (s : State) (i : TileInstr) : Issue := tryRead c errs s i
/-- GATHER (R280 to R283, R363). -/
def doGather (c : Nat) (errs : List MemErr) (s : State) (i : TileInstr) : Issue := tryRead c errs s i

/-- LOADCARD (R359, R360): the choice map is invalid from its issue on. It waits for LOADs that still use the map. -/
def doLoadcard (c : Nat) (errs : List MemErr) (s : State) (i : TileInstr) : Issue :=
  match i with
  | .loadcard tf =>
    let uses := fun (f : Inflight) => match f.instr with | .load g => g.choice | _ => false
    if (s.core c).inflight.any uses then .hold .order
    else match tryRead c errs (s.updCore c (fun k => { k with choice := none })) i with
    | .go t =>
      if tf.choice && (t.core c).stopped.isNone && (t.core c).choice.isNone && (t.core c).inflight.all (fun f => f.stop.isNone && f.asked.isEmpty)
      then match t.makeChoice c tf.exact_ with
        | .inl u => .go u
        | .inr e => .go (t.faultIn c (s.core c).nextIdx e.1 e.2.1 e.2.2)
      else .go t
    | .hold w => .hold w
    | r => r
  | _ => .hold .event

/-- LOAD as a row. -/
def execLoad (core : Nat) (errs : List MemErr) (s : State) : Out :=
  s.tryIssue core (fun i => match i with | .load _ => true | _ => false) (doLoad core errs)
/-- GATHER as a row. -/
def execGather (core : Nat) (errs : List MemErr) (s : State) : Out :=
  s.tryIssue core (fun i => match i with | .gather _ => true | _ => false) (doGather core errs)
/-- LOADCARD as a row. -/
def execLoadcard (core : Nat) (errs : List MemErr) (s : State) : Out :=
  s.tryIssue core (fun i => match i with | .loadcard _ => true | _ => false) (doLoadcard core errs)

end Sys2Proof.Machine
end

