-- ==== Sys2Proof/Machine/Stores.lean ====
section
/-! DEFINITION. STORE and SCATTER (R209 to R212, R265, R279, R284 to R288, R364 to R366). -/
namespace Sys2Proof.Machine

/-! ## Writes of elements -/

/-- The fault of writing elements at memory coordinates (R272, R273): a write reaches only positions of the tensor. -/
def Desc.writeBad (d : Desc) (outer : List Int) (x0 n : Int) : Option Nat :=
  if x0 < 0 || x0 + n > d.size 0 then some 0 else d.badOuter outer

/-- The write of a run of elements along dimension 0 of a DENSE tensor (R61, R62, R66, R68, R256, R364). An interleaved run writes whole
blocks, from a block's first position. -/
def Desc.putRun (d : Desc) (outer : List Int) (x0 : Nat) (es : List Elem) : Put :=
  let a := (d.rowAddr outer).toNat
  let w := widthOf d.fmt
  if d.inter then .data (a + x0 / 32 * blockBytes d.fmt) (whole (rowToBytes d.fmt true es))
  else
    let lo := x0 * w
    let n := es.length * w
    let len := ceilDiv (lo + n) 8 - lo / 8
    let bytes := leBytes len (packBits w (es.map Elem.raw) * 2 ^ (lo % 8))
    let mask := leBytes len ((2 ^ n - 1) * 2 ^ (lo % 8))
    .data (a + lo / 8) (bytes.zip mask)

/-- Additions of a run of elements (R285). -/
def Desc.addRun (d : Desc) (outer : List Int) (x0 : Nat) (es : List Elem) : List Put :=
  let a := (d.rowAddr outer).toNat
  let b := widthOf d.fmt / 8
  es.zipIdx.map (fun e => .add (a + (x0 + e.2) * b) d.fmt e.1.raw)

/-- Writes with the memory coordinates of their first elements. -/
abbrev Ranked := List (List Int × Put)

/-- The writes of one row of elements at logical coordinates (R258), with their memory coordinates: along memory's dimension 0, or one by one
across it. -/
def Desc.rankedPuts (d : Desc) (slot : Nat) (add : Bool) (c : List Int) (es : List Elem) : Fetch Ranked :=
  let one := fun (m : List Int) (l : List Elem) =>
    match d.writeBad m (nth 0 m 0) l.length with
    | some i => Fetch.fault .bounds i slot
    | none => .pure ((if add then d.addRun m (nth 0 m 0).toNat l else [d.putRun m (nth 0 m 0).toNat l]).map (fun p => (m, p)))
  if d.xpose then (Fetch.all (es.zipIdx.map (fun e => one (swap01 (shift0 c e.2)) [e.1]))).map List.flatten else one c es

/-! ### Aliasing writes -/

/-- Whether coordinates come before others in row-major order, the last dimension counting most (R265). -/
def rankLt (a b : List Int) : Bool := go a.reverse b.reverse
where
  /-- Coordinates compared from the outermost on. -/
  go : List Int → List Int → Bool
    | x :: r, y :: t => x < y || (x == y && go r t)
    | _, _ => false

/-- A write without the bits that another one sets. -/
def putWithout (p q : Put) : Put :=
  match p, q with
  | .data va bs, .data vb cs => .data va (bs.zipIdx.map (fun b =>
      let at_ := va + b.2
      (b.1.1, if vb ≤ at_ && at_ < vb + cs.length then b.1.2 &&& ~~~((cs[at_ - vb]?).getD (0#8, 0#8)).2 else b.1.2)))
  | _, _ => p

/-- The writes of row i where writes of one instruction may alias: of two elements at one address the later in row-major order wins, whichever row
of the transfer holds it (R265). `rows` are the rows that the transfer writes. -/
def overlapPuts (rows : List Nat) (get : Nat → Fetch Ranked) (i : Nat) : Fetch (List Put) :=
  (get i).bind (fun mine => (Fetch.all (rows.map get)).quiet.map (fun all =>
    mine.map (fun p => all.flatten.foldl (fun w q => if rankLt p.1 q.1 then putWithout w q.2 else w) p.2)))

/-- The writes of row i of a transfer of `n` rows (R265). -/
def Desc.rowPuts (d : Desc) (rows : List Nat) (get : Nat → Fetch Ranked) (i : Nat) : Fetch (List Put) :=
  if d.overlap && !d.scatAcc then overlapPuts rows get i else (get i).map (fun l => l.map Prod.snd)

/-- The tile of elements that an object's box rows, from `row0` on, give a folio tile: zero outside the box and where the drain wrote nothing
(R209, R364). -/
def Core.tileOf (k : Core) (sh : Nat) (t : Tag) (d : Desc) (o : List Int) (e : List Nat) (row0 h : Nat) (t1 t0 : Nat) : Array Elem :=
  let m := k.objMem sh t
  let (vw, vr) := match k.drained.find? (fun p => p.1 == sh) with | some p => (p.2.1, p.2.2) | none => (t.e0, t.e1)
  let e1 := nth 0 e 1
  let q0 : Int := 128 * (t1 : Int) - nth 0 o 1
  let x0 : Int := 128 * (t0 : Int) - nth 0 o 0
  let rows := (List.range 128).map (fun (r : Nat) =>
    let q := q0 + (r : Int)
    let at_ := row0 + h * e1 + q.toNat
    let row := if 0 ≤ q && q < e1 && at_ < vr then (dataRow m t at_).toArray else #[]
    (List.range 128).map (fun (c : Nat) =>
      let x := x0 + (c : Int)
      if 0 ≤ x && x < (nth 0 e 0 : Nat) && x < (vw : Int) then (row[x.toNat]?).getD ⟨0, d.us⟩ else ⟨0, d.us⟩))
  (rows.flatten).toArray

/-! ## Writers -/

/-- The elements that a writing transfer takes from its object's box row. -/
def Core.boxRow (k : Core) (sh : Nat) (t : Tag) (q lo n : Nat) : List Elem := ((dataRow (k.objMem sh t) t q).drop lo).take n

/-- The positions that an interleaved row of a box writes: whole blocks, zero beyond the box (R364). -/
def blockPad (d : Desc) (es : List Elem) : List Elem :=
  if d.inter then es ++ List.replicate ((32 - es.length % 32) % 32) ⟨0, 127⟩ else es

/-- The rows from the first to the one that faults. -/
def wholeFrom {α : Type} (row : Nat → Fetch α) (n : Nat) : List Nat :=
  (List.range n).takeWhile (fun i => match row i with | .fault .. => false | _ => true)

/-- A writer of box rows of a DENSE tensor (R265, R279, R287, R364). -/
def State.rowWriter (c : Nat) (d : Desc) (tf : TF) (t : Tag) (r : Rows) (units : List (List Nat × List Nat)) (done : State → Inflight → State) :
    Writer :=
  let ua := units.toArray
  { rows := units.length, owner := d.owner, units := fun _ => 0, cursor := 0, limit := 0
    get := fun s _ i =>
      let k := s.core c
      let row := fun (i : Nat) =>
        let u := (ua[i]?).getD ([], [])
        (Fetch.all (u.1.map (fun q => (r.start q).bind (fun st =>
          let x0 := (u.2.head?).getD 0
          let cc := shift0 st x0
          if d.inter then
            match d.writeBad cc (nth 0 cc 0) u.2.length with
            | some j => .fault .bounds j tf.slot
            | none =>
              if nth 0 cc 0 % 32 != 0 then .fault .align 0 tf.slot
              else .pure [(cc, d.putRun cc (nth 0 cc 0).toNat (blockPad d (k.boxRow tf.sh t q x0 u.2.length)))]
          else d.rankedPuts tf.slot false cc (k.boxRow tf.sh t q x0 u.2.length))))).map List.flatten
      d.rowPuts (wholeFrom row units.length) row i
    size := fun i => d.unitBytes ((ua[i]?).getD ([], []))
    pos := id
    done := done }

/-- A writer of folio tiles (R209 to R212, R364): of a box of extents e, or of the listed blocks of that shape, tile by tile (R287, R288). `box` gives
the origin of a block, as the list reads when the transfer is made ready. -/
def State.folioWriter (c : Nat) (k0 : Core) (d : Desc) (tf : TF) (t : Tag) (blocks : Nat) (box : Nat → Fetch (List Int)) (e : List Nat)
    (done : State → Inflight → State) : Writer :=
  let n1 := ceilDiv (nth 0 e 1) 128
  let n0 := ceilDiv (nth 0 e 0) 128
  let per := n1 * n0 * prodNat (e.drop 2)
  let org := fun (i : Nat) => match box (i / per) with | .ok o _ => o | _ => []
  let tile := fun (i : Nat) => let j := i % per; let o := org i
    (j / (n1 * n0), (nth 0 o 1).toNat / 128 + j / n0 % n1, (nth 0 o 0).toNat / 128 + j % n0)
  let coord := fun (i h : Nat) => List.zipWith (fun x (j : Nat) => x + (j : Int)) ((org i).drop 2) (unrank (e.drop 2) h)
  let pack := fun (k : Core) (i : Nat) => let (h, t1, t0) := tile i
    d.packTile t1 t0 (k.tileOf tf.sh t d (org i) e (i / per * prodNat (e.drop 1)) h t1 t0)
  let ld := roundUp (denseBytes d.fmt d.inter) 64 / 64
  let bad := fun (i : Nat) => (show Option (St × Nat) from
    let o := org i
    if nth 0 o 0 % 128 != 0 || nth 0 o 1 % 128 != 0 then some (.align, 0)
    else if nth 0 o 0 < 0 then some (.bounds, 0)
    else if nth 0 o 1 < 0 then some (.bounds, 1)
    else
      let (h, t1, t0) := tile i
      let last1 := Int.ofNat (Nat.min (128 * t1 + 127) ((nth 0 o 1).toNat + nth 0 e 1 - 1))
      let last0 := Int.ofNat (Nat.min (128 * t0 + 127) ((nth 0 o 0).toNat + nth 0 e 0 - 1))
      (d.writeBad ([0, last1] ++ coord i h) last0 1).map (fun j => (.bounds, j)))
  let known := fun (i : Nat) => match box (i / per) with | .ok _ _ => true | _ => false
  { rows := blocks * per, owner := d.owner, cursor := d.aux2, limit := d.paysize
    units := fun i => if d.append && known i && (bad i).isNone then cardLen (pack k0 i).1 else 0
    get := fun s f i => (box (i / per)).bind (fun _ =>
      let (h, t1, t0) := tile i
      match bad i with
      | some j => .fault j.1 j.2 tf.slot
      | none =>
        let (card, bytes) := pack (s.core c) i
        let g := d.grid ([0, 0] ++ coord i h)
        let x := (g * d.t1 + t1) * d.t0 + t0
        if d.append then
          match lookupK i f.cursor with
          | some cur => if cur == cursorFull then .pure [] else .pure [.data (d.base + 64 * cur) (whole bytes)]
          | none => .pure []
        else
          let full := if cardForm card == 0 then card else card + at_ 170 (x * ld)
          .pure ((if bytes.isEmpty then [] else [Put.data (d.base + 64 * (x * ld)) (whole bytes)])
            ++ [.data (d.cardAddr g t1 t0) (whole (leBytes 32 full))]))
    size := fun i => cardLen (pack k0 i).1 * 64
    pos := id
    done := fun s f =>
      if !d.append then done s f
      else
        let k := s.core c
        let rows := List.range (blocks * per)
        let full := rows.any (fun i => lookupK i f.cursor == some cursorFull)
        let cards := rows.filterMap (fun i =>
          if lookupK i f.cursor == some cursorFull then none
          else
            let (h, t1, t0) := tile i
            let card := (pack k i).1
            let a := d.cardAddr (d.grid ([0, 0] ++ coord i h)) t1 t0
            let w := card + at_ 170 (lookupD 0 i f.cursor)
            match s.place f.gens d.owner a with
            | .here v => some (⟨localSock, v, w⟩ : CardWrite)
            | .there sock v => some ⟨sock, v, w⟩
            | .lost _ => none)
        done (s.updCore c (fun k => { k with held := k.held.map (fun h =>
          { h with cards := h.cards ++ cards, nofit := h.nofit || full }) })) f }

/-- A writer of an ACC image from the accumulators or an ACCIMAGE object (R366, R380). The header is the one that the transfer found at issue. -/
def State.imageWriter (c : Nat) (d : Desc) (tf : TF) (x0 : Int) (h : Nat) : Writer :=
  let m := 64 * bits h 71 64
  let n := 64 * bits h 79 72
  let mode := bits h 85 84
  let w := accElemBytes mode
  let base := ((d.base : Int) + 4 * x0).toNat
  { rows := m, owner := d.owner, units := fun _ => 0, cursor := 0, limit := 0
    get := fun s _ i =>
      let k := s.core c
      let row : List Byte :=
        if tf.ps == 1 then
          let l := nth [] (k.accTile (geoOf 4 (mode == 1)) m n) i
          (if mode == 1 && !(AccSt.ofWord (bits h 63 0)).exact_ then l.map (· % 2 ^ 64) else l).flatMap (leBytes w)
        else k.carrel.readBytes (tf.sh * shelfBytes + 64 + i * n * w) (n * w)
      if x0 < 0 || 4 * x0 + (accImageBytes m n mode : Int) > 4 * (d.size 0 : Int) then .fault .bounds 0 tf.slot
      else .pure [.data (if i == 0 then base else base + 64 + i * n * w) (whole ((if i == 0 then leBytes 64 h else []) ++ row))]
    size := fun i => (if i == 0 then 64 else 0) + n * w
    pos := id
    done := fun s _ => s }

/-- A writer of the slices of a SCATTER (R284 to R286). -/
def State.scatterWriter (c : Nat) (d li : Desc) (tf : TF) (t : Tag) (first n per : Nat) : Writer :=
  let e0 := if tf.gdim == 0 then 1 else d.lsize 0
  { rows := n * per, owner := d.owner, units := fun _ => 0, cursor := 0, limit := 0
    get := fun s f i =>
      let row := fun (i : Nat) =>
        let j := i / per
        let ix := s.readIndex f li tf.slot2 (first + j)
        (if i % per == 0 then ix else ix.quiet).bind (fun idx =>
          if !inDim (d.lsize tf.gdim) idx then .fault .bounds tf.gdim (j + at_ 56 tf.slot)
          else
            let k := s.core c
            let start := f.sliceCoord d tf (i % per) idx
            let es := if tf.gdim == 0 then k.boxRow tf.sh t 0 j 1 else k.boxRow tf.sh t i 0 e0
            if d.inter then
              match d.writeBad start 0 e0 with
              | some b => .fault .bounds b tf.slot
              | none => .pure [(start, d.putRun start 0 (blockPad d es))]
            else d.rankedPuts tf.slot d.scatAcc start es)
      d.rowPuts (wholeFrom row (n * per)) row i
    size := fun _ => rowBytes d.fmt e0 d.inter
    pos := fun i => i / per
    done := fun s _ => s }

/-! ## Issue -/

/-- A forerunner tile stored: forerunner mode may end (R132). -/
def State.storedFore (s : State) (c sh : Nat) : State :=
  s.updCore c (fun k => { k with foreShelves := k.foreShelves.filter (· != sh) }.settleFore)

/-- Whether a STORE moves an image: from ACC, or an ACCIMAGE object. -/
def Core.storesImage (k : Core) (tf : TF) : Bool := tf.ps == 1 || ((k.tag tf.sh).fmt != 0 && (k.tag tf.sh).role == roleImage)

/-- The header of the image that a STORE moves, as found at issue and kept with the instruction. -/
def Core.imageHead (k : Core) (f : Inflight) (tf : TF) : Option Nat :=
  match lookupK (2 ^ 32) f.rows with
  | some (h :: _) => some h
  | _ => if tf.ps == 1 then (lookupK 4 k.recs).map TileRec.header else some (k.carrel.readLe (tf.sh * shelfBytes) 64)

/-- A STORE made ready from its registers (R364 to R367). -/
def State.readyStore (s : State) (c : Nat) (f : Inflight) (tf : TF) : Ready Writer :=
  let k := s.core c
  match s.slotDesc k tf.slot with
  | none => .bad .handle 0 tf.slot
  | some d =>
    if d.access == 1 then .bad .access 0 tf.slot
    else if k.storesImage tf then
      let obj := if tf.ps == 1 then none else some (k.object (s.limitOf c) tf.sh)
      Ready.check [(d.imageFault.isSome, d.imageFault.getD .layout, 0), (pastX31 tf.xo 1, .encoding, 0),
          (tf.ps == 1 && (k.split || (lookupK 4 k.recs).isNone && (lookupK (2 ^ 32) f.rows).isNone), .mode, 0),
          (match obj with | some (.inr e) => (true, e, 0) | _ => (false, .layout, 0))]
        (match k.imageHead f tf with
         | none => .bad .mode 0 0
         | some h => if d.empty then .empty else .run (State.imageWriter c d tf (f.xr tf.xo).toInt h)
             (if tf.ps == 1 then [] else shelvesFrom tf.sh (accImageBytes (64 * bits h 71 64) (64 * bits h 79 72) (bits h 85 84))) [])
    else match k.object (s.limitOf c) tf.sh with
    | .inr e => .bad e 0 0
    | .inl t =>
      let li := if tf.bl then some (s.indexDesc k tf.slot2) else none
      let regs := if tf.bl then pastX31 tf.xo 2 || pastX31 tf.xe d.rank else pastX31 tf.xo d.rank || pastX31 tf.xe d.rank
      let (o, e) := f.box tf d.rank
      let n := (f.xr (tf.xo + 1)).toNat
      let r := match li with
        | some (.inl x) => s.listRows f x tf.slot2 d.rank (f.xr tf.xo).toNat n e
        | _ => boxRows o e
      Ready.check [
        (t.role != roleData, .layout, 0), (d.layout > 1, .layout, 0),
        (t.fmt != d.fmt || t.sb != d.sb || t.uscale != d.uscale, .format, 0),
        (match li with | some (.inr x) => (true, x, 0) | _ => (false, .layout, 0)),
        (match li with | some (.inl x) => (x.size 0 % d.rank != 0, .shape, 0) | _ => (false, .shape, 0)),
        (regs, .encoding, 0)]
        (let listed := match li with | some (.inl x) => x.empty || n == 0 | _ => false
         if d.empty || e.any (· == 0) || listed then .empty
         else Ready.check [
           (r.e0 > t.e0 || r.n > t.e1, .bounds, 0),
           (!tf.bl && d.inter && d.layout == 0 && nth 0 o 0 % 32 != 0, .align, 0),
           (!tf.bl && d.layout == 1 && (nth 0 o 0 % 128 != 0 || nth 0 o 1 % 128 != 0), .align, 0),
           (!tf.bl && d.layout == 1 && (nth 0 o 0 < 0 || nth 0 o 1 < 0), .bounds, if nth 0 o 0 < 0 then 0 else 1)]
          (let span := k.span tf.sh t
           let fin := fun (u : State) (_ : Inflight) => u.storedFore c tf.sh
           if d.layout == 1 then
             .run (State.folioWriter c k d tf t (if tf.bl then n else 1) (fun j => if tf.bl then r.start (j * prodNat (e.drop 1)) else .pure o) e fin) span []
           else
             let units := if tf.bl then rowUnits r else if d.xpose then blockUnits e true else rowUnits r
             .run (State.rowWriter c d tf t r units fin) span []))

/-- A SCATTER made ready (R281, R284, R285, R289, R363, R364). -/
def State.readyScatter (s : State) (c : Nat) (f : Inflight) (tf : TF) : Ready Writer :=
  let k := s.core c
  match s.slotDesc k tf.slot with
  | none => .bad .handle 0 tf.slot
  | some d =>
    match k.object (s.limitOf c) tf.sh with
    | .inr e => .bad e 0 0
    | .inl t =>
      let li := s.indexDesc k tf.slot2
      Ready.check [
        (d.access == 1, .access, 0), (d.fore, .mode, 0), (tf.bl, .layout, 0), (t.role != roleData || d.layout != 0, .layout, 0),
        (t.fmt != d.fmt || t.sb != d.sb || t.uscale != d.uscale, .format, 0),
        (d.scatAcc && !((d.fmt == 0x0A || d.fmt == 0x08 || d.fmt == 0x09) && d.sb == 0), .format, 0),
        (match li with | .inr e => (true, e, 0) | .inl _ => (false, .layout, 0)),
        (tf.gdim ≥ d.rank, .rank, 0),
        (tf.gdim == 0 && (d.inter || widthOf d.fmt < 8), .format, 0),
        (pastX31 tf.xo (2 + (d.rank - 1 - tf.gdim)), .encoding, 0)]
        (match li with
         | .inr e => .bad e 0 tf.slot2
         | .inl x =>
           let n := (f.xr (tf.xo + 1)).toNat
           let per := prodNat ((d.lsizes.take tf.gdim).drop 1)
           let e0 := if tf.gdim == 0 then n else d.lsize 0
           if d.empty || x.empty || n == 0 then .empty
           else if e0 > t.e0 || (if tf.gdim == 0 then 1 else n * per) > t.e1 then .bad .bounds 0 0
           else .run (State.scatterWriter c d x tf t (f.xr tf.xo).toNat n per) (k.span tf.sh t) [])

/-- A transfer that writes, made ready by its opcode. -/
def State.readyWrite (s : State) (c : Nat) (f : Inflight) : Option (Ready Writer) :=
  match f.instr with
  | .store tf => some (s.readyStore c f tf)
  | .scatter tf => some (s.readyScatter c f tf)
  | _ => none

/-- A writing transfer tried for issue; the memory errors that its accesses meet come first. -/
def tryWrite (c : Nat) (errs : List MemErr) (s0 : State) (i : TileInstr) : Issue :=
  let s := s0.memErrs errs
  let k := s.core c
  let slot := (slotOf? i).getD 0
  match s.readyWrite c (k.flight i [] [] 0) with
  | none => .hold .event
  | some r =>
    match r with
    | .bad st d w => .fail st d w
    | .empty => if k.slotBusy slot then .hold .order
        else .go (s.updCore c (fun q => q.launch { k.flight i [] [] 0 with gens := s.sampleGens }))
    | .run wr reads _ =>
      if k.slotBusy slot || k.drainWaits reads then .hold .order
      else
        let head := match i with
          | .store tf => if k.storesImage tf then (match k.imageHead (k.flight i [] [] 0) tf with | some h => [(2 ^ 32, [h])] | none => []) else []
          | _ => []
        let fl := { k.flight i reads [] 0 with gens := s.sampleGens, rows := head }
        .go (wr.run c fl.idx (s.updCore c (fun q => q.launch fl)))

/-- STORE (R364, R366). -/
def doStore (c : Nat) (errs : List MemErr) (s : State) (i : TileInstr) : Issue := tryWrite c errs s i
/-- SCATTER (R284 to R286). -/
def doScatter (c : Nat) (errs : List MemErr) (s : State) (i : TileInstr) : Issue := tryWrite c errs s i

/-- STORE as a row. -/
def execStore (core : Nat) (errs : List MemErr) (s : State) : Out :=
  s.tryIssue core (fun i => match i with | .store _ => true | _ => false) (doStore core errs)
/-- SCATTER as a row. -/
def execScatter (core : Nat) (errs : List MemErr) (s : State) : Out :=
  s.tryIssue core (fun i => match i with | .scatter _ => true | _ => false) (doScatter core errs)

/-! ## Going on -/

/-- A transfer of a core that has paused carried on from its row, a send with the bytes that it keeps (R320, R504, R592). -/
def State.goOn (s : State) (c idx : Nat) : State :=
  match s.flightOf c idx with
  | none => s
  | some f =>
    let s1 := s.updFlight c idx (fun g => { g with stop := none })
    match s1.readyRead c f, s1.readyWrite c f with
    | some (.run rd _ _), _ => rd.run c idx s1
    | _, some (.run wr _ _) => wr.run c idx s1
    | some (.bad st d w), _ => s1.faultIn c idx st d w
    | _, some (.bad st d w) => s1.faultIn c idx st d w
    | _, _ =>
      match f.rows with
      | (route, sock :: a :: bs) :: _ => s1.sendTo c idx route ⟨sock, a⟩ (bs.map (BitVec.ofNat 8))
      | _ => s1

end Sys2Proof.Machine
end

