-- ==== Sys2Proof/Machine/Copies.lean ====
section
/-! DEFINITION. COPY and FILL as transfers of Hokuec's with rows of 4 KiB (R547), and the resumption of stopped transfers (R504, R505). -/
namespace Sys2Proof.Machine

/-- Whether Hokuec's write at an address of R522 may proceed. -/
def State.sysCheckWrite (s : State) (a : W64) (n : Nat) : Access := if isBus a then .ok else s.checkWrite false (addrOf a) n

/-- A COPY or FILL changed. -/
def State.updCopy (s : State) (id : Nat) (f : CopyOp → CopyOp) : State :=
  { s with copies := s.copies.map (fun o => if o.id = id then f o else o) }

/-- A COPY or FILL that ends with a status: its ring is answered. -/
def State.endCopy (s : State) (o : CopyOp) (st : St) : State :=
  { s with copies := s.copies.filter (fun x => x.id != o.id) }.release o.ring { st := st }

/-- A COPY or FILL stopped at a translation fault (R498, R502, R503). Its resume record has no core and no opcode of a tile program. -/
def State.stopCopy (s : State) (o : CopyOp) (cause va : Nat) : State :=
  let t : Stop := ⟨o.pos / 4096, o.pos, cause, false, va⟩
  let s1 := s.updCopy o.id (fun x => { x with stop := some t })
  if cause == 1 then s1.hostPageEvent va 0xFF 0 (t.word 0 0 0 0 0) else s1

/-- One row of 4 KiB of a COPY or FILL. -/
def copyRow (id : Nat) (_ : Nat) (s : State) : RowEnd :=
  match s.copies.find? (fun o => o.id == id) with
  | none => .halt s
  | some o =>
    let n := Nat.min 4096 (o.len - o.pos)
    let d := BitVec.ofNat 64 (o.dst + o.pos)
    let src := o.src.map (fun a => (BitVec.ofNat 64 (a + o.pos) : W64))
    let r := match src with | some a => s.sysCheckRead a n | none => .ok
    match r with
    | .stop c va => .halt (s.stopCopy o c va)
    | .fault st _ => .halt (s.endCopy o st)
    | .ok =>
      match s.sysCheckWrite d n with
      | .stop c va => .halt (s.stopCopy o c va)
      | .fault st _ => .halt (s.endCopy o st)
      | .ok =>
        let bs := match src with | some a => s.sysBytes a n | none => List.replicate n (BitVec.ofNat 8 o.fill)
        let s1 := match src with | some a => s.sysTouch a n | none => s
        .next ((s1.sysWrite d bs).updCopy id (fun x => { x with pos := x.pos + n }))

/-- A COPY or FILL carried on from where it stands. -/
def State.runCopy (s : State) (id : Nat) : State :=
  match s.copies.find? (fun o => o.id == id) with
  | none => s
  | some o =>
    match goRows (copyRow id) (List.range (ceilDiv (o.len - o.pos) 4096)) (s.updCopy id (fun x => { x with stop := none })) with
    | .next t => t
    | .halt t => t

/-- COPY_FILL_COMPLETE (R547): the fabric has accepted the last write. -/
def execCopyFillComplete (id : Nat) (s : State) : Out :=
  match s.copies.find? (fun o => o.id == id) with
  | some o => if s.running && o.stop.isNone && o.pos ≥ o.len then .next (s.endCopy o .ok) else .next s
  | none => .next s

/-- Whether a translation fault has been resolved (R494, R504); a page that is gone ends the wait with another fault. -/
def State.resolved (s : State) (t : Stop) : Bool :=
  match s.page? t.va with
  | none => true
  | some p => if t.cause == 1 then !(p.host && !p.resident) else p.moving.isNone

/-- A stopped transfer of a core resumed from its row (R504): its record says no stop any more. -/
def State.resumeFlight (s : State) (c idx : Nat) : State :=
  match s.flightOf c idx with
  | none => s
  | some f =>
    (s.updCore c (fun k => { k with prog := match slotOf? f.instr with
      | some n => updK n (fun w => w - at_ 501 (bits w 503 501)) k.prog
      | none => k.prog })).goOn c idx

/-- TRANSFER_RESUME (R504, R505): after its fault is resolved a stopped transfer resumes from its stop row. -/
def execTransferResume (who : XferId) (errs : List MemErr) (s : State) : Out :=
  match who with
  | .core c idx =>
    if c ≥ s.cores.length then .fault (.noSuchUnit c)
    else match (s.flightOf c idx).bind Inflight.stop with
    | some t =>
      if s.unitAlive c && s.resolved t then .next ((s.memErrs errs).resumeFlight c idx) else .next s
    | none => .next s
  | .copy id =>
    match (s.copies.find? (fun o => o.id == id)).bind CopyOp.stop with
    | some t => if s.running && s.resolved t then .next ((s.memErrs errs).runCopy id) else .next s
    | none => .next s

end Sys2Proof.Machine
end

