-- ==== Sys2Proof/Machine/Start.lean ====
section
/-! DEFINITION. TALLY and WAIT (R387, R388, R596, R597), completion (R343), phases (R342), and the start and resumption of programs
(R441, R442, R448, R507). -/
namespace Sys2Proof.Machine

/-! ## TALLY and WAIT -/

/-- Whether an earlier STORE, SCATTER or SEND of the core has not completed (R387). -/
def Core.sendsLeft (k : Core) : Bool :=
  k.inflight.any (fun f => match f.instr with | .store _ | .scatter _ | .send .. => true | _ => false)

/-- The addition of a TALLY: local, or by a packet whose acknowledgement completes the instruction (R596). -/
def State.doIncrement (s : State) (c : Nat) (i : TileInstr) (no : Nat) (v : W64) (target : Option Nat) : Issue :=
  match target with
  | none => .go (s.addTally no v)
  | some sock =>
    if s.self? == some sock then .go (s.addTally no v)
    else match s.remoteFault sock with
    | some d => .fail .noowner d 0
    | none =>
      let k := s.core c
      let s1 := s.post sock (.tallyInc no v)
      .go (s1.updCore c (fun q => q.launch { k.flight i [] [] 0 with acks := s1.sentSince s sock }))

/-- The amount that a TALLY adds: TL.XS, where x0 stands for 1 (table of the synchronisation fields, R387). -/
def Core.tallyAmount (k : Core) (xs : Nat) : W64 := if xs = 0 then 1#64 else k.xr xs

/-- The socket of a TALLY: TL.XR, where x0 stands for the local socket; none is the local one (R387). -/
def Core.tallySocket (k : Core) (xr : Nat) : Option Nat := if xr = 0 then none else some (k.xr xr).toNat

/-- TALLY (R387). -/
def doTally (c : Nat) (s : State) (i : TileInstr) : Issue :=
  match i with
  | .tally no xs xr =>
    let k := s.core c
    if k.sendsLeft then .hold .tally else s.doIncrement c i no (k.tallyAmount xs) (k.tallySocket xr)
  | _ => .hold .event

/-- TALLY as a row. -/
def execTally (core : Nat) (s : State) : Out :=
  s.tryIssue core (fun i => match i with | .tally .. => true | _ => false) (doTally core)

/-- TALLY_INCREMENT (R387, R596): the stores and sends before it have completed, and the TALLY adds. -/
def execTallyIncrement (core : Nat) (s : State) : Out :=
  if core ≥ s.cores.length then .fault (.noSuchUnit core)
  else
    let k := s.core core
    if !s.ready core || k.wait != some .tally || k.sendsLeft then .next s else .next (s.carry core (doTally core s (s.instrAt k)))

/-- WAIT (R388). -/
def doWait (c : Nat) (s : State) (i : TileInstr) : Issue :=
  match i with
  | .wait no xs => if s.tallyMet no ((s.core c).xr xs) then .go s else .hold .cond
  | _ => .hold .event

/-- WAIT as a row. -/
def execWait (core : Nat) (s : State) : Out :=
  s.tryIssue core (fun i => match i with | .wait .. => true | _ => false) (doWait core)

/-- WAIT_RELEASE (R388): the sequencer samples the tally and finds the condition holding. -/
def execWaitRelease (core : Nat) (s : State) : Out :=
  if core ≥ s.cores.length then .fault (.noSuchUnit core)
  else
    let k := s.core core
    match s.instrAt k with
    | .wait no xs => if s.ready core && k.wait == some .cond && s.tallyMet no (k.xr xs) then .next (s.carry core (.go s)) else .next s
    | _ => .next s

/-! ## Completion -/

/-- Whether a socket has acknowledged every packet that an instruction waits for (R591, R601). -/
def State.acked (s : State) (f : Inflight) : Bool := f.acks.all (fun a => (s.stream a.1).unacked.all (fun p => p.seq != a.2))

/-- Whether writes of an instruction's owner table are held by a switch (R296). -/
def State.writesHeld (s : State) (k : Core) (f : Inflight) : Bool :=
  match f.instr with
  | .store _ | .scatter _ =>
    match (slotOf? f.instr).bind (s.slotDesc k) with
    | some d => (match lookupK d.owner s.owners with | some o => !o.heldWrites.isEmpty | none => false)
    | none => false
  | _ => false

/-- Whether an issued instruction has reached its completion event (R343, table of opcodes). -/
def State.finished (s : State) (k : Core) (f : Inflight) : Bool :=
  f.stop.isNone && f.asked.isEmpty && !f.trail && !f.rerun && !f.redo && s.acked f && !s.writesHeld k f
    && (k.unitsOf f.instr).all (fun u => (k.onUnit u).head?.all (fun g => g.idx == f.idx))

/-- A FENCE or HALT that waits ends when nothing issued is left (R389, R390). -/
def State.settleFence (s : State) (c : Nat) : State :=
  let k := s.core c
  if s.ready c && k.wait == some .fence && k.inflight.isEmpty then
    match s.instrAt k with
    | .fence => s.carry c (.go s)
    | .halt => s.updCore c Core.leave
    | _ => s
  else s

/-- The read issued behind an instruction's last write to host-backed pages (R485; log entry 182): its payload is not stated. -/
def State.trailingRead (s : State) (c idx : Nat) : State :=
  let (n, s1) := s.takeFresh
  (s1.count 2 (Config.freeNat n)).updFlight c idx (fun f => { f with trail := false })

/-- INSTRUCTION_COMPLETE (R343, R485, R603). -/
def execInstructionComplete (core idx : Nat) (s : State) : Out :=
  if core ≥ s.cores.length then .fault (.noSuchUnit core)
  else
    let k := s.core core
    match s.flightOf core idx with
    | none => .next s
    | some f =>
      if !s.unitAlive core then .next s
      else if f.trail && s.finished k { f with trail := false } then .next (s.trailingRead core idx)
      else if !s.finished k f then .next s
      else
        let s1 := s.updCore core (fun q => { q with inflight := q.inflight.filter (fun g => g.idx != idx) })
        let s2 := match f.sendRoute with
          | none => s1
          | some r =>
            let e := s1.routeEntry k r
            if srNoTally e then s1
            else s1.tallyAt (srSocket e) (srTally e) 1#64 core (k.dispatch.getD 0) 0
        .next (s2.settleFence core)

/-! ## Phases -/

/-- An instruction of a phase put through its own rules. -/
def issueBody (c : Nat) (errs : List MemErr) (mis : List Mismatch) (s : State) (i : TileInstr) : Issue :=
  match i with
  | .load _ => doLoad c errs s i
  | .store _ => doStore c errs s i
  | .gather _ => doGather c errs s i
  | .scatter _ => doScatter c errs s i
  | .loadcard _ => doLoadcard c errs s i
  | .mma _ => doMma c mis s i
  | .spma _ => doSpma c mis s i
  | .spge _ => doSpge c mis s i
  | .ewiseDiag _ => doDiag c mis s i
  | .ewiseChain .. => doChain c s i
  | .reduce .. => doReduce c s i
  | .reduceSplitk .. => doSplitk c s i
  | .drain .. => doDrain c s i
  | .drainPartial .. => doDrainPartial c s i
  | .send .. => doSend c s i
  | .setx .. | .addx .. | .loop .. | .br .. | .take .. | .commit .. | .yield | .tally .. | .wait .. | .fence | .halt | .dbg .. =>
    .hold .event

/-- PHASE_ENTER (R342): every instruction of the current phase has completed; the sequencer enters the waiting instruction's phase and
issues it. -/
def execPhaseEnter (core : Nat) (errs : List MemErr) (mis : List Mismatch) (s : State) : Out :=
  if core ≥ s.cores.length then .fault (.noSuchUnit core)
  else
    let k := s.core core
    let i := s.instrAt k
    if !s.ready core || k.wait != some .phase || k.inflight.any (fun f => f.instr.phase == some k.phase) then .next s
    else match i.phase with
    | none => .next s
    | some p =>
      let s1 := s.updCore core (fun q => { q with phase := p })
      .next (s1.carry core (issueBody core errs mis s1 i))

/-! ## Programs -/

/-- A saved context restored on a core (R448): its held tile is the core's again, and its stopped transfers continue first (R507). -/
def State.restoreContext (s : State) (c : Nat) (x : Context) : State :=
  let s1 := s.updRegion (regionOf c) (fun g => { g with contexts := g.contexts.filter (fun y => y.order != x.order) })
  let s2 := (s1.reuse c (x.core.tags.map Prod.fst)).count 0 (lineBytes 0 x.core.contextBytes)
  let s3 := s2.updCore c (fun k => k.restore x.core c)
  let s4 := match x.core.held with
    | some h => match (s3.dispatch? h.dispatch).bind (fun d => s3.homeOf d h.tile) with
      | some (r, n, _) => s3.updCounter r n (fun q => q.resume h.tile c)
      | none => s3
    | none => s3
  (x.core.inflight.filter (fun f => f.stop.isSome)).foldl (fun t f => t.resumeFlight c f.idx) s4

/-- Whether an idle core may start something: active, with Hokuec's desks running. -/
def State.startable (s : State) (c : Nat) : Bool := s.alive && s.idleCore c && (s.core c).power == .active

/-- What an idle core starts (R441): a suspended context, else a dispatch. A core that a pre-emption freed starts the dispatch of the higher
class that wanted it first (R444; log entry 38). -/
def State.nextWork (s : State) (c : Nat) : Option (Context ⊕ Dispatch) :=
  match (s.region (regionOf c)).nextContext, s.nextDispatch c with
  | some x, some d => if (s.core c).freed && x.prio < d.req.prio then some (.inr d) else some (.inl x)
  | some x, none => some (.inl x)
  | none, some d => some (.inr d)
  | none, none => none

/-- CONTEXT_RESUME (R441, R448): the next saved context of the region is restored on an idle core. -/
def execContextResume (core : Nat) (s : State) : Out :=
  if core ≥ s.cores.length then .fault (.noSuchUnit core)
  else if !s.startable core then .next s
  else match s.nextWork core with
  | some (.inl x) => .next (s.restoreContext core x)
  | _ => .next s

/-- CORE_PROGRAM_START (R441, R442): an idle core starts a suspended context, else the next dispatch that the desk can serve. -/
def execCoreProgramStart (core : Nat) (s : State) : Out :=
  if core ≥ s.cores.length then .fault (.noSuchUnit core)
  else if !s.startable core then .next s
  else match s.nextWork core with
  | some (.inl x) => .next (s.restoreContext core x)
  | some (.inr d) => .next ((s.startProgram core d).recordStart core d)
  | none => .next s

end Sys2Proof.Machine
end

