-- ==== Sys2Proof/Machine/Bindery.lean ====
section
/-! DEFINITION. The bindery: merge jobs, passes, the buffer and the results (R33, R231 to R237, R550). -/
namespace Sys2Proof.Machine

/-- The capacity of a bindery buffer, in entries (R236). -/
def binderyBuffer : Nat := 16384

/-- Entries that a region's bindery buffer holds. -/
def State.bufferUse (s : State) (r : Nat) : Nat :=
  sumNat (s.jobs.map (fun j => if j.2.region == some r then
    sumNat (j.2.runs.map (fun x => if x.buffered then x.entries.length else 0)) else 0))

/-- A run written where a job's spill keeps it, or taken into the buffer when there is room (R236). -/
def State.placeRun (s : State) (job i : Nat) : State :=
  match lookupK job s.jobs with
  | none => s
  | some j =>
    let n := match j.runs[i]? with | some r => r.entries.length | none => 0
    if s.bufferUse (j.region.getD 0) + n ≤ binderyBuffer then
      { s with jobs := updK job (fun x => { x with runs := updateAt x.runs i (fun r => { r with core := none, buffered := true, inmem := false }) }) s.jobs }
    else s.spillRun job i

/-- Bytes that Hokuec's units write at an address of a tensor; an address that does not translate is dropped (log entry 12). -/
def State.tensorWrite (s : State) (owner a : Nat) (bs : List Byte) : State :=
  let p : Put := .data a (whole bs)
  let gens := s.sampleGens
  let ok := (putPieces p).all (fun q => match s.place gens owner q.1 with
    | .here v => s.canWrite v q.2
    | .there _ _ => true
    | .lost _ => false)
  if ok then (s.perform gens owner p).1 else s

/-- The result of a job written in its form, every coordinate that a run held (R237; log entry 32). -/
def State.writeResult (s : State) (j : Job) (r : Run) (n : Nat) : State :=
  if j.form == 0 then s.sysWrite (BitVec.ofNat 64 j.out) (r.entries.flatMap (fun e => leBytes 16 e.word))
  else match s.desc? (some n) j.out with
  | none => s
  | some d =>
    let es := r.entries
    let vals := es.flatMap (fun e => leBytes 4 e.v.collapse.toNat)
    let cols := es.flatMap (fun e => leBytes 4 e.col)
    let head := if j.form == 1 then es.flatMap (fun e => leBytes 4 e.row)
      else (List.range (d.size 1 + 1)).flatMap (fun i => leBytes 8 (es.takeWhile (fun e => e.row < i)).length)
    ((s.tensorWrite d.owner d.aux0 head).tensorWrite d.owner d.aux1 cols).tensorWrite d.owner d.base vals

/-- Whether a dispatch has nothing left to take, to commit or to find a counter for. -/
def State.allCommitted (s : State) (d : Dispatch) : Bool :=
  d.homeless.isEmpty && d.homelessBack.isEmpty && (s.countersOf d).all (fun p =>
    p.2.2.unformed.isEmpty && p.2.2.returned.isEmpty && p.2.2.taken.isEmpty && p.2.2.suspended.isEmpty
      && p.2.2.chunks.all (fun q => q.2.isEmpty))

/-- BINDERY_JOB_START (R33): the first waiting job whose dispatch has committed its last tile. The desk accepts a job with the first run
admitted to it, and a job that is not ready lets a later one pass (log entry 137). -/
def execBinderyJobStart (region : Nat) (s : State) : Out :=
  if region ≥ s.regions.length then .fault (.noSuchUnit region)
  else
    let g := s.region region
    let next := g.jobQueue.find? (fun h => match lookupK h s.jobs with
      | some j => !j.finished && (match j.dispatch.bind s.dispatch? with | some d => s.allCommitted d && !d.cancelling | none => false)
      | none => false)
    match next with
    | some h =>
      if !s.alive || g.isolated.isSome || g.jobNow.isSome then .next s
      else .next ({ s with jobs := updK h (fun j => { j with merging := true }) s.jobs }.updRegion region (fun q =>
        { q with jobNow := some h, jobQueue := q.jobQueue.filter (· != h) }))
    | none => .next s

/-- BINDERY_PASS_COMPLETE (R233 to R237): a pass over groups of up to 8 runs ends; a pass that leaves one run writes the result. -/
def execBinderyPassComplete (region : Nat) (s : State) : Out :=
  if region ≥ s.regions.length then .fault (.noSuchUnit region)
  else
    let g := s.region region
    match g.jobNow with
    | none => .next s
    | some h =>
      match lookupK h s.jobs with
      | none => .next s
      | some j =>
        if !s.alive || g.isolated.isSome then .next s
        else
          let groups := chunksOf 8 (j.runs.length + 1) j.runs
          let outs := groups.map mergeGroup
          let s1 := s.count 0 (sumNat (j.runs.map (fun r =>
            if r.inmem then lineBytes 0 (16 * r.entries.length) else 0)))
          match outs with
          | [] => .next s
          | [r] =>
            let s2 := { s1 with jobs := updK h (fun x => { x with runs := [], merging := false, finished := true, flags := x.flags ||| r.flags })
                                  s1.jobs }
            .next ((s2.writeResult j r (j.dispatch.getD 0)).updRegion region (fun q => { q with jobNow := none }))
          | _ =>
            let s2 := { s1 with jobs := updK h (fun x => { x with runs := outs }) s1.jobs }
            .next ((List.range outs.length).foldl (fun t i => t.placeRun h i) s2)

/-- Whether a run lies in a carrel of another region than its job's bindery: it arrives there through main memory (R232). -/
def Job.foreign (j : Job) (r : Run) : Bool :=
  match r.core with | some p => regionOf p.1 != j.region.getD 0 | none => false

/-- RUN_TO_BUFFER (R232, R236): a committed run moves from its carrel into the buffer when its job has room; one from another region's
carrel is written to main memory, and the bindery reads it there. -/
def execRunToBuffer (job run : Nat) (s : State) : Out :=
  match lookupK job s.jobs with
  | none => .next s
  | some j =>
    match j.runs[run]? with
    | none => .next s
    | some r =>
      if s.alive && j.foreign r then .next (s.spillRun job run)
      else if !s.alive || r.core.isNone || s.bufferUse (j.region.getD 0) + r.entries.length > binderyBuffer then .next s
      else .next (s.placeRun job run)

end Sys2Proof.Machine
end

