-- ==== Sys2Proof/Machine/HostIf.lean ====
section
/-! DEFINITION. The host interface: BAR0 (R513 to R516), doorbells (R521, R523), the BAR4 window (R517 to R519), and the event ring
(R524, R525, R565). -/
namespace Sys2Proof.Machine

/-! ## The PCIe function -/

/-- Capabilities of the PCIe function (R511). -/
inductive PcieCap where
  | msix | aer | powerManagement | functionLevelReset
  deriving DecidableEq, Repr

/-- The identity and capabilities of a PCIe function (R511). -/
structure PcieFunction where
  vendor : Nat
  device : Nat
  classCode : Nat
  revision : Nat
  maxPayload : Nat
  maxReadRequest : Nat
  tagBits : Nat
  caps : List PcieCap
  deriving DecidableEq, Repr

/-- The device's one function, by its part and stepping (R3, R511). -/
def Fuses.pcieFunction (f : Fuses) : PcieFunction :=
  { vendor := 0x1FC8, device := if f.part0961 then 0x9A61 else 0x9A81, classCode := 0x120000, revision := f.stepping, maxPayload := 512,
    maxReadRequest := 4096, tagBits := 10, caps := [.msix, .aer, .powerManagement, .functionLevelReset] }

/-! ## Enables -/

/-- The check of a ring's base (R522): bits [62:52] are 0, the base a multiple of 4 KiB. -/
def baseFault (a : W64) : Option St := if !addrLegal a then some .field else if a.toNat % 4096 != 0 then some .align else none

/-- Whether a logarithm of entries is legal (R520). -/
def logOk (n : Nat) : Bool := 4 ≤ n && n ≤ 16

/-- Ring 0 as its registers describe it. What an earlier use of ring 0 still owes is kept (R516). -/
def State.ring0 (s : State) : Ring :=
  let z := s.hif.aqSize.toNat
  let old := lookupK 0 s.rings
  { sqBase := s.hif.asqBase, cqBase := s.hif.acqBase, sqLog := bits z 4 0, cqLog := bits z 12 8, irqCount := bits z 23 16, sqHead := 0,
    sqTail := 0, cqTail := 0, cqUsed := 0, cqPhase := true, reserved := (old.map Ring.reserved).getD 0,
    unfinal := (old.map Ring.unfinal).getD 0, sinceIrq := 0, error := false, waiting := old.bind Ring.waiting, busy := old.bind Ring.busy }

/-- AQ_EN taking effect (R515); in recovery the bases are bus addresses (R625). -/
def State.applyAq (s : State) : State :=
  let z := s.hif.aqSize.toNat
  let bus := s.mode == .recovery && !(isBus s.hif.asqBase && isBus s.hif.acqBase)
  let bad := match baseFault s.hif.asqBase, baseFault s.hif.acqBase with
    | some e, _ => some e
    | none, some e => some e
    | none, none => if bus then some .field else if logOk (bits z 4 0) && logOk (bits z 12 8) then none else some .field
  match bad with
  | some e => { s with hif := { s.hif with aqEn := false, lastSt := e.code } }
  | none => { s with hif := { s.hif with running := true }, rings := insertK 0 s.ring0 s.rings }

/-- EVQ_EN taking effect (R515): the ring starts at entry 0 with phase 1. -/
def State.applyEvq (s : State) : State :=
  let bad := match baseFault s.hif.evqBase with
    | some e => some e
    | none => if logOk (bits s.hif.evqSize.toNat 4 0) then none else some .field
  match bad with
  | some e => { s with hif := { s.hif with evqEn := false, lastSt := e.code } }
  | none => { s with hif := { s.hif with evqOn := true }, evq := { s.evq with tail := 0, used := 0, phase := true } }

/-- Whether the PCIe function answers accesses (R44, R609, R653, R711). -/
def State.hostAlive (s : State) : Bool :=
  s.pins.linkUp && (match s.mode with | .off | .railFault | .noReference => false | _ => true)

/-- AQ_ENABLE (R515). -/
def execAqEnable (s : State) : Out :=
  if !s.hostAlive || s.hif.aqEn then .next s
  else
    let s1 := { s.count 2 8 with hif := { s.hif with aqEn := true } }
    .next (if s.hif.ready then s1.applyAq else s1)

/-- AQ_DISABLE (R516, R523, R574). -/
def execAqDisable (s : State) : Out :=
  if !s.hostAlive then .next s
  else
    let s1 := { s.count 2 8 with hif := { s.hif with aqEn := false, running := false } }.updRing 0 (fun g => { g with error := false })
    let inHand := match lookupK 0 s.rings with | some g => g.busy.isSome | none => false
    .next (if inHand then s1 else s1.rollback 0)

/-- EVQ_ENABLE (R515). -/
def execEvqEnable (s : State) : Out :=
  if !s.hostAlive || s.hif.evqEn then .next s
  else
    let s1 := { s.count 2 8 with hif := { s.hif with evqEn := true } }
    .next (if s.hif.ready then s1.applyEvq else s1)

/-- EVQ_DISABLE (R516). -/
def execEvqDisable (s : State) : Out :=
  if !s.hostAlive then .next s else .next { s.count 2 8 with hif := { s.hif with evqEn := false, evqOn := false } }

/-- EVQ_HEAD_WRITE (R513, R565): event entries up to the index are released, as far as they have been written. -/
def execEvqHeadWrite (value : W64) (s : State) : Out :=
  if !s.hostAlive then .next s
  else
    let h := bits value.toNat 15 0
    let n := s.evqEntries
    let freed := if s.hif.evqOn then Nat.min s.evq.used ((h + n - (s.evq.tail + n - s.evq.used) % n) % n) else 0
    .next { s.count 2 8 with hif := { s.hif with evqHead := BitVec.ofNat 64 h }, evq := { s.evq with used := s.evq.used - freed } }

/-- The MSI-X table's bytes. -/
def msixBytes : Nat := 65 * 16

/-- A vector that is pending and no longer masked is raised (R512). -/
def State.unmask (s : State) (v : Nat) : State :=
  if s.pba.contains v && !bit (s.msix.readLe (16 * v + 12) 4) 0 then { s with pba := s.pba.filter (· != v) }.raise v else s

/-- REGISTER_WRITE (R513, R514): an aligned 8-byte write to a BAR0 register without behaviour of its own. -/
def execRegisterWrite (offset : Nat) (value : W64) (s0 : State) : Out :=
  let s := if s0.hostAlive then s0.count 2 8 else s0
  let v := value.toNat
  let h := s.hif
  if !s.hostAlive || offset % 8 != 0 then .next s
  else if 0x80000 ≤ offset && offset < 0x80000 + msixBytes then
    .next ({ s with msix := s.msix.writeLe (offset - 0x80000) 8 v }.unmask ((offset - 0x80000) / 16))
  else if offset == 0x020 then .next (if h.aqEn then s else { s with hif := { h with asqBase := value } })
  else if offset == 0x028 then .next (if h.aqEn then s else { s with hif := { h with acqBase := value } })
  else if offset == 0x030 then
    .next (if h.aqEn then s else { s with hif := { h with aqSize := BitVec.ofNat 64 (v &&& 0xFF1F1F) } })
  else if offset == 0x040 then .next (if h.evqEn then s else { s with hif := { h with evqBase := value } })
  else if offset == 0x048 then .next (if h.evqEn then s else { s with hif := { h with evqSize := BitVec.ofNat 64 (v &&& 0x1F) } })
  else if offset == 0x060 then .next { s with hif := { h with winBase := value } }
  else .next s

/-! ## Doorbells -/

/-- A ring put in ERROR (R523): one event says so. -/
def State.ringError (s : State) (n : Nat) : State :=
  match lookupK n s.rings with
  | some g => if g.error then s else (s.updRing n (fun q => { q with error := true })).plainEvent 0x0004 n
  | none => s

/-- A doorbell write (R521, R523). A doorbell of a ring that does not exist changes nothing. -/
def State.doorbell (s : State) (n : Nat) (value : W64) : State :=
  let v := value.toNat
  match lookupK n s.rings with
  | none => s
  | some g =>
    let head := bits v 31 16
    let tail := bits v 15 0
    let old := (g.cqTail + g.cqEntries - g.cqUsed) % g.cqEntries
    let freed := (head + g.cqEntries - old) % g.cqEntries
    let badCq := bit v 33 && (head ≥ g.cqEntries || freed > g.cqUsed)
    let badSq := bit v 32 && tail ≥ g.sqEntries
    if badCq || badSq then s.ringError n
    else s.updRing n (fun q => { q with cqUsed := if bit v 33 then q.cqUsed - freed else q.cqUsed,
                                        sqTail := if bit v 32 then tail else q.sqTail })

/-- Writes that the host makes in its own memory. -/
def State.hostWrites (s : State) (l : List (Nat × List Byte)) : State :=
  { s with hostMem := l.foldl (fun m p => m.writeBytes p.1 p.2) s.hostMem }

/-- DOORBELL_SQ_TAIL (R521): the host has written its packets and blocks, then the doorbell. -/
def execDoorbellSqTail (ring : Nat) (value : W64) (host : List (Nat × List Byte)) (s : State) : Out :=
  if ring ≥ 64 then .fault (.noSuchUnit ring)
  else
    let s1 := s.hostWrites host
    if !s.hostAlive || !bit value.toNat 32 then .next s1 else .next ((s1.count 2 8).doorbell ring value)

/-- DOORBELL_CQ_HEAD (R521). -/
def execDoorbellCqHead (ring : Nat) (value : W64) (s : State) : Out :=
  if ring ≥ 64 then .fault (.noSuchUnit ring)
  else if !s.hostAlive || !bit value.toNat 33 then .next s else .next ((s.count 2 8).doorbell ring value)

/-! ## The window -/

/-- The device virtual address of a BAR4 offset (R513, R517). -/
def State.window (s : State) (offset : Nat) : Nat := s.hif.winBase.toNat / 2 ^ 36 * 2 ^ 36 % 2 ^ 52 + offset

/-- Whether every page of a run of addresses is mapped to local memory. -/
def State.localRun (s : State) (a n : Nat) : Bool :=
  (pagePieces a n).all (fun p => match s.page? p.1 with | some g => !g.host | none => false)

/-- BAR4_READ (R517, R518): the data that the host reads. -/
def execBar4Read (offset len : Nat) (s : State) : Out :=
  let a := s.window offset
  if !s.hostAlive then .next s
  else if s.localRun a len && s.checkRead a len == .ok then .next { (s.touch a len).count 3 len with lastRead := s.bytesAt a len }
  else .next { (s.plainEvent 0x0005 (low 52 a)).count 3 len with lastRead := List.replicate len 0xFF#8 }

/-- BAR4_WRITE (R517, R518). -/
def execBar4Write (offset : Nat) (bytes : List Byte) (s : State) : Out :=
  let a := s.window offset
  if !s.hostAlive then .next s
  else
    let poisoned := match s.checkRead a bytes.length with | .fault .poison _ => true | _ => false
    let s1 := s.count 2 bytes.length
    if s.localRun a bytes.length && !poisoned && s.canWrite a bytes.length then .next (s1.writeVA a bytes)
    else .next (s1.plainEvent 0x0005 (low 52 a + at_ 52 1))

/-! ## Events -/

/-- Events held by their units go into the queue as it empties (R565). -/
def State.refillEvents (s : State) : State :=
  let n := eventQueueSize - s.evq.queue.length
  { s with evq := { s.evq with queue := s.evq.queue ++ s.evq.held.take n, held := s.evq.held.drop n } }

/-- Whether events are written: in a fatal stop too (R653), not at 115 °C, without the reference or in reset (R44, R695, R711). -/
def State.eventsFlow (s : State) : Bool := match s.mode with | .running | .recovery | .fatal _ => s.hif.ready | _ => false

/-- EVENT_WRITE (R565): the next event is written when the event ring is on and has room; a count of merged events goes first. -/
def execEventWrite (s : State) : Out :=
  let free := s.evqEntries - s.evq.used
  if !s.hif.evqOn || !s.eventsFlow then .next s
  else if s.evq.merged > 0 then
    if free == 0 then .next s
    else .next (({ s with evq := { s.evq with merged := 0 } }).writeEvent ⟨0x0006, .ok, 0, 0xFF, 0, low 32 s.evq.merged, none⟩)
  else match s.evq.queue with
  | [] => .next s
  | e :: r =>
    if free < 1 + b2n e.cont.isSome then .next s
    else .next (({ s with evq := { s.evq with queue := r } }.refillEvents).writeEvent e)

end Sys2Proof.Machine
end

