-- ==== Sys2Proof/Machine/Streams.lean ====
section
/-! DEFINITION. Streams that end or start again: what instructions and arrival additions meet when a socket cannot be reached (R590, R604 to
R606), and the copies of owner-table blocks that cross the fabric (R296). -/
namespace Sys2Proof.Machine

/-- Whether an instruction has an unacknowledged packet to a socket, or a read that the socket has not answered. -/
def State.waitsOn (s : State) (f : Inflight) (sock : Nat) : Bool :=
  f.asked.any (fun a => a.2.sock == sock) || f.acks.any (fun a => a.1 == sock && (s.stream sock).unacked.any (fun p => p.seq == a.2))

/-! ## Copies of a switch -/

/-- The location of a block in a generation's entries: socket and address. -/
def blockAt (es : List (Nat × Nat)) (b : Nat) : Nat × Nat := let e := lookupD 0 b es; (bits e 59 48, bits e 30 0 * 2097152)

/-- Bytes put at a location of the new generation (R296, step 3): here, or by writes that the switch waits for. A copy that meets an address
which the tables do not map for writing is dropped (log entry 12). -/
def State.copyPut (s : State) (h sock a : Nat) (bs : List Byte) : State :=
  if s.self? == some sock then
    if s.canWrite a bs.length then s.writeVA a bs else s
  else if (s.remoteFault sock).isSome then s
  else
    let s1 := s.postWrite sock a bs
    { s1 with owners := updK h (fun o => { o with acks := insertK sock ((s1.stream sock).nextSeq - 1) o.acks }) s1.owners }

/-- Whether a block of local memory has a page that is not resident: its copy waits for HOST_RESIDENT (R296, R494). -/
def State.blockAway (s : State) (a : Nat) : Bool :=
  (List.range 32).any (fun i => match s.page? (a + 65536 * i) with | some p => p.host && !p.resident | none => false)

/-- A block that lies here copied line by line; a line that cannot be read is left out (log entry 12). -/
def State.copyBlock (s : State) (h src sock dst : Nat) : State :=
  (List.range 4096).foldl (fun t i =>
    let a := src + 512 * i
    if t.checkRead a 512 == .ok then t.copyPut h sock (dst + 512 * i) (t.bytesAt a 512)
    else (List.range 4).foldl (fun u j =>
      if u.checkRead (a + 128 * j) 128 == .ok then u.copyPut h sock (dst + 512 * i + 128 * j) (u.bytesAt (a + 128 * j) 128) else u) t) s

/-- The copies of a switch carried on (R296, step 3): blocks that lie here are copied whole, those of another socket 512 bytes at a time. -/
def State.moveBlocks (h : Nat) : Nat → State → State
  | 0, s => s
  | fuel + 1, s =>
    match lookupK h s.owners with
    | none => s
    | some o =>
      match o.moves with
      | [] => s
      | b :: r =>
        let next := fun (t : State) => State.moveBlocks h fuel
          { t with owners := updK h (fun q => { q with moves := r, moved := 0, asked := none }) t.owners }
        let src := blockAt o.active b
        let dst := blockAt o.standby b
        if (s.self? == some src.1 && s.blockAway src.2) || (s.self? == some dst.1 && s.blockAway dst.2) then s
        else if s.self? == some src.1 then next ((s.touch src.2 2097152).copyBlock h src.2 dst.1 dst.2)
        else if (s.remoteFault src.1).isSome || o.moved ≥ 2097152 then next s
        else
          let s1 := { s with nextReq := s.nextReq + 1, owners := updK h (fun q => { q with asked := some s.nextReq }) s.owners }
          s1.post src.1 (.read s.nextReq (src.2 + o.moved) 512)

/-- The copies of a switch carried on from where they stand. -/
def State.goOnSwitch (s : State) (h : Nat) : State :=
  match lookupK h s.owners with
  | some o => State.moveBlocks h (o.moves.length + 1) s
  | none => s

/-- Every switch whose copy waits for a page carried on. -/
def State.switchesOnward (s : State) : State :=
  (s.owners.filter (fun p => p.2.asked.isNone && !p.2.moves.isEmpty)).foldl (fun t p => t.goOnSwitch p.1) s

/-- The data of a read of a switch's copy (R296): it goes to the block's new place, and the copy goes on. -/
def State.moveData (s : State) (req : Nat) (bs : List Byte) : State :=
  match s.owners.find? (fun p => p.2.asked == some req) with
  | none => s
  | some (h, o) =>
    match o.moves with
    | [] => s
    | b :: _ =>
      let dst := blockAt o.standby b
      let s1 := s.copyPut h dst.1 (dst.2 + o.moved) bs
      { s1 with owners := updK h (fun q => { q with moved := q.moved + 512, asked := none }) s1.owners }.goOnSwitch h

/-- A block of a switch that cannot be read is passed over. -/
def State.skipBlock (s : State) (h : Nat) : State :=
  { s with owners := updK h (fun q => { q with moves := q.moves.drop 1, moved := 0, asked := none }) s.owners }.goOnSwitch h

/-- The switches that wait for data of a socket. -/
def State.switchesOn (s : State) (sock : Nat) : List Nat :=
  s.owners.filterMap (fun p => match p.2.moves with
    | b :: _ => if p.2.asked.isSome && (blockAt p.2.active b).1 == sock then some p.1 else none
    | [] => none)

/-! ## A socket that cannot be reached -/

/-- A socket that is no longer reached (R604, R606): every instruction that waits for it faults, and every arrival addition that it has not
acknowledged is reported. -/
def State.cutSocket (s : State) (sock : Nat) : State :=
  let s1 := s.cores.zipIdx.foldl (fun t p =>
    (p.1.inflight.filter (fun f => s.waitsOn f sock)).foldl (fun u f => u.faultIn p.2 f.idx .noowner 2 0) t) s
  let lost := (s.stream sock).arrivals.filter (fun a => (s.stream sock).unacked.any (fun p => p.seq == a.1))
  let s2 := lost.foldl (fun t a => t.arrivalLost a.2.1 a.2.2.1 a.2.2.2) s1
  let s3 : State := { s2 with dispatches := s2.dispatches.map (fun (d : Nat × Dispatch) => (d.1, { d.2 with
    readsOut := d.2.readsOut.filter (fun x => x.2 != sock), acksOut := d.2.acksOut.filter (fun x => x.1 != sock) })) }
  (s.switchesOn sock).foldl State.skipBlock (s3.updStream sock (fun q => { q with arrivals := [] }))

/-- The stream with a socket started again in both directions (R590); its unacknowledged packets are dropped, and
its writes held here. -/
def State.restartStream (s : State) (sock : Nat) : State :=
  let s1 := (s.cutSocket sock).updStream sock (fun _ => ⟨0, [], 0, false, []⟩)
  { s1 with ownerHolds := s1.ownerHolds.filter (fun h => h.src != sock) }

end Sys2Proof.Machine
end

