-- ==== Sys2Proof/Machine/Rings.lean ====
section
/-! DEFINITION. Polor commands of configuration and synchronisation: rings, settings, events, routes, tallies and records (R530, R543, R544,
R563, R582 to R584, R598, R599, R655). -/
namespace Sys2Proof.Machine

/-! ## Blocks of memory that a packet names -/

/-- Why a block at an address cannot be read (R522, R494, R625): its parameter word is the detail of a bad address. -/
def State.blockFault (s : State) (a : W64) (n word : Nat) : Option Stat :=
  if !addrLegal a || (s.mode == .recovery && !isBus a) then some ⟨.field, word⟩
  else if a.toNat % 64 != 0 then some ⟨.align, word⟩
  else match s.sysCheckRead a n with
    | .ok => none
    | .fault st _ => some ⟨st, 0⟩
    | .stop _ _ => some ⟨.unmapped, 0⟩

/-- A block that a parameter word names, read for a command, or the command refused. -/
def State.withBlock (s : State) (src : Src) (p : Packet) (word n : Nat) (k : State → List Byte → State) : State :=
  let a := pktP p word
  match s.blockFault a n word with
  | some e => s.refuse src p e.st e.detail
  | none => k (s.sysTouch a n) (s.sysBytes a n)

/-- Why a command cannot write at an address it names. -/
def State.destFault (s : State) (a : W64) (n word : Nat) : Option Stat :=
  if !addrLegal a || (s.mode == .recovery && !isBus a) then some ⟨.field, word⟩
  else if a.toNat % 64 != 0 then some ⟨.align, word⟩
  else match s.sysCheckWrite a n with
    | .ok => none
    | .fault st _ => some ⟨st, 0⟩
    | .stop c _ => if c == 2 then none else some ⟨.unmapped, 0⟩

/-- Entries of a number of bytes each. -/
def entriesOf (size n : Nat) (bs : List Byte) : List Nat := (chunksOf size n bs).map ofLe

/-! ## NOP, IDENTIFY -/

/-- NOP. -/
def execNop (src : Src) (s : State) : Out := s.command src 0x0100 (fun _ => true) (fun t p => t.done src p)

/-- RESULT1 of IDENTIFY: firmware version, 0 in recovery (R625), image, the part's regions, and the ports whose engine is enabled. -/
def State.identity (s : State) : Nat :=
  (if s.mode == .recovery || s.mode == .recovering then 0 else low 16 s.fw.version) + at_ 16 (low 1 s.fw.image)
    + at_ 32 (2 ^ s.regions.length - 1)
    + at_ 48 (sumNat (s.ports.zipIdx.map (fun q => at_ q.2 (b2n (q.1.state != 3)))))

/-- IDENTIFY. -/
def execIdentify (src : Src) (s : State) : Out :=
  s.command src 0x0101 (fun _ => true) (fun t p => t.done src p t.hifId t.identity)

/-! ## Rings -/

/-- The refusal of a ring's base, with its parameter word. -/
def baseStat (a : W64) (word : Nat) : Option Stat := (baseFault a).map (fun st => ⟨st, word⟩)

/-- A ring as CREATE_RING makes it. -/
def Ring.make (sq cq : W64) (sqLog cqLog irq : Nat) : Ring :=
  ⟨sq, cq, sqLog, cqLog, irq, 0, 0, 0, 0, true, 0, 0, 0, false, none, none⟩

/-- The checks and the effect of CREATE_RING (R543). -/
def State.createRing (s : State) (src : Src) (p : Packet) : State :=
  let n := (pktP p 0).toNat
  let z := (pktP p 3).toNat
  let sqLog := bits z 4 0
  let cqLog := bits z 12 8
  if n == 0 then s.refuse src p .field 0
  else if (lookupK n s.rings).isSome then s.refuse src p .busy
  else match baseStat (pktP p 1) 1, baseStat (pktP p 2) 2 with
  | some e, _ => s.refuse src p e.st e.detail
  | none, some e => s.refuse src p e.st e.detail
  | none, none =>
    if !(logOk sqLog && logOk cqLog) then s.refuse src p .field 3
    else { s with rings := insertK n (.make (pktP p 1) (pktP p 2) sqLog cqLog (bits z 23 16)) s.rings }.done src p

/-- CREATE_RING. -/
def execCreateRing (src : Src) (s : State) : Out := s.command src 0x0102 (fun _ => true) (fun t p => t.createRing src p)

/-- A ring number that no ring has: what is owed to a destroyed ring in ERROR is written nowhere. -/
def noRing : Nat := 64

/-- What would reply to a destroyed ring loses it (R523). -/
def State.orphan (s : State) (n : Nat) : State :=
  let to_ := fun r => if r == n then noRing else r
  { s with
    dispatches := s.dispatches.map (fun d => (d.1, { d.2 with req := { d.2.req with ring := to_ d.2.req.ring } }))
    copies := s.copies.map (fun o => { o with ring := to_ o.ring })
    archive := { s.archive with ops := s.archive.ops.map (fun o => match o with
      | .settings r p v => .settings (to_ r) p v
      | .image r p a b => .image (to_ r) p a b) }
    ledger := { s.ledger with queue := s.ledger.queue.map (fun q => { q with ring := to_ q.ring }) } }

/-- A ring taken away (R543), its transaction rolled back (R574). A commit in hand keeps what it has applied. -/
def State.dropRing (s : State) (n : Nat) : State :=
  let inHand := match lookupK n s.rings with | some g => g.busy.isSome | none => false
  let s1 := if inHand && s.txn.any (fun t => t.ring == n) then { s with txn := none } else s.rollback n
  ({ s1 with rings := eraseK n s1.rings }).orphan n

/-- The checks and the effect of DESTROY_RING (R543). -/
def State.destroyRing (s : State) (src : Src) (p : Packet) : State :=
  let n := (pktP p 0).toNat
  match lookupK n s.rings with
  | none => s.refuse src p .handle
  | some g =>
    if n == 0 then s.refuse src p .handle
    else if !g.error && (g.sqHead != g.sqTail || g.unfinal != 0) then s.refuse src p .busy
    else (s.dropRing n).done src p

/-- DESTROY_RING. -/
def execDestroyRing (src : Src) (s : State) : Out := s.command src 0x0103 (fun _ => true) (fun t p => t.destroyRing src p)

/-! ## Staging -/

/-- Whether a packet's ring holds the open transaction. -/
def State.inTxn (s : State) (src : Src) : Bool := s.txn.any (fun t => src == .ring t.ring)

/-- Whether the open transaction has room for a command and its bytes (R569). -/
def State.txnRoom (s : State) (n : Nat) : Bool :=
  match s.txn with
  | some t => t.staged.length < 4096 && t.bytes + n ≤ 1048576
  | none => true

/-- A change of a number of bytes added to the open transaction. -/
def Txn.add (t : Txn) (g : Staged) (n : Nat) : Txn := { t with staged := t.staged ++ [g], bytes := t.bytes + n }

/-- A checked change staged in the ring's transaction (R569), or applied at once. -/
def State.stageOr (s : State) (src : Src) (p : Packet) (g : Staged) (n : Nat) (apply : State → State) : State :=
  if s.inTxn src then
    if s.txnRoom n then ({ s with txn := s.txn.map (fun t => t.add g n) } : State).done src p
    else s.refuse src p .nofit
  else (apply s).done src p

/-! ## Settings and events -/

/-- A setting by number (R544). -/
def Settings.get (v : Settings) : Nat → Option Nat
  | 1 => some v.rerunStep | 2 => some v.costWd | 3 => some v.costWs | 4 => some v.costFixed | 5 => some v.scrubRate
  | 6 => some v.powerLimit | 7 => some v.eventMask | _ => none

/-- A setting changed. -/
def Settings.set (v : Settings) (no x : Nat) : Settings :=
  match no with
  | 1 => { v with rerunStep := x } | 2 => { v with costWd := x } | 3 => { v with costWs := x } | 4 => { v with costFixed := x }
  | 5 => { v with scrubRate := x } | 6 => { v with powerLimit := x } | 7 => { v with eventMask := x } | _ => v

/-- The range of a setting (R544). -/
def Fuses.settingRange (f : Fuses) : Nat → Nat × Nat
  | 1 => (1, 10) | 2 => (1, 255) | 3 => (1, 255) | 4 => (0, 1023) | 5 => (0, 102400) | 6 => (400, f.maxPower) | _ => (0, 7)

/-- A live setting changed. -/
def State.setSetting (s : State) (no x : Nat) : State := { s with settings := s.settings.set no x }

/-- SET_SETTING (R544). -/
def execSetSetting (src : Src) (s : State) : Out :=
  s.command src 0x0104 (fun _ => true) (fun t p =>
    let no := (pktP p 0).toNat
    let v := (pktP p 1).toNat
    let r := t.fuses.settingRange no
    if (t.settings.get no).isNone then t.refuse src p .handle
    else if v < r.1 || v > r.2 then t.refuse src p .field 1
    else t.stageOr src p (.setting no v) 8 (fun u => u.setSetting no v))

/-- The value that a transaction stages for a setting, the last one. -/
def Txn.setting (t : Txn) (no : Nat) : Option Nat :=
  t.staged.reverse.findSome? (fun g => match g with
    | .setting n v => if n == no then some v else none
    | .events m => if no == 7 then some m else none
    | _ => none)

/-- GET_SETTING (R544, R570). -/
def execGetSetting (src : Src) (s : State) : Out :=
  s.command src 0x0105 (fun _ => true) (fun t p =>
    let no := (pktP p 0).toNat
    match t.settings.get no with
    | none => t.refuse src p .handle
    | some live =>
      let staged := if t.inTxn src then t.txn.bind (fun x => x.setting no) else none
      t.done src p (staged.getD live))

/-- SET_EVENTS (R566, R655). -/
def execSetEvents (src : Src) (s : State) : Out :=
  s.command src 0x0120 (fun _ => true) (fun t p =>
    let m := (pktP p 0).toNat
    t.stageOr src p (.events m) 8 (fun u => u.setSetting 7 m))

/-! ## Routes -/

/-- Route entries placed in the table. -/
def placeEntries (first : Nat) (es : List Nat) (l : List (Nat × Nat)) : List (Nat × Nat) :=
  es.zipIdx.foldl (fun t p => if p.1 == 0 then eraseK (first + p.2) t else insertK (first + p.2) p.1 t) l

/-- The entries with ROUTE.SELF. -/
def selves (l : List (Nat × Nat)) : List Nat := (l.filter (fun p => bit p.2 62)).map Prod.fst

/-- The refusal of route entries (R583). -/
def State.routeFault (s : State) (first : Nat) (es : List Nat) : Option Stat :=
  let new := placeEntries first es s.routes
  let lacks := fun (e : Nat) => bits e 59 56 ≥ s.ports.length || (bit e 60 && bits e 55 52 ≥ s.ports.length)
  firstFail [
    (es.any (fun e => bits e 41 0 != 0), .field, 2),
    (es.any lacks, .denied, 0),
    ((selves new).length > 1, .field, 2),
    (selves new != selves s.routes && !s.dispatches.isEmpty, .busy, 0)]

/-- The state with the routes that its own ring's transaction stages (R569). -/
def State.stagedRoutes (s : State) (src : Src) : State :=
  match s.txn with
  | some t => if s.inTxn src then
      { s with routes := t.staged.foldl (fun l g => match g with | .routes f es => placeEntries f es l | _ => l) s.routes } else s
  | none => s

/-- Whether a change of an entry starts its stream again (R590). -/
def routeRestarts (old new : Nat) : Bool :=
  routeEpoch old != routeEpoch new || bit old 63 != bit new 63 || bit old 61 != bit new 61

/-- Route entries written (R582, R590, R604): streams whose entry changes in epoch, VALID or DEAD start again, and a rewritten entry is no longer
marked unreachable. -/
def State.applyRoutes (s : State) (first : Nat) (es : List Nat) : State :=
  es.zipIdx.foldl (fun t p =>
    let sock := first + p.2
    let u := if routeRestarts (s.routeOf sock) p.1 then t.restartStream sock else t
    if (u.stream sock).unreachable then u.updStream sock (fun q => { q with unreachable := false }) else u)
    { s with routes := placeEntries first es s.routes }

/-- ROUTE_WRITE (R583). -/
def execRouteWrite (src : Src) (s : State) : Out :=
  s.command src 0x0108 (fun _ => true) (fun t p =>
    let first := (pktP p 0).toNat
    let n := (pktP p 1).toNat
    if first + n > 4096 then t.refuse src p .bounds
    else t.withBlock src p 2 (8 * n) (fun u bs =>
      let es := entriesOf 8 n bs
      match (u.stagedRoutes src).routeFault first es with
      | some e => u.refuse src p e.st e.detail
      | none => u.stageOr src p (.routes first es) (8 * n) (fun v => v.applyRoutes first es)))

/-- Whether a reserved bit of a send-route entry is set (R598). -/
def srReserved (e : Nat) : Bool :=
  bits e 253 252 != 0 || bits e 227 224 != 0 || bits e 199 192 != 0 || bits e 151 116 != 0 || bits e 63 0 != 0

/-- Whether an accepted dispatch uses the previous version of the send routes (R599). -/
def State.sendRoutesBusy (s : State) : Bool := s.dispatches.any (fun d => d.2.routeVer != s.sendVer)

/-- A new version of the send routes (R599). -/
def State.applySendRoutes (s : State) (ws : List (Nat × List Nat)) : State :=
  { s with sendVer := s.sendVer + 1, sendPrev := s.sendRoutes
           sendRoutes := ws.foldl (fun l w => placeEntries w.1 w.2 l) s.sendRoutes }

/-- SENDROUTE_WRITE (R598, R599). -/
def execSendrouteWrite (src : Src) (s : State) : Out :=
  s.command src 0x0109 (fun _ => true) (fun t p =>
    let first := (pktP p 0).toNat
    let n := (pktP p 1).toNat
    if first + n > 256 then t.refuse src p .bounds
    else t.withBlock src p 2 (32 * n) (fun u bs =>
      let es := entriesOf 32 n bs
      if es.any srReserved then u.refuse src p .field 2
      else if u.sendRoutesBusy then u.refuse src p .busy
      else u.stageOr src p (.sendRoutes first es) (32 * n) (fun v => v.applySendRoutes [(first, es)])))

/-! ## Tallies -/

/-- TALLY_READ. -/
def execTallyRead (src : Src) (s : State) : Out :=
  s.command src 0x0500 (fun _ => true) (fun t p => t.done src p (t.tally (pktP p 0).toNat).toNat)

/-- TALLY_ADD (R563). -/
def execTallyAdd (src : Src) (s : State) : Out :=
  s.command src 0x0501 (fun _ => true) (fun t p =>
    let u := t.addTally (pktP p 0).toNat (pktP p 1)
    u.done src p (u.tally (pktP p 0).toNat).toNat)

/-- TALLY_SET (R563). -/
def execTallySet (src : Src) (s : State) : Out :=
  s.command src 0x0502 (fun _ => true) (fun t p => (t.setTally (pktP p 0).toNat (pktP p 1)).done src p)

/-- TALLY_WAIT (R563): satisfied at once, or its ring waits. -/
def execTallyWait (src : Src) (s : State) : Out :=
  s.command src 0x0503 (fun _ => true) (fun t p =>
    let n := (pktP p 0).toNat
    if t.tallyMet n (pktP p 1) then t.done src p (t.tally n).toNat
    else match src with
    | .ring r => t.updRing r (fun g => { g with waiting := some (.tally (pktTag p) n (pktP p 1) (pktIrq p)) })
    | _ => t)

/-- TALLY_WAIT_SATISFIED (R563): the condition of a waiting TALLY_WAIT holds. -/
def execTallyWaitSatisfied (ring : Nat) (s : State) : Out :=
  if ring ≥ 64 then .fault (.noSuchUnit ring)
  else match (lookupK ring s.rings).bind Ring.waiting with
  | some (.tally tag no v irq) =>
    if s.running && s.tallyMet no v then
      .next ((s.updRing ring (fun g => { g with waiting := none })).replyRing ring 0x0503 tag irq { r0 := (s.tally no).toNat })
    else .next s
  | _ => .next s

/-! ## Records -/

/-- Lines of a channel that are poisoned (R466). -/
def State.channelPoison (s : State) (ch : Nat) : Nat := (s.poison.filter (fun l => lookupK l s.poisonAt == some ch)).length

/-- A repair word as READ_RECORD returns it (R144, R145). -/
def State.repairWord (s : State) (c : Nat) : Nat := (s.core c).repair.word

/-- READ_RECORD: a repair word (R145), a desk counter record (R418) or a channel record (R466). -/
def State.readRecord (s : State) (src : Src) (p : Packet) : State :=
  let kind := (pktP p 0).toNat
  let i := (pktP p 1).toNat
  if kind > 2 then s.refuse src p .field 0
  else if kind == 0 then
    if i ≥ s.cores.length then s.refuse src p .handle else s.done src p (s.repairWord i)
  else if kind == 2 then
    match s.channels[i]? with
    | none => s.refuse src p .handle
    | some c => let w := c.word i (s.channelPoison i); s.done src p (w % 2 ^ 64) (w / 2 ^ 64)
  else if i / 64 ≥ s.regions.length then s.refuse src p .handle
  else match s.destFault (pktP p 2) 32 2 with
  | some e => s.refuse src p e.st e.detail
  | none =>
    let w := match s.counter? (i / 64) (i % 64) with | some k => k.word | none => 0
    (s.sysWrite (pktP p 2) (leBytes 32 w)).done src p

/-- READ_RECORD. -/
def execReadRecord (src : Src) (s : State) : Out := s.command src 0x0600 (fun _ => true) (fun t p => t.readRecord src p)

end Sys2Proof.Machine
end

