-- ==== Sys2Proof/Machine/Tables.lean ====
section
/-! DEFINITION. Polor commands of tensors, tables and programs: descriptors (R246 to R249, R259, R298), owner tables (R290 to R297, R548,
R549), polynomial tables (R310 to R312), merge jobs (R232, R237, R550), program images (R398 to R400, R551). -/
namespace Sys2Proof.Machine

/-- Whether a handle that Hokuec picks for a new object can be one: 32 bits, not 0, not live. -/
def newHandle {α : Type} (h : Nat) (l : List (Nat × α)) : Bool := 0 < h && h < 2 ^ 32 && (lookupK h l).isNone

/-! ## Descriptors -/

/-- The handles that an accepted dispatch names (R247, R553, R556). -/
def Request.names (q : Request) (h : Nat) : Bool :=
  q.slots.contains h || q.costTensor == h
    || q.contract.any (fun c => c.a == h || c.b == h || c.c == h || c.pre == h || c.mask == h || c.vecs.contains h || c.sides.contains h)

/-- CREATE_TENSOR (R248, R249, R259, R298): the image is validated, and a handle that Hokuec picks names it. -/
def execCreateTensor (src : Src) (handle : Nat) (s : State) : Out :=
  if !newHandle handle s.tensors then .next s
  else s.command src 0x0300 (fun _ => true) (fun t p =>
    let fore := (pktP p 1).toNat == 1
    t.withBlock src p 0 (if fore then 32 else 128) (fun u bs =>
      let w := ofLe bs
      let d0 := if fore then Desc.ofForerunner w else Desc.ofImage w
      let at_ := if d0.empty || d0.owner != 0 then 0 else ((u.allocAt d0.base).map Alloc.handle).getD 0
      let d := { d0 with handle := handle, alloc := at_ }
      match u.validate w d with
      | some e => u.refuse src p e.st e.detail
      | none => ({ u with tensors := insertK handle d u.tensors } : State).done src p handle))

/-- DESTROY_TENSOR (R247). -/
def execDestroyTensor (src : Src) (s : State) : Out :=
  s.command src 0x0301 (fun _ => true) (fun t p =>
    let h := (pktP p 0).toNat
    if (lookupK h t.tensors).isNone then t.refuse src p .handle
    else if t.dispatches.any (fun d => d.2.req.names h) then t.refuse src p .inuse
    else ({ t with tensors := eraseK h t.tensors } : State).done src p)

/-! ## Owner tables -/

/-- Whether a run of virtual addresses lies in no allocation and no owner table's window (R290). -/
def State.rangeFree (s : State) (base n : Nat) : Bool :=
  s.allocs.all (fun a => base + n ≤ a.2.base || a.2.base + a.2.pages * 65536 ≤ base)
    && s.owners.all (fun o => base + n ≤ o.2.vbase || o.2.vbase + o.2.count * 2097152 ≤ base)

/-- CREATE_OWNER (R290). No local memory backs the window: one that passes the end of the address space, or meets an allocation or another
window, is refused (log entry 186). -/
def execCreateOwner (src : Src) (handle : Nat) (s : State) : Out :=
  if !newHandle handle s.owners then .next s
  else s.command src 0x0302 (fun _ => true) (fun t p =>
    let base := (pktP p 0).toNat
    let n := (pktP p 1).toNat
    if base % 2097152 != 0 then t.refuse src p .align 0
    else if n == 0 || n > 2 ^ 26 then t.refuse src p .field 1
    else if base + n * 2097152 > 2 ^ 52 then t.refuse src p .field 0
    else if !t.rangeFree base (n * 2097152) then t.refuse src p .inuse
    else if t.owners.length ≥ 1024 then t.refuse src p .nofit
    else ({ t with owners := insertK handle ⟨handle, base, n, bit (pktP p 2).toNat 0, 0, [], [], false, [], 0, none, [], []⟩ t.owners } : State).done
      src p handle)

/-- Whether a reserved bit of an owner-table entry is set (R291). -/
def ownReserved (e : Nat) : Bool := bits e 62 60 != 0 || bits e 47 31 != 0

/-- WRITE_OWNER (R296, R548, R569): entry writes staged in the ring's transaction. -/
def execWriteOwner (src : Src) (s : State) : Out :=
  s.command src 0x0303 (fun _ => true) (fun t p =>
    let h := (pktP p 0).toNat
    let first := (pktP p 1).toNat
    let n := (pktP p 2).toNat
    if !t.inTxn src then t.refuse src p .txn
    else match lookupK h t.owners with
    | none => t.refuse src p .handle
    | some o =>
      if o.sealed_ then t.refuse src p .busy
      else if first + n > o.count then t.refuse src p .bounds
      else if !t.txnRoom (8 * n) then t.refuse src p .nofit
      else t.withBlock src p 3 (8 * n) (fun u bs =>
        let es := entriesOf 8 n bs
        if es.any ownReserved then u.refuse src p .field 3
        else u.stageOr src p (.owner h first es) (8 * n) id))

/-- The blocks whose entries differ between the generations. -/
def Owner.differing (o : Owner) : List Nat :=
  (((o.active ++ o.standby).map Prod.fst).dedup).filter (fun b => lookupD 0 b o.active != lookupD 0 b o.standby)

/-- A switch begun (R296, steps 1 to 3): the standby is sealed, and with the copy option the blocks that differ are copied. A block that has no
owner on one side has nothing to copy. -/
def State.beginSwitch (s : State) (h : Nat) : State :=
  let both := fun (o : Owner) (b : Nat) => bit (lookupD 0 b o.active) 63 && bit (lookupD 0 b o.standby) 63
  let start := fun (o : Owner) =>
    { o with sealed_ := true, moved := 0, asked := none, acks := [], moves := if o.copy then o.differing.filter (both o) else [] }
  ({ s with owners := updK h start s.owners } : State).goOnSwitch h

/-- SWITCH_OWNER (R296, R548): the reply follows at the end of the switch. -/
def execSwitchOwner (src : Src) (s : State) : Out :=
  s.command src 0x0304 (fun _ => true) (fun t p =>
    let h := (pktP p 0).toNat
    match lookupK h t.owners with
    | none => t.refuse src p .handle
    | some o =>
      if t.txn.any (fun x => x.owners.contains h) then t.refuse src p .txn
      else if o.sealed_ then t.refuse src p .busy
      else (t.hold src p).beginSwitch h)

/-- Whether the accesses that an instruction sampled on a generation have completed, held writes apart (R296, step 4). -/
def State.accessDone (s : State) (h g : Nat) (f : Inflight) : Bool :=
  match lookupK h f.gens with
  | some n => n != g || (f.stop.isNone && f.asked.isEmpty && s.acked f)
  | none => true

/-- Whether a switch has come to its end (R296, step 4; R506). -/
def State.switchReady (s : State) (h : Nat) (o : Owner) : Bool :=
  o.sealed_ && o.moves.isEmpty && o.acks.all (fun a => (s.stream a.1).unacked.all (fun p => p.seq > a.2))
    && s.cores.all (fun k => k.inflight.all (s.accessDone h o.gen))
    && s.regions.all (fun r => r.contexts.all (fun x => x.core.inflight.all (s.accessDone h o.gen)))

/-- A held write performed on the new generation: its flags and the packets that its instruction waits for are noted there, and a fault that it
meets, as a block without an owner, is the instruction's (R285, R292, R296 step 5). A page that is not resident holds it back further. -/
def State.performOne (s : State) (h g : Nat) (w : HeldWrite) : State :=
  let gens := [(h, g)]
  let p := w.put
  let fault := fun (st : St) (d a : Nat) => match w.who with | some (c, i) => s.faultIn c i st d a | none => s
  match s.place gens h (putAt p) with
  | .lost d => fault .noowner d (putAt p)
  | .there _ _ => go s gens h p w.who
  | .here a =>
    match s.checkWrite (putAtomic p) a (putLen p) with
    | .fault st va => fault st 0 va
    | .ok => go s gens h p w.who
    | .stop c _ =>
      if c == 2 then go s gens h p w.who
      else { s with ownerHolds := s.ownerHolds ++ [⟨a, localSock, match putPart p (putAt p) (putLen p) a with
        | .data va bs => .write va bs 0
        | .add va fmt v => .addTo fmt va v⟩] }
where
  /-- The write performed for its instruction. -/
  go (s : State) (gens : List (Nat × Nat)) (h : Nat) (p : Put) (who : Option (Nat × Nat)) : State :=
    let (s1, fl) := s.putFlags gens h p
    let r := s1.perform gens h p
    match who with
    | some (c, i) => (r.1.updFlight c i (fun f => { f with acks := f.acks ++ r.2.2 })).noteFlags c fl 0 0 0
    | none => r.1

/-- Held writes performed in their order (R296, step 5). -/
def State.performHeld (s : State) (h g : Nat) (ws : List HeldWrite) : State := ws.foldl (fun t w => t.performOne h g w) s

/-- A new version of a table (R312). -/
def State.applyPoly (s : State) (n : Nat) (es : List Nat) : State :=
  { s with polys := updateAt s.polys n (fun t => ⟨t.ver + 1, es, t.cur⟩) }

/-- A staged change of settings or routes applied (R572). -/
def State.applySimple (s : State) : Staged → State
  | .setting no v => s.setSetting no v
  | .events m => s.setSetting 7 m
  | .routes first es => s.applyRoutes first es
  | _ => s

/-- The entries staged for an owner table, on a copy of its active generation (R294). -/
def Txn.standby (t : Txn) (h : Nat) (active : List (Nat × Nat)) : List (Nat × Nat) :=
  t.staged.foldl (fun l g => match g with
    | .owner k first es => if k == h then placeEntries first es l else l
    | _ => l) active

/-- The staged send-route writes. -/
def Txn.sendWrites (t : Txn) : List (Nat × List Nat) := t.staged.filterMap (fun g => match g with | .sendRoutes f es => some (f, es) | _ => none)

/-- The polynomial tables staged, each with its last version. -/
def Txn.polys (t : Txn) : List (Nat × List Nat) :=
  t.staged.foldl (fun l g => match g with | .poly n es => insertK n es l | _ => l) []

/-- Every staged change applied (R572); owner tables begin to switch. -/
def State.applyTxn (s : State) (t : Txn) : State :=
  let s1 := t.staged.foldl State.applySimple s
  let s2 := if t.sendWrites.isEmpty then s1 else s1.applySendRoutes t.sendWrites
  let s3 := t.polys.foldl (fun u q => u.applyPoly q.1 q.2) s2
  t.owners.dedup.foldl (fun u h =>
    { u with owners := updK h (fun o => { o with standby := t.standby h o.active }) u.owners }.beginSwitch h) s3

/-- Whether a staged change takes effect for dispatches accepted after the reply to the commit (R572). -/
def Staged.late : Staged → Bool
  | .setting no _ => no ≤ 4
  | .poly .. | .sendRoutes .. => true
  | _ => false

/-- The changes of a transaction that take effect at once, or that begin at once. -/
def Txn.early (t : Txn) : Txn := { t with staged := t.staged.filter (fun g => !g.late) }
/-- Those that take effect with the reply. -/
def Txn.rest (t : Txn) : Txn := { t with staged := t.staged.filter Staged.late }

/-- A commit whose owner tables have all switched replies, its other changes are live, and its transaction is closed (R572). -/
def State.settleTxn (s : State) : State :=
  match s.txn with
  | none => s
  | some t =>
    let waits := (s.ringsBusy 0x0111 (fun _ => true)).contains t.ring
    let open_ := t.owners.any (fun h => match lookupK h s.owners with | some o => o.sealed_ | none => false)
    if waits && !open_ then (({ s with txn := none } : State).applyTxn t.rest).release t.ring { r0 := t.staged.length } else s

/-- OWNER_SWITCH_FINISH (R296, steps 4 to 6). -/
def execOwnerSwitchFinish (handle : Nat) (s : State) : Out :=
  match lookupK handle s.owners with
  | none => .next s
  | some o =>
    if !s.running || !s.switchReady handle o then .next s
    else
      let g := (o.gen + 1) % 2 ^ 32
      let s1 : State := { s with owners := insertK handle { o with gen := g, active := o.standby, standby := o.active, sealed_ := false,
                                                                   acks := [], heldWrites := [] } s.owners }
      let s2 := s1.performHeld handle g o.heldWrites
      let s3 := (s2.ringsBusy 0x0304 (fun p => (pktP p 0).toNat == handle)).foldl (fun t r => t.release r { r0 := g }) s2
      .next s3.settleTxn

/-- DESTROY_OWNER (R549). A table that switches is busy. -/
def execDestroyOwner (src : Src) (s : State) : Out :=
  s.command src 0x0305 (fun _ => true) (fun t p =>
    let h := (pktP p 0).toNat
    match lookupK h t.owners with
    | none => t.refuse src p .handle
    | some o =>
      if t.tensors.any (fun d => d.2.owner == h) then t.refuse src p .inuse
      else if o.sealed_ then t.refuse src p .busy
      else ({ t with owners := eraseK h t.owners } : State).done src p)

/-! ## Polynomial tables -/

/-- The breakpoint of a segment entry (R310). -/
def segBreak (e : Nat) : W32 := BitVec.ofNat 32 (bits e 159 128)

/-- The used entries of a table after entry 0, or a refusal when one follows an unused entry. -/
def usedSegs : List Nat → Option (List W32)
  | [] => some []
  | e :: r => if (fv (segBreak e)).isNan then (if r.all (fun x => (fv (segBreak x)).isNan) then some [] else none)
    else (usedSegs r).map (fun l => segBreak e :: l)

/-- Whether breakpoints strictly increase. -/
def breaksRise : List W32 → Bool
  | a :: b :: r => (fv a).cmp (fv b) == .lt && breaksRise (b :: r)
  | _ => true

/-- Whether R311 refuses a table. -/
def polyBad (es : List Nat) : Bool :=
  es.any (fun e => bits e 255 160 != 0) || (match usedSegs (es.drop 1) with | some l => l.any isInf || !breaksRise l | none => true)

/-- Whether an accepted dispatch uses the previous version of a table (R312). -/
def State.polyBusy (s : State) (n : Nat) : Bool :=
  match s.polys[n]? with
  | some t => s.dispatches.any (fun d => (d.2.polyVers[n]?).getD t.ver != t.ver)
  | none => false

/-- LOAD_POLY (R311, R312). In a transaction a table that is still held is found at the commit (R571). -/
def execLoadPoly (src : Src) (s : State) : Out :=
  s.command src 0x0306 (fun _ => true) (fun t p =>
    let n := (pktP p 0).toNat
    if n ≥ 64 then t.refuse src p .field 0
    else t.withBlock src p 1 512 (fun u bs =>
      let es := entriesOf 32 16 bs
      if polyBad es then u.refuse src p .field 1
      else if !u.inTxn src && u.polyBusy n then u.refuse src p .busy
      else u.stageOr src p (.poly n es) 512 (fun v => v.applyPoly n es)))

/-! ## Merge jobs -/

/-- The refusal of a merge job's output descriptor: FP32 values in the layout of the form, writable (R237). -/
def jobOutFault (form : Nat) (d : Option Desc) : Option St :=
  match d with
  | none => some .handle
  | some x =>
    if !(if form == 1 then x.layout == 4 || x.layout == 5 else x.layout == 2) then some .layout
    else if x.fmt != 0x0A then some .format
    else if x.access == 1 then some .access else none

/-- CREATE_JOB (R232, R237, R460). -/
def execCreateJob (src : Src) (handle : Nat) (s : State) : Out :=
  if !newHandle handle s.jobs then .next s
  else s.command src 0x0307 (fun _ => true) (fun t p =>
    let region := bits (pktP p 0).toNat 15 0
    let form := bits (pktP p 0).toNat 17 16
    let spill := (pktP p 2).toNat
    if form == 3 then t.refuse src p .field 0
    else if region != 0xFFFF && region ≥ t.regions.length then t.refuse src p .handle
    else if form == 0 && (pktP p 1).toNat % 64 != 0 then t.refuse src p .align 1
    else match (if form == 0 then none else jobOutFault form (lookupK (pktP p 1).toNat t.tensors)) with
    | some e => t.refuse src p e
    | none =>
      if (lookupK spill t.allocs).isNone then t.refuse src p .handle
      else
        let j : Job := ⟨handle, if region == 0xFFFF then none else some region, form, (pktP p 1).toNat, spill, none, [], false, 0, false⟩
        ({ t with jobs := insertK handle j t.jobs } : State).done src p handle)

/-! ## Programs -/

/-- LOAD_PROGRAM (R398 to R400): the header is read and checked, then the whole image. -/
def execLoadProgram (src : Src) (handle : Nat) (s : State) : Out :=
  if !newHandle handle s.programs then .next s
  else s.command src 0x0400 (fun _ => true) (fun t p =>
    let bad := fun (u : State) (e : ImgErr) => u.refuse src p e.st e.detail e.result1
    t.withBlock src p 0 64 (fun u hd =>
      match imageHeader (ofLe hd) with
      | some e => bad u e
      | none => u.withBlock src p 0 (bits (ofLe hd) 95 64) (fun v img =>
        match readImage handle img with
        | .inr e => bad v e
        | .inl g => ({ v with programs := insertK handle g v.programs } : State).done src p handle)))

/-- UNLOAD_PROGRAM (R551). -/
def execUnloadProgram (src : Src) (s : State) : Out :=
  s.command src 0x0401 (fun _ => true) (fun t p =>
    let h := (pktP p 0).toNat
    if (lookupK h t.programs).isNone then t.refuse src p .handle
    else if t.dispatches.any (fun d => d.2.req.contract.isNone && d.2.req.program == h) then t.refuse src p .inuse
    else ({ t with programs := eraseK h t.programs } : State).done src p)

end Sys2Proof.Machine
end

