-- ==== Sys2Proof/Machine/Txn.lean ====
section
/-! DEFINITION. Transactions (R567 to R574). -/
namespace Sys2Proof.Machine

/-- TXN_BEGIN (R567). -/
def execTxnBegin (src : Src) (s : State) : Out :=
  s.command src 0x0110 (fun _ => true) (fun t p =>
    match src with
    | .ring n => if t.txn.isSome then t.refuse src p .busy else ({ t with txn := some ⟨n, [], 0⟩ } : State).done src p
    | _ => t)

/-- TXN_ROLLBACK (R574). -/
def execTxnRollback (src : Src) (s : State) : Out :=
  s.command src 0x0112 (fun _ => true) (fun t p =>
    match src with
    | .ring n => if t.inTxn src then (t.rollback n).done src p else t.refuse src p .txn
    | _ => t)

/-- Why a staged change cannot be applied (R571), against the routes that the changes before it leave. -/
def State.stagedFault (s : State) (base : State) : Staged → Option St
  | .poly n _ => if s.polyBusy n then some .busy else none
  | .owner h _ _ => match lookupK h s.owners with
    | none => some .handle
    | some o => if o.sealed_ then some .busy else none
  | .routes first es => (base.routeFault first es).map Stat.st
  | .sendRoutes _ _ => if s.sendRoutesBusy then some .busy else none
  | .setting _ _ => none
  | .events _ => none

/-- The first staged change that cannot be applied, with its index from 0. -/
def State.commitFault (s : State) : State → Nat → List Staged → Option (St × Nat)
  | _, _, [] => none
  | base, i, g :: r =>
    match s.stagedFault base g with
    | some e => some (e, i)
    | none => s.commitFault (match g with
      | .routes first es => { base with routes := placeEntries first es base.routes }
      | _ => base) (i + 1) r

/-- TXN_COMMIT (R571, R572): refused whole, or applied. With owner tables its reply waits for their switches,
and what the table of R572 makes live for dispatches accepted after the reply becomes live then. -/
def execTxnCommit (src : Src) (s : State) : Out :=
  s.command src 0x0111 (fun _ => true) (fun t p =>
    match src, t.txn with
    | .ring n, some x =>
      if x.ring != n then t.refuse src p .txn
      else match t.commitFault t 0 x.staged with
      | some (st, i) => (t.rollback n).refuse src p st 0 i
      | none =>
        if x.owners.isEmpty then (({ t with txn := none } : State).applyTxn x).done src p x.staged.length
        else (t.hold src p).applyTxn x.early
    | _, _ => t.refuse src p .txn)

end Sys2Proof.Machine
end

