-- ==== Sys2Proof/Machine/Memory.lean ====
section
/-! DEFINITION. Polor commands of memory and placement (R455, R456, R545 to R547, R479, R483, R487), and what Hokuec does with frames, pages
and channels (R458 to R475, R488 to R493, R615, R659 to R661, R708). -/
namespace Sys2Proof.Machine

/-! ## Frames -/

/-- 64 KiB frames of a GiB. -/
def framesPerGiB : Nat := 16384
/-- The largest memory that the package takes, in frames (R461). -/
def maxFrames : Nat := 24 * 256 * framesPerGiB

/-- Frames of in-service capacity (R464). -/
def State.serviceFrames (s : State) : Nat := sumNat (s.channels.map (fun c => if c.state == 1 then c.size * framesPerGiB else 0))
/-- Allocatable capacity in frames (R464): less the reserve of 8 GiB and retired frames. -/
def State.allocatable (s : State) : Nat := s.serviceFrames - 8 * framesPerGiB - s.retired.length
/-- Frames that local pages hold. -/
def State.usedFrames (s : State) : Nat := (s.pages.filter (fun p => !p.2.host)).length
/-- Whether a page lies in a frame or moves to it. -/
def State.frameUsed (s : State) (f : Nat) : Bool := s.pages.any (fun p => !p.2.host && (p.2.at_ == f || p.2.moving == some f))
/-- Whether Hokuec may map a frame into an allocation (R471, R615). -/
def State.frameFree (s : State) (f : Nat) : Bool := f < maxFrames && s.cleared.contains f && !s.retired.contains f && !s.frameUsed f

/-- FRAME_CLEAR (R615): a frame that holds no page is written with zeros. -/
def execFrameClear (frame : Nat) (s : State) : Out :=
  if !s.running || frame ≥ maxFrames || s.frameUsed frame || s.retired.contains frame || s.cleared.contains frame then .next s
  else .next { s.count 1 65536 with dram := s.dram.clear (frame * 65536) 65536, cleared := s.cleared ++ [frame]
                                    poison := s.poison.filter (fun l => l / 512 != frame) }

/-! ## Channels -/

/-- A CHANNEL event (R655), after a change of CHAN.STATE. -/
def State.channelEvent (s : State) (ch : Nat) : State :=
  match s.channels[ch]? with
  | some c => s.plainEvent 0x0018 (c.word ch (s.channelPoison ch))
  | none => s

/-- Channels whose evacuation has moved its last page (R490, R660): they are OUT, and their power-enable is inactive. -/
def State.settleChannels (s : State) : State :=
  (List.range s.channels.length).foldl (fun t ch =>
    match t.channels[ch]? with
    | some c => if c.state == 2 && c.leaving.isEmpty then
        (t.updChannel ch (fun q => { q with state := 3, pwren := some false })).channelEvent ch else t
    | none => t) s

/-- Pages that no longer have to be moved: none of them has a line on a channel that is left, or it was not placed before the channel was
evacuated (R490). -/
def State.pagesGone (s : State) (vs : List Nat) : State :=
  let stays := fun (v ch : Nat) => match lookupK v s.pages with | some p => !p.host && p.ways.contains ch | none => false
  let left := fun (c : Channel × Nat) => { c.1 with leaving := c.1.leaving.filter (fun v => !vs.contains v || stays v c.2) }
  ({ s with channels := s.channels.zipIdx.map left, restoring := s.restoring.filter (fun v => !vs.contains v) } : State).settleChannels

/-! ## ALLOC and FREE -/

/-- The page array of a HOST allocation (R545): an entry sets no other bits than a bus address, resident and writable. -/
def hostEntryBad (e : Nat) : Bool := bits e 63 52 != 0 || bits e 15 2 != 0

/-- The refusal of an ALLOC's parameters (R456, R464, R530, R545). -/
def State.allocFault (s : State) (p : Packet) : Option Stat :=
  let size := (pktP p 0).toNat
  let hint := bits (pktP p 1).toNat 3 0
  let n := bits (pktP p 1).toNat 12 8
  let pages := size / 65536
  if size == 0 || size % 65536 != 0 then some ⟨.field, 0⟩
  else if hint > 4 || (hint == 2 && !(1 ≤ n && n ≤ 23)) || (hint != 2 && n != 0) then some ⟨.field, 1⟩
  else if hint != 4 then
    if pktP p 2 != 0 then some ⟨.field, 2⟩ else if pktP p 3 != 0 then some ⟨.field, 3⟩
    else if s.usedFrames + pages > s.allocatable then some ⟨.nofit, 0⟩ else none
  else if (pktP p 3).toNat != pages then some ⟨.field, 3⟩
  else match s.blockFault (pktP p 2) (8 * pages) 2 with
    | some e => some e
    | none => if (entriesOf 8 pages (s.sysBytes (pktP p 2) (8 * pages))).any hostEntryBad then some ⟨.field, 2⟩ else none

/-- Channels in service that no ISOLATE allocation uses (R456). -/
def State.freeChannels (s : State) : List Nat :=
  s.serviceChannels.filter (fun c => !s.allocs.any (fun a => a.2.hint == 2 && a.2.channels.contains c))

/-- Whether what Hokuec picks for an ALLOC can be picked: a new handle, a free range, cleared frames, and channels of ISOLATE
whenever enough of them are free (R455, R456, R615). -/
def State.allocPickOk (s : State) (p : Packet) (k : AllocPick) : Bool :=
  let pages := (pktP p 0).toNat / 65536
  let hint := bits (pktP p 1).toNat 3 0
  let n := bits (pktP p 1).toNat 12 8
  newHandle k.handle s.allocs && k.vbase % 65536 == 0 && k.vbase + pages * 65536 ≤ 2 ^ 52 && s.rangeFree k.vbase (pages * 65536)
    && (if hint == 4 then k.frames.isEmpty else k.frames.length == pages && k.frames.all s.frameFree && decide k.frames.Nodup)
    && (if hint == 2 && n ≤ s.freeChannels.length then
          k.channels.length == n && k.channels.all s.freeChannels.contains && decide k.channels.Nodup
        else k.channels.isEmpty)

/-- Whether the 2 MiB span of a page lies in an allocation whole, so that one 2 MiB page maps it (R477). -/
def bigSpan (base pages page : Nat) : Bool := base ≤ page / 32 * 32 && page / 32 * 32 + 32 ≤ base + pages

/-- The channels that the lines of a page rotate over, from its first line: its own place in its 2 MiB span decides where they start (R457; log
entry 179). -/
def pageWays (chs : List Nat) (v : Nat) : List Nat :=
  chs.rotateLeft ((Config.firstChannel (v / 32) + v % 32 * 256) % Nat.max 1 chs.length)

/-- The channels over which an allocation is placed: those of its ISOLATE, or every one in service (R456). -/
def State.waysOf (s : State) (channels : List Nat) : List Nat := if channels.isEmpty then s.serviceChannels else channels

/-- The channels for the pages of a placed allocation. -/
def State.waysAt (s : State) (v : Nat) : List Nat :=
  match s.allocs.find? (fun a => a.2.base / 65536 ≤ v && v < a.2.base / 65536 + a.2.pages) with
  | some a => pageWays (s.waysOf (if a.2.hint == 2 then a.2.channels else [])) v
  | none => pageWays s.serviceChannels v

/-- The pages of a new allocation on the given channels (R457, R477, R479, R483). -/
def allocPages (p : Packet) (k : AllocPick) (chs : List Nat) (host : List Nat) : List (Nat × Page) :=
  let first := k.vbase / 65536
  let n := (pktP p 0).toNat / 65536
  if bits (pktP p 1).toNat 3 0 == 4 then
    host.zipIdx.map (fun e => (first + e.2, ⟨true, bit e.1 1, bit e.1 0, false, bits e.1 51 16, none, none, false, [], []⟩))
  else k.frames.zipIdx.map (fun f => (first + f.2, ⟨false, true, true, bigSpan first n (first + f.2), f.1, none, none, false, pageWays chs (first + f.2), []⟩))

/-- ALLOC (R455 to R457, R477, R483, R545, R615). It waits, without refusal, until cleared frames exist: until then the event does not occur. -/
def State.alloc (s : State) (src : Src) (p : Packet) (k : AllocPick) : State :=
  match s.allocFault p with
  | some e => s.refuse src p e.st e.detail
  | none =>
    let hint := bits (pktP p 1).toNat 3 0
    let pages := (pktP p 0).toNat / 65536
    let host := if hint == 4 then entriesOf 8 pages (s.sysBytes (pktP p 2) (8 * pages)) else []
    let placed := if hint == 2 && k.channels.isEmpty then 0 else hint
    let s1 := if hint == 4 then s.sysTouch (pktP p 2) (8 * pages) else s
    let a : Alloc := ⟨k.handle, k.vbase, pages, placed, k.channels, hint == 4⟩
    let put := fun (l : List (Nat × Page)) (e : Nat × Page) => insertK e.1 e.2 l
    let s2 : State := { s1 with allocs := insertK k.handle a s1.allocs, cleared := s1.cleared.filter (fun f => !k.frames.contains f)
                                pages := (allocPages p k (s.waysOf k.channels) host).foldl put s1.pages }
    s2.done src p k.handle (k.vbase + at_ 56 k.channels.length) placed

/-- ALLOC as a row. -/
def execAlloc (src : Src) (pick : AllocPick) (s : State) : Out :=
  let waits := match s.offered src with
    | some p => (s.gate src p).isNone && (s.allocFault p).isNone && !s.allocPickOk p pick
    | none => false
  if waits then .next s else s.command src 0x0200 (fun _ => true) (fun t p => t.alloc src p pick)

/-- Whether a live descriptor lies in an allocation (R247): one of its arrays starts there. -/
def Desc.liesIn (d : Desc) (a : Alloc) : Bool :=
  let in_ := fun (x : Nat) => a.base ≤ x && x < a.base + a.pages * 65536
  !d.empty && d.owner == 0 && (in_ d.base || (d.aux0 != 0 && in_ d.aux0) || (d.aux1 != 0 && in_ d.aux1) || (d.aux2 != 0 && in_ d.aux2))

/-- FREE (R247, R615): the pages are gone, and their frames are written with zeros before they are mapped again. -/
def State.freeAlloc (s : State) (a : Alloc) : State :=
  let vs := (List.range a.pages).map (· + a.base / 65536)
  let gone := s.pages.filter (fun p => vs.contains p.1)
  let due := s.retireDue.filter (fun r => gone.any (fun p => !p.2.host && p.2.at_ == r.1))
  let mid := gone.filterMap (fun p => p.2.retiring.map (fun ch => (p.2.at_, ch)))
  let s1 : State := { s with pages := s.pages.filter (fun p => !vs.contains p.1), allocs := eraseK a.handle s.allocs
                             retireDue := s.retireDue.filter (fun r => !due.contains r) }
  ((due ++ mid).foldl (fun t r => t.retireFrame r.2 r.1) (s1.forget vs)).pagesGone vs

/-- FREE as a row (R546). -/
def execFree (src : Src) (s : State) : Out :=
  s.command src 0x0201 (fun _ => true) (fun t p =>
    match lookupK (pktP p 0).toNat t.allocs with
    | none => t.refuse src p .handle
    | some a =>
      if t.tensors.any (fun d => d.2.liesIn a) || t.dispatches.any (fun d => d.2.internal.any (fun x => x.2.liesIn a)) then
        t.refuse src p .inuse
      else (t.freeAlloc a).done src p)

/-! ## Host-backed pages -/

/-- The pages that a command names, or why it is refused: every page is host-backed (R546). -/
def State.hostPages (s : State) (p : Packet) : List Nat ⊕ Stat :=
  let a := (pktP p 0).toNat
  let n := (pktP p 1).toNat
  if a % 65536 != 0 then .inr ⟨.align, 0⟩
  else if n > s.pages.length then .inr ⟨.handle, 0⟩
  else
    let vs := (List.range n).map (· + a / 65536)
    if vs.all (fun v => match lookupK v s.pages with | some g => g.host | none => false) then .inl vs else .inr ⟨.handle, 0⟩

/-- HOST_EVICT (R487, R509). -/
def execHostEvict (src : Src) (s : State) : Out :=
  s.command src 0x0203 (fun _ => true) (fun t p =>
    match t.hostPages p with
    | .inr e => t.refuse src p e.st e.detail
    | .inl vs =>
      (({ t with pages := vs.foldl (fun l v => updK v (fun g => { g with resident := false }) l) t.pages } : State).forget vs).done src p)

/-- Writes of a switch held for pages that were not resident, performed in their order (R296). -/
def State.performHolds (s : State) (vs : List Nat) : State :=
  let mine := s.ownerHolds.filter (fun h => h.src == localSock && vs.contains (h.va / 65536))
  mine.foldl (fun t h => match h.body with
    | .write a bs _ => if t.canWrite a bs.length then t.putHere (.data a bs) else t
    | .addTo fmt a v => if t.canWrite a (widthOf fmt / 8) then t.putHere (.add a fmt v) else t
    | _ => t) { s with ownerHolds := s.ownerHolds.filter (fun h => !(h.src == localSock && vs.contains (h.va / 65536))) }

/-- HOST_RESIDENT (R487, R503, R545): transfers stopped on the pages resume afterwards, each by its own event. -/
def execHostResident (src : Src) (s : State) : Out :=
  s.command src 0x0204 (fun _ => true) (fun t p =>
    match t.hostPages p with
    | .inr e => t.refuse src p e.st e.detail
    | .inl vs =>
      t.withBlock src p 2 (8 * vs.length) (fun u bs =>
        let es := entriesOf 8 vs.length bs
        if es.any (fun e => hostEntryBad e || !bit e 0) then u.refuse src p .field 2
        else
          let set := fun (l : List (Nat × Page)) (q : Nat × Nat) => updK q.1 (fun g =>
            { g with resident := true, write := bit q.2 1, at_ := bits q.2 51 16, episode := false }) l
          (((({ u with pages := (vs.zip es).foldl set u.pages } : State).forget vs).performHolds vs).switchesOnward).done src p))

/-- HOST_UNMAP (R487). -/
def execHostUnmap (src : Src) (s : State) : Out :=
  s.command src 0x0205 (fun _ => true) (fun t p =>
    match t.hostPages p with
    | .inr e => t.refuse src p e.st e.detail
    | .inl vs => (({ t with pages := t.pages.filter (fun g => !vs.contains g.1) } : State).forget vs).done src p)

/-! ## TRANSLATE, COPY, FILL -/

/-- A leaf entry as TRANSLATE returns it (R479): PTE.ADDR reads 0 for a local page. -/
def pteWord (g : Page) : Nat :=
  at_ 63 1 + at_ 62 1 + at_ 60 (b2n g.host) + at_ 59 (b2n g.write) + at_ 58 (b2n g.moving.isSome) + at_ 57 (b2n (!g.host || g.resident))
    + (if g.host then at_ 16 (low 36 g.at_) else 0)

/-- The level at which the walk of an unmapped address stops (R478, R479): a table exists where a live allocation needs it. -/
def State.walkLevel (s : State) (a : Nat) : Nat :=
  let has := fun (k : Nat) => s.allocs.any (fun x => x.2.base / 2 ^ k ≤ a / 2 ^ k && a / 2 ^ k ≤ (x.2.base + x.2.pages * 65536 - 1) / 2 ^ k)
  if !has 39 then 3 else if !has 30 then 2 else if !has 21 then 1 else 0

/-- TRANSLATE (R479). -/
def execTranslate (src : Src) (s : State) : Out :=
  s.command src 0x0206 (fun _ => true) (fun t p =>
    let a := (pktP p 0).toNat
    match t.page? a with
    | some g => t.done src p (pteWord g) (if g.big then 1 else 0)
    | none => t.done src p 0 (t.walkLevel a))

/-- A COPY or FILL begun (R547): its ring waits for it. -/
def State.beginCopy (s : State) (src : Src) (p : Packet) (dst : W64) (from_ : Option W64) (byte len : Nat) : State :=
  let o : CopyOp := ⟨s.nextCopy, (srcRing? src).getD noRing, 0, dst.toNat, from_.map BitVec.toNat, byte, len, 0, none, []⟩
  (({ s with nextCopy := s.nextCopy + 1, copies := s.copies ++ [o] } : State).hold src p).runCopy o.id

/-- Whether two ranges of one address space meet (R547). -/
def rangesMeet (a b : W64) (n : Nat) : Bool :=
  isBus a == isBus b && n != 0 && addrOf a < addrOf b + n && addrOf b < addrOf a + n

/-- COPY (R547). Memory errors that its first reads meet are noted as R469 and R470 say. -/
def execCopy (src : Src) (errs : List MemErr) (s : State) : Out :=
  s.command src 0x0207 (fun _ => true) (fun t p =>
    let n := (pktP p 2).toNat
    if n % 64 != 0 then t.refuse src p .field 2
    else if rangesMeet (pktP p 0) (pktP p 1) n then t.refuse src p .alias_
    else (t.memErrs errs).beginCopy src p (pktP p 0) (some (pktP p 1)) 0 n)

/-- FILL (R547). -/
def execFill (src : Src) (s : State) : Out :=
  s.command src 0x0208 (fun _ => true) (fun t p =>
    let n := (pktP p 1).toNat
    if n % 64 != 0 then t.refuse src p .field 1 else t.beginCopy src p (pktP p 0) none (pktP p 2).toNat n)

/-! ## Migration -/

/-- The pages that move as one (R472, R477): the 32 parts of a 2 MiB page, or one page. -/
def State.moveGroup (s : State) (v : Nat) : List Nat :=
  match lookupK v s.pages with
  | some g => if g.big then (List.range 32).map (· + v / 32 * 32) else [v]
  | none => []

/-- The frames to which a page may move: cleared, with as many as the group has pages. -/
def State.moveFrames (s : State) (vs fs : List Nat) : Bool := fs.length == vs.length && fs.all s.frameFree && decide fs.Nodup

/-- A move begun (R488 step 1) for the pages of a group: the new frames lie on the channels in service, or on those of the ISOLATE allocation
(R457, R490). -/
def State.beginMove (s : State) (vs fs : List Nat) (retiring : Option Nat) : State :=
  let set := fun (l : List (Nat × Page)) (q : Nat × Nat) =>
    updK q.1 (fun g => { g with moving := some q.2, retiring := retiring, wayNext := s.waysAt q.1 }) l
  ({ s with pages := (vs.zip fs).foldl set s.pages, cleared := s.cleared.filter (fun f => !fs.contains f) } : State).forget vs

/-- PAGE_MIGRATE (R458, R471, R472, R488, R490, R493). -/
def execPageMigrate (va : Nat) (cause : MoveCause) (frames : List Nat) (s : State) : Out :=
  let v := va / 65536
  match lookupK v s.pages with
  | none => .next s
  | some g =>
    if !s.running || g.host || g.moving.isSome then .next s
    else match cause with
    | .retire =>
      match lookupK g.at_ s.retireDue with
      | some ch =>
        if s.spareFrames == 0 || !s.moveFrames [v] frames then .next s
        else
          let split := (s.moveGroup v).foldl (fun l u => updK u (fun q => { q with big := false }) l) s.pages
          .next (({ s with pages := split, spareFrames := s.spareFrames - 1, retireDue := eraseK g.at_ s.retireDue } : State).beginMove
            [v] frames (some ch))
      | none => .next s
    | .evacuate =>
      if s.channels.any (fun c => c.leaving.contains v) && s.moveFrames (s.moveGroup v) frames then
        .next (s.beginMove (s.moveGroup v) frames none)
      else .next s
    | .restore =>
      if s.restoring.contains v && s.moveFrames (s.moveGroup v) frames then .next (s.beginMove (s.moveGroup v) frames none) else .next s

/-- One page copied to its new frame (R471, R488 steps 3 and 4, R489): poisoned lines stay poisoned there. -/
def State.copyPage (s : State) (v : Nat) : State :=
  match lookupK v s.pages with
  | none => s
  | some g =>
    match g.moving with
    | none => s
    | some f =>
      let bad := s.poison.filter (fun l => l / 512 == g.at_)
      let moved := bad.map (fun l => l % 512 + f * 512)
      let late := lookupK g.at_ s.retireDue
      let s2 : State := { ((s.count 0 65536).count 1 65536) with
        dram := s.dram.copy (g.at_ * 65536) (f * 65536) 65536
        poison := moved ++ s.poison.filter (fun l => l / 512 != f)
        poisonAt := moved.foldl (fun l x => insertK x ((wayOf g.wayNext (x % 512)).getD 0) l) s.poisonAt
        retireDue := eraseK g.at_ s.retireDue
        pages := updK v (fun q => { q with at_ := f, moving := none, retiring := none, ways := g.wayNext, wayNext := [] }) s.pages }
      let s3 := match g.retiring, late with
        | some c, _ => s2.retireFrame c g.at_
        | none, some c => s2.retireFrame c g.at_
        | none, none => s2
      match late with
      | some c => if moved.isEmpty then s3 else s3.frameDue c f
      | none => s3

/-- The frames that a group of pages lies in. -/
def State.framesOf (s : State) (vs : List Nat) : List Nat := vs.filterMap (fun v => (lookupK v s.pages).map Page.at_)

/-- MIGRATION_COPY_DONE (R488). The copy's reads meet errors in the old frames: a line that they poison is poisoned in the new frame too, and
the copy continues (R489). The writes of other sockets that wait are performed at FABRIC_PACKET_RECEIVE's rules by `State.performRemote`. -/
def State.endMove (s : State) (v : Nat) (errs : List MemErr) : State :=
  let vs := s.moveGroup v
  let s1 := s.memErrs (errs.filter (fun e => (s.framesOf vs).contains e.frame))
  ((vs.foldl State.copyPage s1).forget vs).pagesGone vs

/-! ## Patrol and recalibration -/

/-- Lines of a channel (R467). -/
def Channel.lines (c : Channel) : Nat := c.size * 2 ^ 23

/-- SCRUB_PATROL_READ (R475, R665): the next line of every channel in service is read, and it alone can show an error. -/
def execScrubPatrolRead (errs : List MemErr) (s : State) : Out :=
  if !s.running || s.settings.scrubRate == 0 then .next s
  else
    let next := fun (p : Channel × Nat) =>
      let at_ := (s.scrubAt[p.2]?).getD 0
      if p.1.state == 1 then (if p.1.lines == 0 then 0 else (at_ + 1) % p.1.lines) else at_
    let s1 : State := { s.count 0 (128 * s.serviceChannels.length) with scrubAt := s.channels.zipIdx.map next }
    let read := fun (e : MemErr) => match s.channels[e.channel]? with
      | some c => c.state == 1 && Config.patrolLine e.channel ((s.scrubAt[e.channel]?).getD 0) == e.frame * 512 + e.line % 512
      | none => false
    .next ((errs.filter read).foldl (State.memErr true) s1)

/-- CHANNEL_RECALIBRATE (R659): drive strengths and timing change, which nothing in the state shows. -/
def execChannelRecalibrate (channel : Nat) (s : State) : Out :=
  if channel ≥ s.channels.length then .fault (.noSuchUnit channel) else .next s

/-! ## Evacuation and return -/

/-- The local pages that hold a line on a channel, or will when the move that they are in has ended (R456, R457, R490). -/
def State.pagesOn (s : State) (ch : Nat) : List Nat :=
  (s.pages.filter (fun p => !p.2.host && (p.2.ways.contains ch || p.2.wayNext.contains ch))).map Prod.fst

/-- An ISOLATE allocation of an evacuated channel moved to another free one, else to interleave (R492). -/
def State.moveIsolate (s : State) (ch : Nat) (a : Alloc) : Alloc :=
  if a.hint == 2 && a.channels.contains ch then
    match s.freeChannels with
    | c :: _ => { a with channels := a.channels.map (fun x => if x == ch then c else x) }
    | [] => { a with hint := 0, channels := [] }
  else a

/-- EVACUATE_CHANNEL (R490 to R492, R660). -/
def execEvacuateChannel (src : Src) (s : State) : Out :=
  s.command src 0x0602 (fun _ => true) (fun t p =>
    let ch := (pktP p 0).toNat
    match t.channels[ch]? with
    | none => t.refuse src p .handle
    | some c =>
      if c.state != 1 then t.refuse src p .busy
      else
        let pages := t.pagesOn ch
        let t1 := t.updChannel ch (fun q => { q with state := 2, leaving := pages })
        if t1.serviceChannels.isEmpty || t.usedFrames > t1.allocatable then t.refuse src p .nofit
        else
          let allocs := t.allocs.map (fun a => (a.1, t1.moveIsolate ch a.2))
          let n := (t.allocs.zip allocs).countP (fun q => q.1.2.hint == 2 && q.2.2.hint != 2)
          ((({ t1 with allocs := allocs } : State).channelEvent ch).done src p n).settleChannels)

/-- RETURN_CHANNEL (R660, R661): the power-enable goes active; the reply follows training. -/
def execReturnChannel (src : Src) (s : State) : Out :=
  s.command src 0x0603 (fun _ => true) (fun t p =>
    let ch := (pktP p 0).toNat
    match t.channels[ch]? with
    | none => t.refuse src p .handle
    | some c =>
      if c.state != 3 && c.state != 5 then t.refuse src p .busy
      else (t.updChannel ch (fun q => { q with pwren := some true })).hold src p)

/-- Whether a DIMM is one of R461. -/
def dimmListed (d : Dimm) : Bool := [32, 64, 128, 256].contains d.sizeGiB && 8000 ≤ d.rate

/-- A returned channel in service (R493, R661). -/
def State.channelBack (s : State) (ch : Nat) (d : Dimm) : State :=
  let s1 := s.updChannel ch (fun q => { q with state := 1, rate := s.rate, size := d.sizeGiB, dimm := some d })
  let back := (s.allocs.filter (fun a => !a.2.host && a.2.hint != 2 && a.2.hint != 3)).flatMap (fun a =>
    (List.range a.2.pages).map (· + a.2.base / 65536))
  ({ s1 with restoring := (s1.restoring ++ back).dedup } : State).channelEvent ch

/-- DIMM_POWER_SETTLED (R660, R661): 20 ms after the power-enable went active the SPD is read and the channel trained. -/
def execDimmPowerSettled (channel : Nat) (dimm : Option Dimm) (s : State) : Out :=
  if channel ≥ s.channels.length then .fault (.noSuchUnit channel)
  else match s.ringsBusy 0x0603 (fun p => (pktP p 0).toNat == channel) with
  | [] => .next s
  | r :: _ =>
    if !s.running then .next s
    else
      let off := s.updChannel channel (fun q => { q with pwren := some false, dimm := dimm })
      let sizes := s.channels.filterMap (fun c => if c.state == 1 || c.state == 2 then some c.size else none)
      match dimm with
      | none => .next (off.release r { st := .nofit, detail := 1 })
      | some d =>
        if !dimmListed d || sizes.any (· != d.sizeGiB) || d.rate < s.rate then .next (off.release r { st := .nofit, detail := 1 })
        else if !d.trains then
          let failed := off.updChannel channel (fun q => { q with state := 5 })
          let was := match s.channels[channel]? with | some c => c.state | none => 0
          .next ((if was == 5 then failed else failed.channelEvent channel).release r { st := .nofit, detail := 2 })
        else .next ((s.channelBack channel d).release r {})

end Sys2Proof.Machine
end

