-- ==== Sys2Proof/Machine/Requests.lean ====
section
/-! DEFINITION. What DISPATCH and CONTRACT ask for: their blocks read out (R552, R553, R556), and the checks that refuse them (R298, R407,
R408, R411, R438, R554 to R559, R650). -/
namespace Sys2Proof.Machine

/-! ## Blocks -/

/-- The priority, tally wait and dependencies of a dispatch control word (R552). -/
def Request.control (p : Packet) (ring : Nat) : Request :=
  let c := (pktP p 1).toNat
  let d := (pktP p 3).toNat
  { ring := ring, tag := pktTag p, opcode := pktOp p, irq := pktIrq p, prio := bits c 1 0
    tallyWait := if bit c 2 then some (bits c 14 3, pktP p 2) else none
    deps := (if bit d 24 then [(1, bits d 23 0)] else []) ++ (if bit d 56 then [(2, bits d 55 32)] else [])
    program := 0, slots := [], params := [], ext := [], step := [], inner := true, restart := false, debug := false, stagger := 0
    target := 0, costTensor := 0, costs := none, marked := none, affinity := 0, regions := 0, scratch := 0, contract := none }

/-- Whether a reserved bit of a dispatch block is set (R553). -/
def blockReserved (b : Nat) : Bool := bits b 2047 1595 != 0 || bits b 1535 1528 != 0

/-- The request of a dispatch block (R553). -/
def Request.ofBlock (q : Request) (b : Nat) : Request :=
  { q with
    program := bits b 1439 1408, slots := (List.range 8).map (fun k => bits b (991 + 32 * k) (960 + 32 * k))
    params := (List.range 15).map (fun i => BitVec.ofNat 64 (bits b (64 * i + 63) (64 * i)))
    ext := [bits b 1247 1216, bits b 1279 1248, bits b 1311 1280], step := [bits b 1343 1312, bits b 1375 1344, bits b 1407 1376]
    inner := bit b 1592, restart := bit b 1593, debug := bit b 1594, stagger := bits b 1583 1568, target := bits b 1503 1472
    costTensor := bits b 1471 1440, affinity := bits b 1527 1504, regions := bits b 1591 1584, scratch := bits b 1567 1536 }

/-- Whether a reserved bit of a contraction block is set, or a field holds a value outside its list (R556). -/
def ctBad (b : Nat) : Bool :=
  bits b 1023 567 != 0 || bits b 543 532 != 0 || bits b 127 96 != 0 || bits b 560 556 > 16 || bits b 555 554 == 3 || bits b 553 552 == 3
    || bits b 551 550 > 1 || bits b 549 548 == 3 || bits b 547 546 == 3

/-- A contraction block read out (R556), with its chain; its tiling is not chosen yet. -/
def Contraction.ofBlock (b : Nat) (chain : Option Chain) : Contraction :=
  { a := bits b 31 0, b := bits b 63 32, c := bits b 95 64, pre := bits b 159 128, scratch := bits b 191 160, mask := bits b 223 192
    vecs := (List.range 4).map (fun k => bits b (255 + 32 * k) (224 + 32 * k)), sides := (List.range 4).map (fun k => bits b (383 + 32 * k) (352 + 32 * k))
    axa := bit b 544, axb := bit b 545, mode := bits b 547 546, eng := bits b 549 548, start := bits b 551 550, pkind := bits b 553 552
    pskip := bits b 555 554, audit := bits b 560 556, noskip := bit b 561, fm := bits b 563 562, fn := bits b 565 564, chain := chain
    tiling := ⟨0, 0, 0, false, 1, 0, 0, 0, 0, 0, 0⟩ }

/-! ## Checks of a dispatch -/

/-- The carrel shelves that a program's forerunner MMAs read (R367). -/
def Program.foreOperands (p : Program) : List Nat :=
  p.code.flatMap (fun i => match i with | .mma f => if f.mode == 2 then [f.sa, f.sb] else [] | _ => [])

/-- Whether a slot is loaded as an operand of a forerunner MMA (R554). -/
def Program.foreSlot (p : Program) (slot : Nat) : Bool :=
  p.code.any (fun i => match i with
    | .load f => f.slot == slot && (f.role == roleKouter || f.role == roleKinner) && p.foreOperands.contains f.sh
    | _ => false)

/-- Regions in service (R650). -/
def State.regionsInService (s : State) : Nat := ((List.range s.regions.length).filter s.inService).length

/-- Whether a handle is 0 or a live descriptor's. -/
def State.boundOk (s : State) (h : Nat) : Bool := h == 0 || (lookupK h s.tensors).isSome
/-- Whether a handle is 0 or a live allocation's. -/
def State.scratchOk (s : State) (h : Nat) : Bool := h == 0 || (lookupK h s.allocs).isSome

/-- The bytes of an allocation, 0 for none. -/
def State.allocBytes (s : State) (h : Nat) : Nat := match lookupK h s.allocs with | some a => a.pages * 65536 | none => 0

/-- The checks of a DISPATCH on what its block says (R407, R408, R411, R554). -/
def State.dispatchFault (s : State) (q : Request) : Option Stat :=
  match lookupK q.program s.programs with
  | none => some ⟨.handle, 0⟩
  | some p =>
    let cost := lookupK q.costTensor s.tensors
    firstFail [
      (!q.slots.all s.boundOk || !s.boundOk q.costTensor || !s.scratchOk q.scratch, .handle, 0),
      (p.fore && q.slots.zipIdx.any (fun x => match lookupK x.1 s.tensors with
        | some d => !d.fore && p.foreSlot x.2
        | none => false), .mode, 0),
      (q.step.any (· == 0), .field, 0),
      (q.tiles > 0xFFFFFFFF, .nofit, 0),
      (q.regions > s.regionsInService, .nofit, 0),
      (cost.any (fun d => d.fmt != 0x12), .format, 0),
      (cost.any (fun d => d.layout != 0 || d.rank != 1), .layout, 0),
      (cost.any (fun d => d.size 0 < q.tiles), .bounds, 0)]

/-- An instruction that stands for Hokuec's own reads through descriptors, with what other sockets have answered to them. -/
def State.ownRead (s : State) (far : List (RemoteNeed × List Byte) := []) : Inflight :=
  { (Core.fresh (.ofWord 0) false true).flight .halt [] [] 0 with gens := s.sampleGens, got := far }

/-- The costs of a dispatch read from its cost tensor (R411). Elements that another socket holds are read when the dispatch is accepted. -/
def State.readCosts (s : State) (q : Request) : State × (Option (List Nat) ⊕ Stat) :=
  match lookupK q.costTensor s.tensors with
  | none => (s, .inl none)
  | some d =>
    if q.tiles == 0 then (s, .inl none)
    else match s.rowSpan s.ownRead d d.base 0 q.tiles false with
    | .ok l t => (s.touchAll t, .inl (some (l.map Elem.raw)))
    | .stop _ _ _ => (s, .inr ⟨.unmapped, 0⟩)
    | .fault st d _ => (s, .inr ⟨st, d⟩)
    | .need _ => (s, .inl none)

/-! ## Checks of a contraction -/

/-- The extents of a contraction (R557): M, N, K and the batch. -/
structure Extents where
  m : Nat
  n : Nat
  k : Nat
  batch : Nat
  deriving DecidableEq, Repr

/-- The extents that the operands give, or none when they disagree (R557). -/
def Contraction.extents (c : Contraction) (a b cd : Desc) : Option Extents :=
  let batch := if cd.rank ≥ 3 then cd.lsize 2 else 1
  let e : Extents := ⟨cd.lsize 1, cd.lsize 0, a.lsize (b2n c.axa), batch⟩
  let inBatch := fun (d : Desc) => d.rank == 2 || (d.rank == 3 && (d.lsize 2 == 1 || d.lsize 2 == batch))
  if (cd.rank == 2 || cd.rank == 3) && inBatch a && inBatch b && a.lsize (1 - b2n c.axa) == e.m && b.lsize (b2n c.axb) == e.n
      && b.lsize (1 - b2n c.axb) == e.k then some e else none

/-- Whether a preload or class-2 operand of a kind has the sizes that the output gives it (R153, R557). -/
def preShape (d : Desc) (kind : Nat) (e : Extents) : Bool :=
  if kind == 0 then d.rank == 1 && d.lsize 0 == e.n
  else if kind == 1 then d.rank == 1 && d.lsize 0 == e.m
  else d.lsize 0 == e.n && d.lsize 1 == e.m && (d.rank == 2 || (d.rank == 3 && (d.lsize 2 == 1 || d.lsize 2 == e.batch)))

/-- The refusal of a vector operand (R558). -/
def vecStat (d : Option Desc) (g : Stage) (i : Nat) (e : Extents) : Option Stat :=
  match d with
  | none => some ⟨.handle, i⟩
  | some x => firstFail [
      (x.layout != 0 || x.rank != 1 || x.lsize 0 != (if g.axis == 1 then e.n else e.m), .shape, i),
      (x.fmt != g.fmt || x.sb != 0, .format, i)]

/-- The refusal of a side output (R327, R558). -/
def sideStat (d : Option Desc) (g : Stage) (i : Nat) (e : Extents) (t : Tiling) : Option Stat :=
  let col := g.op ≥ 8
  match d with
  | none => some ⟨.handle, i⟩
  | some x => firstFail [
      (x.layout != 0 || x.rank != 2 || x.lsize 0 != (if col then e.n else e.m)
        || x.lsize 1 != (if col then ceilDiv e.m t.mt else ceilDiv e.n t.nt) * e.batch, .shape, i),
      (x.fmt != (if g.op % 8 ≤ 1 then 0x0A else 0x11) || x.sb != 0, .format, i)]

/-- The refusals of the chain's operands, in the order of its entries (R558). -/
def State.chainStat (s : State) (c : Contraction) (e : Extents) (t : Tiling) : Option Stat :=
  let st := c.stages
  (st.zipIdx.findSome? (fun p =>
    let before := st.take p.2
    let at' := fun (l : List Nat) (n : Nat) => lookupK ((l[n]?).getD 0) s.tensors
    if p.1.readsVec then vecStat (at' c.vecs (before.filter Stage.readsVec).length) p.1 p.2 e
    else if p.1.cls == 2 && c.start == 1 then some ⟨.handle, p.2⟩
    else if p.1.cls == 6 then sideStat (at' c.sides (before.filter (fun g => g.cls == 6)).length) p.1 p.2 e t
    else none))

/-- Whether a tensor's K axis is not the one that its stream runs along (R718). -/
def streamAxisBad (d : Desc) (kFirst : Bool) : Bool :=
  match d.layout with
  | 0 => false
  | 1 => (d.kaxis == 0) != kFirst
  | 3 => kFirst
  | _ => !kFirst

/-- The dense staging tensor of an output with DESC.OVERLAP (R266), after the split images of the scratch allowance: its rows in row-major
order, each on a line of its own. -/
def Request.staging (q : Request) (alloc base : Nat) (d : Desc) : Desc :=
  let row := roundUp (rowBytes d.fmt (d.lsize 0) d.inter) 64
  let unit := { d with layout := 0, xpose := false }.unit
  { d with handle := ownHandle slC, alloc := alloc, base := base + roundUp q.imageScratch 64, sizes := d.lsizes, owner := 0, overlap := false
           xpose := false, access := 3
           strides := [1, (row / unit : Nat), (row * d.lsize 1 / unit : Nat), 0, 0, 0] }

/-- The request with its tiling and grid (R432 to R437, R556). A contraction with an empty operand has an empty grid (R268). -/
def Request.tiled (q : Request) (c : Contraction) (t : Tiling) : Request :=
  let none_ := t.m == 0 || t.n == 0 || t.k == 0
  { q with contract := some { c with tiling := t }, ext := if none_ then [0, 0, 0] else [t.n, t.m, t.batch], step := [t.nt, t.mt, 1]
           scratch := c.scratch }

/-- Whether R199 lists an operand of a contraction in no role of its engine: pointer and coordinate forms on the dense engine, and on the sparse
engine a dense A, or a CSC or block-sparse B. -/
def Contraction.roleBad (c : Contraction) (a b : Desc) : Bool :=
  let pointed := fun (d : Desc) => 2 ≤ d.layout && d.layout ≤ 5
  if c.eng == 2 then a.layout == 0 || b.layout == 3 || b.layout == 6 || b.layout == 7 else pointed a || pointed b

/-- The refusal of a row mask: a DENSE tensor (log entry 176) with a bit for every row (R239). -/
def maskStat (d : Option Desc) (m : Nat) : Option Stat :=
  match d with
  | none => none
  | some x => firstFail [(x.layout != 0, .layout, 0), (8 * x.maskBytes < m, .bounds, 0)]

/-- A contraction read, checked and tiled, or refused (R199, R207, R218, R239, R298, R404, R556 to R559). -/
def State.tileContract (s : State) (q : Request) (c : Contraction) : Request ⊕ Stat :=
  let get := fun h => lookupK h s.tensors
  let cls2 := c.stages.find? (fun g => g.cls == 2)
  let usesPre := c.start == 1 || cls2.isSome
  match get c.a, get c.b, get c.c with
  | some a, some b, some cd =>
    if (usesPre && (get c.pre).isNone) || (c.pskip != 0 && (get c.mask).isNone) || !s.scratchOk c.scratch then .inr ⟨.handle, 0⟩
    else match c.extents a b cd with
    | none => .inr ⟨.shape, 0⟩
    | some e =>
      let t := c.tilingOf s.partCores a b e.m e.n e.k e.batch
      let r := q.tiled c t
      let pre := match get c.pre with
        | some d => !preShape d (if c.start == 1 then c.pkind else (match cls2 with | some g => g.op | none => 0)) e
        | none => false
      let folioBad := fun (d : Desc) (kFirst : Bool) => d.layout == 1 && streamAxisBad d kFirst
      match firstFail [
        (usesPre && pre, .shape, 0),
        ((c.mode == 2) != (a.fore && b.fore) || (c.mode != 2 && (a.fore || b.fore)), .mode, 0),
        (c.mode == 1 && c.start == 1, .mode, 0),
        (c.mode != 0 && c.eng == 2, .mode, 0),
        (c.mode == 2 && roundUp e.k 32 > t.kc, .mode, 0),
        ((a.inter && c.axa) || (b.inter && !c.axb), .layout, 0),
        (c.roleBad a b, .format, 0),
        (c.eng == 2 && (streamAxisBad a (!c.axa) || streamAxisBad b c.axb), .layout, 0),
        (folioBad a (!c.axa) || folioBad b c.axb, .layout, 0)] with
      | some f => .inr f
      | none =>
        match (match s.chainStat c e t with | some f => some f | none => if c.pskip == 0 then none else maskStat (get c.mask) e.m) with
        | some f => .inr f
        | none =>
          if r.tiles > 0xFFFFFFFF || r.needsScratch cd > (if r.needsScratch cd == 0 then 0 else s.allocBytes c.scratch) then .inr ⟨.nofit, 0⟩
          else .inl r
  | _, _, _ => .inr ⟨.handle, 0⟩

/-- Why a request that waits at its ring's head no longer passes the checks of its command (R538). -/
def State.requestFault (s : State) (q : Request) : Option Stat :=
  match q.contract with
  | none => s.dispatchFault q
  | some c => match s.tileContract q c with
    | .inl _ => none
    | .inr f => some f

/-! ## Reading -/

/-- A request that waits at its ring's head for acceptance (R538). -/
def State.awaitAccept (s : State) (src : Src) (q : Request) : State :=
  match src with
  | .ring n => s.updRing n (fun g => { g with waiting := some (.dispatch q) })
  | _ => s

/-- DISPATCH (R552 to R554): the block is read and checked, then the packet waits for acceptance. -/
def execDispatch (src : Src) (s : State) : Out :=
  s.command src 0x0402 (fun _ => true) (fun t p =>
    if bits (pktP p 1).toNat 1 0 == 3 then t.refuse src p .field 1
    else t.withBlock src p 0 256 (fun u bs =>
      let b := ofLe bs
      let q := (Request.control p ((srcRing? src).getD 0)).ofBlock b
      if blockReserved b then u.refuse src p .field 0
      else match u.dispatchFault q with
      | some f => u.refuse src p f.st f.detail
      | none => match u.readCosts q with
        | (v, .inl l) => v.awaitAccept src { q with costs := l }
        | (v, .inr f) => v.refuse src p f.st f.detail))

/-- The chain record of a contraction read from its address (R301, R330, R559), or why not. -/
def State.chainRecord (s : State) (a : Nat) : State × (Option Chain ⊕ Stat) :=
  if a == 0 then (s, .inl none)
  else if a % 16 != 0 then (s, .inr ⟨.align, 0⟩)
  else
    let stat := fun (x : Access) => match x with | .fault st _ => (⟨st, 0⟩ : Stat) | _ => ⟨.unmapped, 0⟩
    match s.checkRead a 16 with
    | .ok =>
      let h := ofLe (s.bytesAt a 16)
      let n := if bits h 7 0 > 12 then 0 else bits h 7 0
      match s.checkRead a (16 + 16 * n) with
      | .ok =>
        let u := s.touch a (16 + 16 * n)
        match readChain h (entriesOf 16 n (s.bytesAt (a + 16) (16 * n))) with
        | .inl c => if c.prologue then (u, .inr ⟨.chain, 0xFF⟩) else (u, .inl (some c))
        | .inr d => (u, .inr ⟨.chain, d⟩)
      | e => (s, .inr (stat e))
    | e => (s, .inr (stat e))

/-- CONTRACT (R403, R556 to R559): the block and the chain are read and checked, the contraction is tiled, and the packet waits for acceptance. -/
def execContract (src : Src) (s : State) : Out :=
  s.command src 0x0403 (fun _ => true) (fun t p =>
    if bits (pktP p 1).toNat 1 0 == 3 then t.refuse src p .field 1
    else t.withBlock src p 0 128 (fun u bs =>
      let b := ofLe bs
      if ctBad b then u.refuse src p .field 0
      else match u.chainRecord (bits b 531 480) with
      | (v, .inr f) => v.refuse src p f.st f.detail
      | (v, .inl ch) =>
        let q := { Request.control p ((srcRing? src).getD 0) with restart := bit b 566 }
        match v.tileContract q (Contraction.ofBlock b ch) with
        | .inr f => v.refuse src p f.st f.detail
        | .inl r => v.awaitAccept src r))

end Sys2Proof.Machine
end

