-- ==== Sys2Proof/Machine/Dispatching.lean ====
section
/-! DEFINITION. Dispatches from acceptance to their FINAL reply (R402 to R439, R450 to R454, R460, R532, R533, R538 to R542, R560 to R562). -/
namespace Sys2Proof.Machine

/-! ## Costs of a contraction -/

/-- The cost of one slice: the smaller of Cd and Cs (R215, R411). -/
def sliceCost (wd ws fixed fa fb ca cb : Nat) : Nat :=
  let m := popcount 128 (cardKsum ca &&& cardKsum cb)
  let p := if m = 0 then 0 else m * cardNnz ca * cardNnz cb / (popcount 128 (cardKsum ca) * popcount 128 (cardKsum cb))
  let cs := if fa == 0x0A || fb == 0x0A then 4 else 1
  Nat.min (wd * ceilDiv (m * pairRate2 fa fb) 2) (ws * ceilDiv (p * cs) 128 + 16 * fixed)

/-- The card of an operand for a group of 128 positions and a K-slice, stored or synthesised (R214), with the memory it reads. A card that
cannot be read, and a layout for which no card is stated, leave it open (log entry 8); one that another socket holds is awaited. -/
def State.costCard (s : State) (far : List (RemoteNeed × List Byte)) (d : Desc) (kFirst : Bool) (batch group slice : Nat) : Fetch Nat :=
  let i0 := if kFirst then slice else group
  let i1 := if kFirst then group else slice
  let v := if d.layout == 1 then d else { d with kaxis := b2n (!kFirst) }
  let g := d.grid [0, 0, if d.rank ≥ 3 && d.size 2 > 1 then (batch : Int) else 0]
  if 2 ≤ d.layout && d.layout ≤ 5 then .pure (Config.unstated 24 slice)
  else match s.anyCard (s.ownRead far) v g (if d.xpose then i0 else i1) (if d.xpose then i1 else i0) with
  | .ok c t => .ok c t
  | .need n => .need n
  | _ => .pure (Config.unstated 24 slice)

/-- The slots and K-slices of a tile: groups of A, groups of B, slices; none for a combine tile (R436). -/
def Request.costSpan (q : Request) (c : Contraction) (t : Nat) : List (Nat × Nat × Nat) :=
  let z := c.tiling
  let g := q.position t
  let i := if z.s > 1 then t / q.outputs else 0
  if z.s > 1 && i ≥ z.s then []
  else
    let span := fun (lo hi : Nat) => (List.range (ceilDiv hi 128 - lo / 128)).map (· + lo / 128)
    let m0 := g.2.1 * z.mt
    let n0 := g.1 * z.nt
    let lo := if z.s > 1 then i * z.ks else 0
    let hi := if z.s > 1 then Nat.min ((i + 1) * z.ks) z.k else z.k
    (span m0 (Nat.min (m0 + z.mt) z.m)).flatMap (fun ga => (span n0 (Nat.min (n0 + z.nt) z.n)).flatMap (fun gb =>
      (span lo hi).map (fun sl => (ga, gb, sl))))

/-- The cost of a tile of a contraction (R411). -/
def State.tileCost (s : State) (far : List (RemoteNeed × List Byte)) (q : Request) (c : Contraction) (a b : Desc) (t : Nat) : Fetch Nat :=
  let batch := (q.position t).2.2
  (Fetch.seq ((q.costSpan c t).map (fun e =>
    (s.costCard far a (!c.axa) batch e.1 e.2.2).bind (fun x => (s.costCard far b c.axb batch e.2.1 e.2.2).map (fun y =>
      sliceCost s.settings.costWd s.settings.costWs s.settings.costFixed a.fmt b.fmt x y))))).map (fun l => Nat.min 0xFFFFFFFF (sumNat l))

/-- The tiles of a contraction that hold a marked row, under EXACT skipping (R240). Where the mask cannot be read when the dispatch becomes ready
the marks are open (log entry 8). -/
def State.markedTiles (s : State) (far : List (RemoteNeed × List Byte)) (q : Request) (c : Contraction) (d : Desc) : List Nat :=
  let z := c.tiling
  match s.fetch (s.ownRead far) d.owner d.base (Nat.min (ceilDiv z.m 8) d.maskBytes) false with
  | .ok bs _ =>
    (List.range q.tiles).filter (fun t =>
      let m0 := (q.position t).2.1 * z.mt
      (List.range (Nat.min z.mt (z.m - m0))).any (fun r => maskBitAt bs (m0 + r)))
  | _ => (List.range q.tiles).filter (fun t => Config.unstated 28 t % 2 == 1)

/-- The order of a dispatch's tiles fixed when it becomes ready, before its first TAKE is served: its mask is read then, as its dependencies and its
tally wait may be what makes the mask (R240, R540, R542). -/
def State.orderTiles (s : State) (far : List (RemoteNeed × List Byte)) (n : Nat) : State :=
  match s.dispatch? n with
  | none => s
  | some d =>
    match d.req.contract.bind (fun c => (lookupK c.mask s.tensors).map (fun m => (c, m))) with
    | some (c, m) =>
      if c.pskip != 1 || d.req.marked.isSome || !d.runnable then s
      else s.updDispatch n (fun e => { e with req := { e.req with marked := some (s.markedTiles far d.req c m) } })
    | none => s

/-- The bytes of a box of a tensor: its first extent along dimension 0. -/
def Desc.boxBytes (d : Desc) (e0 e1 : Nat) : Nat := e1 * rowBytes d.fmt e0 d.inter

/-- DESK.STAGGER of a contraction (R443): the bytes of the first tile's LOADs of A and B, divided by 128. -/
def Contraction.stagger (c : Contraction) (a b : Desc) : Nat :=
  let z := c.tiling
  let k := if z.s > 1 then Nat.min z.ks z.k else z.k
  let side := fun (d : Desc) (kFirst : Bool) (x : Nat) => if kFirst then d.boxBytes k x else d.boxBytes x k
  Nat.min 65535 ((side a (!c.axa) (Nat.min z.mt z.m) + side b c.axb (Nat.min z.nt z.n)) / 128)

/-- The costs that the acceptance of a request reads: those of a contraction's tiles under the settings in force, and the elements of a cost tensor
that another socket holds (R411, R439). -/
def State.costsOf (s : State) (far : List (RemoteNeed × List Byte)) (q : Request) : Fetch (Option (List Nat)) :=
  match q.contract with
  | none =>
    match q.costs, lookupK q.costTensor s.tensors with
    | none, some d => if q.tiles == 0 then .pure none else (s.rowSpan (s.ownRead far) d d.base 0 q.tiles false).map (fun l => some (l.map Elem.raw))
    | l, _ => .pure l
  | some c =>
    match lookupK c.a s.tensors, lookupK c.b s.tensors with
    | some a, some b => (Fetch.seq ((List.range q.tiles).map (s.tileCost far q c a b))).map some
    | _, _ => .pure q.costs

/-- Whether another socket has still to answer a read of the acceptance: the request waits for it. -/
def State.awaitsFar (s : State) (far : List (RemoteNeed × List Byte)) (q : Request) : Bool :=
  match s.costsOf far q with | .need _ => true | _ => false

/-- The request as its acceptance completes it (R411, R439, R443). -/
def State.settleRequest (s : State) (far : List (RemoteNeed × List Byte)) (q : Request) : State × Request :=
  let stagger := match q.contract.bind (fun c => (lookupK c.a s.tensors).bind (fun a => (lookupK c.b s.tensors).map (c.stagger a))) with
    | some n => n
    | none => q.stagger
  match s.costsOf far q with
  | .ok l t => (s.touchAll t, { q with costs := l, stagger := stagger })
  | _ => (s, { q with stagger := stagger })

/-! ## Placement -/

/-- Cores that serve a region: those whose number a core serves (R412). -/
def State.servingCores (s : State) (r : Nat) : Nat := ((regionCores r).filter (fun c => (s.core c).present)).length

/-- Work items that the counters in use hold (R420). -/
def State.workItems (s : State) : Nat := sumNat (s.regions.map (fun g => sumNat (g.counters.map (fun k => k.2.win))))

/-- The windows that a counter can have (R418). -/
def winOk (w : Nat) : Bool := [64, 128, 256, 512, 1024, 2048, 4096].contains w

/-- Whether a region can take one more dispatch (R538, R650). -/
def State.hasCounter (s : State) (r : Nat) : Bool := s.inService r && (s.region r).counters.length < 64 && s.servingCores r > 0

/-- Whether a counter's place is legal: a region in service, a free counter of it, a legal window (R417, R420, R538). -/
def State.placeOk (s : State) (p : CounterPick) : Bool :=
  s.hasCounter p.region && p.counter < 64 && (s.counter? p.region p.counter).isNone && winOk p.win

/-- Whether ranges cover the tiles from `lo` to the end, one after another, none of them empty (R417). -/
def coverFrom (lo hi : Nat) : List CounterPick → Bool
  | [] => lo == hi
  | p :: r => p.first == lo && p.first < p.last && coverFrom p.last hi r

/-- The ends of the chunks that tiles from `lo` on fall into under a target (R413), with fuel. -/
def chunkEnds (q : Request) (target : Nat) : Nat → Nat → List Nat
  | 0, _ => []
  | f + 1, lo =>
    if lo ≥ q.tiles then []
    else let e := lo + (chunkGo q target q.tiles 256 lo 0).length; e :: chunkEnds q target f e

/-- The cost of the tiles before a tile. -/
def Request.costBefore (q : Request) (t : Nat) : Nat := sumNat ((List.range t).map q.cost)

/-- The chunk target under which Hokuec cuts the tile range before each counter has its own (R412, R417; log entry 177). -/
def Request.cutTarget (q : Request) (cores : Nat) : Nat :=
  match q.contract with
  | some _ => Nat.max (maxNat ((List.range q.tiles).map q.cost)) (q.costBefore q.tiles / (4 * cores))
  | none => if q.target != 0 then q.target else ceilDiv q.tiles (4 * cores)

/-- Whether a cut of the tile range gives whole chunks in proportion to the regions' cores and by cost (R417): each cut lies at the end of a chunk, and
the cost before it is nearer than one chunk to the share of the cores before it (log entry 177). -/
def Request.cutOk (q : Request) (cores : List Nat) (ends : List Nat) : Bool :=
  let all := sumNat cores
  let total := q.costBefore q.tiles
  let ce := chunkEnds q (q.cutTarget all) q.tiles 0
  let big := maxNat ((List.zipWith (fun a b => q.costBefore b - q.costBefore a) (0 :: ce) ce))
  (ends.dropLast.zipIdx.all (fun e =>
    let share := total * sumNat (cores.take (e.2 + 1))
    let got := q.costBefore e.1 * all
    ce.contains e.1 && got < share + big * all && share < got + big * all))

/-- The regions of a dispatch named for affinity, when they are free (R460). -/
def State.affineRegions (s : State) (q : Request) : Option (List Nat) :=
  match (if q.affinity == 0 then none else s.dispatch? q.affinity) with
  | some d =>
    let rs := d.counters.map Prod.fst
    if !rs.isEmpty && rs.all s.hasCounter && s.workItems + 64 * rs.length ≤ 262144 then some rs else none
  | none => none

/-- Whether a placement uses as many regions as a dispatch asks for, or fewer where so many are not free or hold no chunk for each: the hint never
delays it (R460). -/
def State.countOk (s : State) (q : Request) (n : Nat) : Bool :=
  let free := ((List.range s.regions.length).filter s.hasCounter)
  let chunks := (chunkEnds q (q.cutTarget (sumNat (free.map s.servingCores))) q.tiles 0).length
  q.regions == 0 || n == q.regions
    || (n < q.regions && (free.length < q.regions || s.workItems + 64 * q.regions > 262144 || chunks < q.regions))

/-- Whether Hokuec's choice accepts a request (R417, R420, R422, R460, R538, R555). -/
def State.pickOk (s : State) (q0 : Request) (pick : PlacePick) : Bool :=
  let q := (s.settleRequest pick.far q0).2
  let rs := pick.counters.map CounterPick.region
  0 < pick.number && pick.number < 2 ^ 24 && (s.dispatch? pick.number).isNone && s.dispatches.length < 4096
    && (if q.tiles == 0 then pick.counters.isEmpty
      else !rs.isEmpty && rs.all (fun r => rs.count r == 1) && pick.counters.all s.placeOk && coverFrom 0 q.tiles pick.counters
        && s.workItems + sumNat (pick.counters.map CounterPick.win) ≤ 262144 && !s.awaitsFar pick.far q0
        && q.cutOk (rs.map s.servingCores) (pick.counters.map CounterPick.last)
        && (match s.affineRegions q with
          | some a => rs.all a.contains && (a.all rs.contains || (chunkEnds q (q.cutTarget (sumNat (a.map s.servingCores))) q.tiles 0).length < a.length)
          | none => s.countOk q rs.length))

/-- DESK.TARGET of a counter (R412). -/
def State.targetOf (s : State) (q : Request) (pick : PlacePick) (p : CounterPick) : Nat :=
  match q.contract with
  | some _ =>
    let l := (List.range (p.last - p.first)).map (fun i => q.cost (p.first + i))
    Nat.max (maxNat l) (sumNat l / (4 * s.servingCores p.region))
  | none =>
    if q.target != 0 then q.target else ceilDiv q.tiles (4 * sumNat (pick.counters.map (fun c => s.servingCores c.region)))

/-- A counter as Hokuec loads it (R418). -/
def loadCounter (p : CounterPick) (number : Nat) (q : Request) (target : Nat) : Counter :=
  let r := if p.first < p.last then [(p.first, p.last)] else []
  ({ dispatch := number, prio := q.prio, state := .active, inner := q.inner, restart := q.restart, win := p.win, stagger := q.stagger,
     target := target, superseded := 0, ranges := r, unformed := r, chunks := [], returned := [], taken := [], suspended := [],
     committed := [], starts := [] } : Counter).settle

/-- The device's own descriptors of a contraction: its views of A and B, its output or the staging tensor, the split images (R266, R403,
R436). -/
def State.ownDescs (s : State) (q : Request) : List (Nat × Desc) :=
  match q.contract with
  | none => []
  | some c =>
    match lookupK c.a s.tensors, lookupK c.b s.tensors, lookupK c.c s.tensors with
    | some a, some b, some cd =>
      let base := match lookupK q.scratch s.allocs with | some l => l.base | none => 0
      let image : Desc := { cd with handle := ownHandle slImage, alloc := q.scratch, base := base, aux0 := 0, aux1 := 0, aux2 := 0, nent := 0, owner := 0,
                                    sizes := [q.imageScratch / 4, 0, 0, 0, 0, 0], strides := [1, 0, 0, 0, 0, 0], fmt := 0x0A, rank := 1,
                                    layout := 0, sb := 0, access := 3, oob := 0, overlap := false, xpose := false, scatAcc := false,
                                    kaxis := 0, append := false, uscale := 0, paysize := 0, fore := false }
      let mask := fun (d : Desc) => ({ d with handle := ownHandle ownMaskNo, fmt := 0x06, sb := 0, rank := 1, sizes := [d.maskBytes, 0, 0, 0, 0, 0],
                                              strides := [1, 0, 0, 0, 0, 0], oob := oobZero, xpose := false, overlap := false } : Desc)
      [(ownHandle slA, c.view a (!c.axa) (c.mode == 2)), (ownHandle slB, c.view b c.axb false),
       (ownHandle slC, if cd.overlap then q.staging q.scratch base cd else cd)]
        ++ (match if c.pskip != 0 then lookupK c.mask s.tensors else none with | some d => [(ownHandle ownMaskNo, mask d)] | none => [])
        ++ (if q.imageScratch != 0 then [(ownHandle slImage, image)] else [])
    | _, _, _ => []

/-- An accepted dispatch (R216, R312, R422, R540 to R542, R599). -/
def State.newDispatch (s : State) (q : Request) (pick : PlacePick) : Dispatch :=
  { number := pick.number, order := s.nextOrder, req := q, rerunStep := s.settings.rerunStep, wd := s.settings.costWd, ws := s.settings.costWs,
    fixed := s.settings.costFixed, polyVers := s.polys.map PolyTab.ver, routeVer := s.sendVer
    deps := q.deps.filterMap (fun d => if (s.dispatch? d.2).isSome then some ⟨d.1, d.2, none⟩ else none)
    ready := q.tallyWait.isNone, counters := pick.counters.map (fun p => (p.region, p.counter)), internal := s.ownDescs q, homeless := [], homelessBack := []
    ending := none, cancelling := false, dropped := [], readsOut := [], acksOut := [], committed := 0, replayed := 0, superseded := 0, abandoned := 0, skipped := 0,
    audited := 0, misses := 0, flags := 0 }

/-- The ACCEPT reply's results (R552 table, R556): tiling and regions. -/
def Request.acceptRep (q : Request) (pick : PlacePick) : Rep :=
  { kind := .accept, dispatch := pick.number, r0 := match q.contract with | some c => c.tiling.word | none => 0
    r1 := sumNat ((pick.counters.map CounterPick.region).map (fun r => 2 ^ r)) }

/-- A request accepted (R417 to R422, R536): its counters are loaded and its ring goes on. An empty grid completes at once (R408). -/
def State.accept (s : State) (ring : Nat) (q0 : Request) (pick : PlacePick) : State :=
  let (s1, q) := s.settleRequest pick.far q0
  let s2 := (s1.updRing ring (fun g => { g with waiting := none })).replyRing ring q.opcode q.tag q.irq (q.acceptRep pick)
  if q.tiles == 0 then s2.replyRing ring q.opcode q.tag q.irq { dispatch := pick.number }
  else
    let s3 := pick.counters.foldl (fun t p => t.updRegion p.region (fun g =>
      { g with counters := insertK p.counter (loadCounter p pick.number q (s1.targetOf q pick p)) g.counters })) s2
    ({ s3 with dispatches := insertK pick.number (s1.newDispatch q pick) s3.dispatches, nextOrder := s3.nextOrder + 1 } : State).orderTiles
      pick.far pick.number

/-- DISPATCH_ACCEPT (R538): the request at a ring's head is accepted when Hokuec's choice places it; one that no longer passes its checks is
refused. -/
def execDispatchAccept (ring : Nat) (pick : PlacePick) (s : State) : Out :=
  if ring ≥ 64 then .fault (.noSuchUnit ring)
  else match (lookupK ring s.rings).bind Ring.waiting with
  | some (.dispatch q) =>
    if !s.running || s.ringsPaused then .next s
    else match s.requestFault q with
    | some f =>
      .next ((s.updRing ring (fun g => { g with waiting := none })).replyRing ring q.opcode q.tag q.irq { st := f.st, detail := f.detail })
    | none => if s.pickOk q pick then .next (s.accept ring q pick) else .next s
  | _ => .next s

/-! ## The end of a dispatch -/

/-- The continuation entry of a dispatch's FINAL reply, without phase and kind (R532). -/
def Dispatch.cont (d : Dispatch) : Nat :=
  let f := fun (lo n : Nat) => at_ lo (Nat.min 0xFFFFFFFF n)
  f 0 d.committed + f 32 d.replayed + f 64 d.superseded + f 96 d.abandoned + f 128 d.skipped + f 160 d.audited + f 192 d.misses

/-- The merge jobs of a dispatch. -/
def State.jobsOf (s : State) (n : Nat) : List (Nat × Job) := s.jobs.filter (fun j => j.2.dispatch == some n)

/-! ### Tiles of isolated regions -/

/-- The regions in which Hokuec can open a counter for a dispatch (R420, R649). -/
def State.openable (s : State) (d : Dispatch) : List Nat :=
  (List.range s.regions.length).filter (fun r => s.hasCounter r && (d.counterIn r).isNone && s.workItems + 64 ≤ 262144)

/-- One of a list, where Hokuec's choice is open (log entry 5). -/
def State.anyOf (s : State) (l : List Nat) : State × Option Nat :=
  match l with
  | [] => (s, none)
  | [x] => (s, some x)
  | _ => let (n, s1) := s.takeFresh; (s1, l[Config.freeNat n % l.length]?)

/-- The tiles of a dispatch that lost their counter go to another counter of the dispatch in a region in service, where its window holds what stands
above its watermark then (R419), or to one opened for them; until then they wait (R649; log entry 170). -/
def State.rehome (s : State) (n : Nat) : State :=
  match s.dispatch? n with
  | none => s
  | some d =>
    if d.cancelling || (d.homeless.isEmpty && d.homelessBack.isEmpty) then s
    else
      let give := fun (t : State) (r k : Nat) => (t.updCounter r k (fun q => q.adopt d.homeless d.homelessBack)).updDispatch n (fun e =>
        { e with homeless := [], homelessBack := [] })
      let takes := fun (r : Nat) => match (d.counterIn r).bind (s.counter? r) with
        | some k => (k.adopt d.homeless d.homelessBack).fits
        | none => false
      match s.anyOf ((d.counters.map Prod.fst).filter (fun r => s.inService r && takes r)) with
      | (s1, some r) => give s1 r ((d.counterIn r).getD 0)
      | (_, none) =>
        match s.anyOf (s.openable d), (s.countersOf d).head? with
        | (s1, some r), some (_, _, old) =>
          let k := ((List.range 64).find? (fun i => (s.counter? r i).isNone)).getD 0
          let c := { loadCounter ⟨r, k, 64, 0, 0⟩ n d.req old.target with stagger := old.stagger }
          let s2 := (s1.updRegion r (fun g => { g with counters := insertK k c g.counters })).updDispatch n (fun e =>
            { e with counters := e.counters ++ [(r, k)] })
          give s2 r k
        | _, _ => s

/-- Every dispatch with tiles that wait for a counter tries to place them. -/
def State.rehomeAll (s : State) : State := (s.dispatches.map Prod.fst).foldl State.rehome s

/-- A dispatch's FINAL reply (R532, R533, R540, R550): its counters are free again, its jobs end, and dispatches that depend on it learn of its
status. -/
def State.finish (s : State) (n : Nat) (st : St) (detail : Nat) : State :=
  match s.dispatch? n with
  | none => s
  | some d =>
    let flags := (s.jobsOf n).foldl (fun a j => a ||| runReplyFlags j.2.flags) d.flags
    let learn := fun (x : Dep) => if x.number == n && x.ended.isNone then { x with ended := some st } else x
    let free := fun (g : Region) => { g with counters := g.counters.filter (fun k => k.2.dispatch != n)
                                             contexts := g.contexts.filter (fun x => x.dispatch != n) }
    let s1 : State := { s with regions := s.regions.map free, jobs := s.jobs.filter (fun j => j.2.dispatch != some n)
                               dispatches := (eraseK n s.dispatches).map (fun x => (x.1, { x.2 with deps := x.2.deps.map learn })) }
    (s1.replyRing d.req.ring d.req.opcode d.req.tag d.req.irq
      { st := st, detail := detail, dispatch := n, flags := flags, cont := some d.cont }).rehomeAll

/-- Whether a dispatch's last work is done: every tile committed, its jobs finished, its cores and contexts gone (R532, R550). -/
def State.workDone (s : State) (d : Dispatch) : Bool :=
  s.allCommitted d && (s.jobsOf d.number).all (fun j => j.2.finished) && s.cores.all (fun k => k.dispatch != some d.number)
    && s.regions.all (fun g => g.contexts.all (fun x => x.dispatch != d.number))

/-- Whether a write of Hokuec's engines through a descriptor waits for a page that is not resident (R494, R510). -/
def State.engineWaits (s : State) (owner : Nat) (p : Put) : Bool :=
  (putPieces p).any (fun q => match s.place s.sampleGens owner q.1 with
    | .here v => (match s.checkWrite false v q.2 with | .stop c _ => c != 2 | _ => false)
    | _ => false)

/-- Writes made by Hokuec's engines through a descriptor; those that the page tables do not allow are dropped (log entry 12). -/
def State.enginePuts (s : State) (owner : Nat) (ps : List Put) : State :=
  ps.foldl (fun t p =>
    let gens := t.sampleGens
    let ok := (putPieces p).all (fun q => match t.place gens owner q.1 with
      | .here v => t.canWrite v q.2
      | .there _ _ => true
      | .lost _ => false)
    if ok then (t.perform gens owner p).1 else t) s

/-- The writes of the staging copy of an output with DESC.OVERLAP, in row-major element order, and the memory that it reads (R265, R266). -/
def State.stagingPuts (s : State) (cd stg : Desc) : List Put × List (Nat × Nat) :=
  let n := cd.lsize 0
  let rows := (List.range (cd.lsize 1 * (if cd.rank ≥ 3 then cd.lsize 2 else 1))).map (fun i =>
    [0, ((i % cd.lsize 1 : Nat) : Int)] ++ (if cd.rank ≥ 3 then [((i / cd.lsize 1 : Nat) : Int)] else []))
  let r := rows.foldl (fun (a : Ranked × List (Nat × Nat)) c =>
    match s.rowSpan s.ownRead stg (stg.rowAddr c).toNat 0 n false with
    | .ok es u =>
      match (if cd.inter then Fetch.pure [(c, cd.putRun c 0 (blockPad cd es))] else cd.rankedPuts 0 false c es) with
      | .ok ps _ => (a.1 ++ ps, a.2 ++ u)
      | _ => a
    | _ => a) ([], [])
  ((r.1.mergeSort (fun x y => !rankLt y.1 x.1)).map Prod.snd, r.2)

/-- The staging tensor of a dispatch with its output, where it has one (R266). -/
def State.stagingOf (s : State) (d : Dispatch) : Option (Desc × Desc) :=
  match d.req.contract.bind (fun c => lookupK c.c s.tensors), lookupK (ownHandle slC) d.internal with
  | some cd, some stg => if cd.overlap then some (cd, stg) else none
  | _, _ => none

/-- The staging tensor of an output with DESC.OVERLAP copied to it (R265, R266). -/
def State.copyStaging (s : State) (d : Dispatch) : State :=
  match s.stagingOf d with
  | some (cd, stg) => let r := s.stagingPuts cd stg; (s.touchAll r.2).enginePuts cd.owner r.1
  | none => s

/-- Whether the staging copy of a dispatch waits for a page of its output (R510). -/
def State.stagingWaits (s : State) (d : Dispatch) : Bool :=
  match s.stagingOf d with
  | some (cd, stg) => (s.stagingPuts cd stg).1.any (s.engineWaits cd.owner)
  | none => false

/-- DISPATCH_COMPLETE (R266, R510, R532, R533, R562). -/
def execDispatchComplete (number : Nat) (s : State) : Out :=
  match s.dispatch? number with
  | none => .next s
  | some d =>
    if !s.running || d.cancelling || !s.workDone d || s.stagingWaits d then .next s
    else
      let e := d.ending.getD (.ok, 0)
      .next ((s.copyStaging d).finish number e.1 e.2)

/-! ## What a dispatch waits for -/

/-- DEPENDENCY_RESOLVED (R540): the dispatches that name `number` and learnt of its FINAL reply go on, or end with ST_CANCELLED. -/
def execDependencyResolved (number : Nat) (s : State) : Out :=
  if !s.running then .next s
  else
    let hit := fun (x : Dep) => x.number == number && x.ended.isSome
    .next ((s.dispatches.filter (fun p => p.2.deps.any hit && !p.2.cancelling)).foldl (fun t p =>
      match p.2.deps.find? (fun x => hit x && x.ended != some .ok) with
      | some x => t.finish p.1 .cancelled x.place
      | none => (t.updDispatch p.1 (fun d => { d with deps := d.deps.filter (fun x => !hit x) })).orderTiles [] p.1) s)

/-- DISPATCH_TALLY_WAIT_MET (R542). -/
def execDispatchTallyWaitMet (number : Nat) (s : State) : Out :=
  match (s.dispatch? number).bind (fun d => d.req.tallyWait) with
  | some (n, v) => if s.running && s.tallyMet n v then
      .next ((s.updDispatch number (fun d => { d with ready := true })).orderTiles [] number) else .next s
  | none => .next s

/-! ## Cancellation -/

/-- What a cancelled core leaves behind (R450 steps 2 to 4, R454, R508): nothing it was carrying out, no object in its carrel, no resume record. -/
def State.stopCore (s : State) (c : Nat) : State :=
  (s.undoWrites (s.openWrites (s.core c))).updCore c (fun k =>
    { k.leave with tags := [], recs := [], foreShelves := [], fore := false, drained := [], prog := [] })

/-- Steps 1 to 4 of R450; the status says how the dispatch ends. -/
def State.beginCancel (s : State) (n : Nat) (st : St) (detail : Nat) : State :=
  match s.dispatch? n with
  | none => s
  | some d =>
    if d.cancelling then s
    else
      let stop := fun (k : Counter) => if k.dispatch == n then
        { k with state := .cancelling, unformed := [], returned := [], chunks := [], suspended := [] } else k
      let saved := s.regions.flatMap (fun g => (g.contexts.filter (fun x => x.dispatch == n)).flatMap (fun x => s.openWrites x.core))
      let s1 := s.undoWrites saved
      let gone := ((s1.jobsOf n).filter (fun j => !j.2.finished)).map Prod.fst
      let clear := fun (g : Region) =>
        { g with counters := g.counters.map (fun k => (k.1, stop k.2)), contexts := g.contexts.filter (fun x => x.dispatch != n)
                 jobQueue := g.jobQueue.filter (fun j => !gone.contains j)
                 jobNow := match g.jobNow with | some j => if gone.contains j then none else some j | none => none }
      let s2 : State := { s1 with regions := s1.regions.map clear, jobs := s1.jobs.filter (fun j => !gone.contains j.1) }
      let flights := (s2.cores.filter (fun k => k.dispatch == some n)).flatMap Core.inflight
      let s3 := (List.range s2.cores.length).foldl (fun t c => if (t.core c).dispatch == some n then t.stopCore c else t) s2
      s3.updDispatch n (fun e => { e with cancelling := true, ending := some (st, detail), homeless := [], homelessBack := []
                                          readsOut := flights.flatMap (fun f => f.asked.map (fun a => (a.1, a.2.sock)))
                                          acksOut := flights.flatMap Inflight.acks })

/-- CANCEL of an accepted dispatch (R450, R560): its own reply follows the dispatch's. -/
def execCancel (src : Src) (s : State) : Out :=
  s.command src 0x0404 (fun p => !bit (pktP p 1).toNat 0) (fun t p =>
    let n := (pktP p 0).toNat
    if pktP p 2 != 0 then t.refuse src p .field 2
    else if (t.dispatch? n).isNone then t.refuse src p .handle
    else (t.hold src p).beginCancel n .cancelled 0)

/-- CANCEL of the packet that waits at a ring's head (R561). -/
def execCancelWaitingPacket (src : Src) (s : State) : Out :=
  s.command src 0x0404 (fun p => bit (pktP p 1).toNat 0) (fun t p =>
    let n := (pktP p 0).toNat
    let tag := (pktP p 2).toNat
    let free := fun (u : State) => u.updRing n (fun g => { g with waiting := none })
    if n ≥ 64 then t.refuse src p .field 0
    else match (lookupK n t.rings).bind Ring.waiting with
    | some (.dispatch q) =>
      if q.tag == tag then ((free t).replyRing n q.opcode q.tag q.irq { st := .cancelled }).done src p else t.refuse src p .handle
    | some (.tally tg _ _ irq) =>
      if tg == tag then ((free t).replyRing n 0x0503 tg irq { st := .cancelled }).done src p else t.refuse src p .handle
    | none => t.refuse src p .handle)

/-- Whether the last read of a cancelled dispatch has returned and its last write has been accepted (R450, step 5). -/
def State.quiet (s : State) (d : Dispatch) : Bool :=
  d.readsOut.isEmpty && d.acksOut.all (fun a => !(s.stream a.1).unacked.any (fun p => p.seq == a.2))

/-- CANCEL_COMPLETE (R450 step 5, R560, R562): the dispatch's reply, then those of the commands that cancelled it. -/
def execCancelComplete (number : Nat) (s : State) : Out :=
  match s.dispatch? number with
  | none => .next s
  | some d =>
    if !s.running || !d.cancelling || !s.quiet d then .next s
    else
      let e := d.ending.getD (.cancelled, 0)
      let s1 := s.finish number e.1 e.2
      let mine := fun (p : Packet) => (pktP p 0).toNat == number && pktP p 1 == 0
      .next ((s1.ringsBusy 0x0404 mine ++ s1.ringsBusy 0x0406 mine).foldl (fun t r => t.release r {}) s1)

/-! ## FAULT_ACTION -/

/-- The cores of a dispatch that a fault has stopped (R395). -/
def State.stoppedCores (s : State) (n : Nat) : List Nat :=
  (List.range s.cores.length).filter (fun c => (s.core c).dispatch == some n && (s.core c).stopped.isSome)

/-- The refusal of a FAULT_ACTION (R562). -/
def State.faultActionStat (s : State) (n : Nat) : Option St :=
  match s.dispatch? n with
  | none => some .handle
  | some _ => if (s.stoppedCores n).isEmpty then some .busy else none

/-- FAULT_ACTION ABORT (R562): as CANCEL, and the dispatch's reply carries ST_FAULTED. -/
def execFaultActionAbort (src : Src) (s : State) : Out :=
  s.command src 0x0406 (fun p => !bit (pktP p 1).toNat 0) (fun t p =>
    let n := (pktP p 0).toNat
    match t.faultActionStat n with
    | some st => t.refuse src p st
    | none => (t.hold src p).beginCancel n .faulted 0)

/-- A stopped core taken from its dispatch (R426, R562): its tile returns, and it does not start the dispatch again. -/
def State.dropCore (s : State) (n c : Nat) : State :=
  ((s.returnTile c).updCore c Core.leave).updDispatch n (fun d => { d with dropped := c :: d.dropped, ending := some (.faulted, 0) })

/-- FAULT_ACTION DROP_CORE (R562). -/
def execFaultActionDropCore (src : Src) (s : State) : Out :=
  s.command src 0x0406 (fun p => bit (pktP p 1).toNat 0) (fun t p =>
    let n := (pktP p 0).toNat
    match t.faultActionStat n with
    | some st => t.refuse src p st
    | none => ((t.stoppedCores n).foldl (fun u c => u.dropCore n c) t).done src p)

end Sys2Proof.Machine
end

