-- ==== Sys2Proof/Machine/Fabric.lean ====
section
/-! DEFINITION. The optical fabric: ports and lanes (R575 to R580), packets received, relayed and acknowledged (R585 to R596, R604 to R607),
laser inputs (R662 to R664, R686), and the end of a page's move (R488). -/
namespace Sys2Proof.Machine

/-! ## Ports -/

/-- The optical engine of a port (R16, R17). -/
def Fuses.engineOf (f : Fuses) (p : Nat) : Nat := if f.part0961 && p ≥ 6 then p / 2 + 1 else p / 2
/-- The ports of an optical engine (R16, R17). -/
def State.enginePorts (s : State) (e : Nat) : List Nat := (List.range s.ports.length).filter (fun p => s.fuses.engineOf p == e)

/-- A PORT event: the port's record (R655). -/
def State.portEvent (s : State) (p : Nat) : State := match s.ports[p]? with | some q => s.plainEvent 0x0019 (q.word p) | none => s

/-- A port changed; a change of its state or width is reported (R655). -/
def State.setPort (s : State) (p : Nat) (f : Port → Port) : State :=
  let s1 := s.updPort p f
  match s.ports[p]?, s1.ports[p]? with
  | some a, some b => if a.state != b.state || a.width != b.width then s1.portEvent p else s1
  | _, _ => s1

/-- The width that a count of good lanes gives (R578). -/
def widthOfLanes (good : Nat) : Nat := if good ≥ 8 then 8 else if good == 7 then 7 else if good == 6 then 6 else if good ≥ 4 then 4 else 0

/-- The unacknowledged packets of a stream from a number on, sent again (R589); a socket that no port reaches any more is marked unreachable (R586,
R604). -/
def State.resend (s : State) (sock from_ : Nat) : State :=
  let ps := (s.stream sock).unacked.filter (fun p => p.seq ≥ from_)
  if ps.isEmpty then s
  else match s.exitPort sock with
  | none => (s.updStream sock (fun q => { q with unreachable := true })).cutSocket sock
  | some (port, dl) => ps.foldl (fun t p => t.emit port { p with vl := b2n dl }) s

/-- The sockets whose streams leave by one of some ports. -/
def State.socketsBy (s : State) (ports : List Nat) : List Nat :=
  (s.streams.map Prod.fst).filter (fun k => match s.exitPort k with | some (p, _) => ports.contains p | none => false)

/-- Ports changed, and the streams that left by them moved to another port (R589, R604, R662). -/
def State.movePorts (s : State) (ports : List Nat) (f : Port → Port) : State :=
  let socks := s.socketsBy ports
  let s1 := ports.foldl (fun t p => t.setPort p f) s
  (socks.filter (fun k => match s1.exitPort k with | some (p, _) => !ports.contains p | none => true)).foldl (fun t k => t.resend k 0) s1

/-- A lane failed (R577, R578, R604): the port restripes over its good lanes, or goes DOWN. -/
def State.failLane (s : State) (port lane : Nat) : State :=
  match s.ports[port]? with
  | some q =>
    if q.state != 2 || bit q.laneFail lane then s
    else
      let fail := q.laneFail + 2 ^ lane
      let w := widthOfLanes (8 - popcount 8 fail)
      if w == 0 then s.movePorts [port] (fun q => { q with laneFail := fail, width := 0, state := 0, stalled := false })
      else s.setPort port (fun q => { q with laneFail := fail, width := w, stalled := q.stalled || w != q.width })
  | none => s

/-- The lanes to which 16 of some uncorrectable codewords are attributed (R577). -/
def lanesFailed (bad : List (Nat × Nat)) : List Nat := (List.range 8).filter (fun l => 16 ≤ bad.countP (fun b => b.2 == l))

/-- FLIT_RECEIVE (R576, R577, R580): corrected and uncorrectable codewords are counted; a damaged flit is asked for again, and so is everything
after it, since the link delivers only the next flit of the order; a lane with 16 uncorrectable codewords among 2^20 fails. -/
def execFlitReceive (port : Nat) (flit : Flit) (corrected : Nat) (crcOk : Bool) (s : State) : Out :=
  if port ≥ s.ports.length then .fault (.noSuchUnit port)
  else
    match s.ports[port]? with
    | some q =>
      if !s.alive || q.state != 2 then .next s
      else
        let damaged := !flit.bad.isEmpty || !crcOk
        let words := q.words + flit.words
        let bad := (q.bad ++ flit.bad.map (fun b => (q.words + b.1, b.2))).filter (fun b => words ≤ b.1 + 2 ^ 20)
        let s1 := s.updPort port (fun q => { q with
          fecCorr := satAdd 0xFFFFFFFF q.fecCorr corrected, fecUnc := satAdd 0xFFFF q.fecUnc flit.bad.length
          replays := satAdd 0xFFFF q.replays (b2n damaged), words := words, bad := bad
          rxNext := q.rxNext + b2n (!damaged && flit.seq == q.rxNext) })
        .next ((lanesFailed bad).foldl (fun t l => t.failLane port l) s1)
    | none => .next s

/-- LANE_FAIL (R577, R578, R604): a lane loses lock. -/
def execLaneFail (port lane : Nat) (s : State) : Out :=
  if port ≥ s.ports.length then .fault (.noSuchUnit port)
  else if lane ≥ 8 then .fault (.noSuchUnit lane)
  else
    match s.ports[port]? with
    | some q =>
      if !s.alive || q.state != 2 || bit q.laneFail lane then .next s else .next (s.failLane port lane)
    | none => .next s

/-- PORT_STALL_END (R578): the flits not acknowledged when the stall began are replayed in their order. -/
def execPortStallEnd (port : Nat) (s : State) : Out :=
  if port ≥ s.ports.length then .fault (.noSuchUnit port)
  else
    match s.ports[port]? with
    | some q => if s.alive && q.stalled then .next (s.updPort port (fun q => { q with stalled := false, replays := satAdd 0xFFFF q.replays 1 }))
        else .next s
    | none => .next s

/-! ## Lasers -/

/-- A LASER event: 0 lost, 1 prepared, 2 restored, 3 restore failed (R655). -/
def State.laserEvent (s : State) (e what : Nat) : State := s.plainEvent 0x001A (e + at_ 3 what)

/-- The rings that carry out a laser command for an input. -/
def State.laserRings (s : State) (op e : Nat) : List Nat := s.ringsBusy op (fun p => (pktP p 0).toNat == e)

/-- A LASER_DONE whose ports have all been trained: its event and its reply (R663). -/
def State.settleLaser (s : State) (e : Nat) : State :=
  let ps := (s.enginePorts e).filterMap (fun p => s.ports[p]?)
  let rs := s.laserRings 0x0608 e
  if rs.isEmpty || ps.any Port.retraining then s
  else rs.foldl (fun t r => t.release r {}) (s.laserEvent e (if ps.all (fun p => p.state == 2) then 2 else 3))

/-- Lanes that a training leaves failed: which they are stays open (log entry 5). -/
def failedLanes (n good : Nat) : Nat :=
  let l := (List.range 256).filter (fun m => popcount 8 m == 8 - good)
  (l[Config.freeNat n % l.length]?).getD 0

/-- PORT_TRAINED (R578, R579, R584, R663): the port comes UP, goes DOWN for want of lanes, or stays in TRAINING for want of a peer. -/
def execPortTrained (port goodLanes : Nat) (peer : Option (Nat × Nat)) (s : State) : Out :=
  if port ≥ s.ports.length then .fault (.noSuchUnit port)
  else
    match s.ports[port]? with
    | some q =>
      if !s.alive || q.state != 1 then .next s
      else
        let good := Nat.min 8 goodLanes
        let w := widthOfLanes good
        let (n, s1) := if good == 8 then (0, s) else s.takeFresh
        let fail := if good == 8 then 0 else failedLanes n good
        let trained := fun (q : Port) => { q with laneFail := fail, stalled := false, closing := false, retraining := false, words := 0, bad := [], rxNext := 0 }
        let s2 := match peer with
          | some (sock, pno) =>
            if w == 0 then s1.setPort port (fun q => { trained q with state := 0, width := 0 })
            else if s.self?.isNone || s.self? == some sock then s1.setPort port trained
            else s1.setPort port (fun q => { trained q with state := 2, width := w, peerSock := sock, peerPort := pno })
          | none => if w == 0 then s1.setPort port (fun q => { trained q with state := 0, width := 0 }) else s1.setPort port trained
        .next (s2.settleLaser (s.fuses.engineOf port))
    | none => .next s

/-- Whether the part uses a laser input (R17, R662). -/
def Fuses.usesInput (f : Fuses) (e : Nat) : Bool := !(f.part0961 && (e == 3 || e == 7))

/-- The first socket that no UP port outside some ports reaches (R662). The own entry needs none. -/
def State.strandedBy (s : State) (ports : List Nat) : Option Nat :=
  let up := fun (p : Nat) => !ports.contains p && (match s.ports[p]? with | some q => q.state == 2 | none => false)
  (s.routes.find? (fun r => bit r.2 63 && !bit r.2 61 && !bit r.2 62 && !up (bits r.2 59 56) && !(bit r.2 60 && up (bits r.2 55 52)))).map Prod.fst

/-- LASER_PREPARE (R662, steps 1 and 2): the reply follows the release of the input. -/
def execLaserPrepare (src : Src) (s : State) : Out :=
  s.command src 0x0607 (fun _ => true) (fun t p =>
    let e := (pktP p 0).toNat
    let ports := t.enginePorts e
    if !t.fuses.usesInput e then t.refuse src p .denied
    else match t.strandedBy ports with
    | some k => t.answer src p { st := .busy, r0 := k }
    | none => (t.hold src p).movePorts ports (fun q => { q with closing := true }))

/-- Whether a port's light matters: its engine is enabled. -/
def Port.lit (q : Port) : Bool := q.state != 3

/-- A port without light (R580, R664). -/
def Port.dark (q : Port) : Port := if q.lit then { q with state := 4, width := 0, stalled := false, closing := false, retraining := false } else q

/-- LASER_RELEASE (R662, step 3). -/
def execLaserRelease (input : Nat) (s : State) : Out :=
  if input ≥ 8 then .fault (.noSuchUnit input)
  else
    let rs := s.laserRings 0x0607 input
    let ports := s.enginePorts input
    if !s.alive || !(ports.any (fun p => match s.ports[p]? with | some q => q.closing | none => false) || !rs.isEmpty) then .next s
    else .next (rs.foldl (fun t r => t.release r {}) ((ports.foldl (fun t p => t.setPort p Port.dark) s).laserEvent input 1))

/-- LASER_DONE (R577, R663): both ports train again; without light they stay DARK. -/
def execLaserDone (src : Src) (s : State) : Out :=
  s.command src 0x0608 (fun _ => true) (fun t p =>
    let e := (pktP p 0).toNat
    let ports := t.enginePorts e
    if !t.fuses.usesInput e then t.refuse src p .denied
    else
      let t1 := t.hold src p
      if t.pins.laserLost.contains e then t1.settleLaser e
      else (t1.movePorts ports (fun q => if q.lit then
        { q with state := 1, width := 0, laneFail := 0, stalled := false, closing := false, retraining := true } else q)).settleLaser e)

/-- LASER_LOSS (R664, R686): both ports of the engine go DARK; an input that a LASER_PREPARE has released is no loss. -/
def execLaserLoss (input : Nat) (s : State) : Out :=
  if input ≥ 8 then .fault (.noSuchUnit input)
  else if !s.fuses.usesInput input || s.pins.laserLost.contains input then .next s
  else
    let s1 : State := { s with pins := { s.pins with laserLost := s.pins.laserLost ++ [input] } }
    let ports := s.enginePorts input
    let dark := ports.all (fun p => match s.ports[p]? with | some q => q.state == 4 || q.state == 3 | none => true)
    if !s.alive || dark then .next s1 else .next (((s1.movePorts ports Port.dark).laserEvent input 0).settleLaser input)

/-- LASER_INPUT_RESTORED (R686): nothing changes until LASER_DONE. -/
def execLaserInputRestored (input : Nat) (s : State) : Out :=
  if input ≥ 8 then .fault (.noSuchUnit input)
  else .next { s with pins := { s.pins with laserLost := s.pins.laserLost.filter (· != input) } }

/-! ## Packets at their destination -/

/-- What the owner's page tables and poison make of an access (R470, R592, R593). -/
inductive OwnerCheck where
  | ok
  | wait
  | refuse (st : St)
  deriving DecidableEq, Repr

/-- A read served at the owner, checked (R592). -/
def State.ownerRead (s : State) (a n : Nat) : OwnerCheck :=
  if (pagePieces a n).any (fun p => match s.page? p.1 with | none => true | some _ => false) then .refuse .unmapped
  else if (pagePieces a n).any (fun p => match s.page? p.1 with | some g => g.host | none => false) then .refuse .access
  else match s.checkRead a n with
  | .fault st _ => .refuse st
  | _ => .ok

/-- A write or an atomic served at the owner, checked (R592). -/
def State.ownerWrite (s : State) (a n : Nat) : OwnerCheck :=
  if (pagePieces a n).any (fun p => match s.page? p.1 with | none => true | some _ => false) then .refuse .unmapped
  else if (pagePieces a n).any (fun p => match s.page? p.1 with | some g => g.host || !g.write | none => false) then .refuse .access
  else match s.checkWrite false a n with
  | .fault st _ => .refuse st
  | .stop _ _ => .wait
  | .ok => .ok

/-- The check of a packet's access. -/
def State.ownerCheck (s : State) (b : FBody) : OwnerCheck :=
  match b with
  | .read _ a n => s.ownerRead a n
  | .write a bs _ => s.ownerWrite a bs.length
  | .addTo fmt a _ => s.ownerWrite a (widthOf fmt / 8)
  | .reserve _ a _ _ =>
    match s.ownerWrite a 8 with
    | .ok => s.ownerRead a 8
    | e => e
  | _ => .ok

/-- The number that the requester gave an access, if it has one. -/
def requestOf : FBody → Option Nat
  | .read r _ _ => some r
  | .reserve r _ _ _ => some r
  | _ => none

/-- The virtual address of a packet's access. -/
def accessAt : FBody → Nat
  | .read _ a _ => a
  | .write a _ _ => a
  | .addTo _ a _ => a
  | .reserve _ a _ _ => a
  | _ => 0

/-- The instruction that asked for a request: core, instruction, need. -/
def State.askerOf (s : State) (req : Nat) : Option (Nat × Nat × RemoteNeed) :=
  s.cores.zipIdx.findSome? (fun k => k.1.inflight.findSome? (fun f => (f.asked.find? (fun a => a.1 == req)).map (fun a => (k.2, f.idx, a.2))))

/-- The instruction that sent a packet: core, instruction. -/
def State.senderOf (s : State) (sock seq : Nat) : Option (Nat × Nat) :=
  s.cores.zipIdx.findSome? (fun k => (k.1.inflight.find? (fun f => f.acks.contains (sock, seq))).map (fun f => (k.2, f.idx)))

/-- An instruction carried on once its requests are answered and no translation fault holds it (R592). -/
def State.proceed (s : State) (c idx : Nat) : State :=
  match s.flightOf c idx with
  | some f => if f.asked.isEmpty && f.stop.isNone then s.goOn c idx else s
  | none => s

/-- A read of a cancelled dispatch has returned; its data is dropped (R450). -/
def State.readBack (s : State) (r : Nat) : State :=
  { s with dispatches := s.dispatches.map (fun (d : Nat × Dispatch) => (d.1, { d.2 with readsOut := d.2.readsOut.filter (fun x => x.1 != r) })) }

/-- The effect of an access that passed its check (R589, R591 to R593, R596), or of a response (R592). What an instruction no longer waits for
is dropped (R595). -/
def State.effectOf (s : State) (src : Nat) (b : FBody) : State :=
  match b with
  | .read r a n => (s.touch a n).post src (.readData r (s.bytesAt a n))
  | .write a bs _ => s.putHere (.data a bs)
  | .addTo fmt a v => (s.touch a (widthOf fmt / 8)).putHere (.add a fmt v)
  | .reserve r a units limit =>
    let cur := ofLe (s.bytesAt a 8)
    let fits := cur + units ≤ limit
    let s1 := if fits then (s.touch a 8).writeVA a (leBytes 8 (cur + units)) else s.touch a 8
    s1.post src (.reserved r (if fits then some cur else none))
  | .tallyInc n v => s.addTally n v
  | .readData r bs =>
    match s.askerOf r with
    | some (c, idx, need) =>
      (s.updFlight c idx (fun f => { f with asked := f.asked.filter (fun a => a.1 != r), got := f.got ++ [(need, bs)] })).proceed c idx
    | none => (s.readBack r).moveData r bs
  | .reserved r old =>
    match s.askerOf r with
    | some (c, idx, _) =>
      (s.updFlight c idx (fun f => { f with asked := f.asked.filter (fun a => a.1 != r), cursor := insertK f.row (old.getD cursorFull) f.cursor })).proceed c idx
    | none => s.readBack r
  | .refusal (some r) _ st =>
    match s.askerOf r with
    | some (c, idx, need) => s.faultIn c idx st 0 need.addr
    | none => match s.owners.find? (fun o => o.2.asked == some r) with
      | some o => s.skipBlock o.1
      | none => s.readBack r
  | .refusal none seq st =>
    match s.senderOf src seq with
    | some (c, idx) => s.faultIn c idx st 0 (((s.stream src).unacked.find? (fun p => p.seq == seq)).elim 0 (fun p => accessAt p.body))
    | none => s
  | .ack | .replay | .notice _ => s

/-- The packets up to a number acknowledged (R589, R606). -/
def State.acknowledge (s : State) (sock seq : Nat) : State :=
  s.updStream sock (fun q => { q with unacked := q.unacked.filter (fun p => p.seq > seq), arrivals := q.arrivals.filter (fun a => a.1 > seq) })

/-- The next packet of a stream performed and acknowledged (R588, R589, R592); a refusal acknowledges the packet that it refuses. -/
def State.performNext (s : State) (src seq : Nat) (b : FBody) (size : Nat) : State :=
  let s1 := (s.updStream src (fun q => { q with expect := q.expect + 1 })).count 5 size
  match s1.ownerCheck b with
  | .refuse st => (s1.post src (.refusal (requestOf b) seq st)).postRaw src seq .ack
  | _ =>
    let s2 := s1.effectOf src b
    let s3 := match b with | .refusal _ n _ => s2.acknowledge src n | _ => s2
    s3.postRaw src seq .ack

/-- Whether a write of a socket waits for a page's move. -/
def State.holdsFor (s : State) (src : Nat) : Bool := s.ownerHolds.any (fun h => h.src == src)

/-- A packet at its destination (R588 to R590, R592): performed when it is the next of its stream, held when its page moves, else discarded. While a
write is held its stream goes no further. -/
def State.arrive (s : State) (p : FPacket) : State :=
  let q := s.stream p.src
  if p.epoch != routeEpoch (s.routeOf p.src) then s
  else if s.holdsFor p.src then (if p.seq == q.expect then s else s.postRaw p.src (q.expect + 1) .replay)
  else if p.seq != q.expect then s.postRaw p.src q.expect .replay
  else if s.ownerCheck p.body == .wait then { s with ownerHolds := s.ownerHolds ++ [⟨accessAt p.body, p.src, p.body⟩] }
  else s.performNext p.src p.seq p.body (packetSize p)

/-- A packet relayed to its destination, or an UNREACHABLE notice to its source (R585 to R587). -/
def State.relay (s : State) (p : FPacket) : State :=
  match s.exitPort p.dst with
  | some (port, dl) => (s.emit port { p with vl := if dl then 1 else p.vl }).count 6 (packetSize p)
  | none => match p.body with
    | .notice _ => s
    | _ => s.postRaw p.src 0 (.notice p.dst)

/-- Whether a port takes packets in (R579). -/
def State.portReceives (s : State) (port : Nat) : Bool := s.alive && s.self?.isSome && (match s.ports[port]? with | some q => q.state == 2 | none => false)

/-- The source of a stream told that a socket cannot be reached (R604). -/
def State.unreachable (s : State) (sock : Nat) : State :=
  if s.self? == some sock then s else (s.updStream sock (fun q => { q with unreachable := true })).cutSocket sock

/-- FABRIC_PACKET_RECEIVE (R585 to R593). A notice of another epoch is discarded as any packet is (R590). -/
def execFabricPacketReceive (port : Nat) (pkt : FPacket) (s : State) : Out :=
  if port ≥ s.ports.length then .fault (.noSuchUnit port)
  else if !s.portReceives port then .next s
  else if s.self? != some pkt.dst then .next (s.relay pkt)
  else match pkt.body with
  | .ack | .replay => .next s
  | .notice dead => .next (if pkt.epoch != routeEpoch (s.routeOf pkt.src) then s else s.unreachable dead)
  | _ => .next (s.arrive pkt)

/-- FABRIC_ACK_RECEIVE (R589): an acknowledgement, or a request for a replay from the first missing number. -/
def execFabricAckReceive (port : Nat) (pkt : FPacket) (s : State) : Out :=
  if port ≥ s.ports.length then .fault (.noSuchUnit port)
  else if !s.portReceives port then .next s
  else if s.self? != some pkt.dst then .next (s.relay pkt)
  else if pkt.epoch != routeEpoch (s.routeOf pkt.src) then .next s
  else match pkt.body with
  | .ack => .next (s.acknowledge pkt.src pkt.seq)
  | .replay => .next ((if pkt.seq == 0 then s else s.acknowledge pkt.src (pkt.seq - 1)).resend pkt.src pkt.seq)
  | _ => .next s

/-- UNREACHABLE_NOTICE (R604). -/
def execUnreachableNotice (socket : Nat) (s : State) : Out :=
  if !s.alive || s.self?.isNone || socket ≥ 4096 then .next s else .next (s.unreachable socket)

/-! ## The end of a move -/

/-- Writes of other sockets held for pages that have moved, performed and acknowledged in their order (R592). -/
def State.performRemote (s : State) (vs : List Nat) : State :=
  let mine := fun (h : OwnerHold) => h.src != localSock && vs.contains (h.va / 65536)
  (s.ownerHolds.filter mine).foldl (fun t h => t.performNext h.src (t.stream h.src).expect h.body (32 + payloadOf h.body))
    { s with ownerHolds := s.ownerHolds.filter (fun h => !mine h) }

/-- MIGRATION_COPY_DONE (R488 steps 3 to 6, R489, R592). -/
def execMigrationCopyDone (copy : PageCopy) (s : State) : Out :=
  let v := copy.va / 65536
  match lookupK v s.pages with
  | some g => if s.running && g.moving.isSome then .next ((s.endMove v copy.errs).performRemote (s.moveGroup v)) else .next s
  | none => .next s

end Sys2Proof.Machine
end

