-- ==== Sys2Proof/Machine/Service.lean ====
section
/-! DEFINITION. Live service: row repair (R143), quarantine and region isolation (R644 to R651), the debug port (R564), chip-level errors
(R652 to R654), junctions, power and the power states of cores (R46 to R49, R710, R711). -/
namespace Sys2Proof.Machine

/-! ## Rows and cores -/

/-- REPAIR_ROW (R143): the switch follows at the array's next tile boundary (R140). -/
def execRepairRow (src : Src) (s : State) : Out :=
  s.command src 0x0601 (fun _ => true) (fun t p =>
    let c := (pktP p 0).toNat
    let row := (pktP p 1).toNat
    let k := t.core c
    let served := k.repair.sp0 == some row || k.repair.sp1 == some row || k.repair.pending.any (fun q => q.1 == row)
    if c ≥ t.cores.length then t.refuse src p .handle
    else if !k.present || k.repair.fenced then t.refuse src p .busy
    else if !k.repair.free then t.refuse src p .exhausted
    else if served then t.refuse src p .repaired
    else (t.updCore c (fun q => { q with repair := { q.repair with pending := q.repair.pending ++ [(row, true)] } })).done src p)

/-- A core stopped at once and quarantined (R427, R644): what its transfers had not had accepted is not written. -/
def State.quarantineNow (s : State) (c : Nat) (cause : QuarCause) : State :=
  (s.undoWrites (s.openWrites (s.core c))).quarantine c cause (s.core c).accession

/-- QUARANTINE_CORE (R646). -/
def execQuarantineCore (src : Src) (s : State) : Out :=
  s.command src 0x0604 (fun _ => true) (fun t p =>
    let c := (pktP p 0).toNat
    let g := t.region (regionOf c)
    if c ≥ t.cores.length then t.refuse src p .handle
    else if !(t.core c).present then t.refuse src p .busy
    else if g.spareUsed || !g.spareOk then t.refuse src p .exhausted
    else (t.quarantineNow c .command).done src p)

/-- CORE_ERROR_QUARANTINE (R640, R644): an uncorrectable error in a core's carrel, or in its sequencer and the units beside it. -/
def execCoreErrorQuarantine (core : Nat) (cause : QuarCause) (s : State) : Out :=
  if core ≥ s.cores.length then .fault (.noSuchUnit core)
  else if !s.running || !(s.core core).present || !(cause == .carrel || cause == .sequencer) then .next s
  else .next (s.quarantineNow core cause)

/-! ## Regions -/

/-- The tiles that an isolated region's counter gives up (R649): those not yet taken as ranges, and those taken, returned or suspended. -/
def Counter.giveUp (k : Counter) : List (Nat × Nat) × List Nat :=
  let back := ((k.taken.map Prod.fst ++ k.returned ++ k.suspended).filter (fun t => !k.committed.contains t)).dedup
  ((k.committed ++ back).foldl (fun l t => cutRanges t (t + 1) l) k.ranges, back)

/-- A counter of an isolated region once its tiles are gone: it keeps the record of those committed. -/
def Counter.emptied (k : Counter) : Counter :=
  { k with ranges := k.committed.map (fun t => (t, t + 1)), unformed := [], chunks := [], returned := [], taken := [], suspended := [],
           state := if k.state == .cancelling then .cancelling else .draining }

/-- A dispatch that goes on loses its counter in an isolated region (R649). -/
def State.uproot (s : State) (r n : Nat) : State :=
  match s.dispatch? n with
  | none => s
  | some d =>
    match (d.counterIn r).bind (fun k => (s.counter? r k).map (fun q => (k, q))) with
    | none => s
    | some (k, q) =>
      if d.cancelling then s
      else
        let g := q.giveUp
        (((s.updCounter r k Counter.emptied).updDispatch n (fun e =>
          { e with homeless := e.homeless ++ g.1, homelessBack := e.homelessBack ++ g.2 }))).rehome n

/-- The dispatches that an isolation ends, with the detail of their status (R649). -/
def State.isolationEnds (s : State) (r : Nat) (cause : IsoCause) : List (Nat × Nat) :=
  let desk := if cause == .desk then (s.dispatches.filter (fun d => (d.2.counterIn r).isSome)).map (fun d => (d.1, 2)) else []
  let hit := fun (j : Job) => (j.region == some r && !j.finished)
    || j.runs.any (fun x => match x.core with | some p => regionOf p.1 == r | none => false)
  desk ++ (s.jobs.filter (fun j => hit j.2)).filterMap (fun j => j.2.dispatch.map (fun n => (n, 3)))

/-- A region isolated (R36, R648, R649). -/
def State.isolate (s : State) (r : Nat) (cause : IsoCause) : State :=
  let s1 := s.undoWrites ((s.region r).contexts.flatMap (fun x => s.openWrites x.core))
  let s2 := s1.updRegion r (fun g => { g with isolated := some cause, contexts := [] })
  let s3 := (s2.isolationEnds r cause).foldl (fun t e => t.beginCancel e.1 .faulted e.2) s2
  let s4 := (regionCores r).foldl (fun t c => t.stopCore c) s3
  let s5 := (s4.dispatches.map Prod.fst).foldl (fun t n => t.uproot r n) s4
  s5.plainEvent 0x0017 (low 4 r + at_ 8 cause.code)

/-- ISOLATE_REGION (R651). -/
def execIsolateRegion (src : Src) (s : State) : Out :=
  s.command src 0x0605 (fun _ => true) (fun t p =>
    let r := (pktP p 0).toNat
    if r ≥ t.regions.length then t.refuse src p .handle
    else if (t.region r).isolated.isSome then t.refuse src p .busy
    else if ((List.range t.regions.length).filter t.inService).length ≤ 1 then t.refuse src p .nofit
    else (t.isolate r .command).done src p)

/-- REGION_ERROR_ISOLATE (R648): an uncorrectable error in the desk, the bindery, a stack engine or the memory port. -/
def execRegionErrorIsolate (region : Nat) (cause : IsoCause) (s : State) : Out :=
  if region ≥ s.regions.length then .fault (.noSuchUnit region)
  else if !s.running || !s.inService region || cause == .command then .next s
  else .next (s.isolate region cause)

/-- RESTORE_REGION (R651): `passes` is the outcome of the checks. -/
def execRestoreRegion (src : Src) (passes : Bool) (s : State) : Out :=
  s.command src 0x0606 (fun _ => true) (fun t p =>
    let r := (pktP p 0).toNat
    if r ≥ t.regions.length then t.refuse src p .handle
    else match (t.region r).isolated with
    | none => t.refuse src p .busy
    | some cause =>
      if !passes then t.refuse src p .faulted
      else (((t.updRegion r (fun g => { g with isolated := none })).plainEvent 0x0017 (low 4 r + at_ 4 1 + at_ 8 cause.code)).rehomeAll).done src p)

/-! ## The debug port -/

/-- Whether the debug port is enabled (R616, R618). -/
def State.debugOn (s : State) : Bool := s.straps.getLsbD 18 && !s.fuses.debugBlown

/-- The bytes of each target of the debug port. The stationary registers are the two of each cell (R89), and the dense engine's repair word, which
the debug port can read (R145), stands behind them (log entry 188). -/
def debugSize : Nat → Nat
  | 0 => 256 * shelfBytes
  | 1 => 256 * 16
  | 2 => 128 * 128 * 128
  | _ => 2 * 65536 + 4

/-- The bytes that a target shows; the shelf tags one after another, 16 bytes each (R338). -/
def Core.debugBytes (k : Core) (target a n : Nat) : List Byte :=
  match target with
  | 0 => k.carrel.readBytes a n
  | 1 => (((List.range 256).flatMap (fun i => leBytes 16 (k.tag i).word)).drop a).take n
  | 2 => k.acc.readBytes a n
  | _ => (List.range n).map (fun i =>
      let x := a + i
      if x < 65536 then k.stat.read x else if x < 2 * 65536 then k.statNext.read (x - 65536)
      else BitVec.ofNat 8 (k.repair.word / 2 ^ (8 * (x - 2 * 65536))))

/-- A tag stored; a word of zeros is no object. -/
def Core.putTag (k : Core) (sh w : Nat) : Core := { k with tags := if w = 0 then eraseK sh k.tags else insertK sh (Tag.ofWord w) k.tags }

/-- Bytes written to a target; the repair word is read only. -/
def Core.debugWrite (k : Core) (target a : Nat) (bs : List Byte) : Core :=
  match target with
  | 0 => { k with carrel := k.carrel.writeBytes a bs }
  | 1 =>
    let old := k.debugBytes 1 0 4096
    let new := old.take a ++ bs ++ old.drop (a + bs.length)
    (List.range 256).foldl (fun q i =>
      if i * 16 + 16 ≤ a || a + bs.length ≤ i * 16 then q else q.putTag i (ofLe ((new.drop (i * 16)).take 16))) k
  | 2 => { k with acc := k.acc.writeBytes a bs }
  | _ => { k with stat := k.stat.writeBytes a (bs.take (65536 - a))
                  statNext := k.statNext.writeBytes (a - 65536) ((bs.drop (65536 - a)).take (2 * 65536 - Nat.max a 65536)) }

/-- Whether a debug access waits: the accumulators are reached at a tile boundary only (R26). -/
def State.debugWaits (s : State) (p : Packet) : Bool :=
  s.debugOn && (pktP p 0).toNat == 2 && (pktP p 1).toNat < s.cores.length && (s.core (pktP p 1).toNat).accBusy

/-- The refusal of a debug access (R564). -/
def State.debugFault (s : State) (p : Packet) : Option Stat :=
  let c := (pktP p 1).toNat
  let t := (pktP p 0).toNat
  if !s.debugOn then some ⟨.denied, 0⟩
  else if t > 3 then some ⟨.field, 0⟩
  else if c ≥ s.cores.length then some ⟨.handle, 0⟩
  else if !(s.core c).present then some ⟨.busy, 0⟩
  else if (pktP p 2).toNat + (pktP p 3).toNat > debugSize t then some ⟨.bounds, 0⟩ else none

/-- DBG_READ (R564). -/
def execDbgRead (src : Src) (s : State) : Out :=
  s.command src 0x7F00 (fun p => !s.debugWaits p) (fun t p =>
    let n := (pktP p 3).toNat
    match t.debugFault p with
    | some e => t.refuse src p e.st e.detail
    | none =>
      match t.destFault (pktP p 4) n 4 with
      | some e => t.refuse src p e.st e.detail
      | none => (t.sysWrite (pktP p 4) ((t.core (pktP p 1).toNat).debugBytes (pktP p 0).toNat (pktP p 2).toNat n)).done src p)

/-- DBG_WRITE (R564). -/
def execDbgWrite (src : Src) (s : State) : Out :=
  s.command src 0x7F01 (fun p => !s.debugWaits p) (fun t p =>
    match t.debugFault p with
    | some e => t.refuse src p e.st e.detail
    | none => t.withBlock src p 4 (pktP p 3).toNat (fun u bs =>
        (u.updCore (pktP p 1).toNat (fun k => k.debugWrite (pktP p 0).toNat (pktP p 2).toNat bs)).done src p))

/-- MCTP_CONTROL_MESSAGE (R619): the endpoint answers as DSP0236 says, whose contents this manual does not give (log entry 5). -/
def execMctpControlMessage (_msg : List Byte) (s : State) : Out :=
  if !s.endpointUp then .next s
  else
    let (n, s1) := s.takeFresh
    .next { s1 with sideOut := s1.sideOut ++ [freeBytes n 0 (Config.freeNat n)] }

/-! ## Chip-level errors -/

/-- Whether firmware or the boot ROM runs, so that a fatal error can be declared. -/
def State.up (s : State) : Bool := match s.mode with | .running | .recovery | .booting | .recovering => true | _ => false

/-- A fatal error (R653): the FATAL event takes the next entry of the event ring, or the next slot of the queue. -/
def State.fatal (s : State) (cause : Nat) : State :=
  let e : Event := ⟨0x0020, .ok, 0, 0xFF, 0, cause, none⟩
  let s1 := if s.hif.evqOn && s.hif.ready && s.evq.used < s.evqEntries then s.writeEvent e else s.event e
  { s1 with mode := .fatal cause }

/-- BRIDGE_FLIT_CRC_FAIL (R652): `again` says that the flit was itself a replay. -/
def execBridgeFlitCrcFail (link : Nat) (again : Bool) (s : State) : Out :=
  if link ≥ s.bridge.length then .fault (.noSuchUnit link)
  else if !s.up then .next s
  else
    let n := if again then (s.bridge[link]?).getD 0 + 1 else 0
    let s1 := { s with bridge := s.bridge.set link n }
    .next (if n ≥ 16 then s1.fatal 0 else s1)

/-- FABRIC_ARBITER_ERROR (R653). -/
def execFabricArbiterError (s : State) : Out := .next (if s.up then s.fatal 1 else s)

/-- MGMT_PROCESSOR_FAIL (R653, R654). -/
def execMgmtProcessorFail (proc : Nat) (s : State) : Out :=
  if proc ≥ 4 then .fault (.noSuchUnit proc)
  else if !s.up || s.fw.failed.contains proc then .next s
  else if s.fw.failed.isEmpty then .next { s with fw := { s.fw with failed := [proc] } } else .next (s.fatal 2)

/-- MGMT_RESTART_COMPLETE (R654). -/
def execMgmtRestartComplete (proc : Nat) (s : State) : Out :=
  if proc ≥ 4 then .fault (.noSuchUnit proc)
  else if !s.up || !s.fw.failed.contains proc then .next s
  else .next (({ s with fw := { s.fw with failed := s.fw.failed.filter (· != proc) } } : State).plainEvent 0x001C proc)

/-! ## Heat and power -/

/-- JUNCTION_HOT (R710). -/
def execJunctionHot (s : State) : Out := .next (if s.running then { s with thermal := true } else s)
/-- JUNCTION_COOL (R710). -/
def execJunctionCool (s : State) : Out := .next (if s.running then { s with thermal := false } else s)
/-- POWER_LIMIT_REACHED (R49). -/
def execPowerLimitReached (s : State) : Out := .next (if s.running then { s with powerCap := true } else s)
/-- POWER_BELOW_LIMIT (R49). -/
def execPowerBelowLimit (s : State) : Out := .next (if s.running then { s with powerCap := false } else s)

/-- THERMTRIP (R711). -/
def execThermtrip (s : State) : Out :=
  match s.mode with
  | .off | .railFault => .next s
  | _ => .next { s with mode := .hot, pins := { s.pins with thermTrip := true } }

/-- A core without power: its carrel and the contents of its engines are lost (R46). A run that a commit has handed to a merge job lost nothing:
the bindery took its entries when it was admitted (log entry 189). -/
def State.gateCore (s : State) (c : Nat) : State :=
  let (n, s1) := s.takeFresh
  let (m, s2) := s1.takeFresh
  let (q, s3) := s2.takeFresh
  let (r, s4) := s3.takeFresh
  let lost := fun (i size : Nat) => Mem.cells 0 (freeBytes i 0 size)
  s4.updCore c (fun k => { k with power := .gated, tags := [], recs := [], drained := [], carrel := lost n (debugSize 0), acc := lost m (debugSize 2)
                                  stat := lost q 65536, statNext := lost r 65536 })

/-- CORE_PARK (R46, R48): a core that holds no taken tile is parked, or gated once it runs no program either. A core with an instruction in
flight is not parked (log entry 190). -/
def execCorePark (core : Nat) (gate : Bool) (s : State) : Out :=
  if core ≥ s.cores.length then .fault (.noSuchUnit core)
  else
    let k := s.core core
    if !s.running || !k.present || k.held.isSome || !k.inflight.isEmpty || k.power == .gated then .next s
    else if gate then .next (if k.dispatch.isSome then s else s.gateCore core)
    else .next (s.updCore core (fun q => { q with power := .parked }))

/-- CORE_WAKE (R47). -/
def execCoreWake (core : Nat) (s : State) : Out :=
  if core ≥ s.cores.length then .fault (.noSuchUnit core)
  else if !s.running || !(s.core core).present then .next s
  else .next (s.updCore core (fun q => { q with power := .active }))

end Sys2Proof.Machine
end

