-- ==== Sys2Proof/Machine/Boot.lean ====
section
/-! DEFINITION. Firmware images and the archive (R626 to R633, R656 to R658), the boot (R610, R616, R617, R621 to R625, R708, R709), resets
(R608 to R613), power, reference and test port (R44, R694, R695, R707). -/
namespace Sys2Proof.Machine

/-! ## Images -/

/-- 15 MiB, the size of an image slot (R627). -/
def slotBytes : Nat := 15 * 2 ^ 20
/-- Writes that an archive page endures (R627). -/
def pageWrites : Nat := 100000

/-- A field of a byte string taken as a little-endian integer (R9). -/
def fieldOf (bs : List Byte) (lo n : Nat) : Nat := ofLe ((bs.drop lo).take n)

/-- FW.SIZE of an image. -/
def fwSize (bs : List Byte) : Nat := fieldOf bs 72 4
/-- FW.VERSION. -/
def fwVersion (bs : List Byte) : Nat := fieldOf bs 68 2
/-- FW.SVN. -/
def fwSvn (bs : List Byte) : Nat := bits (fieldOf bs 70 2) 5 0
/-- FW.RAISE. -/
def fwRaise (bs : List Byte) : Bool := bit (fieldOf bs 70 2) 6

/-- Whether the header's magic and size are legal and its reserved bits 0 (R628). -/
def headerOk (bs : List Byte) : Bool :=
  let z := fwSize bs
  fieldOf bs 64 4 == 0x0A09F1A0 && 256 ≤ z && z % 64 == 0 && z ≤ slotBytes - 256 && bits (fieldOf bs 70 2) 15 7 == 0
    && fieldOf bs 76 180 == 0 && z ≤ bs.length

/-- Whether an image carries the Ocros signature (R628). -/
def ocrosOk (bs : List Byte) : Bool :=
  ecdsaVerify Config.ocrosKey (shaNat ((bs.take (fwSize bs)).drop 64)) (fieldOf bs 0 32) (fieldOf bs 32 32)

/-- The owner trailer of an image, where it has one: the 256 bytes from FW.SIZE. -/
def trailer? (bs : List Byte) : Option (List Byte) :=
  let z := fwSize bs
  if bs.length == z + 256 then some (bs.drop z) else none

/-- OWNR.ACTION. -/
def ownAction (t : List Byte) : Nat := bits (fieldOf t 196 4) 1 0
/-- OWNR.KEY. -/
def ownKey (t : List Byte) : Nat × Nat := (fieldOf t 128 32, fieldOf t 160 32)

/-- The digest that both owner signatures cover (R629). -/
def ownDigest (bs t : List Byte) : Nat := shaNat (bs.take (fwSize bs) ++ t.drop 128)
/-- Whether OWNR.SIG verifies under a key. -/
def ownSig (bs t : List Byte) (key : Nat × Nat) : Bool := ecdsaVerify key (ownDigest bs t) (fieldOf t 0 32) (fieldOf t 32 32)
/-- Whether OWNR.SIG2 verifies under a key. -/
def ownSig2 (bs t : List Byte) (key : Nat × Nat) : Bool := ecdsaVerify key (ownDigest bs t) (fieldOf t 64 32) (fieldOf t 96 32)
/-- Whether a trailer's magic and reserved bits are legal (R629). -/
def trailerLegal (t : List Byte) : Bool := fieldOf t 192 4 == 0x0A090E4E && bits (fieldOf t 196 4) 31 2 == 0 && fieldOf t 200 56 == 0

/-- Whether a trailer verifies under a key (R629). -/
def trailerOk (bs t : List Byte) (key : Nat × Nat) : Bool :=
  trailerLegal t && (ownSig bs t key || (ownAction t == 2 && ownKey t == key && ownSig2 bs t key))

/-- R628, against an SVN floor and the enrolled owner key. -/
def imagePasses (floor : Nat) (owner : Option (Nat × Nat)) (bs : List Byte) : Bool :=
  headerOk bs && floor ≤ fwSvn bs && ocrosOk bs
    && (match owner with
        | none => true
        | some e => match trailer? bs with | some t => trailerOk bs t e | none => false)

/-- The check of step 3 of R631: without an owner key, a trailer that enrols must verify under its own key. -/
def writePasses (floor : Nat) (owner : Option (Nat × Nat)) (bs : List Byte) : Bool :=
  imagePasses floor owner bs
    && (match owner, trailer? bs with
        | none, some t => if ownAction t == 1 then trailerLegal t && ownSig bs t (ownKey t) else true
        | _, _ => true)

/-! ## The archive -/

/-- The copy of two with the higher sequence number (R627). -/
def later {α : Type} (seq : α → Nat) (a b : Option α) : Option α :=
  match a, b with
  | some x, some y => if seq x < seq y then some y else some x
  | none, y => y
  | x, none => x

/-- The settings copy in force. -/
def Archive.setInForce (a : Archive) : Option SetCopy := later SetCopy.seq a.set0 a.set1

/-- The control record in force; where none is valid, no slot is VALID and no owner key is enrolled. -/
def Archive.control (a : Archive) : Control := (later Control.seq a.ctl0 a.ctl1).getD ⟨0, 0, none, false, false⟩

/-- The page of two that a write goes to: not the one in force (R627). -/
def otherPage {α : Type} (seq : α → Nat) (a b : Option α) : Bool :=
  match a, b with
  | some x, some y => seq y ≤ seq x
  | some _, none => true
  | none, _ => false

/-- The control record rewritten in the other page (R627). -/
def Archive.putControl (a : Archive) (f : Control → Control) : Archive :=
  let c := f { a.control with seq := (a.control.seq + 1) % 2 ^ 32 }
  if otherPage Control.seq a.ctl0 a.ctl1 then { a with ctl1 := some c } else { a with ctl0 := some c }

/-- A slot's state set in a control record. -/
def Control.mark (c : Control) (slot : Nat) (valid : Bool) : Control := if slot == 0 then { c with validA := valid } else { c with validB := valid }
/-- Whether a slot is VALID. -/
def Control.valid (c : Control) (slot : Nat) : Bool := if slot == 0 then c.validA else c.validB
/-- A slot. -/
def Archive.slot (a : Archive) (n : Nat) : Slot := if n == 0 then a.slotA else a.slotB
/-- A slot changed. -/
def Archive.updSlot (a : Archive) (n : Nat) (f : Slot → Slot) : Archive := if n == 0 then { a with slotA := f a.slotA } else { a with slotB := f a.slotB }
/-- The bytes in use of a slot. -/
def Slot.image (s : Slot) : List Byte := s.bytes.readBytes 0 s.len

/-- The settings page that a store writes: the one not in force, unless it has reached its limit (R627; log entry 34). -/
def Archive.setPage (a : Archive) : Option Bool :=
  let p := otherPage SetCopy.seq a.set0 a.set1
  let full := fun (q : Bool) => (if q then a.writes1 else a.writes0) ≥ pageWrites
  if !full p then some p else if !full (!p) then some (!p) else none

/-- A settings copy written (R627). -/
def Archive.putSettings (a : Archive) (v : Settings) : Archive :=
  let c : SetCopy := ⟨(match a.setInForce with | some x => (x.seq + 1) % 2 ^ 32 | none => 0), v⟩
  match a.setPage with
  | some true => { a with set1 := some c, writes1 := a.writes1 + 1 }
  | some false => { a with set0 := some c, writes0 := a.writes0 + 1 }
  | none => a

/-- Whether the archive takes another command: a handover keeps it (R627, R656). -/
def State.archiveOpen (s : State) : Bool := s.fw.handover.isNone

/-- What an archive operation does when it starts: the slot to be written is marked EMPTY (R631). -/
def Archive.begin (a : Archive) : Archive :=
  match a.ops with
  | .image _ _ slot _ :: _ => a.putControl (fun c => c.mark slot false)
  | _ => a

/-- An operation of the archive put in its queue; it starts at once where nothing runs. -/
def Archive.push (a : Archive) (o : ArchiveOp) : Archive :=
  if a.ops.isEmpty then ({ a with ops := [o] } : Archive).begin else { a with ops := a.ops ++ [o] }

/-- STORE_SETTINGS (R627): its reply follows the write. -/
def execStoreSettings (src : Src) (s : State) : Out :=
  s.command src 0x0106 (fun _ => s.archiveOpen) (fun t p =>
    match src with
    | .ring n =>
      if t.archive.setPage.isNone then t.refuse src p .nofit
      else if t.archive.ops.isEmpty && (t.archive.setInForce.map SetCopy.values) == some t.settings then t.done src p
      else { (t.hold src p) with archive := t.archive.push (.settings n p t.settings) }
    | _ => t)

/-- The slots from which processors run or are about to run. -/
def State.runningSlots (s : State) : List Nat :=
  if s.mode == .recovery then [] else s.fw.image :: s.fw.procs ++ (match s.fw.handover with | some (_, a, b) => [a, b] | none => [])

/-- IMAGE_WRITE (R631): its reply follows the write and its check. -/
def execImageWrite (src : Src) (s : State) : Out :=
  s.command src 0x0609 (fun _ => s.archiveOpen) (fun t p =>
    let slot := (pktP p 0).toNat
    let a := pktP p 1
    let n := (pktP p 2).toNat
    match src with
    | .ring r =>
      if t.runningSlots.contains slot then t.refuse src p .busy
      else if n < 256 then t.refuse src p .field 2
      else t.withBlock src p 1 256 (fun u hd =>
        if n != fwSize hd && n != fwSize hd + 256 then u.refuse src p .field 2
        else if n > slotBytes || (u.archive.slot slot).writes ≥ pageWrites then u.refuse src p .nofit
        else match u.blockFault a n 1 with
        | some e => u.refuse src p e.st e.detail
        | none =>
          let v := (u.sysTouch (a + 256#64) (n - 256)).hold src p
          { v with archive := v.archive.push (.image r p slot (u.sysBytes a n)) })
    | _ => t)

/-- The bytes of a slot replaced by an image. -/
def Slot.write (s : Slot) (data : List Byte) : Slot := ⟨Mem.cells 0 data, data.length, s.writes + 1⟩

/-- The reply of an archive operation to the ring that carries its packet out. -/
def State.archiveReply (s : State) (ring : Nat) (p : Packet) (st : St) : State :=
  match (lookupK ring s.rings).bind Ring.busy with
  | some q => if q == p then s.release ring { st := st } else s
  | none => s

/-- Whether Hokuec or the boot ROM runs, a fatal stop of the rings apart. -/
def State.functionUp (s : State) : Bool := match s.mode with | .running | .recovery | .booting | .recovering | .fatal _ => true | _ => false

/-- ARCHIVE_WRITE_COMPLETE (R627, R631): the first operation of the archive ends, and the next starts. -/
def execArchiveWriteComplete (s : State) : Out :=
  if !s.functionUp then .next s
  else match s.archive.ops with
  | [] => .next s
  | o :: rest =>
    let next := fun (t : State) => { t with archive := ({ t.archive with ops := rest } : Archive).begin }
    match o with
    | .settings ring p v =>
      let same := (s.archive.setInForce.map SetCopy.values) == some v
      if s.archive.setPage.isNone then .next ((next s).archiveReply ring p .nofit)
      else .next ((next { s with archive := if same then s.archive else s.archive.putSettings v }).archiveReply ring p .ok)
    | .image ring p slot data =>
      let a := s.archive.updSlot slot (fun q => q.write data)
      let ok := writePasses s.fuses.svnFloor a.control.owner (a.slot slot).image
      let a2 := if ok then a.putControl (fun c => c.mark slot true) else a
      .next ((next { s with archive := a2 }).archiveReply ring p (if ok then .ok else .auth))

/-! ## Activation and handover -/

/-- The owner key after the activation of an image (R632), or none where it is refused. -/
def ownerAfter (owner : Option (Nat × Nat)) (bs : List Byte) : Option (Option (Nat × Nat)) :=
  match trailer? bs with
  | none => some owner
  | some t =>
    match ownAction t, owner with
    | 1, none => some (some (ownKey t))
    | 1, some e => if ownKey t == e then some owner else none
    | 2, some e => if ownSig bs t e && ownSig2 bs t (ownKey t) then some (some (ownKey t)) else none
    | 3, some _ => some none
    | _, _ => some owner

/-- Whether a slot is being written or waits to be. -/
def Archive.writing (a : Archive) (slot : Nat) : Bool := a.ops.any (fun o => match o with | .image _ _ k _ => k == slot | _ => false)

/-- IMAGE_ACTIVATE (R626, R632, R633, R656). In recovery the device then stands in the WARM reset that WARM_RESET completes. -/
def execImageActivate (src : Src) (s : State) : Out :=
  s.command src 0x060A (fun p => s.archiveOpen && (s.archive.ops.isEmpty || s.archive.writing (pktP p 0).toNat || s.txn.isSome)) (fun t p =>
    let slot := (pktP p 0).toNat
    let bs := (t.archive.slot slot).image
    let ctl := t.archive.control
    if t.txn.isSome || t.archive.writing slot then t.refuse src p .busy
    else if !ctl.valid slot || !writePasses t.fuses.svnFloor ctl.owner bs then t.refuse src p .auth
    else match ownerAfter ctl.owner bs with
    | none => t.refuse src p .auth
    | some owner =>
      let old := t.fw.image
      let u := { t with archive := t.archive.putControl (fun c => { c with active := slot, owner := owner }) }
      if u.mode == .recovery then { (u.done src p) with mode := .off }
      else if old == slot then u.done src p
      else { (u.hold src p) with fw := { u.fw with handover := some (3, slot, old) } })

/-- A FIRMWARE event (R655). -/
def State.firmwareEvent (s : State) (proc image : Nat) (back : Bool) : State :=
  s.plainEvent 0x001B (low 2 proc + at_ 2 (low 1 image) + at_ 3 (b2n back))

/-- The firmware running, read from the slot that processor 0 starts. -/
def Firmware.load (f : Firmware) (slot : Nat) (bs : List Byte) : Firmware :=
  { f with image := slot, version := fwVersion bs, svn := fwSvn bs, digest := ofLe (sha256 (bs.take (fwSize bs))) }

/-- The rings that carry out an IMAGE_ACTIVATE get their reply. -/
def State.activateReply (s : State) (r : Rep) : State := (s.ringsBusy 0x060A (fun _ => true)).foldl (fun t n => t.release n r) s

/-- PROCESSOR_HANDOVER_COMPLETE (R656, R658): the processor runs the new image, or all return to the old one. -/
def execProcessorHandoverComplete (proc : Nat) (ok : Bool) (s : State) : Out :=
  if proc ≥ 4 then .fault (.noSuchUnit proc)
  else match s.fw.handover with
  | none => .next s
  | some (cur, slot, old) =>
    if !s.up || proc != cur then .next s
    else
      let bs := (s.archive.slot slot).image
      if ok && imagePasses s.fuses.svnFloor s.archive.control.owner bs then
        let f := { s.fw with procs := s.fw.procs.set proc slot, handover := if proc == 0 then none else some (proc - 1, slot, old) }
        let f2 := if proc == 0 then f.load slot bs else f
        let s1 := ({ s with fw := f2 } : State).firmwareEvent proc slot false
        .next (if proc == 0 then s1.activateReply {} else s1)
      else
        let back := ((List.range 4).filter (fun i => i > proc))
        let s1 := { s with fw := { s.fw with procs := [old, old, old, old], handover := none }
                           archive := s.archive.putControl (fun c => { c with active := old }) }
        .next ((back.foldl (fun t i => t.firmwareEvent i old true) s1).activateReply { st := .auth, detail := 1 })

/-- SVN_FLOOR_RAISE (R630). -/
def execSvnFloorRaise (s : State) : Out :=
  match s.fw.raiseTo with
  | none => .next s
  | some n =>
    if !s.hif.ready || s.mode != .running then .next s
    else .next { s with fw := { s.fw with raiseTo := none }, fuses := { s.fuses with svnFloor := Nat.max s.fuses.svnFloor n } }

/-! ## What every reset does -/

/-- The writes of everything in progress end as R452 allows. -/
def State.abandonWork (s : State) : State :=
  s.undoWrites (s.cores.flatMap s.openWrites
    ++ s.regions.flatMap (fun g => g.contexts.flatMap (fun x => s.openWrites x.core)) ++ s.copies.flatMap CopyOp.undo)

/-- The live settings after a reset, and whether R610 gave defaults. -/
def State.loadSettings (s : State) (ignore : Bool) : State :=
  match if ignore then none else s.archive.setInForce with
  | some c => { s with settings := c.values, noarch := false }
  | none => { s with settings := .default s.fuses, noarch := true }

/-- A core number after a reset: its factory repair map (R144, R609). -/
def Fuses.core (f : Fuses) (c : Nat) : Core := .fresh (.ofWord (lookupD 0 c f.repair)) false true

/-- The state that R609 has every reset clear or discard. -/
def State.cleared_ (s : State) : State :=
  let f := s.fuses
  let s1 := s.abandonWork
  ({ s1 with
    hif := .reset, msix := [], pba := [], rings := [], evq := .reset, txn := none, cleared := [], retired := [], poison := [], poisonAt := [],
    ceLines := [], ceFrames := [], retireDue := [], spareFrames := 16384, restoring := [], pages := [], allocs := [], tensors := [],
    owners := [], polys := List.replicate 64 .reset, programs := [], jobs := [], copies := [], dispatches := [],
    regions := List.replicate f.regions (.fresh true), cores := (List.range (8 * f.regions)).map f.core, tallies := [], routes := [],
    sendVer := 0, sendRoutes := [], sendPrev := [], streams := [], ownerHolds := [], caches := ⟨[], [], []⟩, bridge := List.replicate 5 0,
    scrubAt := List.replicate 24 0
    ports := (List.range f.ports).map (fun p => .reset (bit s.straps.toNat (8 + f.engineOf p)))
    archive := { s1.archive with ops := [] }
    channels := s1.channels.map (fun c => { c with retired := 0, ce := 0, ue := 0, leaving := [], state := if c.state == 2 then 1 else c.state }) }
    : State).loadSettings (bit s.straps.toNat 2)

/-! ## The boot -/

/-- The slots in the order in which the boot ROM tries them (R616, R628). -/
def State.bootOrder (s : State) : List Nat :=
  let first := match bits s.straps.toNat 1 0 with | 1 => 0 | 2 => 1 | _ => s.archive.control.active
  [first, 1 - first]

/-- The slot that the boot ROM starts (R628): an EMPTY slot fails unread. -/
def State.bootSlot (s : State) : Option Nat :=
  s.bootOrder.find? (fun k => s.archive.control.valid k && imagePasses s.fuses.svnFloor s.archive.control.owner (s.archive.slot k).image)

/-- The strap's cap on the memory speed (R463, R616). -/
def memCap (straps : BitVec 19) : Nat := match bits straps.toNat 17 16 with | 0 => 12800 | 1 => 8800 | _ => 8000

/-- The capacity that the population rule takes into service (R462): that of the most channels, the larger winning a tie. -/
def mainSize (ds : List (Option Dimm)) : Nat :=
  let n := fun (z : Nat) => ds.countP (fun d => match d with | some x => dimmListed x && x.trains && x.sizeGiB == z | none => false)
  [32, 64, 128, 256].foldl (fun best z => if n z ≥ n best && n z > 0 then z else best) 0

/-- CHAN.STATE after training (R462, R466, R624). -/
def trainState (main : Nat) : Option Dimm → Nat
  | none => 0
  | some d => if !dimmListed d then 4 else if !d.trains then 5 else if d.sizeGiB == main then 1 else 4

/-- The data rate of the channels in service (R463); 0 where none is. -/
def trainRate (cap main : Nat) (ds : List (Option Dimm)) : Nat :=
  let rs := ds.filterMap (fun d => match d with | some x => if trainState main d == 1 then some x.rate else none | none => none)
  if rs.isEmpty then 0 else if rs.all (12800 ≤ ·) && 12800 ≤ cap then 12800 else if rs.all (8800 ≤ ·) && 8800 ≤ cap then 8800 else 8000

/-- All channels trained (R462, R463, R624). -/
def State.trainAll (s : State) (dimms : List (Option Dimm)) : State :=
  let ds := (List.range 24).map (fun i => ((dimms[i]?).getD none))
  let main := mainSize ds
  let rate := trainRate (memCap s.straps) main ds
  { s with rate := rate, channels := (ds.zip s.channels).map (fun p =>
      let st := trainState main p.1
      { p.2 with state := st, dimm := p.1, size := match p.1 with | some d => d.sizeGiB | none => 0, rate := if st == 1 then rate else 0 }) }

/-- The kept training parameters loaded again (R623): a channel without power is FAILED (R709). -/
def State.retrainKept (s : State) : State :=
  { s with channels := s.channels.map (fun c => if c.pwren == some false then { c with state := 5, rate := 0 } else c) }

/-- A row that the boot check finds bad (R624): it is treated as at the second mismatch of R142. The check does not say how it was found (log
entry 5). -/
def State.bootRow (s : State) (c row : Nat) : State :=
  let (n, s1) := s.takeFresh
  let s2 := s1.mismatchEvent c 4 false ⟨row, Config.freeBit n row⟩ 2
  if (s2.core c).repair.free then
    (s2.updCore c (fun k => { k with repair := k.repair.switch row })).repairEvent c false
  else ((s2.updCore c (fun k => { k with repair := { k.repair with exhausted := true } })).repairEvent c false .exhausted).fence c false

/-- The array check of boot step 6 (R624); numbers past the part's cores stand for the spare cores, region by region (log entry 35). -/
def State.checkArrays (s : State) (fails : List (Nat × Nat)) : State :=
  let n := s.cores.length
  let bad := fun (r : Nat) =>
    let rep := Repair.ofWord (lookupD 0 r s.fuses.spareRepair)
    b2n rep.sp0.isSome + b2n rep.sp1.isSome + fails.countP (fun p => p.1 == n + r) > 2
  let s1 := (List.range s.regions.length).foldl (fun t r => t.updRegion r (fun g => { g with spareOk := !bad r })) s
  (fails.filter (fun p => p.1 < n && p.2 < 128)).foldl (fun t p => if (t.core p.1).present && !(t.core p.1).spare then t.bootRow p.1 p.2 else t) s1

/-- A boot (R621, R623): `kind` is the reset, 0 POWER-ON, 1 COLD, 2 WARM. It ends with HIF.READY still 0; HIF_READY ends step 7. -/
def State.boot (s : State) (kind : Nat) (b : BootIn) : State :=
  let cold := kind < 2
  let s1 := ({ s with straps := if cold then b.straps else s.straps } : State).cleared_
  let s2 := { s1 with lastReset := kind, thermal := false, powerCap := false
                      pins := { s1.pins with linkUp := false, linkWidth := 0, coldHeld := false, extest := [] }
                      channels := if cold then s1.channels.map (fun (c : Channel) => { c with pwren := some true }) else s1.channels }
  match s2.bootSlot with
  | none =>
    let off := if cold then { s2 with rate := 0, channels := s2.channels.map (fun (c : Channel) => { c with state := 0, rate := 0, size := 0, dimm := none }) } else s2
    { off with mode := .recovering, fw := ⟨0, 0, 0, 0, [0, 0, 0, 0], none, [], none⟩ }
  | some k =>
    let bs := (s2.archive.slot k).image
    let up := fwRaise bs && s2.fuses.svnFloor < fwSvn bs
    let f := ({ s2.fw with procs := [k, k, k, k], handover := none, failed := [], raiseTo := if up then some (fwSvn bs) else none } : Firmware).load k bs
    let s3 := { s2 with mode := .booting, fw := f }
    (if cold then s3.trainAll b.dimms else (if s3.rate == 0 then s3.trainAll b.dimms else s3).retrainKept).checkArrays b.rowFails

/-- HIF_READY (R515, R584, R621, R625): the boot ends; ports that no strap disables begin to train, and enables written earlier take effect. -/
def execHifReady (s : State) : Out :=
  let go := fun (m : Mode) (train : Bool) =>
    let s1 := { s with mode := m, hif := { s.hif with ready := true } }
    let s2 := if train then (List.range s1.ports.length).foldl (fun t p =>
        match t.ports[p]? with | some q => if q.state == 0 then t.setPort p (fun x => { x with state := 1 }) else t | none => t) s1 else s1
    let s3 := if s2.hif.aqEn then s2.applyAq else s2
    if s3.hif.evqEn then s3.applyEvq else s3
  match s.mode with
  | .booting => .next (go .running true)
  | .recovering => .next (go .recovery false)
  | _ => .next s

/-! ## Resets -/

/-- PWRGOOD_RISE (R608, R621). -/
def execPwrgoodRise (boot : BootIn) (s : State) : Out :=
  if s.pins.pwrgood then .next s
  else .next (({ s with pins := { s.pins with pwrgood := true, pwrFault := false, thermTrip := false } } : State).boot 0 boot)

/-- PWRGOOD_FALL (R694, R704, R708, R711): the device stops, and no power-enable is driven. -/
def execPwrgoodFall (s : State) : Out :=
  if !s.pins.pwrgood then .next s
  else
    let s1 := s.cleared_
    .next { s1 with mode := .off, channels := s1.channels.map (fun c => { c with pwren := none })
                    pins := { s1.pins with pwrgood := false, thermTrip := false, linkUp := false, linkWidth := 0 } }

/-- COLD_RESET (R608, R623, R703, R711): its input is read by edges of the reference, and a rail fault holds the POWER-ON reset (R695). -/
def execColdReset (boot : BootIn) (s : State) : Out :=
  if !s.pins.pwrgood then .next s
  else match s.mode with
  | .railFault | .noReference => .next s
  | _ => .next (({ s with pins := { s.pins with thermTrip := false } } : State).boot 1 boot)

/-- WARM_RESET (R608, R623, R704): by WARM_RESET_N or PERST_N alike. -/
def execWarmReset (_perst : Bool) (boot : BootIn) (s : State) : Out :=
  if !s.pins.pwrgood || s.pins.coldHeld then .next s
  else match s.mode with
  | .railFault | .noReference | .hot => .next s
  | _ => .next (s.boot 2 boot)

/-- The state after an FLR (R609, R613): Hokuec goes on, unless it has stopped (R653). -/
def State.flrState (s : State) : State :=
  let ready := s.hif.ready
  let s1 := s.cleared_
  let s2 := { s1 with lastReset := 3, hif := { s1.hif with ready := ready } }
  if s.mode == .running && ready then
    (List.range s2.ports.length).foldl (fun t p =>
      match t.ports[p]? with | some q => if q.state == 0 then t.updPort p (fun x => { x with state := 1 }) else t | none => t) s2
  else s2

/-- FLR (R613). -/
def execFlr (s : State) : Out := .next (if s.functionUp && s.pins.linkUp then s.flrState else s)

/-- PCIE_HOT_RESET (R608, R609): an FLR, and the link trains again. -/
def execPcieHotReset (s : State) : Out :=
  if !s.functionUp || !s.pins.linkUp then .next s
  else
    let t := s.flrState
    .next { t with pins := { t.pins with linkUp := false, linkWidth := 0 } }

/-- PCIE_LINK_LOSS (R608, R609): an FLR, and the link is down until it trains again. -/
def execPcieLinkLoss (s : State) : Out :=
  if !s.functionUp || !s.pins.linkUp then .next s
  else
    let t := s.flrState
    .next { t with pins := { t.pins with linkUp := false, linkWidth := 0 } }

/-- The cap of the PCIe link's width (R616). -/
def linkCap (straps : BitVec 19) : Nat := match bits straps.toNat 4 3 with | 0 => 16 | 1 => 8 | 2 => 4 | _ => 1

/-- PCIE_LINK_TRAINED (R609, R616): at the smaller of the cap and the partner's width. -/
def execPcieLinkTrained (width : Nat) (s : State) : Out :=
  if !s.functionUp || s.pins.linkUp || width == 0 then .next s
  else .next { s with pins := { s.pins with linkUp := true, linkWidth := Nat.min width (linkCap s.straps) } }

/-- REFERENCE_LOSS (R44, R679). -/
def execReferenceLoss (s : State) : Out :=
  if s.mode == .noReference then .next s
  else
    let g := s.ledger
    let s1 := if g.up then { s with ledger := { g with now := { g.now with refLost := g.now.refLost + 1 } } } else s
    match s.mode with
    | .off | .railFault => .next s1
    | _ => .next { s1 with mode := .noReference }

/-- REFERENCE_RETURN (R44, R608): treated as a cold reset. THERMTRIP_N stays driven through it where it was driven (log entry 191). -/
def execReferenceReturn (boot : BootIn) (s : State) : Out := .next (if s.mode == .noReference then s.boot 1 boot else s)

/-- RAIL_FAULT (R695): one of the 11 rails of stages 1 to 5, in the order of the table of supply rails. -/
def execRailFault (rail : Nat) (s : State) : Out :=
  if rail ≥ 11 then .fault (.noSuchUnit rail)
  else if !s.pins.pwrgood then .next s
  else
    let s1 := s.cleared_
    .next { s1 with mode := .railFault, pins := { s1.pins with pwrFault := true, linkUp := false, linkWidth := 0 } }

/-- The single-ended lands that boundary scan covers (R682, R707): SIDEBAND without SMB_LDG, STRAP, RESET, DIMMPWR, THERMAL. -/
def scanLands : Nat := 8 + 19 + 4 + 24 + 1

/-- BOUNDARY_SCAN (R707): EXTEST drives lands while COLD_RESET_N is held low, so that the device stands in reset (log entry 36). -/
def execBoundaryScan (op : Jtag) (s : State) : Out :=
  match op with
  | .sample => .next s
  | .extest land level =>
    if land ≥ scanLands then .fault (.noSuchUnit land)
    else
      let stuck := s.mode == .railFault || s.mode == .noReference
      let s1 := if s.pins.coldHeld || stuck then s else s.cleared_
      .next { s1 with mode := if stuck then s.mode else .off, pins := { s1.pins with coldHeld := true, thermTrip := false, extest := insertK land level s1.pins.extest } }
  | .release => .next { s with pins := { s.pins with extest := [] } }

/-! ## Attestation -/

/-- The 56 bytes of a set of settings (R637). -/
def Settings.bytes (v : Settings) : List Byte :=
  ([v.rerunStep, v.costWd, v.costWs, v.costFixed, v.scrubRate, v.powerLimit, v.eventMask]).flatMap (leBytes 8)

/-- The digest of a slot's image, all zero when it is EMPTY (R636). -/
def Archive.digest (a : Archive) (slot : Nat) : List Byte :=
  if a.control.valid slot then sha256 ((a.slot slot).image.take (fwSize (a.slot slot).image)) else List.replicate 32 0#8

/-- The flags and counts in bits [255:192] of the report (R636). -/
def State.attestFlags (s : State) : Nat :=
  let c := s.archive.control
  let rec_ := s.mode == .recovery || s.mode == .recovering
  at_ 48 (low 16 Config.identityCert.length) + at_ 40 s.lastReset + at_ 39 (b2n rec_) + at_ 38 (b2n s.noarch) + at_ 37 (b2n s.debugOn)
    + at_ 36 (b2n c.owner.isSome) + at_ 35 (low 1 c.active) + at_ 34 (b2n c.validB) + at_ 33 (b2n c.validA) + at_ 32 (low 1 s.fw.image)
    + at_ 24 (low 8 s.fuses.svnFloor) + at_ 16 (low 8 s.fw.svn) + low 16 s.fw.version

/-- Bytes 0 to 383 of the attestation report (R636). -/
def State.attestBody (s : State) (nonce : List Byte) : List Byte :=
  let own := match s.archive.control.owner with
    | some k => sha256 (leBytes 32 k.1 ++ leBytes 32 k.2)
    | none => List.replicate 32 0#8
  let stored := match s.archive.setInForce with | some c => sha256 c.values.bytes | none => List.replicate 32 0#8
  leBytes 4 0x0A09A77E ++ leBytes 2 1 ++ leBytes 2 448 ++ leBytes 2 s.partCode ++ leBytes 2 s.fuses.stepping ++ leBytes 4 s.straps.toNat
    ++ leBytes 8 s.fuses.serial ++ leBytes 8 s.attestFlags ++ nonce ++ leBytes 32 s.fw.digest ++ s.archive.digest 0 ++ s.archive.digest 1 ++ own
    ++ sha256 s.settings.bytes ++ stored ++ leBytes 32 Config.identityKey.1 ++ leBytes 32 Config.identityKey.2 ++ List.replicate 64 0#8

/-- The report with its signature, followed by the certificate (R636). -/
def State.attestReport (s : State) (nonce : List Byte) : List Byte :=
  let body := s.attestBody nonce
  let sig := Config.identitySign (shaNat body)
  body ++ leBytes 32 sig.1 ++ leBytes 32 sig.2 ++ Config.identityCert

/-- ATTEST (R620, R636). -/
def execAttest (src : Src) (s : State) : Out :=
  s.command src 0x060B (fun _ => true) (fun t p =>
    match src with
    | .ring _ =>
      t.withBlock src p 0 32 (fun u nonce =>
        let r := u.attestReport nonce
        match u.destFault (pktP p 1) r.length 1 with
        | some e => u.refuse src p e.st e.detail
        | none => (u.sysWrite (pktP p 1) r).done src p r.length)
    | _ =>
      let r := t.attestReport ([2, 3, 4, 5].flatMap (fun i => leBytes 8 (pktP p i).toNat))
      ({ t with sideOut := t.sideOut ++ [r] } : State).done src p r.length)

end Sys2Proof.Machine
end

