-- ==== Sys2Proof/Machine/Ledger.lean ====
section
/-! DEFINITION. The Staul ledger: readouts, certificates, reference checks and checkpoints (R665 to R679, R697). -/
namespace Sys2Proof.Machine

/-! ## Counters -/

/-- Energy measured since the last sample added (R668). -/
def LedgerCounts.addEnergy (g : LedgerCounts) (e : List Nat) : LedgerCounts :=
  { g with energy := g.energy.zipIdx.map (fun p => p.1 + (e[p.2]?).getD 0) }

/-- The counters of the ledger changed. -/
def State.updLedger (s : State) (f : Ledger → Ledger) : State := { s with ledger := f s.ledger }

/-- A checkpoint (R679). -/
def Ledger.checkpoint (g : Ledger) : Ledger := { g with saved := g.now }

/-! ## The readout record -/

/-- The readout record header (R671), 64 bytes; `side` is LDG.PATH, `kind` 0 for READ and 1 for REFCHECK. -/
def State.ledgerHeader (s : State) (kind : Nat) (side pass : Bool) (mark nonce seq : Nat) : List Byte :=
  let g := s.ledger
  leBytes 64 (at_ 448 (b2n pass) + at_ 432 (low 16 s.fuses.ledgerFw) + at_ 416 (low 16 s.fuses.calGen) + at_ 384 (low 32 g.now.refLost)
    + at_ 352 (low 32 g.now.powerUps) + at_ 345 (b2n g.clean) + at_ 344 (b2n side) + at_ 336 kind + at_ 272 (low 64 nonce)
    + at_ 208 (low 64 mark) + at_ 144 (low 64 seq) + at_ 80 (low 64 s.fuses.serial) + at_ 64 s.partCode + at_ 48 1600 + at_ 32 1
    + 0x0A091ED6)

/-- The MAC counters of a record: class c, format code f at 256c + 16f; codes 00h and 0Bh to 0Fh read 0 (R671). -/
def LedgerCounts.macBytes (g : LedgerCounts) : List Byte :=
  (List.range 80).flatMap (fun i => leBytes 16 (if 1 ≤ i % 16 && i % 16 ≤ 10 then lookupD 0 i g.mac else 0))

/-- The byte counters of a record; slot 7 reads 0. -/
def LedgerCounts.byteBytes (g : LedgerCounts) : List Byte := (List.range 8).flatMap (fun i => leBytes 16 (if i < 7 then (g.bytes[i]?).getD 0 else 0))

/-- A record's 1,600 bytes with its signature (R671, R672). -/
def State.ledgerRecord (s : State) (kind : Nat) (side pass : Bool) (mark nonce seq : Nat) (energy : List Nat) : List Byte :=
  let body := s.ledgerHeader kind side pass mark nonce seq ++ s.ledger.now.macBytes ++ s.ledger.now.byteBytes
    ++ (List.range 4).flatMap (fun i => leBytes 16 ((energy[i]?).getD 0))
  let sig := Config.ledgerSign s.fuses.calGen (shaNat body)
  body ++ leBytes 32 sig.1 ++ leBytes 32 sig.2

/-! ## Requests -/

/-- Requests that Staul queues per path (R675). -/
def ledgerDepth : Nat := 16

/-- Whether a source is the ledger sideband. -/
def srcSide : Src → Bool
  | .ledgerBand _ => true
  | _ => false

/-- A request put in Staul's queue, or refused (R675). A ring carries the packet out until Staul releases the record. -/
def State.askLedger (s : State) (src : Src) (p : Packet) : State :=
  let side := srcSide src
  if (s.ledger.queue.filter (fun q => q.side == side)).length ≥ ledgerDepth then s.refuse src p .busy
  else
    let ring := match src with | .ring n => n | _ => noRing
    (s.hold src p).updLedger (fun g => { g with queue := g.queue ++ [⟨pktOp p, side, ring, p⟩] })

/-- Why a ring's ledger command cannot write its record. -/
def State.ledgerDest (s : State) (src : Src) (p : Packet) (n : Nat) : Option Stat := if srcSide src then none else s.destFault (pktP p 0) n 0

/-- LEDGER_READ (R671, R675, R676). -/
def execLedgerRead (src : Src) (s : State) : Out :=
  s.command src 0x0700 (fun _ => true) (fun t p =>
    match t.ledgerDest src p 1600 with
    | some e => t.refuse src p e.st e.detail
    | none => t.askLedger src p)

/-- LEDGER_CERT (R673). -/
def execLedgerCert (src : Src) (s : State) : Out :=
  s.command src 0x0701 (fun _ => true) (fun t p =>
    match t.ledgerDest src p Config.ledgerCert.length with
    | some e => t.refuse src p e.st e.detail
    | none => t.askLedger src p)

/-- Whether Staul serves a request of an opcode now. -/
def Ledger.serving (g : Ledger) (op : Nat) : Bool := match g.queue with | q :: _ => q.opcode == op | [] => false

/-- LEDGER_REFCHECK (R677): refused while another runs. -/
def execLedgerRefcheck (src : Src) (s : State) : Out :=
  s.command src 0x0702 (fun _ => true) (fun t p =>
    match t.ledgerDest src p 1600 with
    | some e => t.refuse src p e.st e.detail
    | none => if t.ledger.serving 0x0702 then t.refuse src p .busy else t.askLedger src p)

/-- The first request served: its record goes to its destination with the reply, or into the response messages of the sideband (R671, R676).
A ring that no longer carries the packet out gets neither. -/
def State.serveLedger (s : State) (q : LedgerReq) (bytes : List Byte) (r0 : Nat) : State :=
  let s1 := s.updLedger (fun g => { g with queue := g.queue.drop 1 })
  if q.side then ({ s1 with ledgerOut := s1.ledgerOut ++ [bytes] } : State).done (.ledgerBand q.pkt) q.pkt r0
  else match (lookupK q.ring s1.rings).bind Ring.busy with
  | some p => if p == q.pkt && s1.mode == .running then (s1.sysWrite (pktP p 0) bytes).release q.ring { r0 := r0 } else s1
  | none => s1

/-- A record of either kind made: LDG.SEQ rises, and the counters are durable before it is released (R674, R679). -/
def State.makeRecord (s : State) (q : LedgerReq) (kind : Nat) (pass : Bool) (energy : List Nat) : State :=
  let seq := s.ledger.now.seq + 1
  let mark := if kind == 0 then (pktP q.pkt 1).toNat else 0
  let nonce := if kind == 0 then (pktP q.pkt 2).toNat else 0
  let s1 := s.updLedger (fun g => ({ g with now := { g.now with seq := seq } } : Ledger).checkpoint)
  s1.serveLedger q (s1.ledgerRecord kind q.side pass mark nonce seq energy) seq

/-- LEDGER_RECORD_RELEASE (R671 to R675): `energy` is what the domains' sensors measured since the last sample. -/
def execLedgerRecordRelease (sideband : Bool) (energy : List Nat) (s : State) : Out :=
  match s.ledger.queue with
  | [] => .next s
  | q :: _ =>
    if !s.ledger.up || q.side != sideband then .next s
    else
      let s1 := s.updLedger (fun g => { g with now := g.now.addEnergy energy })
      if q.opcode == 0x0700 then .next (s1.makeRecord q 0 false s1.ledger.now.energy)
      else if q.opcode == 0x0701 then .next (s1.serveLedger q Config.ledgerCert Config.ledgerCert.length)
      else .next s

/-- Whether a measured energy is within 0.2% of the expected one (R677). -/
def refClose (e m : Nat) : Bool := 500 * (Nat.max e m - Nat.min e m) ≤ e

/-- REFCHECK_COMPLETE (R677): the expected and the measured energy of each domain. -/
def execRefcheckComplete (expected measured : List Nat) (s : State) : Out :=
  match s.ledger.queue with
  | [] => .next s
  | q :: _ =>
    if !s.ledger.up || q.opcode != 0x0702 then .next s
    else
      let at4 := fun (l : List Nat) (i : Nat) => (l[i]?).getD 0
      let slots := (List.range 4).map (fun i => low 64 (at4 expected i) + at_ 64 (low 64 (at4 measured i)))
      let pass := (List.range 4).all (fun i => refClose (at4 expected i) (at4 measured i))
      .next (s.makeRecord q 1 pass slots)

/-! ## The island -/

/-- STAUL_CHECKPOINT (R679): every 2^32 LC cycles. -/
def execStaulCheckpoint (energy : List Nat) (s : State) : Out :=
  if !s.ledger.up then .next s
  else .next (s.updLedger (fun g => ({ g with now := g.now.addEnergy energy } : Ledger).checkpoint))

/-- VLDG_FALL (R679, R697): the island's supply falls; `held` says that the hold-up lasted for the checkpoint. -/
def execVldgFall (held : Bool) (s : State) : Out :=
  if !s.ledger.up then .next s
  else .next (s.updLedger (fun g =>
    { (if held then g.checkpoint else g) with up := false, clean := held, queue := g.queue.filter (fun q => !q.side) }))

/-- STAUL_POWER_UP (R679): Staul resumes from its last checkpoint. -/
def execStaulPowerUp (s : State) : Out :=
  if s.ledger.up then .next s
  else .next (s.updLedger (fun g =>
    let c := { g.saved with powerUps := g.saved.powerUps + 1 }
    { g with up := true, now := c, saved := c }))

end Sys2Proof.Machine
end

