-- ==== Sys2Proof/Machine/Dispatch.lean ====
section
/-! DEFINITION. The dispatcher: one arm per constructor of Instr, each one call of its meaning. -/
namespace Sys2Proof.Machine

/-- What a command does to everything but the queue. -/
def exec (i : Instr) (s : State) : Host.Outcome State Fault Refusal :=
  match i with
  | .setx core => Sys2Proof.Machine.execSetx core s
  | .addx core => Sys2Proof.Machine.execAddx core s
  | .loop core => Sys2Proof.Machine.execLoop core s
  | .br core => Sys2Proof.Machine.execBr core s
  | .load core errs => Sys2Proof.Machine.execLoad core errs s
  | .store core errs => Sys2Proof.Machine.execStore core errs s
  | .gather core errs => Sys2Proof.Machine.execGather core errs s
  | .scatter core errs => Sys2Proof.Machine.execScatter core errs s
  | .loadcard core errs => Sys2Proof.Machine.execLoadcard core errs s
  | .mma core mis => Sys2Proof.Machine.execMma core mis s
  | .spma core mis => Sys2Proof.Machine.execSpma core mis s
  | .spge core mis => Sys2Proof.Machine.execSpge core mis s
  | .ewiseDiag pass => Sys2Proof.Machine.execEwiseDiag pass s
  | .ewiseChain core => Sys2Proof.Machine.execEwiseChain core s
  | .reduce core => Sys2Proof.Machine.execReduce core s
  | .reduceSplitk core => Sys2Proof.Machine.execReduceSplitk core s
  | .drain core => Sys2Proof.Machine.execDrain core s
  | .drainPartial core => Sys2Proof.Machine.execDrainPartial core s
  | .take core => Sys2Proof.Machine.execTake core s
  | .commit core => Sys2Proof.Machine.execCommit core s
  | .yield core => Sys2Proof.Machine.execYield core s
  | .send core => Sys2Proof.Machine.execSend core s
  | .tally core => Sys2Proof.Machine.execTally core s
  | .wait core => Sys2Proof.Machine.execWait core s
  | .fence core => Sys2Proof.Machine.execFence core s
  | .halt core => Sys2Proof.Machine.execHalt core s
  | .dbg core => Sys2Proof.Machine.execDbg core s
  | .phaseEnter core errs mis => Sys2Proof.Machine.execPhaseEnter core errs mis s
  | .instructionComplete core idx => Sys2Proof.Machine.execInstructionComplete core idx s
  | .waitRelease core => Sys2Proof.Machine.execWaitRelease core s
  | .takeServed core => Sys2Proof.Machine.execTakeServed core s
  | .commitOffer core => Sys2Proof.Machine.execCommitOffer core s
  | .tallyIncrement core => Sys2Proof.Machine.execTallyIncrement core s
  | .transferResume who errs => Sys2Proof.Machine.execTransferResume who errs s
  | .tileRerun pass idx => Sys2Proof.Machine.execTileRerun pass idx s
  | .repairSwitch core mis => Sys2Proof.Machine.execRepairSwitch core mis s
  | .preemptMidTile core poolFull => Sys2Proof.Machine.execPreemptMidTile core poolFull s
  | .contextResume core => Sys2Proof.Machine.execContextResume core s
  | .coreProgramStart core => Sys2Proof.Machine.execCoreProgramStart core s
  | .binderyJobStart region => Sys2Proof.Machine.execBinderyJobStart region s
  | .binderyPassComplete region => Sys2Proof.Machine.execBinderyPassComplete region s
  | .runToBuffer job run => Sys2Proof.Machine.execRunToBuffer job run s
  | .nop src => Sys2Proof.Machine.execNop src s
  | .identify src => Sys2Proof.Machine.execIdentify src s
  | .createRing src => Sys2Proof.Machine.execCreateRing src s
  | .destroyRing src => Sys2Proof.Machine.execDestroyRing src s
  | .setSetting src => Sys2Proof.Machine.execSetSetting src s
  | .getSetting src => Sys2Proof.Machine.execGetSetting src s
  | .storeSettings src => Sys2Proof.Machine.execStoreSettings src s
  | .routeWrite src => Sys2Proof.Machine.execRouteWrite src s
  | .sendrouteWrite src => Sys2Proof.Machine.execSendrouteWrite src s
  | .txnBegin src => Sys2Proof.Machine.execTxnBegin src s
  | .txnCommit src => Sys2Proof.Machine.execTxnCommit src s
  | .txnRollback src => Sys2Proof.Machine.execTxnRollback src s
  | .setEvents src => Sys2Proof.Machine.execSetEvents src s
  | .alloc src pick => Sys2Proof.Machine.execAlloc src pick s
  | .free src => Sys2Proof.Machine.execFree src s
  | .hostEvict src => Sys2Proof.Machine.execHostEvict src s
  | .hostResident src => Sys2Proof.Machine.execHostResident src s
  | .hostUnmap src => Sys2Proof.Machine.execHostUnmap src s
  | .translate src => Sys2Proof.Machine.execTranslate src s
  | .copy src errs => Sys2Proof.Machine.execCopy src errs s
  | .fill src => Sys2Proof.Machine.execFill src s
  | .createTensor src handle => Sys2Proof.Machine.execCreateTensor src handle s
  | .destroyTensor src => Sys2Proof.Machine.execDestroyTensor src s
  | .createOwner src handle => Sys2Proof.Machine.execCreateOwner src handle s
  | .writeOwner src => Sys2Proof.Machine.execWriteOwner src s
  | .switchOwner src => Sys2Proof.Machine.execSwitchOwner src s
  | .ownerSwitchFinish handle => Sys2Proof.Machine.execOwnerSwitchFinish handle s
  | .destroyOwner src => Sys2Proof.Machine.execDestroyOwner src s
  | .loadPoly src => Sys2Proof.Machine.execLoadPoly src s
  | .createJob src handle => Sys2Proof.Machine.execCreateJob src handle s
  | .loadProgram src handle => Sys2Proof.Machine.execLoadProgram src handle s
  | .unloadProgram src => Sys2Proof.Machine.execUnloadProgram src s
  | .dispatch src => Sys2Proof.Machine.execDispatch src s
  | .contract src => Sys2Proof.Machine.execContract src s
  | .dispatchAccept ring pick => Sys2Proof.Machine.execDispatchAccept ring pick s
  | .dependencyResolved number => Sys2Proof.Machine.execDependencyResolved number s
  | .dispatchTallyWaitMet number => Sys2Proof.Machine.execDispatchTallyWaitMet number s
  | .dispatchComplete number => Sys2Proof.Machine.execDispatchComplete number s
  | .cancel src => Sys2Proof.Machine.execCancel src s
  | .cancelWaitingPacket src => Sys2Proof.Machine.execCancelWaitingPacket src s
  | .cancelComplete number => Sys2Proof.Machine.execCancelComplete number s
  | .faultActionAbort src => Sys2Proof.Machine.execFaultActionAbort src s
  | .faultActionDropCore src => Sys2Proof.Machine.execFaultActionDropCore src s
  | .tallyRead src => Sys2Proof.Machine.execTallyRead src s
  | .tallyAdd src => Sys2Proof.Machine.execTallyAdd src s
  | .tallySet src => Sys2Proof.Machine.execTallySet src s
  | .tallyWait src => Sys2Proof.Machine.execTallyWait src s
  | .tallyWaitSatisfied ring => Sys2Proof.Machine.execTallyWaitSatisfied ring s
  | .readRecord src => Sys2Proof.Machine.execReadRecord src s
  | .repairRow src => Sys2Proof.Machine.execRepairRow src s
  | .evacuateChannel src => Sys2Proof.Machine.execEvacuateChannel src s
  | .returnChannel src => Sys2Proof.Machine.execReturnChannel src s
  | .dimmPowerSettled channel dimm => Sys2Proof.Machine.execDimmPowerSettled channel dimm s
  | .quarantineCore src => Sys2Proof.Machine.execQuarantineCore src s
  | .isolateRegion src => Sys2Proof.Machine.execIsolateRegion src s
  | .restoreRegion src passes => Sys2Proof.Machine.execRestoreRegion src passes s
  | .laserPrepare src => Sys2Proof.Machine.execLaserPrepare src s
  | .laserRelease input => Sys2Proof.Machine.execLaserRelease input s
  | .laserDone src => Sys2Proof.Machine.execLaserDone src s
  | .imageWrite src => Sys2Proof.Machine.execImageWrite src s
  | .imageActivate src => Sys2Proof.Machine.execImageActivate src s
  | .attest src => Sys2Proof.Machine.execAttest src s
  | .ledgerRead src => Sys2Proof.Machine.execLedgerRead src s
  | .ledgerCert src => Sys2Proof.Machine.execLedgerCert src s
  | .ledgerRefcheck src => Sys2Proof.Machine.execLedgerRefcheck src s
  | .refcheckComplete expected measured => Sys2Proof.Machine.execRefcheckComplete expected measured s
  | .dbgRead src => Sys2Proof.Machine.execDbgRead src s
  | .dbgWrite src => Sys2Proof.Machine.execDbgWrite src s
  | .mctpControlMessage msg => Sys2Proof.Machine.execMctpControlMessage msg s
  | .aqEnable => Sys2Proof.Machine.execAqEnable s
  | .aqDisable => Sys2Proof.Machine.execAqDisable s
  | .evqEnable => Sys2Proof.Machine.execEvqEnable s
  | .evqDisable => Sys2Proof.Machine.execEvqDisable s
  | .evqHeadWrite value => Sys2Proof.Machine.execEvqHeadWrite value s
  | .registerWrite offset value => Sys2Proof.Machine.execRegisterWrite offset value s
  | .doorbellSqTail ring value host => Sys2Proof.Machine.execDoorbellSqTail ring value host s
  | .doorbellCqHead ring value => Sys2Proof.Machine.execDoorbellCqHead ring value s
  | .bar4Read offset len => Sys2Proof.Machine.execBar4Read offset len s
  | .bar4Write offset bytes => Sys2Proof.Machine.execBar4Write offset bytes s
  | .eventWrite => Sys2Proof.Machine.execEventWrite s
  | .scrubPatrolRead errs => Sys2Proof.Machine.execScrubPatrolRead errs s
  | .pageMigrate va cause frames => Sys2Proof.Machine.execPageMigrate va cause frames s
  | .migrationCopyDone copy => Sys2Proof.Machine.execMigrationCopyDone copy s
  | .channelRecalibrate channel => Sys2Proof.Machine.execChannelRecalibrate channel s
  | .frameClear frame => Sys2Proof.Machine.execFrameClear frame s
  | .coreErrorQuarantine core cause => Sys2Proof.Machine.execCoreErrorQuarantine core cause s
  | .regionErrorIsolate region cause => Sys2Proof.Machine.execRegionErrorIsolate region cause s
  | .bridgeFlitCrcFail link again => Sys2Proof.Machine.execBridgeFlitCrcFail link again s
  | .fabricArbiterError => Sys2Proof.Machine.execFabricArbiterError s
  | .mgmtProcessorFail proc => Sys2Proof.Machine.execMgmtProcessorFail proc s
  | .flitReceive port flit corrected crcOk => Sys2Proof.Machine.execFlitReceive port flit corrected crcOk s
  | .laneFail port lane => Sys2Proof.Machine.execLaneFail port lane s
  | .portStallEnd port => Sys2Proof.Machine.execPortStallEnd port s
  | .portTrained port goodLanes peer => Sys2Proof.Machine.execPortTrained port goodLanes peer s
  | .fabricPacketReceive port pkt => Sys2Proof.Machine.execFabricPacketReceive port pkt s
  | .fabricAckReceive port pkt => Sys2Proof.Machine.execFabricAckReceive port pkt s
  | .unreachableNotice socket => Sys2Proof.Machine.execUnreachableNotice socket s
  | .laserLoss input => Sys2Proof.Machine.execLaserLoss input s
  | .pwrgoodRise boot => Sys2Proof.Machine.execPwrgoodRise boot s
  | .svnFloorRaise => Sys2Proof.Machine.execSvnFloorRaise s
  | .pwrgoodFall => Sys2Proof.Machine.execPwrgoodFall s
  | .coldReset boot => Sys2Proof.Machine.execColdReset boot s
  | .warmReset perst boot => Sys2Proof.Machine.execWarmReset perst boot s
  | .flr => Sys2Proof.Machine.execFlr s
  | .pcieHotReset => Sys2Proof.Machine.execPcieHotReset s
  | .pcieLinkLoss => Sys2Proof.Machine.execPcieLinkLoss s
  | .referenceLoss => Sys2Proof.Machine.execReferenceLoss s
  | .referenceReturn boot => Sys2Proof.Machine.execReferenceReturn boot s
  | .railFault rail => Sys2Proof.Machine.execRailFault rail s
  | .vldgFall held => Sys2Proof.Machine.execVldgFall held s
  | .staulPowerUp => Sys2Proof.Machine.execStaulPowerUp s
  | .staulCheckpoint energy => Sys2Proof.Machine.execStaulCheckpoint energy s
  | .junctionHot => Sys2Proof.Machine.execJunctionHot s
  | .junctionCool => Sys2Proof.Machine.execJunctionCool s
  | .thermtrip => Sys2Proof.Machine.execThermtrip s
  | .powerLimitReached => Sys2Proof.Machine.execPowerLimitReached s
  | .powerBelowLimit => Sys2Proof.Machine.execPowerBelowLimit s
  | .corePark core gate => Sys2Proof.Machine.execCorePark core gate s
  | .coreWake core => Sys2Proof.Machine.execCoreWake core s
  | .firstTakeStaggerElapsed core => Sys2Proof.Machine.execFirstTakeStaggerElapsed core s
  | .tileRangeMove fromRegion fromCounter toRegion toCounter count => Sys2Proof.Machine.execTileRangeMove fromRegion fromCounter toRegion toCounter count s
  | .hifReady => Sys2Proof.Machine.execHifReady s
  | .mgmtRestartComplete proc => Sys2Proof.Machine.execMgmtRestartComplete proc s
  | .processorHandoverComplete proc ok => Sys2Proof.Machine.execProcessorHandoverComplete proc ok s
  | .archiveWriteComplete => Sys2Proof.Machine.execArchiveWriteComplete s
  | .copyFillComplete id => Sys2Proof.Machine.execCopyFillComplete id s
  | .ledgerRecordRelease sideband energy => Sys2Proof.Machine.execLedgerRecordRelease sideband energy s
  | .laserInputRestored input => Sys2Proof.Machine.execLaserInputRestored input s
  | .pcieLinkTrained width => Sys2Proof.Machine.execPcieLinkTrained width s
  | .boundaryScan op => Sys2Proof.Machine.execBoundaryScan op s

end Sys2Proof.Machine
end

