-- ==== Sys2Proof/Safety.lean ====
section
/-! DEFINITION. The terms in which claims speak: outcomes in which the block goes on, when a core issues an instruction, when a packet is
carried out, where a virtual address lies, and what a reply touches. -/
namespace Sys2Proof.Machine

/-- An outcome in which the block goes on. -/
def Completes (o : Host.Outcome State Fault Refusal) : Prop := ∃ t, o = .next t

/-- A core's sequencer can issue instruction `i` now: it stands at `i`, runs, and waits for nothing but a new attempt (R342 to R347). -/
def Runs (s : State) (c : Nat) (i : TileInstr) : Prop :=
  c < s.cores.length ∧ s.ready c = true ∧ Wait.retries (s.core c).wait = true ∧ s.instrAt (s.core c) = i

/-- A core's sequencer can issue instruction `i`, and is in the phase of `i` where `i` belongs to one (R341, R342). -/
def RunsIn (s : State) (c : Nat) (i : TileInstr) : Prop := Runs s c i ∧ ∀ p, i.phase = some p → p = (s.core c).phase

/-- A core's sequencer holds instruction `i` with a wait. -/
def Waits (s : State) (c : Nat) (i : TileInstr) (w : Wait) : Prop :=
  c < s.cores.length ∧ s.ready c = true ∧ (s.core c).wait = some w ∧ s.instrAt (s.core c) = i

/-- The packet that a source offers is `p`, has an opcode, and passes every check that stands before the opcode's own (R529, R530,
R568, R620, R625, R676). -/
def Accepted (s : State) (src : Src) (p : Packet) (op : Nat) : Prop :=
  s.offered src = some p ∧ pktOp p = op ∧ (s.consume src p).gate src p = none

/-- Where a local virtual address lies: host memory or not, and the address there (R477 to R479). -/
def State.physOf (s : State) (va : Nat) : Option (Bool × Nat) := (s.page? va).map (fun p => (p.host, p.at_ * 65536 + va % 65536))

/-- The two states differ in nothing but what reading a packet, counting bytes and writing a reply or an event can touch. -/
def SameButIo (s t : State) : Prop :=
  t = { s with rings := t.rings, ledger := t.ledger, fresh := t.fresh, dram := t.dram, hostMem := t.hostMem, poison := t.poison,
               pba := t.pba, raised := t.raised, sideOut := t.sideOut, ledgerOut := t.ledgerOut,
               caches := t.caches }

/-- A DENSE tensor of one-byte elements in this device's memory, with no scales and no options: what a row of it holds is plain bytes. -/
def Desc.Plain (d : Desc) : Prop :=
  d.layout = 0 ∧ widthOf d.fmt = 8 ∧ d.stride 0 = 1 ∧ d.owner = 0 ∧ d.sb = 0 ∧ d.oob = 0 ∧ d.access = 0 ∧ d.xpose = false ∧
  d.scatAcc = false ∧ d.fore = false ∧ d.overlap = false

/-- A list of UINT32 indices in this device's memory, as GATHER and SCATTER read it (R363). -/
def Desc.PlainIndex (d : Desc) : Prop :=
  d.layout = 0 ∧ d.rank = 1 ∧ d.fmt = 0x10 ∧ d.stride 0 = 1 ∧ d.owner = 0 ∧ d.sb = 0 ∧ d.oob = 0 ∧ d.access = 0 ∧ d.xpose = false

/-- A run of local addresses lies in one page, by its leaf entry. -/
def InPage (s : State) (a n : Nat) (p : Page) : Prop := s.page? a = some p ∧ a % 65536 + n ≤ 65536

/-- No committed run of a bindery job lies in a core's carrel (R236). -/
def NoRuns (s : State) (c : Nat) : Prop := ∀ j ∈ s.jobs, ∀ r ∈ j.2.runs, r.core.map Prod.fst ≠ some c

/-- The memories of a state keep their canonical form. -/
def MemoriesWf (s : State) : Prop :=
  s.dram.wf = true ∧ s.hostMem.wf = true ∧ (∀ k ∈ s.cores, k.carrel.wf = true) ∧
  (∀ g ∈ s.regions, ∀ x ∈ g.contexts, x.core.carrel.wf = true)

/-- What an access at a translated address writes, in the memory it lies in. -/
def State.afterWrite (s : State) (p : Page) (va : Nat) (bs : List Byte) : Mem × Mem :=
  let a := p.at_ * 65536 + va % 65536
  if p.host then (s.dram, s.hostMem.writeBytes a bs) else (s.dram.writeBytes a bs, s.hostMem)

/-- The matrix instructions of the statements: their rows with the mismatches that their runs report. -/
def matrixRow (kind c : Nat) (mis : List Mismatch) : Instr := if kind = 0 then .mma c mis else if kind = 1 then .spma c mis else .spge c mis

/-- The instruction of a matrix kind. -/
def matrixInstr (kind : Nat) (f : MF) : TileInstr := if kind = 0 then .mma f else if kind = 1 then .spma f else .spge f

/-- Rows of the opcode reference that any packet of their opcode calls, with the opcode. -/
def commandRows : List (Nat × (Src → Instr)) :=
  [(0x0100, .nop), (0x0101, .identify), (0x0102, .createRing), (0x0103, .destroyRing), (0x0104, .setSetting), (0x0105, .getSetting),
   (0x0108, .routeWrite), (0x0109, .sendrouteWrite), (0x0110, .txnBegin), (0x0111, .txnCommit),
   (0x0112, .txnRollback), (0x0120, .setEvents), (0x0201, .free), (0x0203, .hostEvict), (0x0204, .hostResident), (0x0205, .hostUnmap),
   (0x0206, .translate), (0x0208, .fill), (0x0301, .destroyTensor), (0x0303, .writeOwner), (0x0304, .switchOwner),
   (0x0305, .destroyOwner), (0x0306, .loadPoly), (0x0401, .unloadProgram), (0x0402, .dispatch), (0x0403, .contract), (0x0500, .tallyRead),
   (0x0501, .tallyAdd), (0x0502, .tallySet), (0x0503, .tallyWait), (0x0600, .readRecord), (0x0601, .repairRow), (0x0602, .evacuateChannel),
   (0x0603, .returnChannel), (0x0604, .quarantineCore), (0x0605, .isolateRegion), (0x0607, .laserPrepare), (0x0608, .laserDone),
   (0x060B, .attest), (0x0700, .ledgerRead), (0x0701, .ledgerCert),
   (0x0702, .ledgerRefcheck)]

end Sys2Proof.Machine
end

