-- ==== Sys2Proof/WellFormed.lean ====
section
/-! DEFINITION. Which commands and which tile instructions are well formed: every number lies in the range that the manual gives it on the
larger part (R2, R16, R19, R466, R511, R577, R581, R597, R621, R652, R662). -/
namespace Sys2Proof

/-- A core number (R19). -/
def coreOk (n : Nat) : Bool := n < 128
/-- A region number (R2). -/
def regionOk (n : Nat) : Bool := n < 16
/-- A ring number (R511). -/
def ringOk (n : Nat) : Bool := n < 64
/-- A port number (R16). -/
def portOk (n : Nat) : Bool := n < 16
/-- A channel number (R466). -/
def channelOk (n : Nat) : Bool := n < 24
/-- A laser input (R662). -/
def inputOk (n : Nat) : Bool := n < 8
/-- A management processor (R621). -/
def procOk (n : Nat) : Bool := n < 4
/-- A bridge link (R652). -/
def linkOk (n : Nat) : Bool := n < 5
/-- A supply rail of stages 1 to 5 (R695). -/
def railOk (n : Nat) : Bool := n < 11
/-- A handle (R455). -/
def handleOk (n : Nat) : Bool := n < 2 ^ 32
/-- A dispatch number (R422). -/
def numberOk (n : Nat) : Bool := 1 ≤ n && n < 2 ^ 24
/-- A counter of a desk, one of 64 (R418). -/
def counterOk (n : Nat) : Bool := n < 64
/-- A device virtual address: 52 bits (R477). -/
def vaOk (n : Nat) : Bool := n < 2 ^ 52
/-- A frame of the largest memory (R461). -/
def frameOk (n : Nat) : Bool := n < 24 * 256 * 16384
/-- A socket number (R582). -/
def socketOk (n : Nat) : Bool := n < 4096

/-- Where a packet is read. -/
def Src.wf : Src → Bool
  | .ring n => ringOk n
  | .sideband _ => true
  | .ledgerBand _ => true

/-- A memory error: a channel, a frame and a line of it. The frames of Hokuec's reserve of 8 GiB follow the others (R464; log entry 181). -/
def MemErr.wf (e : MemErr) : Bool := channelOk e.channel && e.frame < (24 * 256 + 8) * 16384 && e.line < 512

/-- A mismatch: a logical row. -/
def Mismatch.wf (m : Mismatch) : Bool := m.row < 128

/-- What a boot finds: 24 channels, and rows of the cores and the regions' spares. -/
def BootIn.wf (b : BootIn) : Bool := b.dimms.length ≤ 24 && b.rowFails.all (fun p => p.1 < 144 && p.2 < 128)

/-- A pick of an ALLOC. -/
def AllocPick.wf (k : AllocPick) : Bool := handleOk k.handle && vaOk k.vbase && k.frames.all frameOk && k.channels.all channelOk

/-- A pick of a DISPATCH_ACCEPT: data of other sockets have the length asked for. -/
def PlacePick.wf (k : PlacePick) : Bool :=
  numberOk k.number && k.far.all (fun r => socketOk r.1.sock && vaOk r.1.addr && r.2.length == r.1.len)
    && k.counters.all (fun c => regionOk c.region && counterOk c.counter && 64 ≤ c.win && c.win ≤ 4096 && c.first < c.last)

/-- The body of a fabric packet. -/
def FBody.wf : FBody → Bool
  | .read _ a n => vaOk a && n ≤ 512
  | .write a bs _ => vaOk a && bs.length ≤ 512
  | .addTo _ a _ => vaOk a
  | .reserve _ a _ _ => vaOk a
  | .tallyInc n _ => n < 4096
  | .readData _ bs => bs.length ≤ 512
  | .reserved _ _ => true
  | .refusal _ _ _ => true
  | .notice k => socketOk k
  | .ack => true
  | .replay => true

/-- A fabric packet: socket numbers, an epoch, a virtual lane. -/
def FPacket.wf (p : FPacket) : Bool := socketOk p.dst && socketOk p.src && p.epoch < 256 && p.vl < 2 && p.body.wf

/-- A transfer by core and instruction, or by number. -/
def XferId.wf : XferId → Bool
  | .core c _ => coreOk c
  | .copy _ => true

/-- An operation on the test port. -/
def Jtag.wf : Jtag → Bool
  | .sample => true
  | .extest land _ => land < 56
  | .release => true

/-- A command whose operands lie in their ranges. -/
def Instr.wf : Instr → Bool
  | .setx c => coreOk c
  | .addx c => coreOk c
  | .loop c => coreOk c
  | .br c => coreOk c
  | .load c errs => coreOk c && errs.all MemErr.wf
  | .store c errs => coreOk c && errs.all MemErr.wf
  | .gather c errs => coreOk c && errs.all MemErr.wf
  | .scatter c errs => coreOk c && errs.all MemErr.wf
  | .loadcard c errs => coreOk c && errs.all MemErr.wf
  | .mma c mis => coreOk c && mis.all Mismatch.wf
  | .spma c mis => coreOk c && mis.all Mismatch.wf
  | .spge c mis => coreOk c && mis.all Mismatch.wf
  | .ewiseDiag p => coreOk p.core && p.mis.all Mismatch.wf
  | .ewiseChain c => coreOk c
  | .reduce c => coreOk c
  | .reduceSplitk c => coreOk c
  | .drain c => coreOk c
  | .drainPartial c => coreOk c
  | .take c => coreOk c
  | .commit c => coreOk c
  | .yield c => coreOk c
  | .send c => coreOk c
  | .tally c => coreOk c
  | .wait c => coreOk c
  | .fence c => coreOk c
  | .halt c => coreOk c
  | .dbg c => coreOk c
  | .phaseEnter c errs mis => coreOk c && errs.all MemErr.wf && mis.all Mismatch.wf
  | .instructionComplete c _ => coreOk c
  | .waitRelease c => coreOk c
  | .takeServed c => coreOk c
  | .commitOffer c => coreOk c
  | .tallyIncrement c => coreOk c
  | .transferResume who errs => who.wf && errs.all MemErr.wf
  | .tileRerun p _ => coreOk p.core && p.mis.all Mismatch.wf
  | .repairSwitch c mis => coreOk c && mis.all Mismatch.wf
  | .preemptMidTile c _ => coreOk c
  | .contextResume c => coreOk c
  | .coreProgramStart c => coreOk c
  | .binderyJobStart r => regionOk r
  | .binderyPassComplete r => regionOk r
  | .runToBuffer j _ => handleOk j
  | .nop src => src.wf
  | .identify src => src.wf
  | .createRing src => src.wf
  | .destroyRing src => src.wf
  | .setSetting src => src.wf
  | .getSetting src => src.wf
  | .storeSettings src => src.wf
  | .routeWrite src => src.wf
  | .sendrouteWrite src => src.wf
  | .txnBegin src => src.wf
  | .txnCommit src => src.wf
  | .txnRollback src => src.wf
  | .setEvents src => src.wf
  | .alloc src k => src.wf && k.wf
  | .free src => src.wf
  | .hostEvict src => src.wf
  | .hostResident src => src.wf
  | .hostUnmap src => src.wf
  | .translate src => src.wf
  | .copy src errs => src.wf && errs.all MemErr.wf
  | .fill src => src.wf
  | .createTensor src h => src.wf && handleOk h
  | .destroyTensor src => src.wf
  | .createOwner src h => src.wf && handleOk h
  | .writeOwner src => src.wf
  | .switchOwner src => src.wf
  | .ownerSwitchFinish h => handleOk h
  | .destroyOwner src => src.wf
  | .loadPoly src => src.wf
  | .createJob src h => src.wf && handleOk h
  | .loadProgram src h => src.wf && handleOk h
  | .unloadProgram src => src.wf
  | .dispatch src => src.wf
  | .contract src => src.wf
  | .dispatchAccept n k => ringOk n && k.wf
  | .dependencyResolved n => numberOk n
  | .dispatchTallyWaitMet n => numberOk n
  | .dispatchComplete n => numberOk n
  | .cancel src => src.wf
  | .cancelWaitingPacket src => src.wf
  | .cancelComplete n => numberOk n
  | .faultActionAbort src => src.wf
  | .faultActionDropCore src => src.wf
  | .tallyRead src => src.wf
  | .tallyAdd src => src.wf
  | .tallySet src => src.wf
  | .tallyWait src => src.wf
  | .tallyWaitSatisfied n => ringOk n
  | .readRecord src => src.wf
  | .repairRow src => src.wf
  | .evacuateChannel src => src.wf
  | .returnChannel src => src.wf
  | .dimmPowerSettled ch _ => channelOk ch
  | .quarantineCore src => src.wf
  | .isolateRegion src => src.wf
  | .restoreRegion src _ => src.wf
  | .laserPrepare src => src.wf
  | .laserRelease e => inputOk e
  | .laserDone src => src.wf
  | .imageWrite src => src.wf
  | .imageActivate src => src.wf
  | .attest src => src.wf
  | .ledgerRead src => src.wf
  | .ledgerCert src => src.wf
  | .ledgerRefcheck src => src.wf
  | .refcheckComplete e m => e.length == 4 && m.length == 4
  | .dbgRead src => src.wf
  | .dbgWrite src => src.wf
  | .mctpControlMessage _ => true
  | .aqEnable => true
  | .aqDisable => true
  | .evqEnable => true
  | .evqDisable => true
  | .evqHeadWrite _ => true
  | .registerWrite o _ => o < 2 ^ 20 && o % 8 == 0
  | .doorbellSqTail n _ host => ringOk n && host.all (fun p => p.1 + p.2.length ≤ 2 ^ 52)
  | .doorbellCqHead n _ => ringOk n
  | .bar4Read o n => o + n ≤ 2 ^ 36
  | .bar4Write o bs => o + bs.length ≤ 2 ^ 36
  | .eventWrite => true
  | .scrubPatrolRead errs => errs.all MemErr.wf
  | .pageMigrate va _ fs => vaOk va && fs.all frameOk
  | .migrationCopyDone p => vaOk p.va && p.errs.all MemErr.wf
  | .channelRecalibrate ch => channelOk ch
  | .frameClear f => frameOk f
  | .coreErrorQuarantine c _ => coreOk c
  | .regionErrorIsolate r _ => regionOk r
  | .bridgeFlitCrcFail k _ => linkOk k
  | .fabricArbiterError => true
  | .mgmtProcessorFail k => procOk k
  | .flitReceive p f c _ => portOk p && f.bad.all (fun b => b.1 < f.words && b.2 < 8) && c + f.bad.length ≤ f.words
  | .laneFail p l => portOk p && l < 8
  | .portStallEnd p => portOk p
  | .portTrained p good peer => portOk p && good ≤ 8 && peer.all (fun q => socketOk q.1 && portOk q.2)
  | .fabricPacketReceive p x => portOk p && x.wf
  | .fabricAckReceive p x => portOk p && x.wf
  | .unreachableNotice k => socketOk k
  | .laserLoss e => inputOk e
  | .pwrgoodRise b => b.wf
  | .svnFloorRaise => true
  | .pwrgoodFall => true
  | .coldReset b => b.wf
  | .warmReset _ b => b.wf
  | .flr => true
  | .pcieHotReset => true
  | .pcieLinkLoss => true
  | .referenceLoss => true
  | .referenceReturn b => b.wf
  | .railFault r => railOk r
  | .vldgFall _ => true
  | .staulPowerUp => true
  | .staulCheckpoint e => e.length == 4
  | .junctionHot => true
  | .junctionCool => true
  | .thermtrip => true
  | .powerLimitReached => true
  | .powerBelowLimit => true
  | .corePark c _ => coreOk c
  | .coreWake c => coreOk c
  | .firstTakeStaggerElapsed c => coreOk c
  | .tileRangeMove r k q l _ => regionOk r && counterOk k && regionOk q && counterOk l
  | .hifReady => true
  | .mgmtRestartComplete k => procOk k
  | .processorHandoverComplete k _ => procOk k
  | .archiveWriteComplete => true
  | .copyFillComplete _ => true
  | .ledgerRecordRelease _ e => e.length == 4
  | .laserInputRestored e => inputOk e
  | .pcieLinkTrained n => n ≤ 16
  | .boundaryScan op => op.wf

/-- The transfer fields of a tile instruction lie in their fields of the word (R348, R355). -/
def TF.wf (f : TF) : Bool :=
  f.slot < 8 && f.sh < 256 && f.ps < 4 && f.xo < 32 && f.xe < 32 && f.role < 8 && f.chn < 64 && f.slot2 < 8 && f.gdim < 8 && f.ss < 256

/-- The fields of a matrix instruction lie in their fields of the word (R348). -/
def MF.wf (f : MF) : Bool :=
  f.sa < 256 && f.sb < 256 && f.sp < 256 && f.xk < 32 && f.xv < 32 && f.mc < 4 && f.nc < 4 && f.flow < 4 && f.start < 4 && f.pkind < 4
    && f.mode < 4 && f.eng < 4 && f.qtr < 8 && f.pskip < 4

/-- The fields of an EWISE in its DIAG form lie in their fields of the word (R348). -/
def DiagF.wf (f : DiagF) : Bool := f.wsh < 256 && f.slotno < 16 && f.qtr < 8 && f.ssh < 256

/-- Every field of a tile instruction lies in its field of the word (R346, R348). -/
def TileInstr.wf : TileInstr → Bool
  | .setx xd imm => xd < 32 && imm < 2 ^ 48
  | .addx xd xs xt sh imm => xd < 32 && xs < 32 && xt < 32 && sh < 64 && imm < 2 ^ 32
  | .loop xc imm len => xc < 32 && imm < 2 ^ 16 && len < 2 ^ 13
  | .br xs xt cond off => xs < 32 && xt < 32 && cond < 8 && off < 2 ^ 16
  | .load f => f.wf
  | .store f => f.wf
  | .gather f => f.wf
  | .scatter f => f.wf
  | .loadcard f => f.wf
  | .mma f => f.wf
  | .spma f => f.wf
  | .spge f => f.wf
  | .ewiseDiag f => f.wf
  | .ewiseChain src dst chn xr => src < 256 && dst < 256 && chn < 64 && xr < 32
  | .reduce kind src dst xn => kind < 8 && src < 256 && dst < 256 && xn < 32
  | .reduceSplitk src dst xn _ => src < 256 && dst < 256 && xn < 32
  | .drain chn dsh xr qtr => chn < 64 && dsh < 256 && xr < 32 && qtr < 8
  | .drainPartial dsh xr qtr => dsh < 256 && xr < 32 && qtr < 8
  | .take xd ctr => xd < 32 && ctr < 64
  | .commit xd => xd < 32
  | .yield => true
  | .send sh xn route xa => sh < 256 && xn < 32 && route < 256 && xa < 32
  | .tally no xs xr => no < 4096 && xs < 32 && xr < 32
  | .wait no xs => no < 4096 && xs < 32
  | .fence => true
  | .halt => true
  | .dbg xs code => xs < 32 && code < 2 ^ 16

end Sys2Proof
end

