-- ==== Sys2Proof/Certificates/Slice0/Obligations.lean ====
section
/-! DEFINITION. The statements for the provers. -/
section
open Sys2Proof Sys2Proof.Machine

/-! ## The block -/

/-- A step carries out the command at the front of the queue, on the state with the queue's rest; on an empty queue the block idles (the
model's choice: log entry 3). -/
def Obligations.StepTakesFront : Prop :=
  (∀ (s : State) (c : Instr) (r : List Instr), s.pending = c :: r → step s = exec c { s with pending := r }) ∧
  (∀ s : State, s.pending = [] → step s = .next s)

/-! ## The sequencer: control instructions -/

/-- SETX writes its immediate, sign-extended, to XD; ADDX writes XS + (XT × 2^SH) + IMM modulo 2^64; a write to x0 is ignored; the program
counter goes on in sequence (R335, R349, R351); nothing else of the device changes. LOOP runs its body the number of times given by its
count, read at issue as an unsigned value, and a count of 0 skips the body; at the last instruction of a body the program counter goes
back to its first while passes are left (R351). A LOOP that is the last instruction of another body ends that body with its own (log entry
184). BR moves the program counter by its signed 16-bit offset when its condition holds between XS and XT, and to the next instruction
otherwise; ALWAYS ignores both registers (R350). A taken branch leaves the loop stack as it is (log entry 17). -/
def Obligations.ControlFlow : Prop :=
  ((∀ (s : State) (c xd imm : Nat), Runs s c (.setx xd imm) → imm < 2 ^ 48 →
    exec (.setx c) s = .next (s.updCore c (fun k =>
      { k with x := if xd = 0 then k.x else k.x.set xd ((BitVec.ofNat 48 imm).signExtend 64),
               pc := (advanceFrom k.pc k.loops).1, loops := (advanceFrom k.pc k.loops).2, wait := none }))) ∧
  (∀ (s : State) (c xd xs xt sh imm : Nat), Runs s c (.addx xd xs xt sh imm) → imm < 2 ^ 32 →
    exec (.addx c) s = .next (s.updCore c (fun k =>
      { k with x := if xd = 0 then k.x else k.x.set xd (BitVec.ofNat 64 ((k.xr xs).toNat + (k.xr xt).toNat * 2 ^ sh
                 + ((BitVec.ofNat 32 imm).signExtend 64).toNat)),
               pc := (advanceFrom k.pc k.loops).1, loops := (advanceFrom k.pc k.loops).2, wait := none })))) ∧
  ((∀ (s : State) (c xc imm len : Nat), Runs s c (.loop xc imm len) →
    let n := if xc = 0 then imm else ((s.core c).xr xc).toNat
    exec (.loop c) s = .next (s.updCore c (fun k =>
      let outer := k.loops.map (fun l => if l.last = k.pc then { l with last := k.pc + len } else l)
      if n = 0 then
        { k with pc := (advanceFrom (k.pc + len) outer).1, loops := (advanceFrom (k.pc + len) outer).2, wait := none }
      else { k with pc := k.pc + 1, loops := ⟨n, k.pc + 1, k.pc + len⟩ :: outer, wait := none }))) ∧
  (∀ (i n first : Nat) (r : List LoopLevel), 1 < n → advanceFrom i (⟨n, first, i⟩ :: r) = (first, ⟨n - 1, first, i⟩ :: r)) ∧
  (∀ (i n first : Nat) (r : List LoopLevel), n ≤ 1 → advanceFrom i (⟨n, first, i⟩ :: r) = advanceFrom i r) ∧
  (∀ (i n first last : Nat) (r : List LoopLevel), last ≠ i → advanceFrom i (⟨n, first, last⟩ :: r) = (i + 1, ⟨n, first, last⟩ :: r)) ∧
  (∀ i : Nat, advanceFrom i [] = (i + 1, []))) ∧
  (∀ (s : State) (c xs xt cond off : Nat), Runs s c (.br xs xt cond off) → cond ≤ 6 → off < 2 ^ 16 →
    let k := s.core c
    let a := k.xr xs
    let b := k.xr xt
    let holds : Prop := cond = 0 ∨ (cond = 1 ∧ a = b) ∨ (cond = 2 ∧ a ≠ b) ∨ (cond = 3 ∧ a.toInt < b.toInt) ∨
      (cond = 4 ∧ b.toInt ≤ a.toInt) ∨ (cond = 5 ∧ a.toNat < b.toNat) ∨ (cond = 6 ∧ b.toNat ≤ a.toNat)
    (holds → exec (.br c) s = .next (s.updCore c (fun q =>
      { q with pc := ((k.pc : Int) + (BitVec.ofNat 16 off).toInt).toNat, wait := none }))) ∧
    (¬ holds → exec (.br c) s = .next (s.updCore c (fun q =>
      { q with pc := (advanceFrom k.pc k.loops).1, loops := (advanceFrom k.pc k.loops).2, wait := none }))))

/-- FENCE lets issue go on when every issued instruction of the core has completed, and holds it otherwise (R389). HALT ends the program
on its core, which then runs nothing; HALT while the core holds a tile faults with ST_HELD and stops the sequencer there (R390, R395);
that HALT waits for issued instructions is the model's reading (log entry 15). DBG sends an event with the program counter, DB.CODE and
x[XS] when the dispatch enables debug events, and does nothing otherwise; in either case the core goes on in sequence and nothing else
changes (R391). -/
def Obligations.FenceHaltDbg : Prop :=
  ((∀ (s : State) (c : Nat), Runs s c .fence → (s.core c).inflight = [] →
    exec (.fence c) s = .next (s.updCore c (fun k =>
      { k with pc := (advanceFrom k.pc k.loops).1, loops := (advanceFrom k.pc k.loops).2, wait := none }))) ∧
  (∀ (s : State) (c : Nat), Runs s c .fence → (s.core c).inflight ≠ [] →
    exec (.fence c) s = .next (s.updCore c (fun k => { k with wait := some .fence }))) ∧
  (∀ (s : State) (c : Nat), Runs s c .halt → (s.core c).held = none → (s.core c).inflight = [] →
    exec (.halt c) s = .next (s.updCore c (fun k =>
      { k with dispatch := none, own := [], ownChain := none, wait := none, stopped := none, loops := [], held := none,
               inflight := [], freed := false }))) ∧
  (∀ (s : State) (c : Nat) (h : Held), Runs s c .halt → (s.core c).held = some h →
    ∃ t, exec (.halt c) s = .next t ∧ (t.core c).stopped = some ⟨(s.core c).pc, .held, 0⟩ ∧ (t.core c).held = some h ∧
      (t.core c).pc = (s.core c).pc ∧ t = { s with cores := t.cores, evq := t.evq })) ∧
  (∀ (s : State) (c xs code n : Nat) (d : Dispatch), Runs s c (.dbg xs code) → (s.core c).dispatch = some n →
    lookupK n s.dispatches = some d →
    let k := s.core c
    let go := fun t : State => t.updCore c (fun q =>
      { q with pc := (advanceFrom k.pc k.loops).1, loops := (advanceFrom k.pc k.loops).2, wait := none })
    (d.req.debug = true → exec (.dbg c) s = .next (go (s.event
      { code := 0x0003, st := .ok, detail := 0, core := c, dispatch := n,
        body := low 16 k.pc + at_ 16 (low 16 code) + at_ 64 (k.xr xs).toNat, cont := none }))) ∧
    (d.req.debug = false → exec (.dbg c) s = .next (go s)))

/-! ## Tallies and waits of a program -/

/-- WAIT holds issue until the local tally minus x[XS], modulo 2^64, is below 2^63; WAIT_RELEASE lets the core go on once it is (R388).
TALLY waits until every STORE, SCATTER and SEND that the core issued before it has completed, then adds x[XS] (1 for x0) modulo 2^64 to a
tally: the local one when XR is x0 or names this socket. TALLY_INCREMENT makes the addition of a TALLY that waited (R387). A TALLY of
another socket that can be reached sends one packet that adds the amount there, kept until it is acknowledged, and is issued; one that
cannot be reached faults with ST_NOOWNER (R584, R589, R596, R604). -/
def Obligations.Tallies : Prop :=
  (∀ (s : State) (c no xs : Nat),
    let met := (s.tally no - (s.core c).xr xs).toNat < 2 ^ 63
    let go := s.updCore c (fun k =>
      { k with pc := (advanceFrom k.pc k.loops).1, loops := (advanceFrom k.pc k.loops).2, wait := none })
    (Runs s c (.wait no xs) → met → exec (.wait c) s = .next go) ∧
    (Runs s c (.wait no xs) → ¬ met → exec (.wait c) s = .next (s.updCore c (fun k => { k with wait := some .cond }))) ∧
    (Waits s c (.wait no xs) .cond → met → exec (.waitRelease c) s = .next go) ∧
    (Waits s c (.wait no xs) .cond → ¬ met → exec (.waitRelease c) s = .next s)) ∧
  (∀ (s : State) (c no xs xr : Nat),
    let k := s.core c
    let waits := ∃ f ∈ k.inflight, f.instr.opcode = 0x11 ∨ f.instr.opcode = 0x13 ∨ f.instr.opcode = 0x50
    let v : W64 := if xs = 0 then 1 else k.xr xs
    let go := ({ s with tallies := insertK no (s.tally no + v) s.tallies } : State).updCore c (fun q =>
      { q with pc := (advanceFrom k.pc k.loops).1, loops := (advanceFrom k.pc k.loops).2, wait := none })
    (Runs s c (.tally no xs xr) → waits → exec (.tally c) s = .next (s.updCore c (fun q => { q with wait := some .tally }))) ∧
    (Runs s c (.tally no xs xr) → ¬ waits → (xr = 0 ∨ s.self? = some (k.xr xr).toNat) → exec (.tally c) s = .next go) ∧
    (Waits s c (.tally no xs xr) .tally → ¬ waits → (xr = 0 ∨ s.self? = some (k.xr xr).toNat) →
      exec (.tallyIncrement c) s = .next go)) ∧
  (∀ (s : State) (c no xs xr me : Nat), xr ≠ 0 → s.self? = some me → ((s.core c).xr xr).toNat ≠ me →
    Runs s c (.tally no xs xr) → (s.core c).inflight = [] →
    let sock := ((s.core c).xr xr).toNat
    let v : W64 := if xs = 0 then 1 else (s.core c).xr xs
    (∀ port dl, (s.stream sock).unreachable = false → s.exitPort sock = some (port, dl) →
      ∃ t p, exec (.tally c) s = .next t ∧ p = FPacket.mk sock me (routeEpoch (s.routeOf sock)) (s.stream sock).nextSeq (b2n dl) (.tallyInc no v) ∧
        t.fabricOut = s.fabricOut ++ [(port, p)] ∧ (t.stream sock).unacked = (s.stream sock).unacked ++ [p] ∧
        (t.stream sock).nextSeq = (s.stream sock).nextSeq + 1 ∧
        ((t.core c).inflight.map (fun f => (f.instr, f.acks))) = [(.tally no xs xr, [(sock, (s.stream sock).nextSeq)])] ∧
        (t.core c).pc = (advanceFrom (s.core c).pc (s.core c).loops).1 ∧ t.tallies = s.tallies ∧
        t = { s with cores := t.cores, fabricOut := t.fabricOut, streams := t.streams, ledger := t.ledger }) ∧
    ((s.stream sock).unreachable = true ∨ s.exitPort sock = none →
      ∃ t, exec (.tally c) s = .next t ∧ (t.core c).stopped = some ⟨(s.core c).pc, .noowner, 2⟩ ∧
        t = { s with cores := t.cores, evq := t.evq }))

/-! ## The desks -/

/-- A TAKE that the desk can serve gives the core the tile: the accession number is the dispatch number and the tile number, the eight
registers from XD hold the origins, the tile number, the counts and their two packed forms, and the core goes on; the same for a TAKE that
waited (TAKE_SERVED) and for a first TAKE whose spacing has passed (FIRST_TAKE_STAGGER_ELAPSED). A TAKE whose counter is exhausted writes
all ones to XD + 3 and 0 to the other seven registers, and the core holds no tile (R381). -/
def Obligations.TakeGivesTile : Prop :=
  (∀ (s : State) (c xd n t : Nat) (d : Dispatch) (k' : Counter),
    (s.core c).held = none → (s.core c).dispatch = some n → lookupK n s.dispatches = some d → d.req.contract = none →
    s.boundaryPreempt c = false → s.lowerWaits c d = false → s.serveTake c d = .tile t k' →
    let (p0, p1, p2) := d.req.position t
    let col := p0 * d.req.stepOf 0
    let row := p1 * d.req.stepOf 1
    let vn := Nat.min (d.req.stepOf 0) (d.req.extent 0 - col)
    let vm := Nat.min (d.req.stepOf 1) (d.req.extent 1 - row)
    let regs : List Nat := [col, row, p2 * d.req.stepOf 2, t, vn, vm, vm + 65536 * vn, row + 2 ^ 32 * col]
    let gives := fun o : Out => ∃ u, o = .next u ∧
      (∃ h, (u.core c).held = some h ∧ h.accession = d.number % 2 ^ 24 * 2 ^ 32 + t % 2 ^ 32 ∧ h.tile = t ∧ h.dispatch = d.number) ∧
      (∀ j v, regs[j]? = some v → xd + j ≠ 0 → xd + j < (s.core c).x.length → (u.core c).xr (xd + j) = BitVec.ofNat 64 v) ∧
      (∀ i, i < xd ∨ xd + 8 ≤ i → (u.core c).xr i = (s.core c).xr i) ∧
      (u.core c).pc = (advanceFrom (s.core c).pc (s.core c).loops).1 ∧ (u.core c).wait = none ∧
      (∀ e, e ≠ c → u.core e = s.core e) ∧ u = { s with cores := u.cores, regions := u.regions, dispatches := u.dispatches }
    (Runs s c (.take xd 0) → s.staggered c d = false → gives (exec (.take c) s)) ∧
    (Waits s c (.take xd 0) .take → gives (exec (.takeServed c) s)) ∧
    (∀ r q, Waits s c (.take xd 0) .stagger → d.counterIn (regionOf c) = some r → s.counter? (regionOf c) r = some q →
      (∃ e l, q.starts = (e, true) :: l) → gives (exec (.firstTakeStaggerElapsed c) s))) ∧
  (∀ (s : State) (c xd n : Nat) (d : Dispatch),
    Runs s c (.take xd 0) → (s.core c).held = none → (s.core c).dispatch = some n → lookupK n s.dispatches = some d →
    s.boundaryPreempt c = false → s.staggered c d = false → s.lowerWaits c d = false → s.serveTake c d = .exhausted →
    ∃ u, exec (.take c) s = .next u ∧ (u.core c).held = none ∧
      (∀ j, j < 8 → xd + j ≠ 0 → xd + j < (s.core c).x.length →
        (u.core c).xr (xd + j) = if j = 3 then BitVec.allOnes 64 else 0) ∧
      (∀ i, i < xd ∨ xd + 8 ≤ i → (u.core c).xr i = (s.core c).xr i) ∧
      (u.core c).pc = (advanceFrom (s.core c).pc (s.core c).loops).1 ∧
      u = { s with cores := u.cores, regions := u.regions })

/-- The order in which a TAKE is served (R415): the returned tile with the lowest number, then the next tile of the core's open chunk,
then the first tile not yet in a chunk, then a stolen one, which is the last of another core's chunk. A chunk formed (R413): it holds at
least one tile and at most 256, consecutive from the first unformed tile, inside the range; only its last tile can end a line, and without
the last tile it is below DESK.TARGET. A counter that has no more than DESK.WIN of its tiles above DESK.WATER taken, committed or
suspended has no more of them after it serves a TAKE (R419). -/
def Obligations.DeskRules : Prop :=
  (∀ (k : Counter) (q : Request) (avail : Nat → Bool) (c : Nat), q.marked = none →
    (∀ t, t ∈ k.returned → avail t = true → (∀ r ∈ k.returned, avail r = true → t ≤ r) →
      ∃ k', k.candidate q avail c = some (t, k') ∧ t ∉ k'.returned ∧ k'.chunks = k.chunks ∧ k'.unformed = k.unformed) ∧
    ((∀ r ∈ k.returned, avail r = false) → ∀ t r, k.chunk c = t :: r → avail t = true →
      ∃ k', k.candidate q avail c = some (t, k') ∧ k'.chunk c = r ∧ k'.unformed = k.unformed ∧ k'.returned = k.returned) ∧
    ((∀ r ∈ k.returned, avail r = false) → k.chunk c = [] → ∀ lo hi l, k.unformed = (lo, hi) :: l → avail lo = true →
      ∃ k', k.candidate q avail c = some (lo, k') ∧ k'.returned = k.returned) ∧
    ((∀ r ∈ k.returned, avail r = false) → k.chunk c = [] → k.unformed = [] → ∀ v l, k.victim q c = some (v, l) →
      ∀ t, l.getLast? = some t → avail t = true →
      ∃ k', k.candidate q avail c = some (t, k') ∧ k'.chunk v = l.dropLast ∧ v ≠ c)) ∧
  (∀ (k : Counter) (q : Request) (lo hi : Nat) (l : List (Nat × Nat)), q.marked = none → k.unformed = (lo, hi) :: l → lo < hi →
    let f := (k.form q).1
    1 ≤ f.length ∧ f.length ≤ 256 ∧ f = (List.range f.length).map (· + lo) ∧ lo + f.length ≤ hi ∧
    (∀ i, i + 1 < f.length → (lo + i + 1) % Nat.max 1 q.line ≠ 0) ∧
    (∀ i, 1 ≤ i → i < f.length → sumNat ((f.take i).map q.cost) < k.target) ∧
    (f.length = 256 ∨ lo + f.length = hi ∨ (lo + f.length) % Nat.max 1 q.line = 0 ∨ k.target ≤ sumNat (f.map q.cost))) ∧
  (∀ (k k' : Counter) (q : Request) (avail : Nat → Bool) (c t : Nat),
    k.above.length ≤ k.win → k.serve q avail c = .tile t k' → (k'.give t c).above.length ≤ (k'.give t c).win ∧ k'.win = k.win)

/-- COMMIT of a held tile waits for the core's issued instructions and then offers the tile to the desk; without a held tile it faults
with ST_HELD (R383). COMMIT_OFFER lands the first commit of a tile, which is then committed and counted, and writes 0 (2 where an APPEND
store found no room); it discards a later one, counts it and writes 1; the core holds no tile afterwards (R383, R424). YIELD returns the
held tile to the desk uncommitted and the core goes on; without a held tile, and with no pre-emption pending, it only goes on (R384, R426,
R444). -/
def Obligations.CommitYield : Prop :=
  ((∀ (s : State) (c xd : Nat) (h : Held), Runs s c (.commit xd) → (s.core c).held = some h →
    exec (.commit c) s = .next (s.updCore c (fun k =>
      { k with wait := some (if k.inflight.isEmpty then Wait.offer else Wait.commit) }))) ∧
  (∀ (s : State) (c xd : Nat), Runs s c (.commit xd) → (s.core c).held = none →
    ∃ u, exec (.commit c) s = .next u ∧ (u.core c).stopped = some ⟨(s.core c).pc, .held, 0⟩ ∧
      u = { s with cores := u.cores, evq := u.evq }) ∧
  (∀ (s : State) (c xd r n : Nat) (h : Held) (d : Dispatch) (k : Counter),
    Waits s c (.commit xd) .offer ∨ Waits s c (.commit xd) .commit → (s.core c).held = some h → (s.core c).inflight = [] →
    h.cards = [] → h.runs = [] → h.sends = [] → lookupK h.dispatch s.dispatches = some d → d.number = h.dispatch →
    s.homeOf d h.tile = some (r, n, k) → k.state ≠ .cancelling → d.cancelling = false → r < s.regions.length →
    ∃ u k' d', exec (.commitOffer c) s = .next u ∧ u.counter? r n = some k' ∧ lookupK h.dispatch u.dispatches = some d' ∧
      (u.core c).held = none ∧ (u.core c).pc = (advanceFrom (s.core c).pc (s.core c).loops).1 ∧
      (u.core c).x = (if xd = 0 then (s.core c).x else
        (s.core c).x.set xd (if h.tile ∈ k.committed then 1 else if h.nofit then 2 else 0)) ∧
      h.tile ∈ k'.committed ∧ (h.tile, c) ∉ k'.taken ∧
      (h.tile ∉ k.committed → k'.superseded = k.superseded ∧ d'.committed = d.committed + 1 ∧ h.tile ∉ k'.returned ∧ h.tile ∉ k'.suspended) ∧
      (h.tile ∈ k.committed → k'.superseded = k.superseded + 1 ∧ d'.committed = d.committed ∧ d'.superseded = d.superseded + 1) ∧
      u = { s with cores := u.cores, regions := u.regions, dispatches := u.dispatches })) ∧
  ((∀ (s : State) (c r n : Nat) (h : Held) (d : Dispatch) (k : Counter), Runs s c .yield → (s.core c).held = some h →
    lookupK h.dispatch s.dispatches = some d → s.homeOf d h.tile = some (r, n, k) → r < s.regions.length →
    k.state ≠ .cancelling → h.tile ∉ k.committed →
    ∃ u k', exec (.yield c) s = .next u ∧ (u.core c).held = none ∧ u.counter? r n = some k' ∧ h.tile ∈ k'.returned ∧
      (h.tile, c) ∉ k'.taken ∧ k'.committed = k.committed ∧
      (u.core c).pc = (advanceFrom (s.core c).pc (s.core c).loops).1 ∧ (u.core c).x = (s.core c).x ∧
      u = { s with cores := u.cores, regions := u.regions }) ∧
  (∀ (s : State) (c : Nat), Runs s c .yield → (s.core c).held = none → s.boundaryPreempt c = false →
    exec (.yield c) s = .next (s.updCore c (fun k =>
      { k with pc := (advanceFrom k.pc k.loops).1, loops := (advanceFrom k.pc k.loops).2, wait := none }))))

/-- An URGENT dispatch that finds no core takes a whole-array core of a lower class once its issued instructions have completed: its
context is saved in its region with its held tile suspended, or, where the save pool is full, the tile is returned and counted as
abandoned; the core is then idle (R444, R446). The context that a region resumes next is of the highest priority class, and among those
the one suspended earliest (R441). A saved context restored on an idle core gives it the saved registers, program counter, loop stack,
tags, slots, phase and held tile, whose uncommitted runs lie in the new core's carrel, and leaves the region's list; its tile is held by
the core and no longer suspended (R441, R448). -/
def Obligations.ContextsSaved : Prop :=
  (∀ (s : State) (c n r m : Nat) (h : Held) (d : Dispatch) (k : Counter),
    c < s.cores.length → regionOf c < s.regions.length → s.ready c = true → (s.core c).split = false → (s.core c).fore = false →
    (s.core c).inflight = [] → s.wanted c (s.prioOf (s.core c)) (fun p => p == 2) = true →
    (s.core c).dispatch = some n → (s.core c).held = some h → h.dispatch = n → lookupK n s.dispatches = some d →
    s.homeOf d h.tile = some (r, m, k) → r < s.regions.length → k.state ≠ .cancelling → h.tile ∉ k.committed →
    (∃ u k' x, exec (.preemptMidTile c false) s = .next u ∧ (u.core c).dispatch = none ∧ (u.core c).held = none ∧
      u.counter? r m = some k' ∧ h.tile ∈ k'.suspended ∧ k'.returned = k.returned ∧
      (u.region (regionOf c)).contexts = (s.region (regionOf c)).contexts ++ [x] ∧ x.dispatch = n ∧ x.core.held = some h ∧
      x.core.x = (s.core c).x ∧ x.core.pc = (s.core c).pc ∧ x.core.loops = (s.core c).loops ∧
      x.order = s.nextOrder ∧ u.nextOrder = s.nextOrder + 1 ∧
      u = { s with cores := u.cores, regions := u.regions, nextOrder := u.nextOrder, ledger := u.ledger }) ∧
    (∃ u k' d', exec (.preemptMidTile c true) s = .next u ∧ (u.core c).dispatch = none ∧ (u.core c).held = none ∧
      u.counter? r m = some k' ∧ h.tile ∈ k'.returned ∧ lookupK n u.dispatches = some d' ∧ d'.abandoned = d.abandoned + 1 ∧
      u = { s with cores := u.cores, regions := u.regions, dispatches := u.dispatches })) ∧
  ((∀ (g : Region), (g.contexts = [] ↔ g.nextContext = none) ∧
    ∀ x, g.nextContext = some x → x ∈ g.contexts ∧ ∀ y ∈ g.contexts, y.prio < x.prio ∨ (y.prio = x.prio ∧ x.order ≤ y.order)) ∧
  (∀ (s : State) (c : Nat) (x : Context), c < s.cores.length → regionOf c < s.regions.length → s.startable c = true →
    s.nextWork c = some (.inl x) → x.core.inflight = [] →
    ∀ i, i = Instr.contextResume c ∨ i = Instr.coreProgramStart c →
    ∃ u, exec i s = .next u ∧ (u.core c).x = x.core.x ∧ (u.core c).pc = x.core.pc ∧ (u.core c).loops = x.core.loops ∧
      (u.core c).slots = x.core.slots ∧ (u.core c).phase = x.core.phase ∧ 
      (u.core c).held = x.core.held.map (fun h => { h with runs := h.runs.map (fun r => { r with core := c }) }) ∧
      (u.core c).dispatch = x.core.dispatch ∧ (u.core c).stopped = none ∧ (u.core c).repair = (s.core c).repair ∧
      (∀ y ∈ (u.region (regionOf c)).contexts, y.order ≠ x.order) ∧
      ((∀ j ∈ s.jobs, ∀ r ∈ j.2.runs, r.core.map Prod.fst ≠ some c) →
        u = { s with cores := u.cores, regions := u.regions, ledger := u.ledger })))

/-- An idle core that starts a dispatch enters its program at IMG.ENTRY with the state of R334: parameters in x1 to x15, every other
register 0, empty tags, loops, banks and records, LOAD phase, no held tile (R334, R441, R442). -/
def Obligations.ProgramStarts : Prop :=
  ∀ (s : State) (c : Nat) (d : Dispatch) (p : Program), c < s.cores.length → s.startable c = true → s.nextWork c = some (.inr d) →
    d.req.contract = none → lookupK d.req.program s.programs = some p →
    ∃ u, exec (.coreProgramStart c) s = .next u ∧ (u.core c).dispatch = some d.number ∧ (u.core c).pc = p.entry ∧
      (u.core c).slots = d.req.slots ∧ (u.core c).tags = [] ∧ (u.core c).loops = [] ∧ (u.core c).recs = [] ∧
      (u.core c).bankA = none ∧ (u.core c).bankB = none ∧ (u.core c).choice = none ∧ (u.core c).held = none ∧
      (u.core c).phase = .load ∧ (u.core c).wait = none ∧ (u.core c).stopped = none ∧
      (∀ i, 1 ≤ i → i ≤ 15 → (u.core c).xr i = (d.req.params[i - 1]?).getD 0) ∧ (∀ i, i = 0 ∨ 16 ≤ i → (u.core c).xr i = 0) ∧
      (u.core c).carrel = (s.core c).carrel ∧
      u = { s with cores := u.cores, regions := u.regions, ledger := u.ledger }

/-- Unformed tiles moved from the end of one counter's range to another counter of the same dispatch belong to exactly that one counter
afterwards, and no other tile changes its counter (R417), where the window of the counter that gets them holds what then stands above its
watermark (R419). -/
def Obligations.TileRangeMoves : Prop :=
  ∀ (s : State) (r n q m count lo hi : Nat) (a b : Counter) (l : List (Nat × Nat)),
    r < s.regions.length → q < s.regions.length → (r, n) ≠ (q, m) → s.running = true → s.counter? r n = some a → s.counter? q m = some b →
    a.dispatch = b.dispatch → a.state ≠ .cancelling → b.state ≠ .cancelling → a.unformed = l ++ [(lo, hi)] → 0 < count → count ≤ hi - lo →
    (∃ x, x ≤ lo ∧ (x, hi) ∈ a.ranges) → a.ranges.Pairwise (fun x y => x.2 ≤ y.1) →
    (b.adopt [(hi - count, hi)] []).above.length ≤ b.win →
    ∃ u a' b', exec (.tileRangeMove r n q m count) s = .next u ∧ u.counter? r n = some a' ∧ u.counter? q m = some b' ∧
      (∀ t, a'.owns t = true ↔ a.owns t = true ∧ ¬ (hi - count ≤ t ∧ t < hi)) ∧
      (∀ t, b'.owns t = true ↔ b.owns t = true ∨ (hi - count ≤ t ∧ t < hi)) ∧
      u = { s with regions := u.regions }

/-! ## Phases, completion, transfers -/

/-- An instruction of a phase, tried while the sequencer is in another phase, waits; PHASE_ENTER, once every issued instruction of the
current phase has completed, takes the sequencer into the waiting instruction's phase and issues it there under its own rules; before that
nothing happens (R341, R342). INSTRUCTION_COMPLETE takes an issued instruction that has reached its completion event out of those that
have not; for a SEND that was issued without a held tile it adds 1 to the tally that its route names, unless the route has none (R603); a
FENCE that waited for the last of them goes on, a HALT that waited ends the program. One that is stopped, or waits for an answer, a rerun,
a re-execution or an acknowledgement, has not completed (R343, R389, R390, R498). Behind writes to host-backed pages a trailing read is
issued first, and its return is the completion (R485; log entry 182). -/
def Obligations.IssueCompletes : Prop :=
  (∀ (s : State) (c : Nat) (p : Phase) (errs : List MemErr) (mis : List Mismatch),
    (∀ f, Runs s c (.load f) → (s.core c).phase ≠ .load →
      exec (.load c errs) s = .next (s.updCore c (fun k => { k with wait := some .phase }))) ∧
    (∀ f, Runs s c (.store f) → (s.core c).phase ≠ .drain →
      exec (.store c errs) s = .next (s.updCore c (fun k => { k with wait := some .phase }))) ∧
    (∀ f, Runs s c (.mma f) → (s.core c).phase ≠ .compute →
      exec (.mma c mis) s = .next (s.updCore c (fun k => { k with wait := some .phase }))) ∧
    (∀ i, Waits s c i .phase → i.phase = some p → (∀ f ∈ (s.core c).inflight, f.instr.phase ≠ some (s.core c).phase) →
      let s1 := s.updCore c (fun q => { q with phase := p })
      exec (.phaseEnter c errs mis) s = .next (s1.carry c (issueBody c errs mis s1 i)) ∧ (s1.core c).phase = p) ∧
    (∀ i, Waits s c i .phase → (∃ f ∈ (s.core c).inflight, f.instr.phase = some (s.core c).phase) →
      exec (.phaseEnter c errs mis) s = .next s)) ∧
  (∀ (s : State) (c idx : Nat) (f : Inflight), c < s.cores.length → s.flightOf c idx = some f →
    let k := s.core c
    let left := k.inflight.filter (fun g => g.idx != idx)
    let done : Prop := f.stop = none ∧ f.asked = [] ∧ f.rerun = false ∧ f.redo = false ∧ s.writesHeld k f = false ∧
      (∀ a ∈ f.acks, ∀ p ∈ (s.stream a.1).unacked, p.seq ≠ a.2) ∧
      (∀ u ∈ k.unitsOf f.instr, ∀ g, (k.onUnit u).head? = some g → g.idx = idx)
    (s.unitAlive c = true → done → f.trail = false → k.wait ≠ some .fence →
      (f.sendRoute = none → exec (.instructionComplete c idx) s = .next (s.updCore c (fun q => { q with inflight := left }))) ∧
      (∀ r, f.sendRoute = some r → srNoTally (s.routeEntry k r) = true →
        exec (.instructionComplete c idx) s = .next (s.updCore c (fun q => { q with inflight := left }))) ∧
      (∀ r, f.sendRoute = some r → srNoTally (s.routeEntry k r) = false → s.self? = some (srSocket (s.routeEntry k r)) →
        let t := srTally (s.routeEntry k r)
        exec (.instructionComplete c idx) s =
          .next (({ s with tallies := insertK t (s.tally t + 1) s.tallies } : State).updCore c (fun q => { q with inflight := left })))) ∧
    (s.unitAlive c = true → done → f.trail = false → f.sendRoute = none → left = [] →
      (Waits s c .fence .fence → exec (.instructionComplete c idx) s = .next (s.updCore c (fun q =>
        { q with inflight := [], pc := (advanceFrom q.pc q.loops).1, loops := (advanceFrom q.pc q.loops).2, wait := none }))) ∧
      (Waits s c .halt .fence → exec (.instructionComplete c idx) s = .next (s.updCore c (fun q =>
        { q with dispatch := none, own := [], ownChain := none, wait := none, stopped := none, loops := [], held := none,
                 inflight := [], freed := false })))) ∧
    (f.stop ≠ none ∨ f.asked ≠ [] ∨ f.rerun = true ∨ f.redo = true ∨
        (∃ a ∈ f.acks, ∃ p ∈ (s.stream a.1).unacked, p.seq = a.2) →
      exec (.instructionComplete c idx) s = .next s) ∧
    (s.unitAlive c = true → f.trail = true → done →
      ∃ u, exec (.instructionComplete c idx) s = .next u ∧ u.flightOf c idx = some { f with trail := false } ∧
        (u.core c).wait = k.wait ∧ (u.core c).pc = k.pc ∧ u = { s with cores := u.cores, ledger := u.ledger, fresh := u.fresh }))

/-- A LOAD of a row of one-byte elements, all of them readable, copies the row's bytes from memory to the start of its shelf, tags the
shelf with the object, and changes nothing else of the carrel and nothing of memory; the instruction is issued and the core goes on (R354,
R356). One that meets a page of host memory that is not resident stops there: it stays issued with its stop, the core goes on, and no byte
of memory changes; a read of an address without a mapping stops the sequencer with ST_UNMAPPED (R494, R498). -/
def Obligations.LoadRow : Prop :=
  ∀ (s : State) (c x n : Nat) (tf : TF) (d : Desc), RunsIn s c (.load tf) → s.slotDesc (s.core c) tf.slot = some d →
    d.Plain → d.rank = 1 → tf.role = 0 → tf.ps ≠ 1 → tf.chn = 0 → tf.bl = false → tf.choice = false → tf.xo < 32 → tf.xe < 32 →
    ((s.core c).xr tf.xo).toInt = (x : Int) → ((s.core c).xr tf.xe).toNat = n → 0 < n → x + n ≤ d.size 0 →
    (s.core c).inflight = [] → tf.sh + shelvesFor (roundUp n 64) ≤ s.limitOf c → NoRuns s c → (d.base + x) % 65536 + n ≤ 65536 →
    (∀ p, s.page? (d.base + x) = some p → s.checkRead (d.base + x) n = .ok →
    ∃ u f, exec (.load c []) s = .next u ∧
      (∀ i, i < n → (u.core c).carrel.read (tf.sh * 16384 + i) = ((s.bytesAt (d.base + x) n)[i]?).getD 0) ∧
      (∀ a, a < tf.sh * 16384 ∨ tf.sh * 16384 + roundUp n 64 ≤ a → (u.core c).carrel.read a = (s.core c).carrel.read a) ∧
      (u.core c).tag tf.sh = ⟨1, n, tf.sh, 0, tf.slot, 0, tf.gw, 0, d.fmt, d.uscale, 0⟩ ∧
      (u.core c).inflight = [f] ∧ f.instr = .load tf ∧ f.x = (s.core c).x ∧ f.stop = none ∧
      (u.core c).pc = (advanceFrom (s.core c).pc (s.core c).loops).1 ∧ (u.core c).x = (s.core c).x ∧
      u = { s with cores := u.cores, ledger := u.ledger, fresh := u.fresh, caches := u.caches }) ∧
    (∀ p, s.page? (d.base + x) = some p → p.host = true → p.resident = false →
      ∃ u f t, exec (.load c []) s = .next u ∧ (u.core c).inflight = [f] ∧ f.stop = some t ∧ t.cause = 1 ∧
        t.va = d.base + x ∧ t.done = 0 ∧ (u.core c).stopped = none ∧
        (u.core c).pc = (advanceFrom (s.core c).pc (s.core c).loops).1 ∧ u.dram = s.dram ∧ u.hostMem = s.hostMem ∧
        u = { s with cores := u.cores, ledger := u.ledger, fresh := u.fresh, evq := u.evq, pages := u.pages }) ∧
    (s.page? (d.base + x) = none →
      ∃ u, exec (.load c []) s = .next u ∧ (u.core c).stopped = some ⟨(s.core c).pc, .unmapped, 0⟩ ∧
        (u.core c).inflight = [] ∧ u.dram = s.dram ∧ u.hostMem = s.hostMem ∧
        u = { s with cores := u.cores, ledger := u.ledger, fresh := u.fresh, evq := u.evq })

/-- A STORE of a row of one-byte elements, all of them writable, copies the object's bytes to memory at the row's address, and changes no
other byte of memory and nothing of the carrel (R364). -/
def Obligations.StoreRow : Prop :=
  ∀ (s : State) (c x n : Nat) (tf : TF) (d : Desc) (t : Tag) (p : Page), RunsIn s c (.store tf) →
    s.slotDesc (s.core c) tf.slot = some d → d.Plain → d.rank = 1 → tf.ps ≠ 1 → tf.chn = 0 → tf.bl = false → tf.xo < 32 → tf.xe < 32 →
    ((s.core c).xr tf.xo).toInt = (x : Int) → ((s.core c).xr tf.xe).toNat = n → 0 < n → x + n ≤ d.size 0 →
    (s.core c).object (s.limitOf c) tf.sh = .inl t → t.role = 0 → t.fmt = d.fmt → t.sb = 0 → t.uscale = d.uscale → n ≤ t.e0 → 1 ≤ t.e1 →
    (s.core c).inflight = [] → (s.core c).carrel.wf = true →
    InPage s (d.base + x) n p → s.checkWrite false (d.base + x) n = .ok → (s.core c).foreShelves = [] → (s.core c).fore = false →
    ∃ u f, exec (.store c []) s = .next u ∧
      (u.dram, u.hostMem) = s.afterWrite p (d.base + x) ((s.core c).carrel.readBytes (tf.sh * 16384) n) ∧
      (u.core c).carrel = (s.core c).carrel ∧ (u.core c).tags = (s.core c).tags ∧
      (u.core c).inflight = [f] ∧ f.instr = .store tf ∧ f.stop = none ∧ f.undo = [⟨d.base + x, s.bytesAt (d.base + x) n, u.bytesAt (d.base + x) n⟩] ∧
      (u.core c).pc = (advanceFrom (s.core c).pc (s.core c).loops).1 ∧
      u = { s with cores := u.cores, ledger := u.ledger, fresh := u.fresh, caches := u.caches, dram := u.dram, hostMem := u.hostMem,
                   poison := u.poison }

/-- A GATHER of one slice puts the bytes of the slice that its index names at the start of its shelf (R280, R363). A SCATTER of one slice
in OVERWRITE writes the object's first row over the slice that its index names, and no other byte of memory (R284, R286). -/
def Obligations.GatherScatter : Prop :=
  (∀ (s : State) (c first j : Nat) (tf : TF) (d li : Desc) (p q : Page), RunsIn s c (.gather tf) →
    s.slotDesc (s.core c) tf.slot = some d → s.slotDesc (s.core c) tf.slot2 = some li → d.Plain → li.PlainIndex → d.rank = 2 →
    tf.gdim = 1 → tf.role = 0 → tf.chn = 0 → tf.bl = false → tf.xo + 1 < 32 →
    ((s.core c).xr tf.xo).toNat = first → ((s.core c).xr (tf.xo + 1)).toNat = 1 → first < li.size 0 → 0 < d.size 0 → 0 ≤ d.stride 1 →
    InPage s (li.base + 4 * first) 4 q → s.checkRead (li.base + 4 * first) 4 = .ok →
    ofLe (s.bytesAt (li.base + 4 * first) 4) = j → j < d.size 1 → d.size 1 < 2 ^ 31 →
    let a := d.base + j * (d.stride 1).toNat
    let n := d.size 0
    InPage s a n p → s.checkRead a n = .ok → (s.core c).inflight = [] →
    tf.sh + shelvesFor (roundUp n 64) ≤ s.limitOf c → NoRuns s c →
    ∃ u f, exec (.gather c []) s = .next u ∧
      (∀ i, i < n → (u.core c).carrel.read (tf.sh * 16384 + i) = ((s.bytesAt a n)[i]?).getD 0) ∧
      (∀ b, b < tf.sh * 16384 ∨ tf.sh * 16384 + roundUp n 64 ≤ b → (u.core c).carrel.read b = (s.core c).carrel.read b) ∧
      (u.core c).inflight = [f] ∧ f.instr = .gather tf ∧ f.stop = none ∧
      (u.core c).pc = (advanceFrom (s.core c).pc (s.core c).loops).1 ∧ (u.core c).x = (s.core c).x ∧
      u = { s with cores := u.cores, ledger := u.ledger, fresh := u.fresh, caches := u.caches }) ∧
  (∀ (s : State) (c first j : Nat) (tf : TF) (d li : Desc) (t : Tag) (p q : Page), RunsIn s c (.scatter tf) →
    s.slotDesc (s.core c) tf.slot = some d → s.slotDesc (s.core c) tf.slot2 = some li → d.Plain → li.PlainIndex → d.rank = 2 →
    tf.gdim = 1 → tf.chn = 0 → tf.bl = false → tf.xo + 1 < 32 →
    ((s.core c).xr tf.xo).toNat = first → ((s.core c).xr (tf.xo + 1)).toNat = 1 → first < li.size 0 → 0 < d.size 0 → 0 ≤ d.stride 1 →
    InPage s (li.base + 4 * first) 4 q → s.checkRead (li.base + 4 * first) 4 = .ok →
    ofLe (s.bytesAt (li.base + 4 * first) 4) = j → j < d.size 1 → d.size 1 < 2 ^ 31 →
    (s.core c).object (s.limitOf c) tf.sh = .inl t → t.role = 0 → t.fmt = d.fmt → t.sb = 0 → t.uscale = d.uscale → d.size 0 ≤ t.e0 → 1 ≤ t.e1 →
    let a := d.base + j * (d.stride 1).toNat
    let n := d.size 0
    InPage s a n p → s.checkWrite false a n = .ok → (s.core c).inflight = [] → (s.core c).carrel.wf = true →
    ∃ u f, exec (.scatter c []) s = .next u ∧
      (u.dram, u.hostMem) = s.afterWrite p a ((s.core c).carrel.readBytes (tf.sh * 16384) n) ∧
      (u.core c).carrel = (s.core c).carrel ∧ (u.core c).tags = (s.core c).tags ∧
      (u.core c).inflight = [f] ∧ f.instr = .scatter tf ∧ f.stop = none ∧
      (u.core c).pc = (advanceFrom (s.core c).pc (s.core c).loops).1 ∧
      u = { s with cores := u.cores, ledger := u.ledger, fresh := u.fresh, caches := u.caches, dram := u.dram, hostMem := u.hostMem,
                   poison := u.poison })

/-- A LOADCARD of one tile of a folio reads the tile's card, checks it, and puts it in the bank that its role names; the choice map is
invalid from its issue on (R205, R208, R359, R360). -/
def Obligations.LoadcardCard : Prop :=
  ∀ (s : State) (c e0 e1 : Nat) (tf : TF) (d : Desc) (q : Page), RunsIn s c (.loadcard tf) → s.slotDesc (s.core c) tf.slot = some d →
    d.layout = 1 → d.rank = 2 → d.owner = 0 → d.sb = 0 → d.oob = 0 → d.access = 0 → d.xpose = false → d.fore = false →
    tf.role ≤ 1 → tf.chn = 0 → tf.bl = false → tf.choice = false → tf.xo + 1 < 32 → tf.xe + 1 < 32 →
    (s.core c).xr tf.xo = 0 → (s.core c).xr (tf.xo + 1) = 0 → ((s.core c).xr tf.xe).toNat = e0 → ((s.core c).xr (tf.xe + 1)).toNat = e1 →
    0 < e0 → e0 ≤ 128 → e0 ≤ d.size 0 → 0 < e1 → e1 ≤ 128 → e1 ≤ d.size 1 →
    InPage s d.aux0 32 q → s.checkRead d.aux0 32 = .ok → cardCheck d (ofLe (s.bytesAt d.aux0 32)) = none →
    (s.core c).inflight = [] →
    ∃ u f, exec (.loadcard c []) s = .next u ∧
      (if tf.role = 0 then (u.core c).bankA else (u.core c).bankB) =
        some ⟨tf.slot, d.fmt, d.kaxis, 1, 1, [ofLe (s.bytesAt d.aux0 32)]⟩ ∧
      (if tf.role = 0 then (u.core c).bankB = (s.core c).bankB else (u.core c).bankA = (s.core c).bankA) ∧
      (u.core c).choice = none ∧ (u.core c).inflight = [f] ∧ f.instr = .loadcard tf ∧ f.stop = none ∧
      (u.core c).carrel = (s.core c).carrel ∧ (u.core c).pc = (advanceFrom (s.core c).pc (s.core c).loops).1 ∧
      u = { s with cores := u.cores, ledger := u.ledger, fresh := u.fresh, caches := u.caches }

/-- A SEND along a valid route of the device's own socket writes the bytes of its shelves at the landing offset and is counted for its
tile, or without one for its completion (R386, R600, R601, R603). -/
def Obligations.SendLands : Prop :=
  ∀ (s : State) (c sh xn route xa me : Nat) (t : Tag) (p : Page), RunsIn s c (.send sh xn route xa) → s.self? = some me →
    (s.core c).object (s.limitOf c) sh = .inl t → (s.core c).inflight = [] →
    let n := ((s.core c).xr xn).toNat
    let off := ((s.core c).xr xa).toNat
    let e := s.routeEntry (s.core c) route
    let a := srBase e + off
    0 < n → sh * 16384 + n ≤ s.limitOf c * 16384 → srValid e = true → srSocket e = me → off % 64 = 0 → off + n ≤ srSize e →
    InPage s a n p → s.checkWrite false a n = .ok →
    ∃ u g, exec (.send c) s = .next u ∧
      (u.dram, u.hostMem) = s.afterWrite p a ((s.core c).carrel.readBytes (sh * 16384) n) ∧
      (∀ h, (s.core c).held = some h →
        (u.core c).held = some { h with sends := insertK route (lookupD 0 route h.sends + 1) h.sends } ∧ g.sendRoute = none) ∧
      ((s.core c).held = none → (u.core c).held = none ∧ g.sendRoute = some route) ∧
      (u.core c).inflight = [g] ∧ g.instr = .send sh xn route xa ∧ g.stop = none ∧
      (u.core c).carrel = (s.core c).carrel ∧ (u.core c).pc = (advanceFrom (s.core c).pc (s.core c).loops).1 ∧
      u = { s with cores := u.cores, ledger := u.ledger, fresh := u.fresh, caches := u.caches, dram := u.dram, hostMem := u.hostMem,
                   poison := u.poison }

/-- A transfer whose fault is not resolved stays stopped; a FILL whose fault is resolved goes on from where it stood (R504, R547): in the
last row, inside one page, it writes its byte over the rest of its range. -/
def Obligations.TransferResumes : Prop :=
  ∀ (s : State),
    (∀ c idx f t, c < s.cores.length → s.flightOf c idx = some f → f.stop = some t → s.resolved t = false →
      exec (.transferResume (.core c idx) []) s = .next s) ∧
    (∀ o t p, s.copies = [o] → o.stop = some t → s.resolved t = true → s.running = true → o.src = none →
      let a := o.dst + o.pos
      let n := o.len - o.pos
      0 < n → n ≤ 4096 → a < 2 ^ 52 → InPage s a n p → s.checkWrite false a n = .ok →
      ∃ u, exec (.transferResume (.copy o.id) []) s = .next u ∧
        (u.dram, u.hostMem) = s.afterWrite p a (List.replicate n (BitVec.ofNat 8 o.fill)) ∧
        u.copies = [{ o with stop := none, pos := o.len }] ∧
        u = { s with copies := u.copies, ledger := u.ledger, fresh := u.fresh, caches := u.caches, dram := u.dram, hostMem := u.hostMem,
                     poison := u.poison })

/-! ## The engines and the drain -/

/-- An MMA, SPMA or SPGE in TILE that passes its issue checks on an idle core, and that no mismatch disturbs, runs: its tile record stands
with its shape, flow, mode, formats and counts, it is among the issued instructions, and the core goes on; only an MMA from ZERO or
PRELOAD of interleaved scaled blocks may have to be rerun first (R166); one that fails a check stops the sequencer with that check's
status (R199, R207, R370 to R373, R395). -/
def Obligations.MatrixRuns : Prop :=
  ∀ (s : State) (c kind : Nat) (f : MF), kind ≤ 2 → (kind = 2 → f.flow = 0) → RunsIn s c (matrixInstr kind f) →
    let k := s.core c
    (k.mmaCheck (s.limitOf c) kind f = none → s.formCheck k kind f = none → k.inflight = [] → k.repair.pending = [] →
      ∃ u g r, exec (matrixRow kind c []) s = .next u ∧ (u.core c).inflight = [g] ∧ g.instr = matrixInstr kind f ∧ g.x = k.x ∧ g.stop = none ∧
        g.redo = false ∧ ((f.start = 2 ∨ ((k.tag f.sa).sb ≠ 1 ∧ (k.tag f.sb).sb ≠ 1) ∨ kind ≠ 0) → g.rerun = false) ∧
        lookupK f.qtr (u.core c).recs = some r ∧ r.m = (if f.qtr = 4 then 128 else 64) * (f.mc + 1) ∧
        r.n = (if f.qtr = 4 then 128 else 64) * (f.nc + 1) ∧ r.mode = f.mode ∧ r.flow = f.flow ∧ r.fmtA = (k.tag f.sa).fmt ∧
        r.fmtB = (k.tag f.sb).fmt ∧ r.vm = bits (k.xr f.xv).toNat 15 0 ∧ r.vn = bits (k.xr f.xv).toNat 31 16 ∧
        (f.start ≠ 2 → r.start = f.start) ∧ (f.start ≠ 2 → g.rerun = false → r.st.kcount = Nat.min 0x3FFFFFF (bits (k.xr f.xk).toNat 31 0)) ∧
        (u.core c).split = (f.qtr != 4) ∧ (u.core c).x = k.x ∧ (u.core c).slots = k.slots ∧
        (u.core c).pc = (advanceFrom k.pc k.loops).1 ∧ (k.held ≠ none → u.dispatches = s.dispatches) ∧ u.regions = s.regions ∧
        (kind = 0 → k.usesSparse f = false →
          u = { s with cores := u.cores, ledger := u.ledger, fresh := u.fresh, dispatches := u.dispatches })) ∧
    (∀ st, k.mmaCheck (s.limitOf c) kind f = some st ∨ (k.mmaCheck (s.limitOf c) kind f = none ∧ s.formCheck k kind f = some st) →
      ∃ u, exec (matrixRow kind c []) s = .next u ∧ (u.core c).stopped = some ⟨k.pc, st, 0⟩ ∧ (u.core c).recs = k.recs ∧
        (u.core c).acc = k.acc ∧ u = { s with cores := u.cores, evq := u.evq })

/-- What is put into the accumulators as a tile of a quarter or of the array is read back as that tile (R90, R118, R128). -/
def Obligations.AccTileKept : Prop :=
  ∀ (k : Core) (q m n : Nat) (rows : List (List Nat)), q ≤ 4 → k.acc.wf = true →
    let g := geoOf q false
    (∃ a, 1 ≤ a ∧ m = a * g.g) → (∃ b, 1 ≤ b ∧ n = b * g.gc) → m / g.g * (n / g.gc) ≤ 16 → rows.length = m →
    (∀ r ∈ rows, r.length = n ∧ ∀ e ∈ r, e < 2 ^ 64) →
    (k.setAccTile g n rows).accTile g m n = rows ∧ (k.setAccTile g n rows).acc.wf = true ∧
      (k.setAccTile g n rows) = { k with acc := (k.setAccTile g n rows).acc }

/-- SPGE in RUN on a held tile forms runs of its sums: each run's descriptor is kept with the held tile under the tile's number, and its
entries lie in the run area (R229, R231, R373). -/
def Obligations.SpgeRuns : Prop :=
  ∀ (s : State) (c : Nat) (f : MF) (a b bl : Tag) (h : Held), RunsIn s c (.spge f) → f.flow = 1 →
    let k := s.core c
    k.object (s.limitOf c) f.sa = .inl a → k.object (s.limitOf c) f.sb = .inl b → k.object (s.limitOf c) b.link = .inl bl →
    f.qtr = 4 → f.mode = 0 → f.start ≠ 2 → f.pskip = 0 →
    (f.cardA = true → bankOk k.bankA (tileM f) a.kExt a = true) → (f.cardB = true → bankOk k.bankB (tileN f) b.kExt b = true) → a.role = 4 → b.role = 5 → bl.role = 4 → isElemFmt a.fmt = true → isElemFmt b.fmt = true →
    isIntFmt a.fmt = isIntFmt b.fmt → f.sp + runArea (k.tcw f) ≤ s.limitOf c → k.held = some h → k.inflight = [] → NoRuns s c →
    (∃ j, (((k.xr f.xk).toNat, j) : Nat × Job) ∈ s.jobs ∧ j.finished = false) →
    let be := (runEntries (k.objMem b.link bl) bl.count).toArray
    let dir := directory (k.objMem f.sb b) b.count
    let of := fun (kk : Nat) => dir.flatMap (fun d => if d.1 == kk then (List.range d.2.2).filterMap (fun j => be[d.2.1 + j]?) else [])
    let out := runMode (runEntries (k.objMem f.sa a) a.count) of
    sumNat (out.1.map (fun o => o.entries.length)) * 16 ≤ runArea (k.tcw f) * 16384 →
    ∃ u h' ds, exec (.spge c []) s = .next u ∧ (u.core c).held = some h' ∧ h'.runs = h.runs ++ ds ∧ ds.length = out.1.length ∧
      (∀ i d o, ds[i]? = some d → out.1[i]? = some o → d.count = o.entries.length ∧ d.tile = h.tile ∧ d.seq = k.runSeq + i ∧
        d.job = (k.xr f.xk).toNat ∧ d.inmem = false ∧ d.core = c) ∧
      (u.core c).runSeq = k.runSeq + out.1.length ∧ (u.core c).pc = (advanceFrom k.pc k.loops).1 ∧
      u = { s with cores := u.cores, ledger := u.ledger }

/-- EWISE DIAG on a tile record makes its pass over the slots it names: each cell of a slot becomes the collapsed value times its wire or
stationary operand (MUL), plus the other one (MAD), with one rounding, after the stationary registers are loaded with S where it says so
(R133 to R136, R374); without a tile record, and on an exact or forerunner one or in forerunner mode, it faults with ST_MODE (R137). -/
def Obligations.DiagPass : Prop :=
  (∀ (s : State) (c : Nat) (f : DiagF) (r : TileRec) (t ts : Tag), RunsIn s c (.ewiseDiag f) →
    let k := s.core c
    let q := geoOf f.qtr false
    let wire := fun (sh : Nat) (x : Tag) => k.object (s.limitOf c) sh = .inl x ∧ x.role = 1 ∧ x.gw = (f.qtr != 4) ∧ isElemFmt x.fmt = true ∧ q.g ≤ x.e1
    lookupK f.qtr k.recs = some r → r.mode = 0 → k.fore = false → k.split = (f.qtr != 4) → wire f.wsh t → (f.loads = true → wire f.ssh ts) →
    k.inflight = [] → k.repair.pending = [] →
    let k1 := if f.loads then k.loadWires q (k.wires f.ssh ts q.g) else k
    ∃ u g, exec (.ewiseDiag ⟨c, []⟩) s = .next u ∧
      (u.core c).acc = ((if f.all then List.range (r.m / q.g * (r.n / q.g)) else [f.slotno]).foldl
        (fun a sl => a.diagPass q f (k.wires f.wsh t q.g) sl) k1).acc ∧ (u.core c).stat = k1.stat ∧
      (u.core c).inflight = [g] ∧ g.instr = .ewiseDiag f ∧ (u.core c).recs = k.recs ∧ (u.core c).carrel = k.carrel ∧
      (u.core c).pc = (advanceFrom k.pc k.loops).1 ∧ u = { s with cores := u.cores, ledger := u.ledger }) ∧
  (∀ (k : Core) (qtr i j : Nat) (v : Array (Array W32)), qtr ≤ 4 → k.stat.wf = true → i < (geoOf qtr false).g → j < (geoOf qtr false).g →
    let q := geoOf qtr false
    (k.loadWires q v).statAt (q.row0 + i) (q.col0 + j) = (((v[i]?).getD #[])[j]?).getD 0) ∧
  (∀ (s : State) (c : Nat) (f : DiagF), RunsIn s c (.ewiseDiag f) →
    lookupK f.qtr (s.core c).recs = none ∨ (s.core c).fore = true ∨ (∃ r, lookupK f.qtr (s.core c).recs = some r ∧ r.mode ≠ 0) →
    ∃ u, exec (.ewiseDiag ⟨c, []⟩) s = .next u ∧ (u.core c).stopped = some ⟨(s.core c).pc, .mode, 0⟩ ∧
      u = { s with cores := u.cores, evq := u.evq })

/-- A DRAIN without a chain, of a tile whose output scale is 0, ends its tile record and writes a DATA object of FP32 values: each valid
element's collapsed accumulator as R305 converts it; along any chain it ends the record and writes what the chain makes of the collapsed
values, and a send stage of the device's own socket carries the written tile to its landing (R317 to R320, R600); without a record it
faults with ST_MODE (R151, R305, R378). DRAIN_PARTIAL, tried in the DRAIN phase or issued by PHASE_ENTER, ends its tile record and writes
the tile's ACC image, header first, as an ACCIMAGE object; a forerunner tile has none (R379, R380). -/
def Obligations.DrainWrites : Prop :=
  (∀ (s : State) (c dsh xr q : Nat) (r : TileRec), RunsIn s c (.drain 0 dsh xr q) →
    let k := s.core c
    lookupK q k.recs = some r → r.mode = 0 → r.st.outscale = 0 → q ≤ 4 → r.skipped = [] → r.audited = [] → dsh + shelvesFor (r.m * roundUp (4 * r.n) 64) ≤ s.limitOf c →
    k.inflight = [] → NoRuns s c → k.carrel.wf = true → r.vm ≤ r.m → r.vn ≤ r.n →
    ∃ u g, exec (.drain c) s = .next u ∧ lookupK q (u.core c).recs = none ∧
      (∀ i j e l, (k.tileRows r q)[i]? = some l → l[j]? = some e → i < r.vm → j < r.vn →
        (u.core c).carrel.readLe (dsh * 16384 + i * roundUp (4 * r.n) 64 + 4 * j) 4 =
          (convert 0x0A true .rne (fv (Twin.ofWord e).collapse)).1) ∧
      (0 < r.m → 0 < r.n → (u.core c).tag dsh = ⟨r.m, r.n, dsh, 0, 0, 0, false, 0, 0x0A, 0, 0⟩) ∧
      (u.core c).inflight = [g] ∧ g.instr = .drain 0 dsh xr q ∧ (u.core c).acc = k.acc ∧
      (u.core c).pc = (advanceFrom k.pc k.loops).1 ∧ u.dram = s.dram ∧ u.hostMem = s.hostMem ∧
      u = { s with cores := u.cores, dispatches := u.dispatches }) ∧
  (∀ (s : State) (c chn dsh xr q : Nat) (r : TileRec), RunsIn s c (.drain chn dsh xr q) →
    let k := s.core c
    let st := stagesOf (s.chainOf k chn)
    let unit := if q = 4 then 128 else 64
    let x := (k.xr xr).toNat
    let len := (outTag st r.m r.n).bytes 0
    lookupK q k.recs = some r → (r.start = 1 → ∀ g ∈ st, g.cls ≠ 2) → (r.mode = 2 → foreChain st = true) →
    k.chainFault (s.limitOf c) st = none → (∀ p ∈ outShelves st r.m r.n unit dsh, p.1 + p.2 ≤ s.limitOf c) → k.inflight = [] → NoRuns s c →
    let acc := (k.collapsed r q (s.stepOf k)).2
    let f := ({ vals := (k.collapsed r q (s.stepOf k)).1, vm := r.vm, vn := r.vn, skipped := r.skipped, row0 := bits x 31 0, col0 := bits x 63 32,
                unit := unit, flags := 0, sides := [] } : Flow).run st acc.outscale (s.polyOf k) (k.vecTable r.m r.n)
    let k1 := (k.putFlow dsh st f acc.outscale).1
    let drained := fun u : State => lookupK q (u.core c).recs = none ∧ (u.core c).carrel = k1.carrel ∧ (u.core c).tags = k1.tags ∧
      (u.core c).inflight.map (fun g => g.instr) = [.drain chn dsh xr q] ∧ (u.core c).acc = k.acc ∧
      (u.core c).pc = (advanceFrom k.pc k.loops).1
    ((∀ g ∈ st, g.cls ≠ 9) → ∃ u, exec (.drain c) s = .next u ∧ drained u ∧ u = { s with cores := u.cores, dispatches := u.dispatches }) ∧
    (∀ gs h me p, st.find? (fun g => g.cls == 9) = some gs → k.held = some h → s.self? = some me →
      let e := s.routeEntry k gs.aux
      let a := srBase e + h.tile * srSlot e
      srValid e = true → srSocket e = me → len ≤ srSlot e → h.tile * srSlot e + len ≤ srSize e → InPage s a len p → s.checkWrite false a len = .ok →
      ∃ u h', exec (.drain c) s = .next u ∧ drained u ∧ (u.dram, u.hostMem) = s.afterWrite p a (k1.tileBytes dsh st r.m r.n) ∧
        (u.core c).held = some h' ∧ h'.sends = insertK gs.aux (lookupD 0 gs.aux h.sends + 1) h.sends ∧ h'.accession = h.accession ∧
        u = { s with cores := u.cores, ledger := u.ledger, fresh := u.fresh, caches := u.caches, dram := u.dram, hostMem := u.hostMem,
                     poison := u.poison })) ∧
  (∀ (s : State) (c chn dsh xr q : Nat), RunsIn s c (.drain chn dsh xr q) → lookupK q (s.core c).recs = none →
    ∃ u, exec (.drain c) s = .next u ∧ (u.core c).stopped = some ⟨(s.core c).pc, .mode, 0⟩ ∧ u = { s with cores := u.cores, evq := u.evq }) ∧
  (∀ (s : State) (c dsh xr q : Nat) (r : TileRec) (errs : List MemErr) (mis : List Mismatch) (o : Host.Outcome State Fault Refusal),
    (RunsIn s c (.drainPartial dsh xr q) ∧ o = exec (.drainPartial c) s) ∨
      (Waits s c (.drainPartial dsh xr q) .phase ∧ o = exec (.phaseEnter c errs mis) s) →
    let k := s.core c
    lookupK q k.recs = some r → k.inflight = [] →
    (r.mode = 2 → ∃ u, o = .next u ∧ (u.core c).stopped = some ⟨k.pc, .mode, 0⟩ ∧ u = { s with cores := u.cores, evq := u.evq }) ∧
    (r.mode ≠ 2 → dsh + shelvesFor (64 + r.m * r.n * (if r.mode = 1 then 16 else 8)) ≤ s.limitOf c → NoRuns s c → k.carrel.wf = true →
      ∃ u g, o = .next u ∧ (u.core c).phase = .drain ∧ lookupK q (u.core c).recs = none ∧
        (u.core c).carrel.readLe (dsh * 16384) 64 = r.header % 2 ^ 512 ∧ ((u.core c).tag dsh).role = 6 ∧
        ((u.core c).tag dsh).e1 = r.m ∧ ((u.core c).tag dsh).e0 = r.n ∧ (u.core c).inflight = [g] ∧ g.instr = .drainPartial dsh xr q ∧
        (u.core c).pc = (advanceFrom k.pc k.loops).1 ∧ u = { s with cores := u.cores, dispatches := u.dispatches }))

/-- EWISE of CHAIN form along a chain of one ReLU stage turns the values of a DATA object into their ReLU as FP32 in another DATA object,
and leaves main memory and the accumulators alone; along any chain without a send stage it writes what the chain makes of the object's
values (R305, R309, R317, R375). REDUCE combines entry r of its n input records by SUM, MAX or LSE into entry r of one record of 128
entries (R328, R376); REDUCE_SPLITK combines its partial images and writes the result as an ACC image, or into the accumulators as a tile
record, of quarter 0 where the whole array cannot lay it out (R180 to R184, R377; log entry 187); n = 0 faults with ST_SHAPE, and a tile
record that is held with ST_HELD where the result goes into the accumulators (log entry 125). -/
def Obligations.ChainReduce : Prop :=
  ((∀ (s : State) (c src dst chn xr : Nat) (t : Tag) (g : Stage), RunsIn s c (.ewiseChain src dst chn xr) →
    let k := s.core c
    s.chainOf k chn = some ⟨false, [g]⟩ → g.cls = 3 → g.op = 0 → k.object (s.limitOf c) src = .inl t → t.role = 0 →
    isElemFmt t.fmt = true → dst + shelvesFor (t.e1 * roundUp (4 * t.e0) 64) ≤ s.limitOf c →
    k.inflight = [] → NoRuns s c → k.carrel.wf = true →
    ∃ u q, exec (.ewiseChain c) s = .next u ∧
      (∀ i j e, i < t.e1 → (dataRow (k.objMem src t) t i)[j]? = some e → j < t.e0 →
        let v := e.toF32 t.fmt
        let w := if (fv v).isNan then fNan else if fLt f0 v then v else f0
        (u.core c).carrel.readLe (dst * 16384 + i * roundUp (4 * t.e0) 64 + 4 * j) 4 = (convert 0x0A true .rne (fv w)).1) ∧
      (0 < t.e1 → 0 < t.e0 → (u.core c).tag dst = ⟨t.e1, t.e0, dst, 0, 0, 0, false, 0, 0x0A, 0, 0⟩) ∧
      (u.core c).inflight = [q] ∧ q.instr = .ewiseChain src dst chn xr ∧ (u.core c).recs = k.recs ∧ (u.core c).acc = k.acc ∧
      (u.core c).pc = (advanceFrom k.pc k.loops).1 ∧ u = { s with cores := u.cores, dispatches := u.dispatches }) ∧
  (∀ (s : State) (c src dst chn xr : Nat) (t : Tag), RunsIn s c (.ewiseChain src dst chn xr) →
    let k := s.core c
    let st := stagesOf (s.chainOf k chn)
    let x := (k.xr xr).toNat
    k.object (s.limitOf c) src = .inl t → t.role = 0 → isElemFmt t.fmt = true → (∀ g ∈ st, g.cls ≠ 2 ∧ g.cls ≠ 9) →
    k.chainFault (s.limitOf c) st = none → (∀ p ∈ outShelves st t.e1 t.e0 128 dst, p.1 + p.2 ≤ s.limitOf c) → k.inflight = [] → NoRuns s c →
    let f := ({ vals := (List.range t.e1).map (fun r => (dataRow (k.objMem src t) t r).map (fun e => e.toF32 t.fmt)), vm := t.e1, vn := t.e0,
                skipped := [], row0 := bits x 31 0, col0 := bits x 63 32, unit := 128, flags := 0, sides := [] } : Flow).run st 0 (s.polyOf k)
                (k.vecTable t.e1 t.e0)
    let k1 := (k.putFlow dst st f 0).1
    ∃ u q, exec (.ewiseChain c) s = .next u ∧ (u.core c).carrel = k1.carrel ∧ (u.core c).tags = k1.tags ∧ (u.core c).inflight = [q] ∧
      q.instr = .ewiseChain src dst chn xr ∧ (u.core c).recs = k.recs ∧ (u.core c).acc = k.acc ∧
      (u.core c).pc = (advanceFrom k.pc k.loops).1 ∧ u = { s with cores := u.cores, dispatches := u.dispatches })) ∧
  ((∀ (s : State) (c kind src dst xn : Nat) (t : Tag), RunsIn s c (.reduce kind src dst xn) → kind ≤ 2 →
    let k := s.core c
    let n := (k.xr xn).toNat
    let w := if kind = 0 then 4 else 8
    let lines := if kind = 0 then 8 else 16
    0 < n → k.object (s.limitOf c) src = .inl t → t.role = 0 → t.fmt = (if kind = 0 then 0x0A else 0x11) →
    src + shelvesFor (n * lines * 64) ≤ s.limitOf c → dst + shelvesFor (128 * w) ≤ s.limitOf c →
    (∀ x, src ≤ x → x < src + shelvesFor (n * lines * 64) → (k.tag x).fmt ≠ 0 ∧ (k.tag x).first = src) → k.inflight = [] → NoRuns s c →
    k.carrel.wf = true →
    ∃ u g, exec (.reduce c) s = .next u ∧
      (∀ r, r < 128 → (u.core c).carrel.readLe (dst * 16384 + r * w) w = reduceEntry kind ((List.range n).map (fun i =>
        (k.objMem src t).readLe (i * lines * 64 + r * w) w)) % 2 ^ (8 * w)) ∧
      (u.core c).inflight = [g] ∧ g.instr = .reduce kind src dst xn ∧ (u.core c).pc = (advanceFrom k.pc k.loops).1 ∧
      u = { s with cores := u.cores }) ∧
  (∀ (s : State) (c src dst xn sh0 : Nat) (toacc : Bool) (imgs : List (Nat × Tag)) (t0 : Tag), RunsIn s c (.reduceSplitk src dst xn toacc) →
    let k := s.core c
    let n := (k.xr xn).toNat
    let h := (k.objMem sh0 t0).readLe 0 64
    let exact_ := bits h 85 84 == 1
    0 < n → k.imagesAt (s.limitOf c) (Nat.min n (s.limitOf c + 1)) src = .inl ((sh0, t0) :: imgs) →
    (∀ p ∈ imgs, p.2.e0 = t0.e0 ∧ p.2.e1 = t0.e1 ∧ k.imageMode p.1 = bits h 85 84) → k.imageMode sh0 = bits h 85 84 → k.inflight = [] → NoRuns s c →
    (toacc = true → k.recs = []) → dst + shelvesFor (accImageBytes t0.e1 t0.e0 (bits h 85 84)) ≤ s.limitOf c →
    let out := combinePartials (bits h 95 88) (bits h 103 96) exact_ (((sh0, t0) :: imgs).map (fun p => k.partialAt p.1 p.2))
    let rows := chunksOf t0.e0 (t0.e1 + 1) out.1
    let own := s.splitOf k
    let r0 : TileRec := { TileRec.ofHeader h with start := 0, skipped := (s.splitRows k).1, audited := (s.splitRows k).2, st := out.2 }
    let r := if own.isSome then { r0 with vm := bits (k.xr 14).toNat 15 0, vn := bits (k.xr 14).toNat 31 16 } else r0
    let q := match own with
      | some x => if x.tiling.split then 0 else 4
      | none => if t0.e1 % 128 = 0 ∧ t0.e0 % 128 = 0 then 4 else 0
    ∃ u g, exec (.reduceSplitk c) s = .next u ∧ (u.core c).inflight = [g] ∧ g.instr = .reduceSplitk src dst xn toacc ∧
      (toacc = true → lookupK q (u.core c).recs = some r ∧ (u.core c).split = (q != 4) ∧
        (u.core c).acc = ((k.enterMode (q != 4)).setAccTile (geoOf q exact_) t0.e0 rows).acc ∧ (u.core c).carrel = k.carrel) ∧
      (toacc = false → (u.core c).carrel = k.carrel.writeBytes (dst * 16384) (imageBytesOf r rows) ∧ (u.core c).recs = k.recs ∧
        (u.core c).acc = k.acc) ∧
      (u.core c).pc = (advanceFrom k.pc k.loops).1 ∧ u = { s with cores := u.cores, dispatches := u.dispatches }) ∧
  (∀ (s : State) (c kind src dst xn : Nat) (t : Tag), RunsIn s c (.reduce kind src dst xn) → (s.core c).xr xn = 0 →
    (s.core c).object (s.limitOf c) src = .inl t →
    ∃ u, exec (.reduce c) s = .next u ∧ (u.core c).stopped = some ⟨(s.core c).pc, .shape, 0⟩ ∧ u = { s with cores := u.cores, evq := u.evq }) ∧
  (∀ (s : State) (c src dst xn sh0 : Nat) (imgs : List (Nat × Tag)) (t0 : Tag), RunsIn s c (.reduceSplitk src dst xn true) →
    let k := s.core c
    let n := (k.xr xn).toNat
    0 < n → k.imagesAt (s.limitOf c) (Nat.min n (s.limitOf c + 1)) src = .inl ((sh0, t0) :: imgs) →
    (∀ p ∈ imgs, p.2.e0 = t0.e0 ∧ p.2.e1 = t0.e1 ∧ k.imageMode p.1 = k.imageMode sh0) →
    k.imageMode sh0 = bits ((k.objMem sh0 t0).readLe 0 64) 85 84 → k.recs ≠ [] →
    ∃ u, exec (.reduceSplitk c) s = .next u ∧ (u.core c).stopped = some ⟨k.pc, .held, 0⟩ ∧ u = { s with cores := u.cores, evq := u.evq }))

/-- After an overflow of a rerunnable tile, TILE_RERUN starts it again with A's scales lowered by one more RERUN_STEP: its record has one
rerun more and an output scale larger by the step (R166, R167, R170). At a tile boundary a pending repair is switched in, spare 0 first:
the row is served by a spare, nothing is pending, every accumulator and stationary register of the row is +0, and a REPAIR event is raised
(R140, R141, R146, R655). -/
def Obligations.RepairsReruns : Prop :=
  (∀ (s : State) (c idx : Nat) (g : Inflight) (f : MF) (r : TileRec), c < s.cores.length → s.unitAlive c = true →
    (s.core c).inflight = [g] → g.idx = idx → g.instr = .mma f → g.rerun = true → f.start ≠ 2 → lookupK f.qtr (s.core c).recs = some r →
    ∃ u r', exec (.tileRerun ⟨c, []⟩ idx) s = .next u ∧ lookupK f.qtr (u.core c).recs = some r' ∧ r'.st.reruns = r.st.reruns + 1 ∧
      r'.st.outscale = r.st.outscale + s.stepOf (s.core c) ∧ (u.core c).pc = (s.core c).pc ∧ (u.core c).x = (s.core c).x ∧
      (∀ e, e ≠ c → u.core e = s.core e) ∧ ((s.core c).usesSparse f = false ∨ NoRuns s c →
        u = { s with cores := u.cores, ledger := u.ledger, fresh := u.fresh, dispatches := u.dispatches })) ∧
  (∀ (s : State) (c row : Nat) (cmd : Bool) (mis : List Mismatch), c < s.cores.length → s.unitAlive c = true →
    (s.core c).repair.pending = [(row, cmd)] → (s.core c).inflight = [] → row < 128 →
    ∃ u, exec (.repairSwitch c mis) s = .next u ∧ (u.core c).repair.pending = [] ∧
      ((s.core c).repair.sp0 = none → (u.core c).repair.sp0 = some row ∧ (u.core c).repair.sp1 = (s.core c).repair.sp1) ∧
      ((s.core c).repair.sp0 ≠ none → (s.core c).repair.sp1 = none →
        (u.core c).repair.sp1 = some row ∧ (u.core c).repair.sp0 = (s.core c).repair.sp0) ∧
      (∀ a, row * 512 ≤ a → a < (row + 1) * 512 → (u.core c).stat.read a = 0 ∧ (u.core c).statNext.read a = 0) ∧
      (∀ a, row * 16384 ≤ a → a < (row + 1) * 16384 → (u.core c).acc.read a = 0) ∧
      (∀ a, a < row * 16384 ∨ (row + 1) * 16384 ≤ a → (u.core c).acc.read a = (s.core c).acc.read a) ∧
      (u.core c).carrel = (s.core c).carrel ∧ u = { s with cores := u.cores, evq := u.evq })

/-! ## The bindery -/

/-- A bindery takes the first waiting job of its region whose dispatch has committed its last tile (R33); a pass over up to 8 runs
combines them into the result, which is written where the job says, as entries of 16 bytes in rising row and column order, each pair of
coordinates once (R233 to R235, R237); a committed run moves from its carrel into a buffer with room (R236), or, from a core of another
region, to its job's spill area (R232). -/
def Obligations.BinderyMerges : Prop :=
  (∀ (s : State) (r h n : Nat) (l : List Nat) (j : Job) (d : Dispatch), r < s.regions.length → s.alive = true →
    (s.region r).isolated = none → (s.region r).jobNow = none → (s.region r).jobQueue = h :: l → lookupK h s.jobs = some j →
    j.finished = false → j.dispatch = some n → s.dispatch? n = some d → s.allCommitted d = true → d.cancelling = false →
    exec (.binderyJobStart r) s = .next { s with
      jobs := updK h (fun x => { x with merging := true }) s.jobs,
      regions := updateAt s.regions r (fun g => { g with jobNow := some h, jobQueue := g.jobQueue.filter (fun x => x ≠ h) }) }) ∧
  (∀ (s : State) (r h : Nat) (j : Job), r < s.regions.length → s.alive = true → (s.region r).isolated = none →
    (s.region r).jobNow = some h → lookupK h s.jobs = some j → j.runs ≠ [] → j.runs.length ≤ 8 → j.form = 0 → j.out < 2 ^ 64 →
    isBus (BitVec.ofNat 64 j.out) = true →
    let m := mergeGroup j.runs
    ∃ u, exec (.binderyPassComplete r) s = .next u ∧
      u.jobs = updK h (fun x => { x with runs := [], merging := false, finished := true, flags := x.flags ||| m.flags }) s.jobs ∧
      u.hostMem = s.hostMem.writeBytes (j.out % 2 ^ 52) (m.entries.flatMap (fun e => leBytes 16 e.word)) ∧
      u.regions = updateAt s.regions r (fun g => { g with jobNow := none }) ∧
      u = { s with jobs := u.jobs, hostMem := u.hostMem, regions := u.regions, ledger := u.ledger }) ∧
  (∀ rs : List Run, (mergeGroup rs).entries.Pairwise (fun a b => a.row < b.row ∨ (a.row = b.row ∧ a.col < b.col)) ∧
    (∀ a b, (∃ e ∈ (mergeGroup rs).entries, e.row = a ∧ e.col = b) ↔ ∃ q ∈ rs, ∃ e ∈ q.entries, e.row = a ∧ e.col = b)) ∧
  (∀ (s : State) (h i : Nat) (j : Job) (x : Run), s.alive = true → lookupK h s.jobs = some j → j.runs[i]? = some x → x.core ≠ none →
    (j.foreign x = true → exec (.runToBuffer h i) s = .next (s.spillRun h i)) ∧
    (j.foreign x = false → s.bufferUse (j.region.getD 0) + x.entries.length ≤ 16384 →
    exec (.runToBuffer h i) s = .next { s with
      jobs := updK h (fun q => { q with runs := updateAt q.runs i (fun y => { y with core := none, buffered := true, inmem := false }) }) s.jobs }))

/-! ## Packets and replies -/

/-- A packet that a source offers is read, and refused where its opcode is not listed (ST_OPCODE), where a reserved bit of its header is
set, or where a parameter has a bit that its row does not name (ST_FIELD, with the parameter word as detail); it has no other effect
(R530). That any row may answer a packet of an unlisted opcode is the model's choice (log entry 39). -/
def Obligations.PacketsRefused : Prop :=
  ∀ (s : State) (src : Src) (p : Packet) (row : Nat × (Src → Instr)), row ∈ commandRows → s.offered src = some p →
    let t := s.consume src p
    (listedOp (pktOp p) = false → exec (row.2 src) s = .next (t.answer src p { st := .opcode })) ∧
    (∀ n, src = .ring n → pktOp p = row.1 → s.mode = .running → (∀ x, s.txn = some x → x.ring ≠ n) →
      ((bits p.toNat 63 51 ≠ 0 ∨ bits p.toNat 49 49 ≠ 0) → ∃ d, exec (row.2 src) s = .next (t.answer src p { st := .field, detail := d })) ∧
      (∀ i, i < 7 → bits p.toNat 63 51 = 0 → bits p.toNat 49 49 = 0 →
        (∀ j, j < i → (pktP p j).toNat &&& (mAll ^^^ ((paramMask row.1)[j]?).getD 0) = 0) →
        (pktP p i).toNat &&& (mAll ^^^ ((paramMask row.1)[i]?).getD 0) ≠ 0 →
        exec (row.2 src) s = .next (t.answer src p { st := .field, detail := i }))) ∧
    (pktOp p ≠ row.1 → listedOp (pktOp p) = true → exec (row.2 src) s = .next s)

/-- A FINAL reply of a command other than DISPATCH and CONTRACT is one entry of 32 bytes at the tail of the ring's completion ring in host
memory, with the layout of R531; no other byte changes; the tail goes on and the phase is inverted at the end of a pass (R524); the entry
reserved is used (R526); the ring's interrupt is raised when its count is reached, when every packet read has its FINAL reply, or when the
packet asks for it, and not otherwise (R528). -/
def Obligations.ReplyLands : Prop :=
  (∀ (s : State) (n : Nat) (g : Ring) (p : Packet) (r : Rep), lookupK n s.rings = some g → g.error = false →
    (s.mode = .running ∨ s.mode = .recovery) → r.cont = none → r.kind = .final → dispatchOp (pktOp p) = false → isBus g.cqBase = true →
    g.cqBase.toNat % 2 ^ 52 + 32 * 2 ^ g.cqLog ≤ 2 ^ 52 → g.cqTail < 2 ^ g.cqLog →
    let u := s.answer (.ring n) p r
    let fire := g.irqCount ≠ 0 ∧ (g.irqCount ≤ g.sinceIrq + 1 ∨ g.unfinal - 1 = 0 ∨ p.getLsbD 50 = true)
    u.hostMem = s.hostMem.writeBytes (g.cqBase.toNat % 2 ^ 52 + 32 * g.cqTail)
        (leBytes 32 (r.entry g.cqPhase g.sqHead (pktOp p) (pktTag p))) ∧
      (∃ q, lookupK n u.rings = some q ∧ q.cqTail = (g.cqTail + 1) % 2 ^ g.cqLog ∧
        q.cqPhase = (if g.cqTail + 1 < 2 ^ g.cqLog then g.cqPhase else !g.cqPhase) ∧ q.cqUsed = g.cqUsed + 1 ∧
        q.reserved = g.reserved - 1 ∧ q.unfinal = g.unfinal - 1 ∧ q.sqHead = g.sqHead ∧ q.sqTail = g.sqTail) ∧
      (fire → bit (s.msix.readLe (16 * n + 12) 4) 0 = false → u.raised = s.raised ++ [n] ∧ u.pba = s.pba) ∧
      (fire → bit (s.msix.readLe (16 * n + 12) 4) 0 = true → u.raised = s.raised ∧ n ∈ u.pba) ∧
      (¬ fire → u.raised = s.raised ∧ u.pba = s.pba) ∧ SameButIo s u) ∧
  (∀ (r : Rep) (phase : Bool) (head op tag : Nat), op < 2 ^ 16 →
    let e := r.entry phase head op tag
    e < 2 ^ 256 ∧ bits e 255 255 = b2n phase ∧ bits e 254 252 = (if r.kind = .accept then 1 else 0) ∧
    bits e 251 250 = b2n r.cont.isSome ∧ bits e 249 248 = 0 ∧ bits e 247 232 = head % 2 ^ 16 ∧ bits e 231 208 = r.dispatch % 2 ^ 24 ∧
    bits e 207 192 = r.flags % 2 ^ 16 ∧ bits e 191 128 = r.r0 % 2 ^ 64 ∧ bits e 127 64 = r.r1 % 2 ^ 64 ∧ bits e 63 56 = r.detail % 2 ^ 8 ∧
    bits e 55 48 = r.st.code ∧ bits e 47 32 = op ∧ bits e 31 0 = tag % 2 ^ 32)

/-! ## Commands of configuration and synchronisation -/

/-- NOP, IDENTIFY, SET_SETTING, GET_SETTING and SET_EVENTS outside a transaction, TALLY_READ, TALLY_ADD and TALLY_SET: what each changes
and replies (R530, R544, R563, R655); nothing else changes but what reading the packet and writing the reply touch. TALLY_WAIT is answered
at once when its condition holds and otherwise makes its ring wait, until TALLY_WAIT_SATISFIED finds that it holds (R536, R563). -/
def Obligations.SimpleCommands : Prop :=
  (∀ (s : State) (src : Src) (p : Packet),
    let t := s.consume src p
    let no := (pktP p 0).toNat
    let v := (pktP p 1).toNat
    (Accepted s src p 0x0100 → exec (.nop src) s = .next (t.answer src p {})) ∧
    (Accepted s src p 0x0101 → s.mode = .running → ∃ r1,
      exec (.identify src) s = .next (t.answer src p
        { r0 := 0x0A097E90 + 2 ^ 32 * (s.fuses.stepping % 2 ^ 16) + 2 ^ 48 * (if s.fuses.part0961 then 0x0961 else 0x1281), r1 := r1 }) ∧
      r1 % 2 ^ 16 = s.fw.version % 2 ^ 16) ∧
    (Accepted s src p 0x0104 → s.inTxn src = false →
      (∀ live, s.settings.get no = some live → (s.fuses.settingRange no).1 ≤ v → v ≤ (s.fuses.settingRange no).2 →
        exec (.setSetting src) s = .next (({ t with settings := s.settings.set no v } : State).answer src p {})) ∧
      (∀ live, s.settings.get no = some live → (v < (s.fuses.settingRange no).1 ∨ (s.fuses.settingRange no).2 < v) →
        exec (.setSetting src) s = .next (t.answer src p { st := .field, detail := 1 })) ∧
      (s.settings.get no = none → exec (.setSetting src) s = .next (t.answer src p { st := .handle }))) ∧
    (Accepted s src p 0x0105 → s.inTxn src = false →
      (∀ live, s.settings.get no = some live → exec (.getSetting src) s = .next (t.answer src p { r0 := live })) ∧
      (s.settings.get no = none → exec (.getSetting src) s = .next (t.answer src p { st := .handle }))) ∧
    (Accepted s src p 0x0120 → s.inTxn src = false →
      exec (.setEvents src) s = .next (({ t with settings := { s.settings with eventMask := no } } : State).answer src p {})) ∧
    (Accepted s src p 0x0500 → exec (.tallyRead src) s = .next (t.answer src p { r0 := (s.tally no).toNat })) ∧
    (Accepted s src p 0x0501 →
      exec (.tallyAdd src) s = .next (({ t with tallies := insertK no (s.tally no + pktP p 1) s.tallies } : State).answer src p
        { r0 := (s.tally no + pktP p 1).toNat })) ∧
    (Accepted s src p 0x0502 →
      exec (.tallySet src) s = .next (({ t with tallies := insertK no (pktP p 1) s.tallies } : State).answer src p {}))) ∧
  ((∀ (s : State) (n : Nat) (p : Packet), Accepted s (.ring n) p 0x0503 →
    let t := s.consume (.ring n) p
    let no := (pktP p 0).toNat
    ((s.tally no - pktP p 1).toNat < 2 ^ 63 →
      exec (.tallyWait (.ring n)) s = .next (t.answer (.ring n) p { r0 := (s.tally no).toNat })) ∧
    (2 ^ 63 ≤ (s.tally no - pktP p 1).toNat →
      exec (.tallyWait (.ring n)) s = .next (t.updRing n (fun g =>
        { g with waiting := some (.tally (pktTag p) no (pktP p 1) (p.getLsbD 50)) })))) ∧
  (∀ (s : State) (n tag no : Nat) (v : W64) (irq : Bool) (g : Ring), n < 64 → lookupK n s.rings = some g →
    g.waiting = some (.tally tag no v irq) → s.running = true →
    ((s.tally no - v).toNat < 2 ^ 63 → exec (.tallyWaitSatisfied n) s =
      .next ((s.updRing n (fun g => { g with waiting := none })).replyRing n 0x0503 tag irq { r0 := (s.tally no).toNat })) ∧
    (2 ^ 63 ≤ (s.tally no - v).toNat → exec (.tallyWaitSatisfied n) s = .next s)))

/-- CREATE_RING makes an empty ring with the bases, sizes and interrupt count of its packet, phase 1; it refuses ring 0, a ring that
exists (ST_BUSY), a base that is not a multiple of 4 KiB (ST_ALIGN) and a size outside 16 to 65,536 entries (ST_FIELD). DESTROY_RING takes
away a ring in ERROR or without open packets, and refuses ring 0 and a ring that does not exist (ST_HANDLE) and one in use (ST_BUSY)
(R520, R543). -/
def Obligations.RingCommands : Prop :=
  ∀ (s : State) (src : Src) (p : Packet),
    let t := s.consume src p
    let n := (pktP p 0).toNat
    let z := (pktP p 3).toNat
    (Accepted s src p 0x0102 →
      (n = 0 → exec (.createRing src) s = .next (t.answer src p { st := .field })) ∧
      (n ≠ 0 → lookupK n t.rings ≠ none → exec (.createRing src) s = .next (t.answer src p { st := .busy })) ∧
      (n ≠ 0 → lookupK n t.rings = none → addrLegal (pktP p 1) = true → addrLegal (pktP p 2) = true →
        ((pktP p 1).toNat % 4096 ≠ 0 → exec (.createRing src) s = .next (t.answer src p { st := .align, detail := 1 })) ∧
        ((pktP p 1).toNat % 4096 = 0 → (pktP p 2).toNat % 4096 ≠ 0 →
          exec (.createRing src) s = .next (t.answer src p { st := .align, detail := 2 })) ∧
        ((pktP p 1).toNat % 4096 = 0 → (pktP p 2).toNat % 4096 = 0 →
          ((bits z 4 0 < 4 ∨ 16 < bits z 4 0 ∨ bits z 12 8 < 4 ∨ 16 < bits z 12 8) →
            exec (.createRing src) s = .next (t.answer src p { st := .field, detail := 3 })) ∧
          (4 ≤ bits z 4 0 → bits z 4 0 ≤ 16 → 4 ≤ bits z 12 8 → bits z 12 8 ≤ 16 →
            let g : Ring :=
              { sqBase := pktP p 1, cqBase := pktP p 2, sqLog := bits z 4 0, cqLog := bits z 12 8, irqCount := bits z 23 16, sqHead := 0,
                sqTail := 0, cqTail := 0, cqUsed := 0, cqPhase := true, reserved := 0, unfinal := 0, sinceIrq := 0, error := false,
                waiting := none, busy := none }
            exec (.createRing src) s = .next (({ t with rings := insertK n g t.rings } : State).answer src p {}))))) ∧
    (Accepted s src p 0x0103 →
      (n = 0 ∨ lookupK n t.rings = none → exec (.destroyRing src) s = .next (t.answer src p { st := .handle })) ∧
      (∀ g, n ≠ 0 → lookupK n t.rings = some g →
        (g.error = false → (g.sqHead ≠ g.sqTail ∨ g.unfinal ≠ 0) → exec (.destroyRing src) s = .next (t.answer src p { st := .busy })) ∧
        ((g.error = true ∨ (g.sqHead = g.sqTail ∧ g.unfinal = 0)) →
          ∃ u : State, exec (.destroyRing src) s = .next (u.answer src p {}) ∧ lookupK n u.rings = none ∧
            (∀ m, m ≠ n → lookupK m u.rings = lookupK m t.rings) ∧ (∀ x, u.txn = some x → x.ring ≠ n) ∧
            u = { t with rings := u.rings, txn := u.txn, owners := u.owners, dispatches := u.dispatches, copies := u.copies,
                         archive := u.archive, ledger := u.ledger })))

/-! ## Transactions, routes, polynomial tables -/

/-- TXN_BEGIN opens a transaction on its ring, and is refused (ST_BUSY) while another is open; a SET_SETTING of the ring is checked and
staged, and beyond 4,096 commands or 1 MiB refused (ST_NOFIT), with no live setting changed; TXN_COMMIT of settings and event masks
applies them in their order and ends the transaction, and one with a polynomial table still held is rolled back whole with ST_BUSY and the
index 0; TXN_ROLLBACK discards every staged change and returns the standby of every table touched; a commit or a rollback without the
ring's transaction is refused (ST_TXN) (R567, R569, R571, R572, R574). Outside a transaction, ROUTE_WRITE of entries that R583 accepts,
and that start no stream again, puts them into the routing table, and SENDROUTE_WRITE puts its entries into a new version of the send
routes; entries beyond the tables are refused (ST_BOUNDS), reserved bits (ST_FIELD), and send routes while an accepted dispatch uses the
version before (ST_BUSY). LOAD_POLY puts a table into a new version of its number, and a table that R311 refuses gets ST_FIELD (R311,
R312, R583, R598, R599). -/
def Obligations.TransactionsRoutes : Prop :=
  (∀ (s : State) (n : Nat) (p : Packet),
    let src := Src.ring n
    let t := s.consume src p
    let no := (pktP p 0).toNat
    let v := (pktP p 1).toNat
    (Accepted s src p 0x0110 →
      (s.txn = none → exec (.txnBegin src) s = .next (({ t with txn := some ⟨n, [], 0⟩ } : State).answer src p {})) ∧
      (∀ x, s.txn = some x → exec (.txnBegin src) s = .next (t.answer src p { st := .busy }))) ∧
    (∀ x, s.txn = some x → x.ring = n → Accepted s src p 0x0104 → s.settings.get no ≠ none → (s.fuses.settingRange no).1 ≤ v →
      v ≤ (s.fuses.settingRange no).2 →
      (x.staged.length < 4096 → x.bytes + 8 ≤ 2 ^ 20 → exec (.setSetting src) s =
        .next (({ t with txn := some { x with staged := x.staged ++ [.setting no v], bytes := x.bytes + 8 } } : State).answer src p {})) ∧
      ((4096 ≤ x.staged.length ∨ 2 ^ 20 < x.bytes + 8) →
        exec (.setSetting src) s = .next (t.answer src p { st := .nofit }))) ∧
    (∀ x, s.txn = some x → x.ring = n → Accepted s src p 0x0111 →
      ((∀ g ∈ x.staged, (∃ a b, g = .setting a b) ∨ ∃ m, g = .events m) →
        let live := x.staged.foldl (fun (w : Settings) g => match g with
          | .setting a b => w.set a b
          | .events m => { w with eventMask := m }
          | _ => w) s.settings
        exec (.txnCommit src) s = .next (({ t with txn := none, settings := live } : State).answer src p { r0 := x.staged.length })) ∧
      (∀ k es, x.staged = [.poly k es] → s.polyBusy k = true →
        exec (.txnCommit src) s = .next (({ t with txn := none } : State).answer src p { st := .busy, r1 := 0 }))) ∧
    (∀ x, s.txn = some x → x.ring = n → Accepted s src p 0x0112 →
      ∃ u : State, exec (.txnRollback src) s = .next (u.answer src p {}) ∧ u.txn = none ∧
        (∀ h o, lookupK h s.owners = some o →
          lookupK h u.owners = some (if h ∈ x.owners ∧ o.sealed_ = false then { o with standby := o.active } else o)) ∧
        u = { t with txn := u.txn, owners := u.owners }) ∧
    ((∀ x, s.txn = some x → x.ring ≠ n) →
      (Accepted s src p 0x0111 → exec (.txnCommit src) s = .next (t.answer src p { st := .txn })) ∧
      (Accepted s src p 0x0112 → exec (.txnRollback src) s = .next (t.answer src p { st := .txn })))) ∧
  (∀ (s : State) (src : Src) (p : Packet), s.inTxn src = false →
    let t := s.consume src p
    let first := (pktP p 0).toNat
    let n := (pktP p 1).toNat
    (Accepted s src p 0x0108 →
      (4096 < first + n → exec (.routeWrite src) s = .next (t.answer src p { st := .bounds })) ∧
      (first + n ≤ 4096 → s.blockFault (pktP p 2) (8 * n) 2 = none →
        let es := entriesOf 8 n (s.sysBytes (pktP p 2) (8 * n))
        let q := t.sysTouch (pktP p 2) (8 * n)
        ((∃ e ∈ es, bits e 41 0 ≠ 0) → exec (.routeWrite src) s = .next (q.answer src p { st := .field, detail := 2 })) ∧
        (s.routeFault first es = none → (∀ i e, es[i]? = some e → routeRestarts (s.routeOf (first + i)) e = false) →
          ∃ u : State, exec (.routeWrite src) s = .next (u.answer src p {}) ∧ u.routes = placeEntries first es s.routes ∧
            (∀ k, (u.stream k).nextSeq = (s.stream k).nextSeq ∧ (u.stream k).unacked = (s.stream k).unacked ∧
              (u.stream k).expect = (s.stream k).expect) ∧
            u = { q with routes := u.routes, streams := u.streams }))) ∧
    (Accepted s src p 0x0109 →
      (256 < first + n → exec (.sendrouteWrite src) s = .next (t.answer src p { st := .bounds })) ∧
      (first + n ≤ 256 → s.blockFault (pktP p 2) (32 * n) 2 = none →
        let es := entriesOf 32 n (s.sysBytes (pktP p 2) (32 * n))
        let q := t.sysTouch (pktP p 2) (32 * n)
        (es.any srReserved = true → exec (.sendrouteWrite src) s = .next (q.answer src p { st := .field, detail := 2 })) ∧
        (es.any srReserved = false → s.sendRoutesBusy = true → exec (.sendrouteWrite src) s = .next (q.answer src p { st := .busy })) ∧
        (es.any srReserved = false → s.sendRoutesBusy = false →
          exec (.sendrouteWrite src) s = .next (({ q with
            sendVer := s.sendVer + 1, sendPrev := s.sendRoutes,
            sendRoutes := placeEntries first es s.sendRoutes } : State).answer src p {})))) ∧
    (Accepted s src p 0x0306 → first < 64 → s.blockFault (pktP p 1) 512 1 = none →
      let es := entriesOf 32 16 (s.sysBytes (pktP p 1) 512)
      let q := t.sysTouch (pktP p 1) 512
      (polyBad es = true → exec (.loadPoly src) s = .next (q.answer src p { st := .field, detail := 1 })) ∧
      (polyBad es = false → s.polyBusy first = true → exec (.loadPoly src) s = .next (q.answer src p { st := .busy })) ∧
      (polyBad es = false → s.polyBusy first = false →
        exec (.loadPoly src) s = .next (({ q with polys := updateAt s.polys first (fun x => ⟨x.ver + 1, es, x.cur⟩) } : State).answer src p {}))))

/-! ## Memory commands -/

/-- ALLOC of local memory maps the range that Hokuec picks, page for page, to cleared frames of its pick, which are cleared no more, keeps
the allocation, and replies its handle and base, the lines of each page on the allocation's channels (R457; log entry 179); a size of 0 or
no multiple of 64 KiB gets ST_FIELD, and one beyond what can be allocated ST_NOFIT. FREE takes the pages and the allocation away; an
unknown handle gets ST_HANDLE and one with a live descriptor in it ST_INUSE (R247, R455, R456, R464, R545, R546, R615). HOST_EVICT makes
host pages not resident, HOST_RESIDENT gives them their bus addresses and makes them resident again, HOST_UNMAP takes them away; a page
that is not host-backed gets ST_HANDLE and an unaligned address ST_ALIGN (R487, R503, R546). TRANSLATE returns the leaf entry of an
address with its level, or 0 with the level at which the walk stops (R479). -/
def Obligations.AllocationsPages : Prop :=
  (∀ (s : State) (src : Src) (p : Packet),
    let t := s.consume src p
    let size := (pktP p 0).toNat
    let hint := bits (pktP p 1).toNat 3 0
    let pages := size / 65536
    (∀ k : AllocPick, Accepted s src p 0x0200 →
      ((size = 0 ∨ size % 65536 ≠ 0) → exec (.alloc src k) s = .next (t.answer src p { st := .field })) ∧
      (size ≠ 0 → size % 65536 = 0 → hint ≠ 2 → hint ≤ 3 → bits (pktP p 1).toNat 12 8 = 0 → pktP p 2 = 0 → pktP p 3 = 0 →
        s.allocatable < s.usedFrames + pages → exec (.alloc src k) s = .next (t.answer src p { st := .nofit })) ∧
      (hint ≠ 4 → s.allocFault p = none → s.allocPickOk p k = true →
        ∃ u : State, exec (.alloc src k) s = .next (u.answer src p
            { r0 := k.handle, r1 := k.vbase + 2 ^ 56 * k.channels.length, detail := if hint = 2 ∧ k.channels = [] then 0 else hint }) ∧
          lookupK k.handle u.allocs = some ⟨k.handle, k.vbase, pages, (if hint = 2 ∧ k.channels = [] then 0 else hint), k.channels, false⟩ ∧
          (∀ i f, k.frames[i]? = some f → lookupK (k.vbase / 65536 + i) u.pages =
            some ⟨false, true, true, bigSpan (k.vbase / 65536) pages (k.vbase / 65536 + i), f, none, none, false,
              pageWays (s.waysOf k.channels) (k.vbase / 65536 + i), []⟩) ∧
          (∀ v, v < k.vbase / 65536 ∨ k.vbase / 65536 + pages ≤ v → lookupK v u.pages = lookupK v s.pages) ∧
          (∀ f, f ∈ u.cleared ↔ f ∈ s.cleared ∧ f ∉ k.frames) ∧
          u = { t with allocs := u.allocs, pages := u.pages, cleared := u.cleared })) ∧
    (Accepted s src p 0x0201 →
      (lookupK size s.allocs = none → exec (.free src) s = .next (t.answer src p { st := .handle })) ∧
      (∀ a, lookupK size s.allocs = some a →
        ((∃ d ∈ s.tensors, d.2.liesIn a = true) → exec (.free src) s = .next (t.answer src p { st := .inuse })) ∧
        (a.handle = size → (∀ d ∈ s.tensors, d.2.liesIn a = false) → (∀ d ∈ s.dispatches, ∀ x ∈ d.2.internal, x.2.liesIn a = false) →
          ∃ u : State, exec (.free src) s = .next (u.answer src p {}) ∧ lookupK size u.allocs = none ∧
            (∀ h, h ≠ size → lookupK h u.allocs = lookupK h s.allocs) ∧
            (∀ v, a.base / 65536 ≤ v → v < a.base / 65536 + a.pages → lookupK v u.pages = none) ∧
            (∀ v, v < a.base / 65536 ∨ a.base / 65536 + a.pages ≤ v → lookupK v u.pages = lookupK v s.pages) ∧
            u = { t with pages := u.pages, allocs := u.allocs, caches := u.caches, retireDue := u.retireDue, retired := u.retired, cleared := u.cleared,
                         channels := u.channels, restoring := u.restoring, evq := u.evq })))) ∧
  (∀ (s : State) (src : Src) (p : Packet),
    let t := s.consume src p
    let a := (pktP p 0).toNat
    let n := (pktP p 1).toNat
    let mine := a % 65536 = 0 ∧ n ≤ s.pages.length ∧ ∀ i, i < n → ∃ g, lookupK (a / 65536 + i) s.pages = some g ∧ g.host = true
    let inside := fun (v : Nat) => a / 65536 ≤ v ∧ v < a / 65536 + n
    (Accepted s src p 0x0203 → mine →
      ∃ u : State, exec (.hostEvict src) s = .next (u.answer src p {}) ∧
        (∀ v g, lookupK v s.pages = some g → inside v → lookupK v u.pages = some { g with resident := false }) ∧
        (∀ v, ¬ inside v → lookupK v u.pages = lookupK v s.pages) ∧ u = { t with pages := u.pages, caches := u.caches }) ∧
    (Accepted s src p 0x0204 → mine → s.blockFault (pktP p 2) (8 * n) 2 = none →
      let es := entriesOf 8 n (s.sysBytes (pktP p 2) (8 * n))
      let q := t.sysTouch (pktP p 2) (8 * n)
      ((∃ e ∈ es, hostEntryBad e = true ∨ bits e 0 0 = 0) →
        exec (.hostResident src) s = .next (q.answer src p { st := .field, detail := 2 })) ∧
      ((∀ e ∈ es, hostEntryBad e = false ∧ bits e 0 0 = 1) →
        ∃ u : State, exec (.hostResident src) s = .next (u.answer src p {}) ∧
          ((∀ h ∈ s.ownerHolds, h.src ≠ localSock) → (∀ o ∈ s.owners, o.2.moves = []) →
          (∀ i g e, i < n → lookupK (a / 65536 + i) s.pages = some g → es[i]? = some e →
            lookupK (a / 65536 + i) u.pages = some { g with resident := true, write := bit e 1, at_ := bits e 51 16, episode := false }) ∧
          (∀ v, ¬ inside v → lookupK v u.pages = lookupK v s.pages) ∧ u = { q with pages := u.pages, caches := u.caches }))) ∧
    (Accepted s src p 0x0205 → mine →
      ∃ u : State, exec (.hostUnmap src) s = .next (u.answer src p {}) ∧ (∀ v, inside v → lookupK v u.pages = none) ∧
        (∀ v, ¬ inside v → lookupK v u.pages = lookupK v s.pages) ∧ u = { t with pages := u.pages, caches := u.caches }) ∧
    (∀ row : Src → Instr, (Accepted s src p 0x0203 ∧ row = .hostEvict) ∨ (Accepted s src p 0x0204 ∧ row = .hostResident) ∨
        (Accepted s src p 0x0205 ∧ row = .hostUnmap) →
      (a % 65536 ≠ 0 → exec (row src) s = .next (t.answer src p { st := .align })) ∧
      (a % 65536 = 0 → n ≤ s.pages.length → (∃ i, i < n ∧ ∀ g, lookupK (a / 65536 + i) s.pages = some g → g.host = false) →
        exec (row src) s = .next (t.answer src p { st := .handle }))) ∧
    (Accepted s src p 0x0206 →
      (∀ g, s.page? a = some g →
        let e := 2 ^ 63 + 2 ^ 62 + 2 ^ 60 * b2n g.host + 2 ^ 59 * b2n g.write + 2 ^ 58 * b2n g.moving.isSome
          + 2 ^ 57 * b2n (!g.host || g.resident) + (if g.host then 2 ^ 16 * (g.at_ % 2 ^ 36) else 0)
        exec (.translate src) s = .next (t.answer src p { r0 := e, r1 := if g.big then 1 else 0 })) ∧
      (s.page? a = none → exec (.translate src) s = .next (t.answer src p { r0 := 0, r1 := s.walkLevel a }))))

/-- COPY and FILL of up to 4 KiB that translate write the bytes, and keep their ring until COPY_FILL_COMPLETE replies ST_OK; a length that
is no multiple of 64 B gets ST_FIELD, and a COPY whose ranges meet ST_ALIAS (R536, R547). -/
def Obligations.CopyFill : Prop :=
  ∀ (s : State) (n : Nat) (p : Packet),
    let src := Src.ring n
    let t := s.consume src p
    (Accepted s src p 0x0207 →
      let len := (pktP p 2).toNat
      (len % 64 ≠ 0 → exec (.copy src []) s = .next (t.answer src p { st := .field, detail := 2 })) ∧
      (len % 64 = 0 → rangesMeet (pktP p 0) (pktP p 1) len = true → exec (.copy src []) s = .next (t.answer src p { st := .alias_ })) ∧
      (len % 64 = 0 → rangesMeet (pktP p 0) (pktP p 1) len = false → len ≤ 4096 → s.sysCheckRead (pktP p 1) len = .ok → s.sysCheckWrite (pktP p 0) len = .ok →
        (∀ o ∈ s.copies, o.id ≠ s.nextCopy) →
        let a := addrOf (pktP p 0)
        let bs := s.sysBytes (pktP p 1) len
        ∃ u : State, exec (.copy src []) s = .next u ∧
          (len = 0 → u.dram = s.dram ∧ u.hostMem = s.hostMem) ∧
          (0 < len → isBus (pktP p 0) = true → u.dram = s.dram ∧ u.hostMem = s.hostMem.writeBytes a bs) ∧
          (0 < len → isBus (pktP p 0) = false → ∀ g, InPage s a len g → (u.dram, u.hostMem) = s.afterWrite g a bs) ∧
          u.copies = s.copies ++ [⟨s.nextCopy, n, 0, (pktP p 0).toNat, some (pktP p 1).toNat, 0, len, len, none, []⟩] ∧
          u.rings = (t.updRing n (fun g => { g with busy := some p })).rings ∧ u.nextCopy = s.nextCopy + 1 ∧
          u = { t with hostMem := u.hostMem, dram := u.dram, poison := u.poison, fresh := u.fresh, caches := u.caches, copies := u.copies,
                       rings := u.rings, nextCopy := u.nextCopy, ledger := u.ledger })) ∧
    (Accepted s src p 0x0208 →
      let len := (pktP p 1).toNat
      (len % 64 ≠ 0 → exec (.fill src) s = .next (t.answer src p { st := .field, detail := 1 })) ∧
      (len % 64 = 0 → len ≤ 4096 → s.sysCheckWrite (pktP p 0) len = .ok →
        (∀ o ∈ s.copies, o.id ≠ s.nextCopy) →
        let a := addrOf (pktP p 0)
        let bs := List.replicate len (BitVec.ofNat 8 (pktP p 2).toNat)
        ∃ u : State, exec (.fill src) s = .next u ∧
          (len = 0 → u.dram = s.dram ∧ u.hostMem = s.hostMem) ∧
          (0 < len → isBus (pktP p 0) = true → u.dram = s.dram ∧ u.hostMem = s.hostMem.writeBytes a bs) ∧
          (0 < len → isBus (pktP p 0) = false → ∀ g, InPage s a len g → (u.dram, u.hostMem) = s.afterWrite g a bs) ∧
          u.copies = s.copies ++ [⟨s.nextCopy, n, 0, (pktP p 0).toNat, none, (pktP p 2).toNat, len, len, none, []⟩] ∧
          u.rings = (t.updRing n (fun g => { g with busy := some p })).rings ∧ u.nextCopy = s.nextCopy + 1 ∧
          u = { t with hostMem := u.hostMem, dram := u.dram, poison := u.poison, fresh := u.fresh, caches := u.caches, copies := u.copies,
                       rings := u.rings, nextCopy := u.nextCopy, ledger := u.ledger })) ∧
    (∀ (o : CopyOp) (g : Ring) (q : Packet), s.copies.find? (fun x => x.id == o.id) = some o → s.running = true → o.stop = none → o.len ≤ o.pos →
      lookupK o.ring s.rings = some g → g.busy = some q →
      exec (.copyFillComplete o.id) s = .next
        ((({ s with copies := s.copies.filter (fun x => x.id != o.id) } : State).updRing o.ring (fun g => { g with busy := none })).answer
          (.ring o.ring) q {}))

/-! ## Descriptors, owner tables, jobs, programs -/

/-- CREATE_TENSOR of an image that R248 accepts makes a descriptor with its fields under the handle that Hokuec picks, with the allocation
that holds its BASE (none for an empty descriptor and with an owner table), and replies the handle; an image that it refuses gets its
status and detail, and nothing is made. DESTROY_TENSOR takes the descriptor away; an unknown handle gets ST_HANDLE, one that an accepted
dispatch names ST_INUSE (R247, R248, R249). -/
def Obligations.Tensors : Prop :=
  ∀ (s : State) (src : Src) (p : Packet),
    let t := s.consume src p
    let h := (pktP p 0).toNat
    (∀ k, newHandle k s.tensors = true → Accepted s src p 0x0300 →
      let n := if (pktP p 1).toNat = 1 then 32 else 128
      s.blockFault (pktP p 0) n 0 = none →
      let w := ofLe (s.sysBytes (pktP p 0) n)
      let d0 := if (pktP p 1).toNat = 1 then Desc.ofForerunner w else Desc.ofImage w
      let d : Desc := { d0 with handle := k, alloc := if d0.empty = true ∨ d0.owner ≠ 0 then 0 else ((s.allocAt d0.base).map Alloc.handle).getD 0 }
      let q := t.sysTouch (pktP p 0) n
      (s.validate w d = none →
        exec (.createTensor src k) s = .next (({ q with tensors := insertK k d s.tensors } : State).answer src p { r0 := k })) ∧
      (∀ e, s.validate w d = some e → exec (.createTensor src k) s = .next (q.answer src p { st := e.st, detail := e.detail }))) ∧
    (Accepted s src p 0x0301 →
      (lookupK h s.tensors = none → exec (.destroyTensor src) s = .next (t.answer src p { st := .handle })) ∧
      (lookupK h s.tensors ≠ none → (∃ d ∈ s.dispatches, d.2.req.names h = true) →
        exec (.destroyTensor src) s = .next (t.answer src p { st := .inuse })) ∧
      (lookupK h s.tensors ≠ none → (∀ d ∈ s.dispatches, d.2.req.names h = false) →
        exec (.destroyTensor src) s = .next (({ t with tensors := eraseK h s.tensors } : State).answer src p {})))

/-- CREATE_OWNER makes an empty owner table of generation 0 under the handle that Hokuec picks; WRITE_OWNER in its ring's transaction
stages its entries; SWITCH_OWNER of a table without the copy option seals the standby, and OWNER_SWITCH_FINISH, once every access sampled
before has completed, makes it the active generation with the number one higher, keeps the old one as standby, and replies; DESTROY_OWNER
takes the table away. Misaligned windows, unknown handles, counts out of range, sealed tables and tables in use are refused (R290, R296,
R548, R549), and so are windows that pass the end of the address space, or meet an allocation or another window (log entry 186). -/
def Obligations.OwnerTables : Prop :=
  ∀ (s : State) (src : Src) (p : Packet),
    let t := s.consume src p
    let h := (pktP p 0).toNat
    let n := (pktP p 1).toNat
    (∀ k, newHandle k s.owners = true → Accepted s src p 0x0302 →
      (h % 2 ^ 21 ≠ 0 → exec (.createOwner src k) s = .next (t.answer src p { st := .align })) ∧
      (h % 2 ^ 21 = 0 → (n = 0 ∨ 2 ^ 26 < n) → exec (.createOwner src k) s = .next (t.answer src p { st := .field, detail := 1 })) ∧
      (h % 2 ^ 21 = 0 → 1 ≤ n → n ≤ 2 ^ 26 → 2 ^ 52 < h + n * 2 ^ 21 →
        exec (.createOwner src k) s = .next (t.answer src p { st := .field })) ∧
      (h % 2 ^ 21 = 0 → 1 ≤ n → n ≤ 2 ^ 26 → h + n * 2 ^ 21 ≤ 2 ^ 52 → s.rangeFree h (n * 2 ^ 21) = false →
        exec (.createOwner src k) s = .next (t.answer src p { st := .inuse })) ∧
      (h % 2 ^ 21 = 0 → 1 ≤ n → n ≤ 2 ^ 26 → h + n * 2 ^ 21 ≤ 2 ^ 52 → s.rangeFree h (n * 2 ^ 21) = true → 1024 ≤ s.owners.length →
        exec (.createOwner src k) s = .next (t.answer src p { st := .nofit })) ∧
      (h % 2 ^ 21 = 0 → 1 ≤ n → n ≤ 2 ^ 26 → h + n * 2 ^ 21 ≤ 2 ^ 52 → s.rangeFree h (n * 2 ^ 21) = true → s.owners.length < 1024 →
        let o : Owner := { handle := k, vbase := h, count := n, copy := bit (pktP p 2).toNat 0, gen := 0, active := [], standby := [],
                           sealed_ := false, moves := [], moved := 0, asked := none, acks := [], heldWrites := [] }
        exec (.createOwner src k) s = .next (({ t with owners := insertK k o s.owners } : State).answer src p { r0 := k }))) ∧
    (∀ x o, Accepted s src p 0x0303 → s.txn = some x → src = .ring x.ring → lookupK h s.owners = some o →
      let len := (pktP p 2).toNat
      (o.sealed_ = true → exec (.writeOwner src) s = .next (t.answer src p { st := .busy })) ∧
      (o.sealed_ = false → o.count < n + len → exec (.writeOwner src) s = .next (t.answer src p { st := .bounds })) ∧
      (o.sealed_ = false → n + len ≤ o.count → x.staged.length < 4096 → x.bytes + 8 * len ≤ 2 ^ 20 →
        s.blockFault (pktP p 3) (8 * len) 3 = none →
        let es := entriesOf 8 len (s.sysBytes (pktP p 3) (8 * len))
        let q := t.sysTouch (pktP p 3) (8 * len)
        es.any ownReserved = false → exec (.writeOwner src) s = .next (({ q with
          txn := some { x with staged := x.staged ++ [.owner h n es], bytes := x.bytes + 8 * len } } : State).answer src p {}))) ∧
    (Accepted s src p 0x0304 →
      (lookupK h s.owners = none → exec (.switchOwner src) s = .next (t.answer src p { st := .handle })) ∧
      (∀ o, lookupK h s.owners = some o → s.txn = none →
        (o.sealed_ = true → exec (.switchOwner src) s = .next (t.answer src p { st := .busy })) ∧
        (o.sealed_ = false → o.copy = false →
          ∃ u : State, exec (.switchOwner src) s = .next u ∧
            lookupK h u.owners = some { o with sealed_ := true, moves := [], moved := 0, asked := none, acks := [] } ∧
            (∀ k, k ≠ h → lookupK k u.owners = lookupK k s.owners) ∧ u = { t.hold src p with owners := u.owners }))) ∧
    (∀ k o, lookupK k s.owners = some o → s.running = true → s.txn = none →
      (s.switchReady k o = false → exec (.ownerSwitchFinish k) s = .next s) ∧
      (s.switchReady k o = true → o.heldWrites = [] →
        ∃ u : State, exec (.ownerSwitchFinish k) s = .next u ∧
          lookupK k u.owners = some { o with gen := (o.gen + 1) % 2 ^ 32, active := o.standby, standby := o.active, sealed_ := false, acks := [] } ∧
          (∀ i, i ≠ k → lookupK i u.owners = lookupK i s.owners) ∧
          (∀ r g q, lookupK r s.rings = some g → g.busy = some q → pktOp q = 0x0304 → (pktP q 0).toNat = k →
            ∃ g', lookupK r u.rings = some g' ∧ g'.busy = none) ∧
          SameButIo { s with owners := u.owners } u)) ∧
    (Accepted s src p 0x0305 →
      (lookupK h s.owners = none → exec (.destroyOwner src) s = .next (t.answer src p { st := .handle })) ∧
      (∀ o, lookupK h s.owners = some o →
        ((∃ d ∈ s.tensors, d.2.owner = h) → exec (.destroyOwner src) s = .next (t.answer src p { st := .inuse })) ∧
        ((∀ d ∈ s.tensors, d.2.owner ≠ h) → o.sealed_ = true → exec (.destroyOwner src) s = .next (t.answer src p { st := .busy })) ∧
        ((∀ d ∈ s.tensors, d.2.owner ≠ h) → o.sealed_ = false →
          exec (.destroyOwner src) s = .next (({ t with owners := eraseK h s.owners } : State).answer src p {}))))

/-- CREATE_JOB of a merge job with RUNS output makes an empty job under the handle that Hokuec picks. LOAD_PROGRAM of an image that R400
accepts keeps its program under the handle that Hokuec picks, and an image that it refuses gets its status, detail and RESULT1;
UNLOAD_PROGRAM takes a program away that no accepted dispatch runs, refuses one in use (ST_INUSE) and an unknown handle (ST_HANDLE) (R237,
R400, R550, R551). -/
def Obligations.JobsAndPrograms : Prop :=
  ∀ (s : State) (src : Src) (p : Packet),
    let t := s.consume src p
    let h := (pktP p 0).toNat
    (∀ k, newHandle k s.jobs = true → Accepted s src p 0x0307 → bits h 17 16 = 0 → (bits h 15 0 = 0xFFFF ∨ bits h 15 0 < s.regions.length) →
      (pktP p 1).toNat % 64 = 0 →
      (lookupK (pktP p 2).toNat s.allocs = none → exec (.createJob src k) s = .next (t.answer src p { st := .handle })) ∧
      (lookupK (pktP p 2).toNat s.allocs ≠ none →
        let j : Job := { handle := k, region := if bits h 15 0 = 0xFFFF then none else some (bits h 15 0), form := 0, out := (pktP p 1).toNat,
                         spill := (pktP p 2).toNat, dispatch := none, runs := [], merging := false, flags := 0, finished := false }
        exec (.createJob src k) s = .next (({ t with jobs := insertK k j s.jobs } : State).answer src p { r0 := k }))) ∧
    (∀ k, newHandle k s.programs = true → Accepted s src p 0x0400 → s.blockFault (pktP p 0) 64 0 = none →
      let hd := ofLe (s.sysBytes (pktP p 0) 64)
      let n := bits hd 95 64
      let q := t.sysTouch (pktP p 0) 64
      (∀ e, imageHeader hd = some e → exec (.loadProgram src k) s = .next (q.answer src p { st := e.st, detail := e.detail, r1 := e.result1 })) ∧
      (imageHeader hd = none → s.blockFault (pktP p 0) n 0 = none →
        (∀ e, readImage k (s.sysBytes (pktP p 0) n) = .inr e →
          exec (.loadProgram src k) s = .next ((q.sysTouch (pktP p 0) n).answer src p { st := e.st, detail := e.detail, r1 := e.result1 })) ∧
        (∀ g, readImage k (s.sysBytes (pktP p 0) n) = .inl g →
          exec (.loadProgram src k) s =
            .next (({ q.sysTouch (pktP p 0) n with programs := insertK k g s.programs } : State).answer src p { r0 := k })))) ∧
    (Accepted s src p 0x0401 →
      (lookupK h s.programs = none → exec (.unloadProgram src) s = .next (t.answer src p { st := .handle })) ∧
      (lookupK h s.programs ≠ none → (∃ d ∈ s.dispatches, d.2.req.contract = none ∧ d.2.req.program = h) →
        exec (.unloadProgram src) s = .next (t.answer src p { st := .inuse })) ∧
      (lookupK h s.programs ≠ none → (∀ d ∈ s.dispatches, d.2.req.contract ≠ none ∨ d.2.req.program ≠ h) →
        exec (.unloadProgram src) s = .next (({ t with programs := eraseK h s.programs } : State).answer src p {})))

/-! ## Dispatches -/

/-- DISPATCH and CONTRACT read and check their block and wait at their ring's head; a priority of 3 and a reserved bit of the block get
ST_FIELD, a check that fails its status (R536, R538, R552 to R559). -/
def Obligations.DispatchReads : Prop :=
  ∀ (s : State) (n : Nat) (p : Packet),
    let src := Src.ring n
    let t := s.consume src p
    let wait := fun (u : State) (q : Request) => u.updRing n (fun g => { g with waiting := some (.dispatch q) })
    (∀ row, (Accepted s src p 0x0402 ∧ row = Instr.dispatch src) ∨ (Accepted s src p 0x0403 ∧ row = Instr.contract src) →
      bits (pktP p 1).toNat 1 0 = 3 → exec row s = .next (t.answer src p { st := .field, detail := 1 })) ∧
    (Accepted s src p 0x0402 → bits (pktP p 1).toNat 1 0 ≠ 3 → s.blockFault (pktP p 0) 256 0 = none →
      let b := ofLe (s.sysBytes (pktP p 0) 256)
      let q := (Request.control p n).ofBlock b
      let u := t.sysTouch (pktP p 0) 256
      (blockReserved b = true → exec (.dispatch src) s = .next (u.answer src p { st := .field })) ∧
      (blockReserved b = false → ∀ f, s.dispatchFault q = some f →
        exec (.dispatch src) s = .next (u.answer src p { st := f.st, detail := f.detail })) ∧
      (blockReserved b = false → s.dispatchFault q = none → lookupK q.costTensor s.tensors = none →
        exec (.dispatch src) s = .next (wait u q)) ∧
      (blockReserved b = false → s.dispatchFault q = none → ∀ v : State,
        (∀ l, u.readCosts q = (v, .inl l) → exec (.dispatch src) s = .next (wait v { q with costs := l })) ∧
        (∀ f, u.readCosts q = (v, .inr f) → exec (.dispatch src) s = .next (v.answer src p { st := f.st, detail := f.detail })))) ∧
    (Accepted s src p 0x0403 → bits (pktP p 1).toNat 1 0 ≠ 3 → s.blockFault (pktP p 0) 128 0 = none →
      let b := ofLe (s.sysBytes (pktP p 0) 128)
      let q := { Request.control p n with restart := bit b 566 }
      let u := t.sysTouch (pktP p 0) 128
      (ctBad b = true → exec (.contract src) s = .next (u.answer src p { st := .field })) ∧
      (ctBad b = false → ∀ v : State,
        (∀ f, u.chainRecord (bits b 531 480) = (v, .inr f) → exec (.contract src) s = .next (v.answer src p { st := f.st, detail := f.detail })) ∧
        (∀ ch, u.chainRecord (bits b 531 480) = (v, .inl ch) →
          (∀ f, s.tileContract q (Contraction.ofBlock b ch) = .inr f →
            exec (.contract src) s = .next (v.answer src p { st := f.st, detail := f.detail })) ∧
          (∀ r, s.tileContract q (Contraction.ofBlock b ch) = .inl r → exec (.contract src) s = .next (wait v r)))) ∧
      (∀ v : State, v.chainRecord 0 = (v, .inl none)))

/-- DISPATCH_ACCEPT of a dispatch that passes its checks, in a place that Hokuec can choose, frees its ring with an ACCEPT reply, loads
its counters with their tiles, and keeps the dispatch with the settings, tables and send routes of that moment; an empty grid gets its
FINAL reply at once; where the place is none, it waits (R216, R312, R417 to R422, R536, R538, R599). -/
def Obligations.DispatchAccepted : Prop :=
  ∀ (s : State) (n : Nat) (g : Ring) (q : Request) (pick : PlacePick), n < 64 → lookupK n s.rings = some g → g.waiting = some (.dispatch q) →
    s.running = true → s.ringsPaused = false →
    (∀ f, s.requestFault q = some f → exec (.dispatchAccept n pick) s = .next
      ((s.updRing n (fun g => { g with waiting := none })).replyRing n q.opcode q.tag q.irq { st := f.st, detail := f.detail })) ∧
    (s.requestFault q = none → s.pickOk q pick = false → exec (.dispatchAccept n pick) s = .next s) ∧
    (s.requestFault q = none → s.pickOk q pick = true → q.contract = none → q.tiles = 0 →
      exec (.dispatchAccept n pick) s = .next
        (((s.updRing n (fun g => { g with waiting := none })).replyRing n q.opcode q.tag q.irq
          { kind := .accept, dispatch := pick.number, r0 := 0, r1 := 0 }).replyRing n q.opcode q.tag q.irq { dispatch := pick.number })) ∧
    (s.requestFault q = none → s.pickOk q pick = true → q.tiles ≠ 0 →
      ∃ u d, exec (.dispatchAccept n pick) s = .next u ∧ lookupK pick.number u.dispatches = some d ∧ d.number = pick.number ∧
        d.req.contract = q.contract ∧ d.order = s.nextOrder ∧ d.committed = 0 ∧ d.cancelling = false ∧ d.ending = none) ∧
    (s.requestFault q = none → s.pickOk q pick = true → q.contract = none → q.tiles ≠ 0 →
      (q.costs ≠ none ∨ lookupK q.costTensor s.tensors = none) →
      let w := (s.updRing n (fun g => { g with waiting := none })).replyRing n q.opcode q.tag q.irq
        { kind := .accept, dispatch := pick.number, r0 := 0, r1 := sumNat (pick.counters.map (fun c => 2 ^ c.region)) }
      ∃ u d, exec (.dispatchAccept n pick) s = .next u ∧ lookupK pick.number u.dispatches = some d ∧
        d.number = pick.number ∧ d.req = q ∧ d.order = s.nextOrder ∧ d.rerunStep = s.settings.rerunStep ∧ d.wd = s.settings.costWd ∧
        d.ws = s.settings.costWs ∧ d.fixed = s.settings.costFixed ∧ d.polyVers = s.polys.map PolyTab.ver ∧ d.routeVer = s.sendVer ∧
        d.committed = 0 ∧ d.cancelling = false ∧ d.ending = none ∧
        (∀ m, m ≠ pick.number → lookupK m u.dispatches = lookupK m s.dispatches) ∧
        (∀ c ∈ pick.counters, ∃ k, u.counter? c.region c.counter = some k ∧ k.dispatch = pick.number ∧ k.prio = q.prio ∧ k.win = c.win ∧
          (∀ x, k.owns x = true ↔ c.first ≤ x ∧ x < c.last) ∧ k.taken = [] ∧ k.committed = [] ∧ k.returned = []) ∧
        (∀ r k, (∀ c ∈ pick.counters, ¬ (c.region = r ∧ c.counter = k)) → u.counter? r k = s.counter? r k) ∧
        u = { w with dispatches := u.dispatches, regions := u.regions, nextOrder := s.nextOrder + 1 })

/-- DISPATCH_TALLY_WAIT_MET lets a dispatch go whose tally condition holds (R542); DEPENDENCY_RESOLVED takes away the dependencies on a
dispatch that ended with ST_OK; a contraction with EXACT skipping reads its mask when it becomes ready (R240); and a dispatch that names
one that ended otherwise gets ST_CANCELLED with the place of the dependency (R540). DISPATCH_COMPLETE of a dispatch whose work is done
frees its counters, ends its jobs and writes its FINAL reply, with its status, the flags of its tiles and jobs, and the counts of R532,
each saturated at FFFFFFFFh; until then nothing happens (R532, R533, R550). -/
def Obligations.DispatchEnds : Prop :=
  ((∀ (s : State) (n no : Nat) (v : W64) (d : Dispatch), s.running = true → lookupK n s.dispatches = some d → d.req.tallyWait = some (no, v) →
    ((s.tally no - v).toNat < 2 ^ 63 →
      (∃ u e, exec (.dispatchTallyWaitMet n) s = .next u ∧ lookupK n u.dispatches = some e ∧ e.ready = true ∧ u = { s with dispatches := u.dispatches }) ∧
      ((∀ c, d.req.contract = some c → c.pskip ≠ 1) →
        exec (.dispatchTallyWaitMet n) s = .next (s.updDispatch n (fun e => { e with ready := true })))) ∧
    (2 ^ 63 ≤ (s.tally no - v).toNat → exec (.dispatchTallyWaitMet n) s = .next s)) ∧
  (∀ (s : State) (n : Nat), s.running = true →
    (∀ e ∈ s.dispatches, ∀ x ∈ e.2.deps, x.number = n → x.ended = none ∨ x.ended = some .ok) →
    ∃ u, exec (.dependencyResolved n) s = .next u ∧
      (∀ m d, lookupK m s.dispatches = some d → d.cancelling = false → ∃ l, lookupK m u.dispatches =
        some { d with deps := d.deps.filter (fun x => ¬ (x.number = n ∧ x.ended = some .ok)), req := { d.req with marked := l } } ∧
        ((∀ c, d.req.contract = some c → c.pskip ≠ 1) → l = d.req.marked)) ∧
      u = { s with dispatches := u.dispatches }) ∧
  (∀ (s : State) (n m : Nat) (d : Dispatch) (x : Dep) (st : St), s.running = true → s.dispatches = [(m, d)] → d.cancelling = false →
    d.deps = [x] → x.number = n → x.ended = some st → st ≠ .ok →
    exec (.dependencyResolved n) s = .next (s.finish m .cancelled x.place))) ∧
  (∀ (s : State) (n : Nat) (d : Dispatch), s.running = true → lookupK n s.dispatches = some d → d.cancelling = false →
    (s.workDone d = false → exec (.dispatchComplete n) s = .next s) ∧
    (s.workDone d = true → d.req.contract = none → (∀ e ∈ s.dispatches, e.2.homeless = [] ∧ e.2.homelessBack = []) →
      let jobFlags := (s.jobs.filter (fun j => j.2.dispatch = some n)).foldl (fun a j => a ||| runReplyFlags j.2.flags) d.flags
      let c := fun (x : Nat) => Nat.min 0xFFFFFFFF x
      let counts := c d.committed + 2 ^ 32 * c d.replayed + 2 ^ 64 * c d.superseded + 2 ^ 96 * c d.abandoned + 2 ^ 128 * c d.skipped
        + 2 ^ 160 * c d.audited + 2 ^ 192 * c d.misses
      let e := d.ending.getD (.ok, 0)
      ∃ w : State, exec (.dispatchComplete n) s = .next (w.replyRing d.req.ring d.req.opcode d.req.tag d.req.irq
          { st := e.1, detail := e.2, dispatch := n, flags := jobFlags, cont := some counts }) ∧
        lookupK n w.dispatches = none ∧ (∀ m, m ≠ n → (lookupK m w.dispatches).map (fun x => { x with deps := [] }) =
          (lookupK m s.dispatches).map (fun x => { x with deps := [] })) ∧
        (∀ r k q, w.counter? r k = some q → q.dispatch ≠ n) ∧
        (∀ r k q, s.counter? r k = some q → q.dispatch ≠ n → w.counter? r k = some q) ∧ (∀ j ∈ w.jobs, j ∈ s.jobs ∧ j.2.dispatch ≠ some n) ∧
        w = { s with dispatches := w.dispatches, regions := w.regions, jobs := w.jobs }))

/-- CANCEL and FAULT_ACTION ABORT of an accepted dispatch make every counter of it CANCELLING with nothing left to hand out, take its
cores from it, discard its saved contexts, and keep their ring until the end; CANCEL_COMPLETE, once its last read has returned and its
last write has been acknowledged, writes the dispatch's FINAL reply and then answers those rings; a number without a dispatch gets
ST_HANDLE, and a FAULT_ACTION without a stopped core ST_BUSY (R450, R560, R562). CANCEL of the packet that waits at a ring's head answers
it with ST_CANCELLED, without an ACCEPT, and frees the ring; another tag gets ST_HANDLE (R561). FAULT_ACTION DROP_CORE takes a stopped
core without a tile from its dispatch, which will end with ST_FAULTED (R562). -/
def Obligations.Cancels : Prop :=
  ((∀ (s : State) (n : Nat) (p : Packet) (row : Instr) (st : St), pktP p 1 = 0 → pktP p 2 = 0 →
    let src := Src.ring n
    let t := s.consume src p
    let m := (pktP p 0).toNat
    (Accepted s src p 0x0404 ∧ row = .cancel src ∧ st = .cancelled) ∨ (Accepted s src p 0x0406 ∧ row = .faultActionAbort src ∧ st = .faulted) →
    (lookupK m s.dispatches = none → exec row s = .next (t.answer src p { st := .handle })) ∧
    (∀ d, lookupK m s.dispatches = some d → st = .faulted → s.stoppedCores m = [] → exec row s = .next (t.answer src p { st := .busy })) ∧
    (∀ d, lookupK m s.dispatches = some d → d.cancelling = false → (st = .faulted → s.stoppedCores m ≠ []) →
      ∃ u d', exec row s = .next u ∧ lookupK m u.dispatches = some d' ∧ d'.cancelling = true ∧ d'.ending = some (st, 0) ∧
        d'.committed = d.committed ∧ (∀ r k q, u.counter? r k = some q → q.dispatch = m →
          q.state = .cancelling ∧ q.unformed = [] ∧ q.returned = [] ∧ q.chunks = [] ∧ q.suspended = []) ∧
        (∀ c, c < s.cores.length → (u.core c).dispatch ≠ some m) ∧ (∀ g ∈ u.regions, ∀ x ∈ g.contexts, x.dispatch ≠ m) ∧
        (∀ c, (s.core c).dispatch ≠ some m → u.core c = s.core c) ∧ u.rings = (t.updRing n (fun g => { g with busy := some p })).rings ∧
        u = { t with rings := u.rings, dispatches := u.dispatches, regions := u.regions, cores := u.cores, jobs := u.jobs, dram := u.dram,
                     hostMem := u.hostMem, fresh := u.fresh })) ∧
  (∀ (s : State) (m : Nat) (d : Dispatch), s.running = true → lookupK m s.dispatches = some d → d.cancelling = true →
    (s.quiet d = false → exec (.cancelComplete m) s = .next s) ∧
    (d.readsOut = [] → (∀ a ∈ d.acksOut, ∀ p ∈ (s.stream a.1).unacked, p.seq ≠ a.2) →
    (∀ e ∈ s.dispatches, e.2.homeless = [] ∧ e.2.homelessBack = []) →
    ∃ u w, exec (.cancelComplete m) s = .next u ∧ lookupK m u.dispatches = none ∧
      (∀ r g p, lookupK r s.rings = some g → g.busy = some p → (pktOp p = 0x0404 ∨ pktOp p = 0x0406) → (pktP p 0).toNat = m → pktP p 1 = 0 →
        ∃ g', lookupK r u.rings = some g' ∧ g'.busy = none) ∧
      (∀ r k q, u.counter? r k = some q → q.dispatch ≠ m) ∧
      SameButIo s w ∧ u = { w with dispatches := u.dispatches, regions := u.regions, jobs := u.jobs }))) ∧
  ((∀ (s : State) (src : Src) (p : Packet) (g : Ring), Accepted s src p 0x0404 → bit (pktP p 1).toNat 0 = true →
    let t := s.consume src p
    let m := (pktP p 0).toNat
    let tag := (pktP p 2).toNat
    let freed := t.updRing m (fun g => { g with waiting := none })
    (64 ≤ m → exec (.cancelWaitingPacket src) s = .next (t.answer src p { st := .field })) ∧
    (m < 64 → lookupK m t.rings = some g →
      (g.waiting = none → exec (.cancelWaitingPacket src) s = .next (t.answer src p { st := .handle })) ∧
      (∀ tg no v irq, g.waiting = some (.tally tg no v irq) →
        (tg = tag → exec (.cancelWaitingPacket src) s = .next ((freed.replyRing m 0x0503 tg irq { st := .cancelled }).answer src p {})) ∧
        (tg ≠ tag → exec (.cancelWaitingPacket src) s = .next (t.answer src p { st := .handle }))) ∧
      (∀ q, g.waiting = some (.dispatch q) →
        (q.tag = tag →
          exec (.cancelWaitingPacket src) s = .next ((freed.replyRing m q.opcode q.tag q.irq { st := .cancelled }).answer src p {})) ∧
        (q.tag ≠ tag → exec (.cancelWaitingPacket src) s = .next (t.answer src p { st := .handle }))))) ∧
  (∀ (s : State) (src : Src) (p : Packet) (d : Dispatch) (c : Nat), Accepted s src p 0x0406 → bit (pktP p 1).toNat 0 = true →
    let t := s.consume src p
    let m := (pktP p 0).toNat
    lookupK m s.dispatches = some d → s.stoppedCores m = [c] → (s.core c).held = none →
    exec (.faultActionDropCore src) s = .next (((t.updCore c (fun k =>
      { k with dispatch := none, held := none, own := [], ownChain := none, wait := none, stopped := none, loops := [], inflight := [],
               freed := false })).updDispatch m (fun e =>
      { e with dropped := c :: e.dropped, ending := some (.faulted, 0) })).answer src p {})))

/-! ## Service -/

/-- READ_RECORD returns a repair word with the layout of R145, writes the record of a desk counter or returns the record of a channel
(R418, R466); REPAIR_ROW leaves a repair pending where a spare row is free and the row is not served, and is refused else (R143). -/
def Obligations.RecordsRepairs : Prop :=
  (∀ (s : State) (src : Src) (p : Packet),
    let t := s.consume src p
    let a := (pktP p 0).toNat
    let b := (pktP p 1).toNat
    (Accepted s src p 0x0600 →
      (3 ≤ a → exec (.readRecord src) s = .next (t.answer src p { st := .field })) ∧
      (a = 0 → b < s.cores.length → exec (.readRecord src) s = .next (t.answer src p { r0 := (s.core b).repair.word })) ∧
      (a = 0 → s.cores.length ≤ b → exec (.readRecord src) s = .next (t.answer src p { st := .handle })) ∧
      (∀ c, a = 2 → s.channels[b]? = some c →
        let w := c.word b (s.poison.filter (fun l => lookupK l s.poisonAt = some b)).length
        exec (.readRecord src) s = .next (t.answer src p { r0 := w % 2 ^ 64, r1 := w / 2 ^ 64 })) ∧
      (a = 2 → s.channels.length ≤ b → exec (.readRecord src) s = .next (t.answer src p { st := .handle })) ∧
      (a = 1 → s.regions.length ≤ b / 64 → exec (.readRecord src) s = .next (t.answer src p { st := .handle })) ∧
      (a = 1 → b / 64 < s.regions.length → isBus (pktP p 2) = true → addrLegal (pktP p 2) = true → (pktP p 2).toNat % 64 = 0 →
        let w := match s.counter? (b / 64) (b % 64) with | some k => k.word | none => 0
        exec (.readRecord src) s = .next ((t.sysWrite (pktP p 2) (leBytes 32 w)).answer src p {}))) ∧
    (Accepted s src p 0x0601 →
      (s.cores.length ≤ a → exec (.repairRow src) s = .next (t.answer src p { st := .handle })) ∧
      (a < s.cores.length →
        let r := (s.core a).repair
        let taken := b2n r.sp0.isSome + b2n r.sp1.isSome + r.pending.length
        let served := r.sp0 = some b ∨ r.sp1 = some b ∨ ∃ q ∈ r.pending, q.1 = b
        ((s.core a).present = false ∨ r.fenced = true → exec (.repairRow src) s = .next (t.answer src p { st := .busy })) ∧
        ((s.core a).present = true → r.fenced = false →
          (2 ≤ taken → exec (.repairRow src) s = .next (t.answer src p { st := .exhausted })) ∧
          (taken < 2 → served → exec (.repairRow src) s = .next (t.answer src p { st := .repaired })) ∧
          (taken < 2 → ¬ served → exec (.repairRow src) s = .next ((t.updCore a (fun k =>
            { k with repair := { k.repair with pending := k.repair.pending ++ [(b, true)] } })).answer src p {})))))) ∧
  (∀ r : Repair, (∀ x, r.sp0 = some x → x < 128) → (∀ x, r.sp1 = some x → x < 128) →
    let w := r.word
    w < 2 ^ 32 ∧ bits w 31 31 = b2n (!r.pending.isEmpty) ∧ bits w 30 26 = 0 ∧ bits w 25 24 = b2n r.sp0.isSome + b2n r.sp1.isSome ∧
    bits w 23 23 = b2n r.sp1.isSome ∧ bits w 22 16 = r.sp1.getD 0 ∧ bits w 15 15 = b2n r.sp0.isSome ∧ bits w 14 8 = r.sp0.getD 0 ∧
    bits w 7 3 = 0 ∧ bits w 2 2 = b2n r.fenced ∧ bits w 1 1 = b2n (r.sp0.isSome || r.sp1.isSome) ∧ bits w 0 0 = b2n r.exhausted)

/-- QUARANTINE_CORE and an uncorrectable error of a core take the core's number away: the region's spare serves it with a fresh core and
its own repair word, where it is unused and good, and a QUARANTINE event says so; without a spare the command is refused, and after an
error the number has no core (R640, R644, R646). The held tile of a quarantined core goes back to its counter (R426). -/
def Obligations.CoresQuarantined : Prop :=
  (∀ (s : State) (c : Nat) (cause : QuarCause), c < s.cores.length → s.running = true → cause = .carrel ∨ cause = .sequencer →
    (s.core c).present = true → (s.core c).dispatch = none → (s.core c).held = none → (s.core c).inflight = [] →
    let r := regionOf c
    let fresh := Core.fresh (.ofWord (lookupD 0 r s.fuses.spareRepair)) true true
    ((s.region r).spareOk = true → (s.region r).spareUsed = false →
      exec (.coreErrorQuarantine c cause) s = .next (((s.updRegion r (fun g => { g with spareUsed := true })).updCore c (fun _ => fresh)).event
        ⟨0x0016, .ok, 0, c, 0, cause.code + 16, none⟩)) ∧
    ((s.region r).spareOk = false ∨ (s.region r).spareUsed = true →
      exec (.coreErrorQuarantine c cause) s = .next ((s.updCore c (fun k => { k.leave with present := false, tags := [], recs := [] })).event
        ⟨0x0016, .ok, 0, c, 0, cause.code, none⟩))) ∧
  (∀ (s : State) (src : Src) (p : Packet), Accepted s src p 0x0604 →
    let t := s.consume src p
    let c := (pktP p 0).toNat
    let r := regionOf c
    let fresh := Core.fresh (.ofWord (lookupD 0 r s.fuses.spareRepair)) true true
    (s.cores.length ≤ c → exec (.quarantineCore src) s = .next (t.answer src p { st := .handle })) ∧
    (c < s.cores.length → (s.core c).present = false → exec (.quarantineCore src) s = .next (t.answer src p { st := .busy })) ∧
    (c < s.cores.length → (s.core c).present = true → (s.region r).spareOk = false ∨ (s.region r).spareUsed = true →
      exec (.quarantineCore src) s = .next (t.answer src p { st := .exhausted })) ∧
    (c < s.cores.length → (s.core c).present = true → (s.region r).spareOk = true → (s.region r).spareUsed = false →
      (s.core c).dispatch = none → (s.core c).held = none → (s.core c).inflight = [] →
      exec (.quarantineCore src) s = .next ((((t.updRegion r (fun g => { g with spareUsed := true })).updCore c (fun _ => fresh)).event
        ⟨0x0016, .ok, 0, c, 0, QuarCause.command.code + 16, none⟩).answer src p {}))) ∧
  (∀ (s : State) (c : Nat) (h : Held) (d : Dispatch) (r n : Nat) (q : Counter), c < s.cores.length → s.running = true →
    (s.core c).present = true → (s.core c).held = some h → (s.core c).inflight = [] → s.dispatch? h.dispatch = some d →
    s.homeOf d h.tile = some (r, n, q) → q.state = .active → h.tile ∉ q.committed →
    (s.region (regionOf c)).spareUsed = true →
    ∃ u q', exec (.coreErrorQuarantine c .carrel) s = .next u ∧ u.counter? r n = some q' ∧ h.tile ∈ q'.returned ∧ (h.tile, c) ∉ q'.taken ∧
      (u.core c).held = none ∧ (u.core c).present = false ∧ (∀ e, e ≠ c → u.core e = s.core e) ∧
      u = { s with cores := u.cores, regions := u.regions, evq := u.evq })

/-- ISOLATE_REGION and an uncorrectable error of a region's units isolate it: its cores stop, its contexts go, the other cores that run
nothing and the other regions keep what they were; an error of the desk ends every dispatch with a counter there with ST_FAULTED, detail
2; the tiles of a dispatch that goes on move to its other counter where its window holds what then stands above its watermark (R419);
RESTORE_REGION brings the region back when its checks pass (R36, R648 to R651). -/
def Obligations.RegionsIsolated : Prop :=
  (∀ (s : State) (r : Nat) (cause : IsoCause), r < s.regions.length → s.running = true → (s.region r).isolated = none → cause ≠ .command →
    ∃ u, exec (.regionErrorIsolate r cause) s = .next u ∧ (u.region r).isolated = some cause ∧ (u.region r).contexts = [] ∧
      (∀ c, c < s.cores.length → c / 8 = r → (u.core c).dispatch = none ∧ (u.core c).held = none ∧ (u.core c).inflight = []) ∧
      (∀ c, c / 8 ≠ r → (s.core c).dispatch = none → u.core c = s.core c) ∧
      (∀ q, q ≠ r → (u.region q).isolated = (s.region q).isolated) ∧
      (∀ n d k, lookupK n s.dispatches = some d → d.number = n → d.cancelling = false → (r, k) ∈ d.counters → cause = .desk →
        ∃ d', lookupK n u.dispatches = some d' ∧ d'.cancelling = true ∧ d'.ending = some (.faulted, 2)) ∧
      (s.dispatches = [] → u.evq = (s.plainEvent 0x0017 (low 4 r + 256 * cause.code)).evq)) ∧
  (∀ (s : State) (r r2 k k2 n : Nat) (cause : IsoCause) (d : Dispatch) (q q2 : Counter), r < s.regions.length → s.running = true →
    (s.region r).isolated = none → cause ≠ .command → cause ≠ .desk → s.jobs = [] → s.dispatches = [(n, d)] → d.cancelling = false →
    d.counters = [(r, k), (r2, k2)] → r2 ≠ r → s.inService r2 = true → s.counter? r k = some q → s.counter? r2 k2 = some q2 →
    d.homeless = [] → d.homelessBack = [] → (q2.adopt q.giveUp.1 q.giveUp.2).above.length ≤ q2.win →
    ∃ u q' q2', exec (.regionErrorIsolate r cause) s = .next u ∧ u.counter? r k = some q' ∧ u.counter? r2 k2 = some q2' ∧
      q'.unformed = [] ∧ q'.returned = [] ∧ q'.taken = [] ∧ q'.suspended = [] ∧ q'.committed = q.committed ∧
      (∀ x, q.owns x = true → x ∉ q.committed → q2'.owns x = true) ∧ (∀ x, q2.owns x = true → q2'.owns x = true) ∧
      (∀ x, (x ∈ q.returned ∨ x ∈ q.suspended ∨ ∃ c, (x, c) ∈ q.taken) → x ∉ q.committed → x ∈ q2'.returned)) ∧
  (∀ (s : State) (src : Src) (p : Packet),
    let t := s.consume src p
    let r := (pktP p 0).toNat
    (Accepted s src p 0x0605 →
      (s.regions.length ≤ r → exec (.isolateRegion src) s = .next (t.answer src p { st := .handle })) ∧
      (r < s.regions.length → (s.region r).isolated ≠ none → exec (.isolateRegion src) s = .next (t.answer src p { st := .busy })) ∧
      (r < s.regions.length → (s.region r).isolated = none → (∀ q, q < s.regions.length → q ≠ r → (s.region q).isolated ≠ none) →
        exec (.isolateRegion src) s = .next (t.answer src p { st := .nofit })) ∧
      (∀ q, r < s.regions.length → (s.region r).isolated = none → q < s.regions.length → q ≠ r → (s.region q).isolated = none →
        ∃ u : State, exec (.isolateRegion src) s = .next (u.answer src p {}) ∧ (u.region r).isolated = some .command ∧
          (u.region r).contexts = [] ∧ (∀ c, c < s.cores.length → c / 8 = r → (u.core c).dispatch = none ∧ (u.core c).held = none) ∧
          (∀ c, c / 8 ≠ r → (s.core c).dispatch = none → u.core c = s.core c) ∧ u.pages = s.pages ∧ u.allocs = s.allocs ∧
          u.tensors = s.tensors ∧ u.programs = s.programs ∧ u.tallies = s.tallies ∧ u.settings = s.settings)) ∧
    (∀ b, Accepted s src p 0x0606 →
      (s.regions.length ≤ r → exec (.restoreRegion src b) s = .next (t.answer src p { st := .handle })) ∧
      (r < s.regions.length → (s.region r).isolated = none → exec (.restoreRegion src b) s = .next (t.answer src p { st := .busy })) ∧
      (∀ cause, r < s.regions.length → (s.region r).isolated = some cause →
        (b = false → exec (.restoreRegion src b) s = .next (t.answer src p { st := .faulted })) ∧
        (b = true → (∀ e ∈ s.dispatches, e.2.homeless = [] ∧ e.2.homelessBack = []) →
          exec (.restoreRegion src b) s = .next (((t.updRegion r (fun g => { g with isolated := none })).plainEvent 0x0017
            (low 4 r + 16 + 256 * cause.code)).answer src p {})) ∧
        (b = true → ∃ u : State, exec (.restoreRegion src b) s = .next (u.answer src p {}) ∧ (u.region r).isolated = none ∧
          u.cores = s.cores))))

/-! ## Frames, pages and channels -/

/-- FRAME_CLEAR writes a frame without a page with zeros; SCRUB_PATROL_READ reads the next line of every channel in service, unless
SCRUB_RATE is 0; a corrected error counts and its event is sent once per frame, an uncorrectable one counts and poisons its line, but a
line of page tables is corrected from its other copy; an error that the line read does not hold is none (R469 to R471, R475, R476, R615;
log entries 180, 181). CHANNEL_RECALIBRATE changes nothing that the state shows (R659). PAGE_MIGRATE lets a page move to a cleared frame,
for an evacuation, for the interleave of a returned channel, or to retire its frame, which splits a 2 MiB page; MIGRATION_COPY_DONE copies
the page, poisoned lines with it, and points its entry at the new frame, whose lines rotate over the channels chosen for it; no
translation cache keeps the old entry (R457, R471, R472, R480, R481, R488 to R490, R493). -/
def Obligations.FramesPages : Prop :=
  ((∀ (s : State) (f : Nat), s.running = true → f < maxFrames → s.frameUsed f = false → f ∉ s.retired → f ∉ s.cleared →
    ∃ u, exec (.frameClear f) s = .next u ∧ (∀ i, i < 65536 → u.dram.read (f * 65536 + i) = 0#8) ∧
      (∀ a, a / 65536 ≠ f → u.dram.read a = s.dram.read a) ∧ u.cleared = s.cleared ++ [f] ∧
      (∀ l, l ∈ u.poison ↔ l ∈ s.poison ∧ l / 512 ≠ f) ∧ u = { s with dram := u.dram, cleared := u.cleared, poison := u.poison, ledger := u.ledger }) ∧
  (∀ s : State, s.running = true → s.settings.scrubRate = 0 → ∀ errs, exec (.scrubPatrolRead errs) s = .next s) ∧
  (∀ s : State, s.running = true → s.settings.scrubRate ≠ 0 →
    ∃ u, exec (.scrubPatrolRead []) s = .next u ∧ u.scrubAt.length = s.channels.length ∧
      (∀ (i : Nat) (c : Channel) (at_ : Nat), s.channels[i]? = some c → s.scrubAt[i]? = some at_ →
        u.scrubAt[i]? = some (if c.state = 1 ∧ c.size ≠ 0 then (at_ + 1) % (c.size * 2 ^ 23) else if c.state = 1 then 0 else at_)) ∧
      u = { s with scrubAt := u.scrubAt, ledger := u.ledger }) ∧
  (∀ (s : State) (e : MemErr), s.running = true → Config.patrolLine e.channel ((s.scrubAt[e.channel]?).getD 0) ≠ e.frame * 512 + e.line % 512 →
    exec (.scrubPatrolRead [e]) s = exec (.scrubPatrolRead []) s) ∧
  (∀ (s : State) (ch f l : Nat) (c : Channel), s.running = true → s.settings.scrubRate ≠ 0 → s.channels[ch]? = some c → c.state = 1 → l < 512 →
    Config.patrolLine ch ((s.scrubAt[ch]?).getD 0) = f * 512 + l → s.onChannel f l ch = true →
    (∃ u c', exec (.scrubPatrolRead [⟨ch, f, l, true⟩]) s = .next u ∧ u.channels[ch]? = some c' ∧ c'.ce = c.ce + 1 ∧ c'.ue = c.ue ∧
      lookupK (f * 512 + l) u.ceLines = some (lookupD 0 (f * 512 + l) s.ceLines + 1) ∧ u.poison = s.poison ∧ u.dram = s.dram ∧ f ∈ u.ceFrames ∧
      (f ∈ s.ceFrames → lookupD 0 (f * 512 + l) s.ceLines ≠ 2 → u.evq = s.evq ∧ u.retired = s.retired)) ∧
    (∃ u c', exec (.scrubPatrolRead [⟨ch, f, l, false⟩]) s = .next u ∧ u.channels[ch]? = some c' ∧ c'.ue = c.ue + 1 ∧ c'.ce = c.ce ∧
      (f < maxFrames → f * 512 + l ∈ u.poison ∧ lookupK (f * 512 + l) u.poisonAt = some ch) ∧
      (holdsTables f = true → u.poison = s.poison ∧ u.poisonAt = s.poisonAt) ∧
      (∀ x, x ∈ u.poison → x ∈ s.poison ∨ x = f * 512 + l) ∧ u.dram = s.dram ∧ (s.frameUsed f = false → lookupK f s.retireDue = none → f ∈ u.retired))) ∧
  (∀ (s : State) (ch : Nat), ch < s.channels.length → exec (.channelRecalibrate ch) s = .next s)) ∧
  ((∀ (s : State) (va f : Nat) (g : Page) (cause : MoveCause), s.running = true → lookupK (va / 65536) s.pages = some g → g.host = false →
    g.moving = none → g.big = false → s.frameFree f = true →
    (cause = .evacuate ∧ ∃ c ∈ s.channels, va / 65536 ∈ c.leaving) ∨ (cause = .restore ∧ va / 65536 ∈ s.restoring) →
    exec (.pageMigrate va cause [f]) s = .next (({ s with
      pages := updK (va / 65536) (fun q => { q with moving := some f, retiring := none, wayNext := s.waysAt (va / 65536) }) s.pages,
      cleared := s.cleared.filter (fun x => x ≠ f) } : State).forget [va / 65536])) ∧
  (∀ (s : State) (va f ch : Nat) (g : Page), s.running = true → lookupK (va / 65536) s.pages = some g → g.host = false →
    g.moving = none → s.frameFree f = true → lookupK g.at_ s.retireDue = some ch → s.spareFrames ≠ 0 →
    ∃ u, exec (.pageMigrate va .retire [f]) s = .next u ∧
      lookupK (va / 65536) u.pages = some { g with big := false, moving := some f, retiring := some ch, wayNext := s.waysAt (va / 65536) } ∧
      (∀ w q, w ≠ va / 65536 → lookupK w s.pages = some q →
        lookupK w u.pages = some (if g.big = true ∧ w / 32 = va / 65536 / 32 then { q with big := false } else q)) ∧
      lookupK g.at_ u.retireDue = none ∧ u.spareFrames = s.spareFrames - 1 ∧
      u = { s with pages := u.pages, cleared := s.cleared.filter (fun x => x ≠ f), retireDue := u.retireDue, spareFrames := u.spareFrames,
                   caches := u.caches }) ∧
  (∀ (s : State) (va f : Nat) (g : Page), s.running = true → lookupK (va / 65536) s.pages = some g → g.host = false → g.big = false →
    g.moving = some f → g.retiring = none → s.retireDue = [] → s.ownerHolds = [] → s.dram.wf = true →
    ∃ u, exec (.migrationCopyDone ⟨va, []⟩) s = .next u ∧
      lookupK (va / 65536) u.pages = some { g with at_ := f, moving := none, ways := g.wayNext, wayNext := [] } ∧
      (∀ w, w ≠ va / 65536 → lookupK w u.pages = lookupK w s.pages) ∧
      (∀ i, i < 65536 → u.dram.read (f * 65536 + i) = s.dram.read (g.at_ * 65536 + i)) ∧
      (∀ a, a / 65536 ≠ f → u.dram.read a = s.dram.read a) ∧
      (∀ i, i < 512 → g.at_ * 512 + i ∈ s.poison → f * 512 + i ∈ u.poison) ∧
      (∀ l, l / 512 ≠ f → (l ∈ u.poison ↔ l ∈ s.poison)) ∧
      (∀ (ch : Nat) (c : Channel), s.channels[ch]? = some c → c.state = 2 → c.leaving = [va / 65536] → ch ∉ g.wayNext →
        u.channels[ch]? = some { c with state := 3, pwren := some false, leaving := [] }) ∧
      u = { s with pages := u.pages, dram := u.dram, poison := u.poison, poisonAt := u.poisonAt, channels := u.channels,
                   restoring := u.restoring, evq := u.evq, ledger := u.ledger, caches := u.caches }))

/-- EVACUATE_CHANNEL makes a channel in service EVACUATING, with every page that holds a line on it still to be moved, or OUT at once
where none does; it is refused for a channel not in service, and where the other channels have no room (R490 to R492, R660).
RETURN_CHANNEL drives the power-enable active and keeps its ring, and DIMM_POWER_SETTLED answers: the channel comes into service, or is
refused and its power-enable is inactive (R493, R660, R661). -/
def Obligations.ChannelsServed : Prop :=
  (∀ (s : State) (src : Src) (p : Packet), Accepted s src p 0x0602 →
    let t := s.consume src p
    let ch := (pktP p 0).toNat
    let rest := s.updChannel ch (fun q => { q with state := 2, leaving := s.pagesOn ch })
    (s.channels[ch]? = none → exec (.evacuateChannel src) s = .next (t.answer src p { st := .handle })) ∧
    (∀ c, s.channels[ch]? = some c →
      (c.state ≠ 1 → exec (.evacuateChannel src) s = .next (t.answer src p { st := .busy })) ∧
      (c.state = 1 → rest.serviceChannels = [] ∨ rest.allocatable < s.usedFrames →
        exec (.evacuateChannel src) s = .next (t.answer src p { st := .nofit })) ∧
      (c.state = 1 → rest.serviceChannels ≠ [] → s.usedFrames ≤ rest.allocatable →
        ∃ u w, exec (.evacuateChannel src) s = .next u ∧
          (s.pagesOn ch ≠ [] → u.channels[ch]? = some { c with state := 2, leaving := s.pagesOn ch }) ∧
          (s.pagesOn ch = [] → u.channels[ch]? = some { c with state := 3, leaving := [], pwren := some false }) ∧
          (∀ x (d : Channel), x ≠ ch → s.channels[x]? = some d → d.state ≠ 2 → u.channels[x]? = some d) ∧
          u.allocs.map Prod.fst = s.allocs.map Prod.fst ∧ (∀ a ∈ u.allocs, a.2.hint = 2 → ch ∉ a.2.channels) ∧
          SameButIo s w ∧ u = { w with channels := u.channels, allocs := u.allocs, evq := u.evq }))) ∧
  (∀ (s : State) (n : Nat) (p : Packet), Accepted s (.ring n) p 0x0603 →
    let t := s.consume (.ring n) p
    let ch := (pktP p 0).toNat
    (s.channels[ch]? = none → exec (.returnChannel (.ring n)) s = .next (t.answer (.ring n) p { st := .handle })) ∧
    (∀ c, s.channels[ch]? = some c →
      (c.state ≠ 3 ∧ c.state ≠ 5 → exec (.returnChannel (.ring n)) s = .next (t.answer (.ring n) p { st := .busy })) ∧
      (c.state = 3 ∨ c.state = 5 → exec (.returnChannel (.ring n)) s = .next
        ((t.updChannel ch (fun q => { q with pwren := some true })).updRing n (fun g => { g with busy := some p }))))) ∧
  (∀ (s : State) (ch r : Nat) (l : List Nat) (c : Channel), s.channels[ch]? = some c → s.running = true → c.state = 3 ∨ c.state = 5 →
    s.ringsBusy 0x0603 (fun p => (pktP p 0).toNat == ch) = r :: l →
    (exec (.dimmPowerSettled ch none) s = .next ((s.updChannel ch (fun q => { q with pwren := some false, dimm := none })).release r
      { st := .nofit, detail := 1 })) ∧
    (∀ d : Dimm,
      let unfit := dimmListed d = false ∨ (∃ x ∈ s.channels, (x.state = 1 ∨ x.state = 2) ∧ x.size ≠ d.sizeGiB) ∨ d.rate < s.rate
      (unfit → exec (.dimmPowerSettled ch (some d)) s = .next ((s.updChannel ch (fun q =>
        { q with pwren := some false, dimm := some d })).release r { st := .nofit, detail := 1 })) ∧
      (¬ unfit → d.trains = false → ∃ w : State, exec (.dimmPowerSettled ch (some d)) s = .next (w.release r { st := .nofit, detail := 2 }) ∧
        w.channels[ch]? = some { c with state := 5, pwren := some false, dimm := some d } ∧
        (∀ x, x ≠ ch → w.channels[x]? = s.channels[x]?) ∧ w = { s with channels := w.channels, evq := w.evq }) ∧
      (¬ unfit → d.trains = true → ∃ w : State, exec (.dimmPowerSettled ch (some d)) s = .next (w.release r {}) ∧
        w.channels[ch]? = some { c with state := 1, rate := s.rate, size := d.sizeGiB, dimm := some d } ∧
        (∀ x, x ≠ ch → w.channels[x]? = s.channels[x]?) ∧ w = { s with channels := w.channels, restoring := w.restoring, evq := w.evq })))

/-! ## The optical fabric -/

/-- A flit received counts its codewords, and a damaged one a replay; only a sound flit that is the next of the order is delivered (R576,
R580); a lane to which 16 uncorrectable codewords among 2^20 are attributed fails (R577). A lane that fails narrows its port by the table
of R578, or takes it DOWN with three good lanes or fewer; the packets of a stream that left by it, not acknowledged, leave by the
alternate port (R589, R604). The end of the stall lets the port go on (R578). A port in TRAINING comes UP with the width of its good lanes
and its peer's numbers, unless the peer reports no socket number or this device's own, or the device has none (R578, R579, R584). -/
def Obligations.PortsTrained : Prop :=
  (∀ (s : State) (p c : Nat) (f : Flit) (ok : Bool) (q : Port), s.ports[p]? = some q → s.alive = true → q.state = 2 →
    let bad := (q.bad ++ f.bad.map (fun b => (q.words + b.1, b.2))).filter (fun b => q.words + f.words ≤ b.1 + 2 ^ 20)
    let on := fun (l : Nat) => (bad.filter (fun b => b.2 == l)).length
    let sound := f.bad = [] ∧ ok = true
    let t := s.updPort p (fun x => { x with
      fecCorr := Nat.min 0xFFFFFFFF (x.fecCorr + c), fecUnc := Nat.min 0xFFFF (x.fecUnc + f.bad.length),
      replays := Nat.min 0xFFFF (x.replays + if sound then 0 else 1), words := x.words + f.words, bad := bad,
      rxNext := x.rxNext + if sound ∧ f.seq = x.rxNext then 1 else 0 })
    ((∀ l, l < 8 → on l < 16) → exec (.flitReceive p f c ok) s = .next t) ∧
    (∀ l, l < 8 → 16 ≤ on l → (∀ m, m < 8 → m ≠ l → on m < 16) → bit q.laneFail l = false →
      exec (.flitReceive p f c ok) s = exec (.laneFail p l) t)) ∧
  (∀ (s : State) (p l : Nat) (q : Port), s.ports[p]? = some q → s.alive = true → q.state = 2 → l < 8 → bit q.laneFail l = false →
    let fail := q.laneFail + 2 ^ l
    let good := 8 - popcount 8 fail
    (∀ w, (w = 7 ∧ good = 7) ∨ (w = 6 ∧ good = 6) ∨ (w = 4 ∧ (good = 4 ∨ good = 5)) →
      let q' := { q with laneFail := fail, width := w, stalled := q.stalled || w != q.width }
      ∃ u, exec (.laneFail p l) s = .next u ∧ u.ports[p]? = some q' ∧ (∀ x, x ≠ p → u.ports[x]? = s.ports[x]?) ∧
        u.evq = (if w = q.width then s.evq else (s.plainEvent 0x0019 (q'.word p)).evq) ∧ u = { s with ports := u.ports, evq := u.evq }) ∧
    (good ≤ 3 → (∃ u, exec (.laneFail p l) s = .next u) ∧
      (s.socketsBy [p] = [] → ∃ u, exec (.laneFail p l) s = .next u ∧
        u.ports[p]? = some { q with laneFail := fail, width := 0, state := 0, stalled := false } ∧
        (∀ x, x ≠ p → u.ports[x]? = s.ports[x]?) ∧ u = { s with ports := u.ports, evq := u.evq }) ∧
      (∀ k st dl alt, s.streams = [(k, st)] → s.exitPort k = some (p, dl) → bits (s.routeOf k) 59 56 = p → bit (s.routeOf k) 60 = true →
        bits (s.routeOf k) 55 52 = alt → alt ≠ p → s.portUp alt = true →
        ∃ u, exec (.laneFail p l) s = .next u ∧ u.streams = s.streams ∧
          u.fabricOut = s.fabricOut ++ st.unacked.map (fun x => (alt, { x with vl := b2n (bit (s.routeOf k) 50) })) ∧
          u = { s with ports := u.ports, evq := u.evq, fabricOut := u.fabricOut }))) ∧
  (∀ (s : State) (p : Nat) (q : Port), s.ports[p]? = some q → s.alive = true → q.stalled = true →
    exec (.portStallEnd p) s = .next (s.updPort p (fun x => { x with stalled := false, replays := Nat.min 0xFFFF (x.replays + 1) }))) ∧
  (∀ (s : State) (p good : Nat) (peer : Option (Nat × Nat)) (q : Port), s.ports[p]? = some q → s.alive = true → q.state = 1 →
    s.laserRings 0x0608 (s.fuses.engineOf p) = [] →
    ∃ u fail, exec (.portTrained p good peer) s = .next u ∧ popcount 8 fail = 8 - Nat.min 8 good ∧ (∀ x, x ≠ p → u.ports[x]? = s.ports[x]?) ∧
      u = { s with ports := u.ports, evq := u.evq, fresh := u.fresh } ∧
      let trained := { q with laneFail := fail, stalled := false, closing := false, retraining := false, words := 0, bad := [], rxNext := 0 }
      (good ≤ 3 → u.ports[p]? = some { trained with state := 0, width := 0 }) ∧
      (4 ≤ good → peer = none ∨ s.self? = none ∨ (∃ n, peer = some (s.self?.getD 0, n)) → u.ports[p]? = some trained) ∧
      (∀ w me sock n, (w = 8 ∧ 8 ≤ good) ∨ (w = 7 ∧ good = 7) ∨ (w = 6 ∧ good = 6) ∨ (w = 4 ∧ (good = 4 ∨ good = 5)) → s.self? = some me →
        peer = some (sock, n) → sock ≠ me →
        u.ports[p]? = some { trained with state := 2, width := w, peerSock := sock, peerPort := n } ∧
        u.evq = (s.plainEvent 0x0019 (({ trained with state := 2, width := w, peerSock := sock, peerPort := n } : Port).word p)).evq))

/-- LASER_PREPARE stops sending on both ports of an engine and keeps its ring, or is refused where a socket would be stranded or the part
has no such input; LASER_RELEASE makes the ports DARK and replies; LASER_DONE trains them again, and its reply comes with the last port's
training; a laser lost makes them DARK at once, and a restored one changes nothing else (R662 to R664, R686). -/
def Obligations.LasersSwapped : Prop :=
  (∀ (s : State) (n : Nat) (p : Packet),
    let src := Src.ring n
    let t := s.consume src p
    let e := (pktP p 0).toNat
    let mine := fun (x : Nat) => s.fuses.engineOf x = e
    (∀ row : Src → Instr, (Accepted s src p 0x0607 ∧ row = .laserPrepare) ∨ (Accepted s src p 0x0608 ∧ row = .laserDone) →
      s.fuses.usesInput e = false → exec (row src) s = .next (t.answer src p { st := .denied })) ∧
    (Accepted s src p 0x0607 → s.fuses.usesInput e = true →
      (∀ k, s.strandedBy (s.enginePorts e) = some k → exec (.laserPrepare src) s = .next (t.answer src p { st := .busy, r0 := k })) ∧
      (s.strandedBy (s.enginePorts e) = none → s.socketsBy (s.enginePorts e) = [] →
        ∃ u, exec (.laserPrepare src) s = .next u ∧
          (∀ x q, s.ports[x]? = some q → u.ports[x]? = some (if mine x then { q with closing := true } else q)) ∧
          u = { t.updRing n (fun g => { g with busy := some p }) with ports := u.ports })) ∧
    (Accepted s src p 0x0608 → s.fuses.usesInput e = true → s.socketsBy (s.enginePorts e) = [] → e ∉ s.pins.laserLost →
      (∃ x q, s.ports[x]? = some q ∧ mine x ∧ q.state ≠ 3) →
      ∃ u, exec (.laserDone src) s = .next u ∧
        (∀ x q, s.ports[x]? = some q → u.ports[x]? = some (if mine x ∧ q.state ≠ 3 then
          { q with state := 1, width := 0, laneFail := 0, stalled := false, closing := false, retraining := true } else q)) ∧
        u = { t.updRing n (fun g => { g with busy := some p }) with ports := u.ports, evq := u.evq })) ∧
  (∀ (s : State) (e : Nat), e < 8 → s.alive = true → s.laserRings 0x0607 e ≠ [] →
    ∃ w, exec (.laserRelease e) s = .next ((s.laserRings 0x0607 e).foldl (fun t r => t.release r {}) w) ∧
      (∀ x q, s.ports[x]? = some q → w.ports[x]? = some (if s.fuses.engineOf x = e ∧ q.state ≠ 3 then
        { q with state := 4, width := 0, stalled := false, closing := false, retraining := false } else q)) ∧
      w = { s with ports := w.ports, evq := w.evq }) ∧
  (∀ (s : State) (p sock n me : Nat) (q : Port), s.ports[p]? = some q → s.alive = true → q.state = 1 → s.self? = some me → sock ≠ me →
    let e := s.fuses.engineOf p
    let q' := { q with laneFail := 0, stalled := false, closing := false, retraining := false, state := 2, width := 8, peerSock := sock, peerPort := n,
                       words := 0, bad := [], rxNext := 0 }
    s.laserRings 0x0608 e ≠ [] →
    (∀ x y, x ≠ p → s.fuses.engineOf x = e → s.ports[x]? = some y → y.retraining = false ∧ y.state = 2) →
    ∃ w, exec (.portTrained p 8 (some (sock, n))) s = .next ((s.laserRings 0x0608 e).foldl (fun t r => t.release r {}) w) ∧
      w.ports[p]? = some q' ∧ w.evq = ((s.plainEvent 0x0019 (q'.word p)).plainEvent 0x001A (e + 16)).evq ∧
      w = { s with ports := w.ports, evq := w.evq }) ∧
  (∀ (s : State) (e : Nat), e < 8 → s.fuses.usesInput e = true → e ∉ s.pins.laserLost → s.alive = true → s.laserRings 0x0608 e = [] →
    s.socketsBy (s.enginePorts e) = [] → (∃ x q, s.ports[x]? = some q ∧ s.fuses.engineOf x = e ∧ q.state ≠ 3 ∧ q.state ≠ 4) →
    ∃ u, exec (.laserLoss e) s = .next u ∧
      (∀ x q, s.ports[x]? = some q → u.ports[x]? = some (if s.fuses.engineOf x = e ∧ q.state ≠ 3 then
        { q with state := 4, width := 0, stalled := false, closing := false, retraining := false } else q)) ∧
      u.pins = { s.pins with laserLost := s.pins.laserLost ++ [e] } ∧ u = { s with ports := u.ports, pins := u.pins, evq := u.evq }) ∧
  (∀ (s : State) (e : Nat), e < 8 →
    exec (.laserInputRestored e) s = .next { s with pins := { s.pins with laserLost := s.pins.laserLost.filter (fun x => x ≠ e) } })

/-- A packet for another socket leaves by the port of its route entry, or an UNREACHABLE notice goes to its source (R585 to R587). A
packet for this device is performed when it is the next of its stream and acknowledged, a read with its data before; another is answered
by a replay request, one of another epoch is dropped, and a write to a page that moves is held (R588 to R590, R592, R596). An
acknowledgement releases the packets up to its number, and a replay request has them sent again from its number (R589). An UNREACHABLE
notice marks the socket, and an instruction that waits for it faults (R604). -/
def Obligations.FabricPackets : Prop :=
  (∀ (s : State) (port : Nat) (x : FPacket) (me out : Nat) (dl : Bool), port < s.ports.length → s.portReceives port = true → s.self? = some me →
    (∀ row : Nat → FPacket → Instr, row = .fabricPacketReceive ∨ row = .fabricAckReceive → x.dst ≠ me →
      (s.exitPort x.dst = some (out, dl) →
        ∃ u, exec (row port x) s = .next u ∧ u.fabricOut = s.fabricOut ++ [(out, { x with vl := if dl then 1 else x.vl })] ∧
          u = { s with fabricOut := u.fabricOut, ledger := u.ledger }) ∧
      (s.exitPort x.dst = none → (∀ k, x.body ≠ .notice k) → s.exitPort x.src = some (out, dl) →
        ∃ u, exec (row port x) s = .next u ∧
          u.fabricOut = s.fabricOut ++ [(out, ⟨x.src, me, routeEpoch (s.routeOf x.src), 0, b2n dl, .notice x.dst⟩)] ∧
          u = { s with fabricOut := u.fabricOut, ledger := u.ledger })) ∧
    (x.dst = me → s.exitPort x.src = some (out, dl) →
      let st := s.stream x.src
      let raw := fun (seq : Nat) (b : FBody) => (out, FPacket.mk x.src me (routeEpoch (s.routeOf x.src)) seq (b2n dl) b)
      let plain := x.body ≠ .ack ∧ x.body ≠ .replay ∧ ∀ k, x.body ≠ .notice k
      (plain → x.epoch ≠ routeEpoch (s.routeOf x.src) → exec (.fabricPacketReceive port x) s = .next s) ∧
      (plain → x.epoch = routeEpoch (s.routeOf x.src) → s.holdsFor x.src = false → x.seq ≠ st.expect →
        ∃ u, exec (.fabricPacketReceive port x) s = .next u ∧ u.fabricOut = s.fabricOut ++ [raw st.expect .replay] ∧
          u = { s with fabricOut := u.fabricOut, ledger := u.ledger }) ∧
      (x.epoch = routeEpoch (s.routeOf x.src) → s.holdsFor x.src = false → x.seq = st.expect →
        (∀ n v, x.body = .tallyInc n v →
          ∃ u, exec (.fabricPacketReceive port x) s = .next u ∧ u.tallies = insertK n (s.tally n + v) s.tallies ∧
            u.streams = insertK x.src { st with expect := st.expect + 1 } s.streams ∧ u.fabricOut = s.fabricOut ++ [raw x.seq .ack] ∧
            u = { s with tallies := u.tallies, streams := u.streams, fabricOut := u.fabricOut, ledger := u.ledger }) ∧
        (∀ r a n p, x.body = .read r a n → 0 < n → InPage s a n p → p.host = false → s.checkRead a n = .ok →
          ∃ u, exec (.fabricPacketReceive port x) s = .next u ∧
            u.fabricOut = s.fabricOut ++ [raw st.nextSeq (.readData r (s.dram.readBytes (p.at_ * 65536 + a % 65536) n)), raw x.seq .ack] ∧
            u.dram = s.dram ∧ u = { s with streams := u.streams, fabricOut := u.fabricOut, ledger := u.ledger, fresh := u.fresh, caches := u.caches }) ∧
        (∀ r a n, x.body = .read r a n → 0 < n → s.page? a = none →
          ∃ u, exec (.fabricPacketReceive port x) s = .next u ∧
            u.fabricOut = s.fabricOut ++ [raw st.nextSeq (.refusal (some r) x.seq .unmapped), raw x.seq .ack]) ∧
        (∀ a bs acc p, x.body = .write a (whole bs) acc → 0 < bs.length → InPage s a bs.length p → p.host = false → p.write = true →
          (p.moving = none → s.checkWrite false a bs.length = .ok →
            ∃ u, exec (.fabricPacketReceive port x) s = .next u ∧ u.dram = s.dram.writeBytes (p.at_ * 65536 + a % 65536) bs ∧
              u.fabricOut = s.fabricOut ++ [raw x.seq .ack] ∧ u.hostMem = s.hostMem ∧ u.cores = s.cores ∧ u.pages = s.pages) ∧
          (p.moving ≠ none →
            exec (.fabricPacketReceive port x) s = .next { s with ownerHolds := s.ownerHolds ++ [⟨a, x.src, x.body⟩] })))) ∧
    (x.dst = me → x.epoch = routeEpoch (s.routeOf x.src) →
      (x.body = .ack → ∃ u, exec (.fabricAckReceive port x) s = .next u ∧
        (u.stream x.src).unacked = (s.stream x.src).unacked.filter (fun q => q.seq > x.seq) ∧
        (u.stream x.src).nextSeq = (s.stream x.src).nextSeq ∧ (u.stream x.src).expect = (s.stream x.src).expect ∧
        (∀ k, k ≠ x.src → u.stream k = s.stream k) ∧ u = { s with streams := u.streams }) ∧
      (x.body = .replay → s.exitPort x.src = some (out, dl) → x.seq = 0 →
        ∃ u, exec (.fabricAckReceive port x) s = .next u ∧
          u.fabricOut = s.fabricOut ++ (s.stream x.src).unacked.map (fun q => (out, { q with vl := b2n dl })) ∧
          u = { s with fabricOut := u.fabricOut }))) ∧
  (∀ (s : State) (sock me : Nat), s.alive = true → s.self? = some me → sock ≠ me → sock < 4096 → s.owners = [] →
    ((∀ c, (s.core c).inflight = []) → (s.stream sock).arrivals = [] →
      ∃ u, exec (.unreachableNotice sock) s = .next u ∧ (u.stream sock).unreachable = true ∧ (∀ k, k ≠ sock → u.stream k = s.stream k) ∧
        u = { s with streams := u.streams, dispatches := u.dispatches }) ∧
    (∀ c f, c < s.cores.length → (s.core c).inflight = [f] → s.waitsOn f sock = true → (s.core c).stopped = none →
      (∀ e, e ≠ c → (s.core e).inflight = []) →
      ∃ u, exec (.unreachableNotice sock) s = .next u ∧ (u.core c).stopped = some ⟨f.pc, .noowner, 2⟩ ∧ (u.core c).inflight = [] ∧
        (u.stream sock).unreachable = true))

/-! ## Errors of the chip, heat and power -/

/-- The sixteenth failed replay in a row of a bridge link, an error of the fabric arbiter, and a second failed management processor are
fatal: a FATAL event takes the next entry of the event ring or of its queue, no ring is read and no reply is written; before, a processor
restarts alone (R652 to R654). A hot junction and a power limit withhold tiles, a core without a held tile is parked, gated or made active
(R46 to R49, R710), and 115 °C stops the device (R711). -/
def Obligations.ChipErrors : Prop :=
  (∀ (s : State) (k n : Nat), s.up = true → s.bridge[k]? = some n →
    (exec (.bridgeFlitCrcFail k false) s = .next { s with bridge := s.bridge.set k 0 }) ∧
    (n + 1 < 16 → exec (.bridgeFlitCrcFail k true) s = .next { s with bridge := s.bridge.set k (n + 1) }) ∧
    (16 ≤ n + 1 → ∃ u, exec (.bridgeFlitCrcFail k true) s = .next u ∧ u.mode = .fatal 0)) ∧
  (∀ (s : State), s.up = true →
    ∃ u, exec .fabricArbiterError s = .next u ∧ u.mode = .fatal 1 ∧ u.rings = s.rings ∧ u.dispatches = s.dispatches ∧ u.cores = s.cores ∧
      (s.hif.evqOn = true → s.hif.ready = true → s.evq.used < s.evqEntries → isBus (s.hif.evqBase + BitVec.ofNat 64 (64 * (s.evq.tail % s.evqEntries))) = true →
        u.evq.queue = s.evq.queue ∧ u.evq.used = s.evq.used + 1 ∧ u.evq.seq = s.evq.seq + 1 ∧
        u.hostMem = s.hostMem.writeBytes (addrOf (s.hif.evqBase + BitVec.ofNat 64 (64 * (s.evq.tail % s.evqEntries))))
          (leBytes 64 (Event.entry ⟨0x0020, .ok, 0, 0xFF, 0, 1, none⟩ s.evq.phase s.evq.seq))) ∧
      (s.evqEntries ≤ s.evq.used → s.evq.queue.length < 4096 → s.evq.held = [] →
        u.evq.queue = s.evq.queue ++ [⟨0x0020, .ok, 0, 0xFF, 0, 1, none⟩] ∧ u.hostMem = s.hostMem)) ∧
  (∀ (s : State) (cause n : Nat), s.mode = .fatal cause →
    (∀ row ∈ commandRows, exec (row.2 (.ring n)) s = .next s) ∧ (∀ op tag irq r, s.replyRing n op tag irq r = s)) ∧
  (∀ (s : State) (k : Nat), k < 4 → s.up = true →
    (s.fw.failed = [] → exec (.mgmtProcessorFail k) s = .next { s with fw := { s.fw with failed := [k] } }) ∧
    (s.fw.failed ≠ [] → k ∉ s.fw.failed → ∃ u, exec (.mgmtProcessorFail k) s = .next u ∧ u.mode = .fatal 2) ∧
    (k ∈ s.fw.failed → exec (.mgmtRestartComplete k) s = .next
      (({ s with fw := { s.fw with failed := s.fw.failed.filter (fun x => x ≠ k) } } : State).plainEvent 0x001C k))) ∧
  (∀ s : State, s.running = true →
    exec .junctionHot s = .next { s with thermal := true } ∧ exec .junctionCool s = .next { s with thermal := false } ∧
    exec .powerLimitReached s = .next { s with powerCap := true } ∧ exec .powerBelowLimit s = .next { s with powerCap := false }) ∧
  (∀ (s : State) (c : Nat) (d : Dispatch), s.thermal = true ∨ s.powerCap = true → ∀ t k, s.serveTake c d ≠ .tile t k) ∧
  (∀ s : State, s.mode ≠ .off → s.mode ≠ .railFault →
    exec .thermtrip s = .next { s with mode := .hot, pins := { s.pins with thermTrip := true } }) ∧
  (∀ (s : State) (c : Nat), c < s.cores.length → s.running = true → (s.core c).present = true →
    (exec (.coreWake c) s = .next (s.updCore c (fun k => { k with power := .active }))) ∧
    (∀ b, (s.core c).held ≠ none → exec (.corePark c b) s = .next s) ∧
    ((s.core c).held = none → (s.core c).inflight = [] → (s.core c).power ≠ .gated →
      exec (.corePark c false) s = .next (s.updCore c (fun k => { k with power := .parked })) ∧
      ((s.core c).dispatch = none → ∃ u, exec (.corePark c true) s = .next u ∧ (u.core c).power = .gated ∧ (u.core c).tags = [] ∧
        (u.core c).recs = [] ∧ (∀ e, e ≠ c → u.core e = s.core e) ∧ u = { s with cores := u.cores, fresh := u.fresh })))

/-! ## The archive, firmware and attestation -/

/-- STORE_SETTINGS keeps its ring until ARCHIVE_WRITE_COMPLETE has written the live settings to a settings copy, which is in force then,
the other copy kept; equal settings write nothing, and pages at their limit give ST_NOFIT (R627). IMAGE_WRITE marks its slot EMPTY and
keeps its ring; the slot holds the image afterwards, and is VALID with ST_OK when the image passes, else EMPTY with ST_AUTH (R631). -/
def Obligations.ArchiveWritten : Prop :=
  (∀ (s : State) (n : Nat) (p : Packet),
    let src := Src.ring n
    let t := s.consume src p
    let held := t.updRing n (fun g => { g with busy := some p })
    (Accepted s src p 0x0106 → s.archiveOpen = true →
      (s.archive.setPage = none → exec (.storeSettings src) s = .next (t.answer src p { st := .nofit })) ∧
      (s.archive.setPage ≠ none → s.archive.ops = [] →
        (s.archive.setInForce.map SetCopy.values = some s.settings → exec (.storeSettings src) s = .next (t.answer src p {})) ∧
        (s.archive.setInForce.map SetCopy.values ≠ some s.settings →
          exec (.storeSettings src) s = .next { held with archive := { s.archive with ops := [.settings n p s.settings] } }))) ∧
    (Accepted s src p 0x0609 → s.archiveOpen = true →
      let slot := (pktP p 0).toNat
      let a := pktP p 1
      let len := (pktP p 2).toNat
      let size := fwSize (s.sysBytes a 256)
      (slot ∈ s.runningSlots → exec (.imageWrite src) s = .next (t.answer src p { st := .busy })) ∧
      (slot ∉ s.runningSlots → len < 256 → exec (.imageWrite src) s = .next (t.answer src p { st := .field, detail := 2 })) ∧
      (slot ∉ s.runningSlots → 256 ≤ len → isBus a = true → addrLegal a = true → a.toNat % 64 = 0 →
        (len ≠ size ∧ len ≠ size + 256 →
          exec (.imageWrite src) s = .next ((t.sysTouch a 256).answer src p { st := .field, detail := 2 })) ∧
        (len = size ∨ len = size + 256 → slotBytes < len ∨ pageWrites ≤ (s.archive.slot slot).writes →
          exec (.imageWrite src) s = .next ((t.sysTouch a 256).answer src p { st := .nofit })) ∧
        (len = size ∨ len = size + 256 → len ≤ slotBytes → (s.archive.slot slot).writes < pageWrites → s.archive.ops = [] →
          s.archive.control.seq + 1 < 2 ^ 32 →
          ∃ u, exec (.imageWrite src) s = .next u ∧ u.archive.ops = [.image n p slot (s.sysBytes a len)] ∧
            u.archive.control.valid slot = false ∧ u.archive.control.active = s.archive.control.active ∧
            u.archive.control.owner = s.archive.control.owner ∧ u.archive.slotA = s.archive.slotA ∧ u.archive.slotB = s.archive.slotB ∧
            u.archive.set0 = s.archive.set0 ∧ u.archive.set1 = s.archive.set1 ∧ u = { held with archive := u.archive, ledger := u.ledger })))) ∧
  (∀ (s : State) (r : Nat) (p : Packet) (v : Settings), s.functionUp = true → s.archive.ops = [.settings r p v] → s.archive.setPage ≠ none →
    (∀ x, s.archive.setInForce = some x → x.seq + 1 < 2 ^ 32) →
    ∃ a : Archive, exec .archiveWriteComplete s = .next (({ s with archive := a } : State).archiveReply r p .ok) ∧
      a.setInForce.map SetCopy.values = some v ∧ a.ops = [] ∧ (a.set0 = s.archive.set0 ∨ a.set1 = s.archive.set1) ∧
      a.control = s.archive.control ∧ a.slotA = s.archive.slotA ∧ a.slotB = s.archive.slotB) ∧
  (∀ (s : State) (r slot : Nat) (p : Packet) (data : List Byte), slot < 2 → s.functionUp = true → s.archive.ops = [.image r p slot data] →
    s.archive.control.seq + 1 < 2 ^ 32 →
    let ok := writePasses s.fuses.svnFloor s.archive.control.owner data
    ∃ a : Archive, exec .archiveWriteComplete s = .next (({ s with archive := a } : State).archiveReply r p (if ok then .ok else .auth)) ∧
      (a.slot slot).image = data ∧ a.slot (1 - slot) = s.archive.slot (1 - slot) ∧ a.ops = [] ∧
      a.control.valid slot = (ok || s.archive.control.valid slot) ∧ a.control.valid (1 - slot) = s.archive.control.valid (1 - slot) ∧
      a.control.active = s.archive.control.active ∧ a.control.owner = s.archive.control.owner)

/-- IMAGE_ACTIVATE names its slot in the control record and begins the handover of the processors 3, 2, 1, 0, or replies at once for the
slot running; it is refused for a slot that is not VALID or fails, and while a transaction is open (R632, R656). Each processor then runs
the new slot, processor 0 last with the reply, and one that fails brings all of them back to the old slot with ST_AUTH, detail 1 (R656,
R658). -/
def Obligations.ImagesActivate : Prop :=
  (∀ (s : State) (n : Nat) (p : Packet), Accepted s (.ring n) p 0x060A → s.archiveOpen = true → s.archive.ops = [] → s.mode = .running →
    s.archive.control.seq + 1 < 2 ^ 32 →
    let src := Src.ring n
    let t := s.consume src p
    let slot := (pktP p 0).toNat
    let bs := (s.archive.slot slot).image
    let ctl := s.archive.control
    let good := ctl.valid slot && writePasses s.fuses.svnFloor ctl.owner bs
    (s.txn ≠ none → exec (.imageActivate src) s = .next (t.answer src p { st := .busy })) ∧
    (s.txn = none → match (if good then ownerAfter ctl.owner bs else none) with
      | none => exec (.imageActivate src) s = .next (t.answer src p { st := .auth })
      | some owner => ∃ a : Archive, exec (.imageActivate src) s = .next (if slot = s.fw.image then
            ({ t with archive := a } : State).answer src p {}
          else { t.updRing n (fun g => { g with busy := some p }) with
            archive := a, fw := { s.fw with handover := some (3, slot, s.fw.image) } }) ∧
        a.control.active = slot ∧ a.control.owner = owner ∧ a.control.validA = ctl.validA ∧ a.control.validB = ctl.validB ∧
        a.slotA = s.archive.slotA ∧ a.slotB = s.archive.slotB ∧ a.set0 = s.archive.set0 ∧ a.set1 = s.archive.set1 ∧ a.ops = [])) ∧
  (∀ (s : State) (cur slot old : Nat) (b : Bool), cur < 4 → s.up = true → s.fw.handover = some (cur, slot, old) →
    s.archive.control.seq + 1 < 2 ^ 32 →
    let bs := (s.archive.slot slot).image
    let procs := s.fw.procs.set cur slot
    let step := 4 * slot % 8 + cur
    let rings := s.ringsBusy 0x060A (fun _ => true)
    if b && imagePasses s.fuses.svnFloor s.archive.control.owner bs then
      if cur ≠ 0 then exec (.processorHandoverComplete cur b) s = .next
        (({ s with fw := { s.fw with procs := procs, handover := some (cur - 1, slot, old) } } : State).plainEvent 0x001B step)
      else ∃ w : State, exec (.processorHandoverComplete cur b) s = .next (rings.foldl (fun t r => t.release r {}) w) ∧
        w.fw.image = slot ∧ w.fw.version = fwVersion bs ∧ w.fw.procs = procs ∧ w.fw.handover = none ∧
        w.evq = (s.plainEvent 0x001B step).evq ∧ w = { s with fw := w.fw, evq := w.evq }
    else ∃ w : State, exec (.processorHandoverComplete cur b) s =
        .next (rings.foldl (fun t r => t.release r { st := .auth, detail := 1 }) w) ∧
      w.fw = { s.fw with procs := [old, old, old, old], handover := none } ∧ w.archive.control.active = old ∧
      w.archive.control.owner = s.archive.control.owner ∧ w.archive.slotA = s.archive.slotA ∧ w.archive.slotB = s.archive.slotB ∧
      w = { s with fw := w.fw, archive := w.archive, evq := w.evq })

/-- ATTEST writes the report of R636, its signature over bytes 0 to 383, and the certificate, and returns their length; on the sideband it
returns them in its messages (R620, R636). DBG_READ and DBG_WRITE reach a core's carrel, accumulators (at a tile boundary: R26), both
stationary registers of its cells and its repair word (R89, R145; log entry 188), and are refused when the debug port is off (R564, R618).
An MCTP control message is answered in the endpoint's way, whose bytes are free (log entry 5). -/
def Obligations.AttestsDebugs : Prop :=
  (∀ (s : State) (src : Src) (p : Packet), Accepted s src p 0x060B →
    let t := s.consume src p
    let nonce := match src with
      | .ring _ => s.sysBytes (pktP p 0) 32
      | _ => [2, 3, 4, 5].flatMap (fun i => leBytes 8 (pktP p i).toNat)
    let body := s.attestBody nonce
    let sig := Config.identitySign (shaNat body)
    let r := body ++ leBytes 32 sig.1 ++ leBytes 32 sig.2 ++ Config.identityCert
    (∀ n, src = .ring n → isBus (pktP p 0) = true → addrLegal (pktP p 0) = true → (pktP p 0).toNat % 64 = 0 →
      isBus (pktP p 1) = true → addrLegal (pktP p 1) = true → (pktP p 1).toNat % 64 = 0 →
      exec (.attest src) s = .next (((t.sysTouch (pktP p 0) 32).sysWrite (pktP p 1) r).answer src p { r0 := 448 + Config.identityCert.length })) ∧
    (∀ q, src = .sideband q →
      exec (.attest src) s = .next (({ s with sideOut := s.sideOut ++ [r] } : State).answer src p { r0 := 448 + Config.identityCert.length })) ∧
    body.length = 384 ∧ (body.drop 32).take 32 = nonce ∧ (body.drop 64).take 32 = leBytes 32 s.fw.digest ∧
    ofLe (body.take 4) = 0x0A09A77E ∧ ofLe ((body.drop 8).take 2) = (if s.fuses.part0961 then 0x0961 else 0x1281) ∧
    ofLe ((body.drop 12).take 4) = s.straps.toNat ∧ ofLe ((body.drop 24).take 2) = s.fw.version % 2 ^ 16) ∧
  (∀ (s : State) (src : Src) (p : Packet),
    let t := s.consume src p
    let c := (pktP p 1).toNat
    let off := (pktP p 2).toNat
    let n := (pktP p 3).toNat
    let a := pktP p 4
    let free := (pktP p 0).toNat = 2 → (s.core c).accBusy = false
    (∀ row : Src → Instr, (Accepted s src p 0x7F00 ∧ row = .dbgRead) ∨ (Accepted s src p 0x7F01 ∧ row = .dbgWrite) →
      (s.debugOn = false → exec (row src) s = .next (t.answer src p { st := .denied })) ∧
      (s.debugOn = true → 3 < (pktP p 0).toNat → exec (row src) s = .next (t.answer src p { st := .field })) ∧
      (s.debugOn = true → (pktP p 0).toNat ≤ 3 → s.cores.length ≤ c → exec (row src) s = .next (t.answer src p { st := .handle })) ∧
      (s.debugOn = true → (pktP p 0).toNat ≤ 3 → free → c < s.cores.length → (s.core c).present = true →
        debugSize (pktP p 0).toNat < off + n → exec (row src) s = .next (t.answer src p { st := .bounds }))) ∧
    (s.debugOn = true → (pktP p 0).toNat ≤ 3 → free → c < s.cores.length → (s.core c).present = true →
      off + n ≤ debugSize (pktP p 0).toNat → isBus a = true → addrLegal a = true → a.toNat % 64 = 0 →
      (Accepted s src p 0x7F00 →
        exec (.dbgRead src) s = .next ((t.sysWrite a ((s.core c).debugBytes (pktP p 0).toNat off n)).answer src p {})) ∧
      (Accepted s src p 0x7F01 → exec (.dbgWrite src) s = .next (((t.sysTouch a n).updCore c (fun k =>
        k.debugWrite (pktP p 0).toNat off (s.sysBytes a n))).answer src p {}))) ∧
    (∀ (k : Core) (bs : List Byte), (k.debugWrite 0 off bs) = { k with carrel := k.carrel.writeBytes off bs } ∧
      (k.debugWrite 2 off bs) = { k with acc := k.acc.writeBytes off bs } ∧
      (off + bs.length ≤ 65536 → (k.debugWrite 3 off bs) = { k with stat := k.stat.writeBytes off bs }) ∧
      (65536 ≤ off → off + bs.length ≤ 131072 → (k.debugWrite 3 off bs) = { k with statNext := k.statNext.writeBytes (off - 65536) bs }) ∧
      k.debugBytes 3 131072 4 = leBytes 4 k.repair.word ∧
      k.debugBytes 0 off n = k.carrel.readBytes off n ∧ k.debugBytes 2 off n = k.acc.readBytes off n)) ∧
  (∀ (s : State) (m : List Byte), s.endpointUp = true →
    ∃ x, exec (.mctpControlMessage m) s = .next { s with sideOut := s.sideOut ++ [x], fresh := s.fresh + 1 })

/-! ## The ledger -/

/-- A ledger command waits in Staul's queue of 16 for its path, with its ring kept, and is refused beyond (R675). LEDGER_RECORD_RELEASE of
a read raises LDG.SEQ, makes it durable, and writes the 1,600 bytes of the record, with the command's mark and nonce and a signature over
the rest, with the reply, or returns it on the sideband; a certificate likewise (R671 to R674, R676). A reference check passes when every
domain is within 0.2% (R677). The supply of the ledger's island falls with or without its checkpoint, and Staul resumes from the last one;
a checkpoint keeps the counters; the loss of the reference is counted (R44, R679, R697). -/
def Obligations.LedgerServed : Prop :=
  ((∀ (s : State) (n : Nat) (p : Packet) (row : Src → Instr) (op len : Nat),
    (op = 0x0700 ∧ row = .ledgerRead ∧ len = 1600) ∨ (op = 0x0701 ∧ row = .ledgerCert ∧ len = Config.ledgerCert.length) ∨
      (op = 0x0702 ∧ row = .ledgerRefcheck ∧ len = 1600) →
    Accepted s (.ring n) p op → isBus (pktP p 0) = true → addrLegal (pktP p 0) = true → (pktP p 0).toNat % 64 = 0 →
    let t := s.consume (.ring n) p
    let waiting := (s.ledger.queue.filter (fun q => q.side == false)).length
    let checking := op = 0x0702 ∧ ∃ q, s.ledger.queue.head? = some q ∧ q.opcode = 0x0702
    (checking ∨ 16 ≤ waiting → exec (row (.ring n)) s = .next (t.answer (.ring n) p { st := .busy })) ∧
    (¬ checking → waiting < 16 → ∃ u, exec (row (.ring n)) s = .next u ∧ u.rings = (t.updRing n (fun g => { g with busy := some p })).rings ∧
      u.ledger = { t.ledger with queue := s.ledger.queue ++ [⟨op, false, n, p⟩] } ∧ u = { t with rings := u.rings, ledger := u.ledger })) ∧
  (∀ (s : State) (p q : Packet) (row : Src → Instr) (op : Nat),
    (op = 0x0700 ∧ row = .ledgerRead) ∨ (op = 0x0701 ∧ row = .ledgerCert) → Accepted s (.ledgerBand q) p op →
    (s.ledger.queue.filter (fun x => x.side == true)).length < 16 →
    exec (row (.ledgerBand q)) s = .next { s with ledger := { s.ledger with queue := s.ledger.queue ++ [⟨op, true, noRing, p⟩] } }) ∧
  (∀ (s : State) (q : LedgerReq) (l : List LedgerReq) (g : Ring) (energy : List Nat), s.ledger.queue = q :: l → s.ledger.up = true →
    q.opcode = 0x0700 →
    let seq := s.ledger.now.seq + 1
    ∃ body : List Byte, body.length = 1536 ∧ bits (ofLe (body.take 64)) 31 0 = 0x0A091ED6 ∧ bits (ofLe (body.take 64)) 63 48 = 1600 ∧
      bits (ofLe (body.take 64)) 207 144 = seq % 2 ^ 64 ∧ bits (ofLe (body.take 64)) 271 208 = (pktP q.pkt 1).toNat ∧
      bits (ofLe (body.take 64)) 335 272 = (pktP q.pkt 2).toNat ∧ bits (ofLe (body.take 64)) 343 336 = 0 ∧
      bits (ofLe (body.take 64)) 344 344 = b2n q.side ∧
      (∀ i v, i < 7 → s.ledger.now.bytes[i]? = some v → ofLe ((body.drop (1344 + 16 * i)).take 16) = v % 2 ^ 128) ∧
      (∀ c f, c < 5 → 1 ≤ f → f ≤ 10 → ofLe ((body.drop (64 + 256 * c + 16 * f)).take 16) = lookupD 0 (16 * c + f) s.ledger.now.mac % 2 ^ 128) ∧
      (∀ i v e, i < 4 → s.ledger.now.energy[i]? = some v → energy[i]? = some e →
        ofLe ((body.drop (1472 + 16 * i)).take 16) = (v + e) % 2 ^ 128) ∧
      let sig := Config.ledgerSign s.fuses.calGen (shaNat body)
      let record := body ++ leBytes 32 sig.1 ++ leBytes 32 sig.2
      (q.side = false → s.mode = .running → lookupK q.ring s.rings = some g → g.busy = some q.pkt → isBus (pktP q.pkt 0) = true →
        ∃ w : State, exec (.ledgerRecordRelease false energy) s = .next (w.release q.ring { r0 := seq }) ∧
          w.hostMem = s.hostMem.writeBytes (addrOf (pktP q.pkt 0)) record ∧ w.ledger.queue = l ∧ w.ledger.saved.seq = seq ∧
          w.ledger.now.seq = seq ∧ w = { s with hostMem := w.hostMem, ledger := w.ledger }) ∧
      (q.side = true → ∃ w : State, exec (.ledgerRecordRelease true energy) s = .next (w.answer (.ledgerBand q.pkt) q.pkt { r0 := seq }) ∧
        w.ledgerOut = s.ledgerOut ++ [record] ∧ w.ledger.queue = l ∧ w.ledger.saved.seq = seq ∧ w.ledger.now.seq = seq ∧
        w = { s with ledgerOut := w.ledgerOut, ledger := w.ledger })) ∧
  (∀ (s : State) (q : LedgerReq) (l : List LedgerReq) (expected measured : List Nat), s.ledger.queue = q :: l → s.ledger.up = true →
    q.opcode = 0x0702 → q.side = true →
    ∃ (w : State) (r : List Byte), exec (.refcheckComplete expected measured) s = .next (w.answer (.ledgerBand q.pkt) q.pkt { r0 := s.ledger.now.seq + 1 }) ∧
      w.ledgerOut = s.ledgerOut ++ [r] ∧ w.ledger.queue = l ∧ w.ledger.now.seq = s.ledger.now.seq + 1 ∧
      bits (ofLe (r.take 64)) 343 336 = 1 ∧
      (bits (ofLe (r.take 64)) 448 448 = 1 ↔ ∀ i, i < 4 →
        let e := (expected[i]?).getD 0
        let m := (measured[i]?).getD 0
        500 * m ≤ 501 * e ∧ 499 * e ≤ 500 * m) ∧
      (∀ i, i < 4 → ofLe ((r.drop (1472 + 16 * i)).take 8) = (expected[i]?).getD 0 % 2 ^ 64 ∧
        ofLe ((r.drop (1480 + 16 * i)).take 8) = (measured[i]?).getD 0 % 2 ^ 64) ∧ w = { s with ledgerOut := w.ledgerOut, ledger := w.ledger })) ∧
  ((∀ (s : State) (e : List Nat), s.ledger.up = true → ∃ u, exec (.staulCheckpoint e) s = .next u ∧ u.ledger.saved = u.ledger.now ∧
    u.ledger.now.mac = s.ledger.now.mac ∧ u.ledger.now.bytes = s.ledger.now.bytes ∧ u.ledger.now.seq = s.ledger.now.seq ∧
    (∀ (i v x : Nat), s.ledger.now.energy[i]? = some v → e[i]? = some x → u.ledger.now.energy[i]? = some (v + x)) ∧ u = { s with ledger := u.ledger }) ∧
  (∀ s : State, s.ledger.up = true → ∀ held, ∃ u, exec (.vldgFall held) s = .next u ∧ u.ledger.up = false ∧ u.ledger.clean = held ∧
    u.ledger.saved = (if held then s.ledger.now else s.ledger.saved) ∧ u = { s with ledger := u.ledger }) ∧
  (∀ s : State, s.ledger.up = false → ∃ u, exec .staulPowerUp s = .next u ∧ u.ledger.up = true ∧
    u.ledger.now = { s.ledger.saved with powerUps := s.ledger.saved.powerUps + 1 } ∧ u.ledger.clean = s.ledger.clean ∧
    u = { s with ledger := u.ledger }) ∧
  (∀ s : State, s.ledger.up = true → s.mode = .running →
    exec .referenceLoss s = .next { s with mode := .noReference, ledger := { s.ledger with
      now := { s.ledger.now with refLost := s.ledger.now.refLost + 1 } } }))

/-! ## The host interface -/

/-- AQ_EN and EVQ_EN are checked and take effect at once while HIF.READY is 1, and are refused into HIF.LASTST; clearing them stops ring 0
and the event ring (R515, R516). Writes to the other registers change them, not while their enable is 1; a masked vector that is unmasked
is raised (R512 to R514). A doorbell moves a ring's tail or releases completion entries; a tail or head not below the ring's entries, or
entries not written, put the ring in ERROR with one event (R521, R523). The window of BAR4 reaches local memory, reads FFh and drops
writes elsewhere with a WINDOW event (R517, R518). -/
def Obligations.HostRegisters : Prop :=
  (∀ s : State, s.hostAlive = true →
    let z := s.hif.aqSize.toNat
    (s.hif.aqEn = false → s.hif.ready = true → s.mode = .running →
      (addrLegal s.hif.asqBase = true → addrLegal s.hif.acqBase = true → s.hif.asqBase.toNat % 4096 = 0 → s.hif.acqBase.toNat % 4096 = 0 →
        4 ≤ bits z 4 0 → bits z 4 0 ≤ 16 → 4 ≤ bits z 12 8 → bits z 12 8 ≤ 16 →
        ∃ u g, exec .aqEnable s = .next u ∧ u.hif = { s.hif with aqEn := true, running := true } ∧ lookupK 0 u.rings = some g ∧
          g.sqBase = s.hif.asqBase ∧ g.cqBase = s.hif.acqBase ∧ g.sqLog = bits z 4 0 ∧ g.cqLog = bits z 12 8 ∧ g.irqCount = bits z 23 16 ∧
          g.sqHead = 0 ∧ g.sqTail = 0 ∧ g.cqTail = 0 ∧ g.cqUsed = 0 ∧ g.cqPhase = true ∧ g.error = false ∧
          (∀ n, n ≠ 0 → lookupK n u.rings = lookupK n s.rings) ∧ u = { s with hif := u.hif, rings := u.rings, ledger := u.ledger }) ∧
      (addrLegal s.hif.asqBase = true → s.hif.asqBase.toNat % 4096 ≠ 0 →
        ∃ u, exec .aqEnable s = .next u ∧ u.hif = { s.hif with lastSt := St.align.code } ∧ u = { s with hif := u.hif, ledger := u.ledger }) ∧
      (addrLegal s.hif.asqBase = false →
        ∃ u, exec .aqEnable s = .next u ∧ u.hif = { s.hif with lastSt := St.field.code } ∧ u = { s with hif := u.hif, ledger := u.ledger })) ∧
    (s.hif.aqEn = false → s.hif.ready = false → exec .aqEnable s = .next { s.count 2 8 with hif := { s.hif with aqEn := true } }) ∧
    (s.txn = none → ∃ u, exec .aqDisable s = .next u ∧ u.hif = { s.hif with aqEn := false, running := false } ∧
      (∀ n, n ≠ 0 → lookupK n u.rings = lookupK n s.rings) ∧
      (∀ g, lookupK 0 s.rings = some g → lookupK 0 u.rings = some { g with error := false }) ∧
      u = { s with hif := u.hif, rings := u.rings, ledger := u.ledger }) ∧
    (s.hif.evqEn = false → s.hif.ready = true →
      (addrLegal s.hif.evqBase = true → s.hif.evqBase.toNat % 4096 = 0 → 4 ≤ bits s.hif.evqSize.toNat 4 0 → bits s.hif.evqSize.toNat 4 0 ≤ 16 →
        exec .evqEnable s = .next { s.count 2 8 with hif := { s.hif with evqEn := true, evqOn := true },
                                                     evq := { s.evq with tail := 0, used := 0, phase := true } }) ∧
      (addrLegal s.hif.evqBase = true → s.hif.evqBase.toNat % 4096 ≠ 0 →
        exec .evqEnable s = .next { s.count 2 8 with hif := { s.hif with lastSt := St.align.code } })) ∧
    exec .evqDisable s = .next { s.count 2 8 with hif := { s.hif with evqEn := false, evqOn := false } } ∧
    (∀ v : W64, exec (.registerWrite 0x060 v) s = .next { s.count 2 8 with hif := { s.hif with winBase := v } } ∧
      (s.hif.aqEn = false → exec (.registerWrite 0x020 v) s = .next { s.count 2 8 with hif := { s.hif with asqBase := v } } ∧
        exec (.registerWrite 0x028 v) s = .next { s.count 2 8 with hif := { s.hif with acqBase := v } } ∧
        exec (.registerWrite 0x030 v) s = .next { s.count 2 8 with hif := { s.hif with aqSize := v &&& 0xFF1F1F#64 } }) ∧
      (s.hif.aqEn = true → ∀ o ∈ [0x020, 0x028, 0x030], exec (.registerWrite o v) s = .next (s.count 2 8)) ∧
      (s.hif.evqEn = false → exec (.registerWrite 0x040 v) s = .next { s.count 2 8 with hif := { s.hif with evqBase := v } } ∧
        exec (.registerWrite 0x048 v) s = .next { s.count 2 8 with hif := { s.hif with evqSize := v &&& 0x1F#64 } }) ∧
      (s.hif.evqEn = true → ∀ o ∈ [0x040, 0x048], exec (.registerWrite o v) s = .next (s.count 2 8)) ∧
      (∀ o, o ∈ [0x000, 0x008, 0x018, 0x038, 0x058, 0x068, 0x100, 0x7FFF8] → exec (.registerWrite o v) s = .next (s.count 2 8)) ∧
      (∀ n, n < 65 → ∃ u, exec (.registerWrite (0x80008 + 16 * n) v) s = .next u ∧ u.msix = s.msix.writeLe (16 * n + 8) 8 v.toNat ∧
        (n ∈ s.pba → bit v.toNat 32 = false → s.msix.wf = true → u.raised = s.raised ++ [n] ∧ n ∉ u.pba) ∧
        (n ∉ s.pba ∨ bit v.toNat 32 = true → s.msix.wf = true → u.raised = s.raised ∧ u.pba = s.pba) ∧
        u = { s with msix := u.msix, pba := u.pba, raised := u.raised, ledger := u.ledger }))) ∧
  ((∀ (s : State) (n : Nat) (v : W64) (g : Ring) (host : List (Nat × List Byte)), n < 64 → s.hostAlive = true → lookupK n s.rings = some g →
    let t : State := { s with hostMem := host.foldl (fun (m : Mem) (e : Nat × List Byte) => m.writeBytes e.1 e.2) s.hostMem }
    (bit v.toNat 32 = true → bit v.toNat 33 = false →
      (bits v.toNat 15 0 < 2 ^ g.sqLog → exec (.doorbellSqTail n v host) s = .next ((t.count 2 8).updRing n (fun q =>
        { q with sqTail := bits v.toNat 15 0 }))) ∧
      (2 ^ g.sqLog ≤ bits v.toNat 15 0 → g.error = false → exec (.doorbellSqTail n v host) s =
        .next (((t.count 2 8).updRing n (fun q => { q with error := true })).plainEvent 0x0004 n))) ∧
    (bit v.toNat 33 = true → bit v.toNat 32 = false → g.cqTail < 2 ^ g.cqLog → g.cqUsed ≤ 2 ^ g.cqLog →
      (∀ k, k ≤ g.cqUsed → k < 2 ^ g.cqLog → bits v.toNat 31 16 = (g.cqTail + 2 ^ g.cqLog - g.cqUsed + k) % 2 ^ g.cqLog →
        exec (.doorbellCqHead n v) s = .next ((s.count 2 8).updRing n (fun q => { q with cqUsed := q.cqUsed - k }))) ∧
      (∀ k, g.cqUsed < k → k < 2 ^ g.cqLog → bits v.toNat 31 16 = (g.cqTail + 2 ^ g.cqLog - g.cqUsed + k) % 2 ^ g.cqLog → g.error = false →
        exec (.doorbellCqHead n v) s = .next (((s.count 2 8).updRing n (fun q => { q with error := true })).plainEvent 0x0004 n)) ∧
      (2 ^ g.cqLog ≤ bits v.toNat 31 16 → g.error = false →
        exec (.doorbellCqHead n v) s = .next (((s.count 2 8).updRing n (fun q => { q with error := true })).plainEvent 0x0004 n)))) ∧
  (∀ (s : State) (o n : Nat) (bs : List Byte), s.hostAlive = true → 0 < n → bs.length = n → s.hif.winBase.toNat < 2 ^ 52 →
    s.hif.winBase.toNat % 2 ^ 36 = 0 → o < 2 ^ 36 →
    let a := s.hif.winBase.toNat + o
    (∀ p, InPage s a n p → p.host = false → s.checkRead a n = .ok →
      (∃ u, exec (.bar4Read o n) s = .next u ∧ u.lastRead = s.dram.readBytes (p.at_ * 65536 + a % 65536) n ∧
        u = { s with lastRead := u.lastRead, ledger := u.ledger, fresh := u.fresh, caches := u.caches }) ∧
      (p.write = true → p.moving = none → ∃ u, exec (.bar4Write o bs) s = .next u ∧
        u.dram = s.dram.writeBytes (p.at_ * 65536 + a % 65536) bs ∧ u = { s with dram := u.dram, poison := u.poison, ledger := u.ledger, fresh := u.fresh, caches := u.caches }) ∧
      (p.write = false → ∃ u, exec (.bar4Write o bs) s = .next u ∧ u.dram = s.dram ∧ u.evq = (s.plainEvent 0x0005 (a + 2 ^ 52)).evq ∧
        u = { s with evq := u.evq, ledger := u.ledger })) ∧
    (s.page? a = none ∨ (∃ p, s.page? a = some p ∧ p.host = true) →
      (∃ u, exec (.bar4Read o n) s = .next u ∧ u.lastRead = List.replicate n 0xFF#8 ∧ u.evq = (s.plainEvent 0x0005 a).evq ∧
        u = { s with lastRead := u.lastRead, evq := u.evq, ledger := u.ledger }) ∧
      (∃ u, exec (.bar4Write o bs) s = .next u ∧ u.dram = s.dram ∧ u.hostMem = s.hostMem ∧
        u.evq = (s.plainEvent 0x0005 (a + 2 ^ 52)).evq ∧ u = { s with evq := u.evq, ledger := u.ledger }))))

/-- EVENT_WRITE writes the first event of the queue to the event ring's tail, with the layout, phase bit and sequence number of R524 and
R565, and raises vector 64 (R528); a count of merged events goes first; with the ring full or off nothing is written. EVQ_HEAD releases
entries. A maskable event is suppressed by its mask, and merged into the count when the queue is full (R565, R655). -/
def Obligations.EventsWritten : Prop :=
  (∀ (s : State) (e : Event) (r : List Event), s.hif.evqOn = true → s.eventsFlow = true → s.evq.merged = 0 → s.evq.queue = e :: r →
    s.evq.held = [] → e.cont = none → s.evq.used < s.evqEntries → s.evq.tail < s.evqEntries → isBus s.hif.evqBase = true →
    s.hif.evqBase.toNat % 2 ^ 52 + 64 * s.evqEntries ≤ 2 ^ 52 →
    ∃ u, exec .eventWrite s = .next u ∧
      u.hostMem = s.hostMem.writeBytes (s.hif.evqBase.toNat % 2 ^ 52 + 64 * s.evq.tail) (leBytes 64 (e.entry s.evq.phase s.evq.seq)) ∧
      u.evq = { s.evq with queue := r, tail := (s.evq.tail + 1) % s.evqEntries, used := s.evq.used + 1, seq := s.evq.seq + 1,
                           phase := if s.evq.tail + 1 < s.evqEntries then s.evq.phase else !s.evq.phase } ∧
      (bit (s.msix.readLe 1036 4) 0 = false → u.raised = s.raised ++ [64]) ∧ (bit (s.msix.readLe 1036 4) 0 = true → 64 ∈ u.pba) ∧
      u = { s with hostMem := u.hostMem, evq := u.evq, raised := u.raised, pba := u.pba, ledger := u.ledger }) ∧
  (∀ s : State, s.hif.evqOn = true → s.eventsFlow = true → 0 < s.evq.merged → s.evq.used < s.evqEntries →
    ∃ u, exec .eventWrite s = .next u ∧ u.evq.merged = 0 ∧ u.evq.queue = s.evq.queue ∧ u.evq.used = s.evq.used + 1) ∧
  (∀ s : State, s.hif.evqOn = false ∨ s.evqEntries ≤ s.evq.used → exec .eventWrite s = .next s) ∧
  (∀ (e : Event) (ph : Bool) (seq : W32),
    let x := e.entry ph seq
    x < 2 ^ 512 ∧ bits x 511 511 = b2n ph ∧ bits x 510 509 = b2n e.cont.isSome ∧ bits x 508 128 = e.body % 2 ^ 381 ∧
    bits x 127 104 = e.dispatch % 2 ^ 24 ∧ bits x 103 96 = e.core % 2 ^ 8 ∧ bits x 95 80 = 0 ∧ bits x 79 72 = e.detail % 2 ^ 8 ∧
    bits x 71 64 = e.st.code ∧ bits x 63 48 = 0 ∧ bits x 47 32 = e.code % 2 ^ 16 ∧ bits x 31 0 = seq.toNat) ∧
  (∀ (s : State) (v : W64) (k : Nat), s.hostAlive = true → s.hif.evqOn = true → s.evq.tail < s.evqEntries → s.evq.used ≤ s.evqEntries →
    k ≤ s.evq.used → k < s.evqEntries → bits v.toNat 15 0 = (s.evq.tail + s.evqEntries - s.evq.used + k) % s.evqEntries →
    exec (.evqHeadWrite v) s = .next { s.count 2 8 with hif := { s.hif with evqHead := BitVec.ofNat 64 (bits v.toNat 15 0) },
                                                        evq := { s.evq with used := s.evq.used - k } }) ∧
  (∀ (s : State) (e : Event),
    let mask := if e.code = 0x0003 then some 0 else if e.code = 0x0005 then some 1 else if e.code = 0x0010 then some 2 else none
    let room := s.evq.queue.length < 4096 ∧ s.evq.held = []
    (∀ b, mask = some b → bit s.settings.eventMask b = true → s.event e = s) ∧
    ((∀ b, mask = some b → bit s.settings.eventMask b = false) → room →
      s.event e = { s with evq := { s.evq with queue := s.evq.queue ++ [e] } }) ∧
    (∀ b, mask = some b → bit s.settings.eventMask b = false → ¬ room → s.event e = { s with evq := { s.evq with merged := s.evq.merged + 1 } }) ∧
    (mask = none → ¬ room → s.event e = { s with evq := { s.evq with held := s.evq.held ++ [e] } }))

/-! ## Resets -/

/-- After a POWER-ON, COLD or WARM reset the device boots with the straps of R616, the reset registers, no ring, no allocation,
descriptor, program, dispatch, route or tally, the settings of R610, cores without field repairs, and its ledger as it was; the archive
keeps its copies and images (R608 to R611, R621, R623, R625, R679). -/
def Obligations.ResetsBoot : Prop :=
  ∀ (s : State) (b : BootIn) (row : Instr) (kind : Nat) (straps : BitVec 19), b.rowFails = [] →
    (row = .pwrgoodRise b ∧ kind = 0 ∧ straps = b.straps ∧ s.pins.pwrgood = false) ∨
      (row = .coldReset b ∧ kind = 1 ∧ straps = b.straps ∧ s.pins.pwrgood = true ∧ s.mode ≠ .railFault ∧ s.mode ≠ .noReference) ∨
      (row = .referenceReturn b ∧ kind = 1 ∧ straps = b.straps ∧ s.mode = .noReference) ∨
      ((∃ x, row = .warmReset x b) ∧ kind = 2 ∧ straps = s.straps ∧ s.pins.pwrgood = true ∧ s.pins.coldHeld = false ∧ s.mode ≠ .railFault ∧
        s.mode ≠ .noReference ∧ s.mode ≠ .hot) →
    ∃ u, exec row s = .next u ∧ (u.mode = .booting ∨ u.mode = .recovering) ∧ u.lastReset = kind ∧ u.straps = straps ∧ u.fuses = s.fuses ∧
      u.hif = .reset ∧ u.rings = [] ∧ u.txn = none ∧ u.evq = .reset ∧ u.msix = [] ∧ u.pages = [] ∧ u.allocs = [] ∧ u.tensors = [] ∧
      u.owners = [] ∧ u.programs = [] ∧ u.jobs = [] ∧ u.dispatches = [] ∧ u.copies = [] ∧ u.tallies = [] ∧ u.routes = [] ∧ u.sendRoutes = [] ∧
      u.polys = List.replicate 64 .reset ∧ u.poison = [] ∧ u.retired = [] ∧ u.cleared = [] ∧ u.streams = [] ∧
      u.cores = (List.range (8 * s.fuses.regions)).map s.fuses.core ∧ u.thermal = false ∧ u.powerCap = false ∧ u.caches = ⟨[], [], []⟩ ∧ u.ownerHolds = [] ∧
      (∀ g ∈ u.regions, g.isolated = none ∧ g.spareUsed = false ∧ g.counters = [] ∧ g.contexts = []) ∧
      (∀ (p : Nat) (q : Port), u.ports[p]? = some q → q.state = if bit straps.toNat (8 + s.fuses.engineOf p) then 0 else 3) ∧
      (∀ c, (if bit straps.toNat 2 then none else s.archive.setInForce) = some c → u.settings = c.values ∧ u.noarch = false) ∧
      ((if bit straps.toNat 2 then none else s.archive.setInForce) = none → u.settings = .default s.fuses ∧ u.noarch = true) ∧
      u.archive = { s.archive with ops := [] } ∧ u.ledger = s.ledger ∧ u.pending = s.pending

/-- HIF_READY ends the boot: Hokuec serves, ports that are not disabled begin to train, and the enables are looked at; after two failed
images recovery serves (R584, R621, R625). An FLR discards the same state, keeps HIF.READY, and does not recover a fatal error; a hot
reset and a lost link do so too, with the link down until it trains again (R608, R609, R613, R653). The fall of PWRGOOD and a rail fault
stop the device until PWRGOOD rises, the latter with PWRFAULT_N low; no power-enable is driven with PWRGOOD low (R694, R695, R704, R708).
Boundary scan drives lands in reset (R707; log entry 36). SVN_FLOOR_RAISE raises the fused floor once (R630). -/
def Obligations.ResetsOfHost : Prop :=
  ((∀ s : State, s.mode = .booting → s.hif.aqEn = false → s.hif.evqEn = false →
    ∃ u, exec .hifReady s = .next u ∧ u.mode = .running ∧ u.hif = { s.hif with ready := true } ∧
      (∀ (p : Nat) (q : Port), s.ports[p]? = some q → u.ports[p]? = some (if q.state = 0 then { q with state := 1 } else q)) ∧
      u = { s with mode := u.mode, hif := u.hif, ports := u.ports, evq := u.evq }) ∧
  (∀ s : State, s.mode = .recovering → s.hif.aqEn = false → s.hif.evqEn = false →
    exec .hifReady s = .next { s with mode := .recovery, hif := { s.hif with ready := true } }) ∧
  (∀ (s : State) (row : Instr), row = .flr ∨ row = .pcieHotReset ∨ row = .pcieLinkLoss → s.functionUp = true → s.pins.linkUp = true →
    ∃ u, exec row s = .next u ∧ u.mode = s.mode ∧ u.lastReset = 3 ∧ u.hif = { Hif.reset with ready := s.hif.ready } ∧ u.straps = s.straps ∧
      u.rings = [] ∧ u.txn = none ∧ u.evq = .reset ∧ u.pages = [] ∧ u.allocs = [] ∧ u.tensors = [] ∧ u.owners = [] ∧ u.programs = [] ∧
      u.jobs = [] ∧ u.dispatches = [] ∧ u.tallies = [] ∧ u.routes = [] ∧ u.poison = [] ∧ u.retired = [] ∧ u.fw = s.fw ∧
      u.cores = (List.range (8 * s.fuses.regions)).map s.fuses.core ∧ u.ledger = s.ledger ∧ u.pending = s.pending ∧
      u.pins = (if row = .flr then s.pins else { s.pins with linkUp := false, linkWidth := 0 }) ∧
      (∀ (p : Nat) (q : Port), u.ports[p]? = some q → s.mode = .running → s.hif.ready = true →
        q.state = if bit s.straps.toNat (8 + s.fuses.engineOf p) then 1 else 3)) ∧
  (∀ (s : State) (w : Nat), s.functionUp = true → s.pins.linkUp = false → w ≠ 0 →
    let cap := if bits s.straps.toNat 4 3 = 0 then 16 else if bits s.straps.toNat 4 3 = 1 then 8 else if bits s.straps.toNat 4 3 = 2 then 4 else 1
    exec (.pcieLinkTrained w) s = .next { s with pins := { s.pins with linkUp := true, linkWidth := Nat.min w cap } })) ∧
  ((∀ s : State, s.pins.pwrgood = true →
    (∃ u, exec .pwrgoodFall s = .next u ∧ u.mode = .off ∧ u.pins.pwrgood = false ∧ u.pins.thermTrip = false ∧ u.pins.linkUp = false ∧
      (∀ c ∈ u.channels, c.pwren = none) ∧ u.rings = [] ∧ u.dispatches = [] ∧ u.fuses = s.fuses ∧ u.ledger = s.ledger) ∧
    (∀ r, r < 11 → ∃ u, exec (.railFault r) s = .next u ∧ u.mode = .railFault ∧ u.pins.pwrFault = true ∧ u.pins.pwrgood = true ∧
      u.pins.linkUp = false ∧ u.rings = [] ∧ u.dispatches = [] ∧ u.fuses = s.fuses ∧ u.ledger = s.ledger)) ∧
  (∀ s : State, s.mode = .railFault → s.pins.pwrgood = true → ∀ b x, exec (.coldReset b) s = .next s ∧ exec (.warmReset x b) s = .next s) ∧
  (∀ s : State, exec (.boundaryScan .sample) s = .next s ∧
    exec (.boundaryScan .release) s = .next { s with pins := { s.pins with extest := [] } } ∧
    (∀ land level, land < 56 → s.mode ≠ .railFault → s.mode ≠ .noReference → ∃ u, exec (.boundaryScan (.extest land level)) s = .next u ∧
      u.mode = .off ∧ lookupK land u.pins.extest = some level ∧ u.pins.coldHeld = true)) ∧
  (∀ (s : State) (n : Nat), s.fw.raiseTo = some n → s.hif.ready = true → s.mode = .running →
    exec .svnFloorRaise s = .next { s with fw := { s.fw with raiseTo := none }, fuses := { s.fuses with svnFloor := Nat.max s.fuses.svnFloor n } }))

/-! ## The whole machine -/

/-- State.reset holds what the manual gives at reset: BAR0 registers, MSI-X table and EV.SEQ 0, no ring, no transaction, no allocation,
descriptor, program or dispatch, tallies and routes clear, settings at their defaults, cores without a dispatch or field repair, ports
DOWN, memories in canonical form (R513, R544, R565, R580, R609, R611). That the point is after boot step 6, and which device it is, are
the model's (log entries 1, 2). -/
def Obligations.ResetValues : Prop :=
  let s := State.reset
  s.pending = [] ∧ s.mode = .booting ∧ s.hif.ready = false ∧ s.hif.running = false ∧ s.hif.evqOn = false ∧ s.hif.aqEn = false ∧ s.hif.evqEn = false ∧
  s.hif.asqBase = 0 ∧ s.hif.acqBase = 0 ∧ s.hif.aqSize = 0 ∧ s.hif.evqBase = 0 ∧ s.hif.evqSize = 0 ∧ s.hif.evqHead = 0 ∧ s.hif.winBase = 0 ∧
  s.hif.lastSt = 0 ∧ s.msix = [] ∧ s.evq.seq = 0 ∧ s.rings = [] ∧ s.txn = none ∧ s.allocs = [] ∧ s.tensors = [] ∧ s.owners = [] ∧ s.programs = [] ∧
  s.jobs = [] ∧ s.dispatches = [] ∧ s.routes = [] ∧ s.sendRoutes = [] ∧ (∀ n, n < 4096 → s.tally n = 0) ∧
  s.settings = ⟨8, 16, 16, 16, 3200, 1600, 0⟩ ∧ s.cores.length = 128 ∧
  (∀ c, c < 128 → (s.core c).dispatch = none ∧ (s.core c).held = none ∧ (s.core c).repair.word = 0 ∧ (s.core c).present = true) ∧
  s.regions.length = 16 ∧ (∀ r, r < 16 → s.inService r = true) ∧ (∀ p, p ∈ s.ports → p.state = 0 ∧ p.width = 0 ∧ p.laneFail = 0 ∧ p.replays = 0) ∧
  MemoriesWf s

/-- Every step keeps the canonical form of main memory, of the host memory, and of every carrel, saved ones too. -/
def Obligations.MemoriesKept : Prop :=
  ∀ s t : State, MemoriesWf s → step s = .next t → MemoriesWf t

/-- The word of a tile instruction whose fields lie in their ranges and hold listed values decodes to it (R346, R348, R355). A word of a
program with an opcode that is not listed, or with a reserved bit set, is refused, and a word that is not refused is the word of its
instruction, bit for bit (R346, R348). -/
def Obligations.TileWords : Prop :=
  (∀ i : TileInstr, i.wf = true → tileLegal i = true → encodeTile i < 2 ^ 64 ∧ decodeTile (encodeTile i) = some i) ∧
  ((∀ w i, decodeTile w = some i → w < 2 ^ 64 → encodeTile i = w ∧ i.wf = true ∧ tileLegal i = true ∧ w / 2 ^ 56 = i.opcode) ∧
  (∀ w, w < 2 ^ 64 → w / 2 ^ 56 ∉ [0x01, 0x02, 0x03, 0x04, 0x10, 0x11, 0x12, 0x13, 0x14, 0x20, 0x21, 0x22, 0x23, 0x24, 0x30, 0x40, 0x41, 0x42, 0x50,
    0x51, 0x52, 0x60, 0x61, 0x7F] → decodeTile w = none) ∧
  (∀ w, w < 2 ^ 64 → w / 2 ^ 56 = 0x42 ∨ w / 2 ^ 56 = 0x60 ∨ w / 2 ^ 56 = 0x61 → w % 2 ^ 56 ≠ 0 → decodeTile w = none))

end
end

