-- ==== Sys2Proof/Laws/Mem.lean ====
section
/-! SUPPORT. Laws of byte memories: what the canonical form says, that every operation keeps it, and reading after writing. -/
namespace Sys2Proof.Machine

/-- The canonical form as two facts: addresses rise strictly, and no cell holds 0. -/
theorem Mem.wf_iff (m : Mem) : m.wf = true ↔ m.Pairwise (fun a b => a.1 < b.1) ∧ ∀ c ∈ m, c.2 ≠ 0#8 := by
  induction m with
  | nil => simp [Mem.wf]
  | cons p r ih =>
    obtain ⟨a, b⟩ := p
    cases r with
    | nil => simp [Mem.wf]
    | cons q r =>
      obtain ⟨c, d⟩ := q
      simp only [Mem.wf, Bool.and_eq_true, bne_iff_ne, decide_eq_true_eq, ih, List.pairwise_cons, List.mem_cons, forall_eq_or_imp]
      constructor
      · rintro ⟨⟨hb, hac⟩, ⟨h1, h2⟩, h3, h4⟩
        refine ⟨⟨⟨hac, fun x hx => lt_trans hac (h1 x hx)⟩, h1, h2⟩, hb, h3, h4⟩
      · rintro ⟨⟨⟨hac, _⟩, h1, h2⟩, hb, h3, h4⟩
        exact ⟨⟨hb, hac⟩, ⟨h1, h2⟩, h3, h4⟩

theorem Mem.wf_nil : Mem.wf [] = true := rfl

/-- The cells of a run of bytes lie in the run, rise and hold no 0. -/
theorem Mem.cells_spec (bs : List Byte) : ∀ a, (Mem.cells a bs).Pairwise (fun x y => x.1 < y.1) ∧
    ∀ c ∈ Mem.cells a bs, a ≤ c.1 ∧ c.1 < a + bs.length ∧ c.2 ≠ 0#8 := by
  induction bs with
  | nil => intro a; simp [Mem.cells]
  | cons b r ih =>
    intro a
    obtain ⟨h1, h2⟩ := ih (a + 1)
    by_cases hb : b = 0#8
    · simp only [Mem.cells, hb, if_true]
      refine ⟨h1, fun c hc => ?_⟩
      obtain ⟨x, y, z⟩ := h2 c hc
      exact ⟨by omega, by simp only [List.length_cons]; omega, z⟩
    · simp only [Mem.cells, hb, if_false, List.pairwise_cons, List.mem_cons, forall_eq_or_imp, List.length_cons]
      refine ⟨⟨fun c hc => ?_, h1⟩, ⟨le_refl _, by omega, hb⟩, fun c hc => ?_⟩
      · have := (h2 c hc).1; omega
      · obtain ⟨x, y, z⟩ := h2 c hc; exact ⟨by omega, by omega, z⟩

/-- Three stretches of rising cells put in a row. -/
theorem Mem.wf_append3 {x y z : Mem} (hx : x.wf = true) (hy : y.wf = true) (hz : z.wf = true) (n k : Nat)
    (h1 : ∀ c ∈ x, c.1 < n) (h2 : ∀ c ∈ y, n ≤ c.1 ∧ c.1 < k) (h3 : ∀ c ∈ z, k ≤ c.1) (hk : n ≤ k) : (x ++ y ++ z).wf = true := by
  rw [Mem.wf_iff] at *
  refine ⟨List.pairwise_append.2 ⟨List.pairwise_append.2 ⟨hx.1, hy.1, fun a ha b hb => ?_⟩, hz.1, fun a ha b hb => ?_⟩, fun c hc => ?_⟩
  · have := h1 a ha; have := h2 b hb; omega
  · have := h3 b hb
    rcases List.mem_append.1 ha with h | h
    · have := h1 a h; omega
    · have := h2 a h; omega
  · rcases List.mem_append.1 hc with h | h
    · rcases List.mem_append.1 h with h | h
      · exact hx.2 c h
      · exact hy.2 c h
    · exact hz.2 c h

/-- A part of a canonical memory is canonical. -/
theorem Mem.wf_filter {m : Mem} (h : m.wf = true) (p : Host.Cell → Bool) : Mem.wf (List.filter p m) = true := by
  rw [Mem.wf_iff] at *
  exact ⟨h.1.filter p, fun c hc => h.2 c (List.mem_filter.1 hc).1⟩

/-- Writing bytes keeps the canonical form. -/
theorem Mem.wf_writeBytes {m : Mem} (h : m.wf = true) (a : Nat) (bs : List Byte) : (m.writeBytes a bs).wf = true := by
  have hc := Mem.cells_spec bs a
  refine Mem.wf_append3 (Mem.wf_filter h _) ((Mem.wf_iff _).2 ⟨hc.1, fun c h => (hc.2 c h).2.2⟩) (Mem.wf_filter h _) a (a + bs.length)
    (fun c h => ?_) (fun c h => ?_) (fun c h => ?_) (by omega)
  · simpa using (List.mem_filter.1 h).2
  · exact ⟨(hc.2 c h).1, (hc.2 c h).2.1⟩
  · simpa using (List.mem_filter.1 h).2

/-- Writing one byte keeps the canonical form. -/
theorem Mem.wf_write {m : Mem} (h : m.wf = true) (a : Nat) (b : Byte) : (m.write a b).wf = true := Mem.wf_writeBytes h a [b]

/-- Writing a number keeps the canonical form. -/
theorem Mem.wf_writeLe {m : Mem} (h : m.wf = true) (a n v : Nat) : (m.writeLe a n v).wf = true := Mem.wf_writeBytes h a _

/-- Clearing keeps the canonical form. -/
theorem Mem.wf_clear {m : Mem} (h : m.wf = true) (a n : Nat) : (m.clear a n).wf = true := by
  have := Mem.wf_append3 (x := List.filter (fun c => decide (c.1 < a)) m) (y := []) (z := List.filter (fun c => decide (a + n ≤ c.1)) m)
    (Mem.wf_filter h _) rfl (Mem.wf_filter h _) a (a + n) (fun c h => by simpa using (List.mem_filter.1 h).2) (by simp)
    (fun c h => by simpa using (List.mem_filter.1 h).2) (by omega)
  simpa [Mem.clear] using this

/-- Copying a run keeps the canonical form. -/
theorem Mem.wf_copy {m : Mem} (h : m.wf = true) (src dst n : Nat) : (m.copy src dst n).wf = true := by
  have hs := (Mem.wf_iff _).1 (Mem.wf_filter h (fun c => decide (src ≤ c.1) && decide (c.1 < src + n)))
  refine Mem.wf_append3 (Mem.wf_filter h _) ?_ (Mem.wf_filter h _) dst (dst + n) (fun c h => by simpa using (List.mem_filter.1 h).2)
    (fun c hc => ?_) (fun c h => by simpa using (List.mem_filter.1 h).2) (by omega)
  · rw [Mem.wf_iff]
    refine ⟨List.pairwise_map.2 (hs.1.imp_of_mem fun {a b} ha hb hab => ?_), fun c hc => ?_⟩
    · have h1 := (List.mem_filter.1 ha).2; have h2 := (List.mem_filter.1 hb).2
      simp only [Bool.and_eq_true, decide_eq_true_eq] at h1 h2; simp only; omega
    · obtain ⟨x, hx, rfl⟩ := List.mem_map.1 hc; exact hs.2 x hx
  · obtain ⟨x, hx, rfl⟩ := List.mem_map.1 hc
    have h1 := (List.mem_filter.1 hx).2
    simp only [Bool.and_eq_true, decide_eq_true_eq] at h1; simp only; omega

/-- Reading one byte through the run reader. -/
theorem Mem.fill_eq (n : Nat) : ∀ (a : Nat) (m : Mem), m.Pairwise (fun x y => x.1 < y.1) → (∀ c ∈ m, a ≤ c.1) →
    Mem.fill n a m = (List.range n).map (fun i => m.read (a + i)) := by
  induction n with
  | zero => intro a m _ _; rfl
  | succ n ih =>
    intro a m hp ha
    rw [List.range_succ_eq_map, List.map_cons, List.map_map]
    cases m with
    | nil =>
      simp only [Mem.fill, ih (a + 1) [] List.Pairwise.nil (by simp)]
      refine congrArg₂ List.cons rfl (List.map_congr_left fun i _ => rfl)
    | cons p r =>
      obtain ⟨k, b⟩ := p
      have hk : a ≤ k := ha (k, b) (by simp)
      have hr := List.pairwise_cons.1 hp
      by_cases h : k = a
      · subst h
        have h2 : ∀ c ∈ r, k + 1 ≤ c.1 := fun c hc => hr.1 c hc
        simp only [Mem.fill, if_true, ih (k + 1) r hr.2 h2]
        refine congrArg₂ List.cons (by simp [Mem.read, lookupD, lookupK]) (List.map_congr_left fun i _ => ?_)
        have : k ≠ k + (i + 1) := by omega
        simp only [Function.comp, Mem.read, lookupD, lookupK, Nat.succ_eq_add_one, this, if_false]
        congr 2; omega
      · have h2 : ∀ c ∈ (k, b) :: r, a + 1 ≤ c.1 := by
          intro c hc
          rcases List.mem_cons.1 hc with rfl | hc
          · simp only; omega
          · have := hr.1 c hc; simp only at this; omega
        simp only [Mem.fill, h, if_false, ih (a + 1) ((k, b) :: r) hp h2]
        refine congrArg₂ List.cons ?_ (List.map_congr_left fun i _ => ?_)
        · have hn : lookupK a r = none := by
            have : ∀ l : Mem, (∀ c ∈ l, a < c.1) → lookupK a l = none := by
              intro l; induction l with
              | nil => intro _; rfl
              | cons q l ihl =>
                intro hl
                have := hl q (by simp)
                simp only [lookupK]; rw [if_neg (by omega)]; exact ihl (fun c hc => hl c (by simp [hc]))
            exact this r (fun c hc => by have := hr.1 c hc; simp only at this; omega)
          simp [Mem.read, lookupD, lookupK, h, hn]
        · simp only [Function.comp, Nat.succ_eq_add_one]; congr 1; omega

/-- Lookups of addresses outside a filter are not changed by it. -/
theorem Mem.read_filter (m : Mem) (p : Nat → Bool) (a : Nat) (h : p a = true) :
    Mem.read (List.filter (fun c => p c.1) m) a = m.read a := by
  induction m with
  | nil => rfl
  | cons q r ih =>
    obtain ⟨k, b⟩ := q
    simp only [Mem.read, lookupD] at *
    by_cases hk : k = a
    · subst hk; simp [h, lookupK]
    · by_cases hp : p k = true
      · simp [hp, lookupK, hk, ih]
      · simp [hp, lookupK, hk, ih]

/-- A run read from a canonical memory is the bytes read one by one. -/
theorem Mem.readBytes_eq {m : Mem} (h : m.wf = true) (a n : Nat) : m.readBytes a n = (List.range n).map (fun i => m.read (a + i)) := by
  have hf := (Mem.wf_iff _).1 (Mem.wf_filter h (fun c => decide (a ≤ c.1) && decide (c.1 < a + n)))
  unfold Mem.readBytes
  rw [Mem.fill_eq n a _ hf.1 (fun c hc => by
    have := (List.mem_filter.1 hc).2; simp only [Bool.and_eq_true, decide_eq_true_eq] at this; exact this.1)]
  refine List.map_congr_left fun i hi => ?_
  exact Mem.read_filter m (fun k => decide (a ≤ k) && decide (k < a + n)) (a + i) (by
    have := List.mem_range.1 hi; simp only [Bool.and_eq_true, decide_eq_true_eq]; omega)

/-- A lookup finds nothing where no key of the list is the one sought. -/
theorem lookupK_none {α : Type} (a : Nat) (l : List (Nat × α)) (h : ∀ c ∈ l, c.1 ≠ a) : lookupK a l = none := by
  induction l with
  | nil => rfl
  | cons q r ih => simp only [lookupK]; rw [if_neg (h q (by simp))]; exact ih (fun c hc => h c (by simp [hc]))

/-- A lookup in two lists put in a row. -/
theorem lookupK_append {α : Type} (a : Nat) (l m : List (Nat × α)) :
    lookupK a (l ++ m) = match lookupK a l with | some v => some v | none => lookupK a m := by
  induction l with
  | nil => rfl
  | cons q r ih => by_cases h : q.1 = a <;> simp [lookupK, h, ih]

/-- The byte of a run of cells. -/
theorem Mem.read_cells (bs : List Byte) : ∀ a i, i < bs.length → Mem.read (Mem.cells a bs) (a + i) = (bs[i]?).getD 0#8 := by
  induction bs with
  | nil => intro a i h; simp at h
  | cons b r ih =>
    intro a i hi
    have hrest := (Mem.cells_spec r (a + 1)).2
    cases i with
    | zero =>
      by_cases hb : b = 0#8
      · simp only [Mem.cells, hb, if_true, Nat.add_zero, Mem.read, lookupD]
        rw [lookupK_none a _ (fun c hc => by have := (hrest c hc).1; omega)]; simp
      · simp [Mem.cells, hb, Mem.read, lookupD, lookupK]
    | succ i =>
      have h1 := ih (a + 1) i (by simpa using hi)
      have e : a + 1 + i = a + (i + 1) := by omega
      rw [e] at h1
      by_cases hb : b = 0#8
      · simpa [Mem.cells, hb] using h1
      · have : ¬ a = a + (i + 1) := by omega
        simp only [Mem.cells, hb, if_false, Mem.read, lookupD, lookupK, this] at h1 ⊢
        simpa using h1

/-- Reading after a write: the bytes written inside the run, the old ones outside it. -/
theorem Mem.read_writeBytes (m : Mem) (a : Nat) (bs : List Byte) (x : Nat) :
    (m.writeBytes a bs).read x = if a ≤ x ∧ x < a + bs.length then (bs[x - a]?).getD 0#8 else m.read x := by
  have hc := (Mem.cells_spec bs a).2
  have none1 : ∀ (p : Host.Cell → Bool), (∀ c ∈ m, p c = true → c.1 ≠ x) → lookupK x (List.filter p m) = none := fun p hp =>
    lookupK_none x _ (fun c h => hp c (List.mem_filter.1 h).1 (List.mem_filter.1 h).2)
  unfold Mem.writeBytes
  simp only [Mem.read, lookupD, lookupK_append]
  by_cases h : a ≤ x ∧ x < a + bs.length
  · rw [if_pos h, none1 _ (fun c _ hp => by simp at hp; omega)]
    have e := Mem.read_cells bs a (x - a) (by omega)
    rw [show a + (x - a) = x by omega] at e
    simp only [Mem.read, lookupD] at e
    cases hl : lookupK x (Mem.cells a bs) with
    | some v => simpa [hl] using e
    | none =>
      rw [hl] at e
      simp only [none1 (fun c => decide (a + bs.length ≤ c.1)) (fun c _ hp => by simp at hp; omega)]
      exact e
  · rw [if_neg h, lookupK_none x (Mem.cells a bs) (fun c hm => by have := hc c hm; omega)]
    by_cases hx : x < a
    · have e := Mem.read_filter m (fun k => decide (k < a)) x (by simpa using hx)
      simp only [Mem.read, lookupD] at e
      simp only [none1 (fun c => decide (a + bs.length ≤ c.1)) (fun c _ hp => by simp at hp; omega)]
      cases hl : lookupK x (List.filter (fun c => decide (c.1 < a)) m) with
      | some v => rw [hl] at e; simpa using e
      | none => rw [hl] at e; simpa using e
    · rw [none1 (fun c => decide (c.1 < a)) (fun c _ hp => by simp at hp; omega)]
      exact Mem.read_filter m (fun k => decide (a + bs.length ≤ k)) x (by simp; omega)

/-- What was written is read back. -/
theorem Mem.readBytes_writeBytes {m : Mem} (h : m.wf = true) (a : Nat) (bs : List Byte) :
    (m.writeBytes a bs).readBytes a bs.length = bs := by
  rw [Mem.readBytes_eq (Mem.wf_writeBytes h a bs)]
  refine List.ext_getElem (by simp) fun i h1 h2 => ?_
  simp only [List.getElem_map, List.getElem_range, Mem.read_writeBytes]
  rw [if_pos ⟨by omega, by omega⟩]
  simp [h2]

/-! ## Overlays -/

/-- Merging two memories keeps the canonical form and makes no new cell. -/
theorem Mem.merge_spec : ∀ (f : Nat) (m n : Mem), m.wf = true → n.wf = true →
    (Mem.merge f m n).wf = true ∧ ∀ c ∈ Mem.merge f m n, c ∈ m ∨ c ∈ n := by
  intro f
  induction f with
  | zero => intro m n hm _; exact ⟨hm, fun c h => .inl h⟩
  | succ f ih =>
    intro m n hm hn
    match m, n with
    | m, [] => cases m <;> exact ⟨hm, fun c h => .inl h⟩
    | [], (c, d) :: n =>
      exact ⟨Mem.wf_filter hn _, fun x h => .inr (List.mem_of_mem_filter h)⟩
    | (a, b) :: m, (c, d) :: n =>
      have hm' := (Mem.wf_iff _).1 hm
      have hn' := (Mem.wf_iff _).1 hn
      have tm : Mem.wf m = true := (Mem.wf_iff _).2 ⟨(List.pairwise_cons.1 hm'.1).2, fun x h => hm'.2 x (.tail _ h)⟩
      have tn : Mem.wf n = true := (Mem.wf_iff _).2 ⟨(List.pairwise_cons.1 hn'.1).2, fun x h => hn'.2 x (.tail _ h)⟩
      have cons : ∀ (k : Host.Cell) (r : Mem), Mem.wf r = true → k.2 ≠ 0#8 → (∀ x ∈ r, k.1 < x.1) → Mem.wf (k :: r) = true :=
        fun k r hr hk h => (Mem.wf_iff _).2 ⟨List.pairwise_cons.2 ⟨h, ((Mem.wf_iff _).1 hr).1⟩,
          fun x hx => by rcases List.mem_cons.1 hx with rfl | hx; exacts [hk, ((Mem.wf_iff _).1 hr).2 x hx]⟩
      unfold Mem.merge
      by_cases hac : a < c
      · rw [if_pos hac]
        obtain ⟨w, sub⟩ := ih m ((c, d) :: n) tm hn
        refine ⟨cons _ _ w (hm'.2 _ (.head _)) ?_, ?_⟩
        · intro x hx
          rcases sub x hx with h | h
          · exact (List.pairwise_cons.1 hm'.1).1 x h
          · rcases List.mem_cons.1 h with rfl | h
            · exact hac
            · exact Nat.lt_trans hac ((List.pairwise_cons.1 hn'.1).1 x h)
        · intro x hx
          rcases List.mem_cons.1 hx with rfl | hx
          · exact .inl (.head _)
          · exact (sub x hx).imp (.tail _) id
      · rw [if_neg hac]
        have key : ∀ m', Mem.wf m' = true → (∀ x ∈ m', x ∈ (a, b) :: m) → (∀ x ∈ m', c < x.1) →
            Mem.wf (if d = 0#8 then Mem.merge f m' n else (c, d) :: Mem.merge f m' n) = true ∧
            ∀ x ∈ (if d = 0#8 then Mem.merge f m' n else (c, d) :: Mem.merge f m' n), x ∈ (a, b) :: m ∨ x ∈ (c, d) :: n := by
          intro m' hw hs hl
          obtain ⟨w, sub⟩ := ih m' n hw tn
          by_cases hd : d = 0#8
          · exact absurd hd (hn'.2 _ (.head _))
          · rw [if_neg hd]
            refine ⟨cons _ _ w hd ?_, ?_⟩
            · intro x hx
              rcases sub x hx with h | h
              · exact hl x h
              · exact (List.pairwise_cons.1 hn'.1).1 x h
            · intro x hx
              rcases List.mem_cons.1 hx with rfl | hx
              · exact .inr (.head _)
              · exact (sub x hx).imp (hs x) (.tail _)
        by_cases e : a = c
        · simp only [if_pos e]
          exact key m tm (fun x h => .tail _ h) (fun x h => e ▸ (List.pairwise_cons.1 hm'.1).1 x h)
        · simp only [if_neg e]
          refine key _ hm (fun x h => h) (fun x h => ?_)
          have hca : c < a := by omega
          rcases List.mem_cons.1 h with rfl | h
          · exact hca
          · exact Nat.lt_trans hca ((List.pairwise_cons.1 hm'.1).1 x h)

/-- Overlaying keeps the canonical form. -/
theorem Mem.wf_overlay {m n : Mem} (hm : m.wf = true) (hn : n.wf = true) : (m.overlay n).wf = true :=
  (Mem.merge_spec _ m n hm hn).1
end Sys2Proof.Machine
end

