-- ==== Sys2Proof/Laws/State.lean ====
section
/-! SUPPORT. Laws of the state: what each update leaves alone, field by field, and what it reads as where it writes. -/
namespace Sys2Proof.Machine

/-! ### State.updCore -/
@[simp] theorem State.updCore_pending (s : State) (c : Nat) (f : Core → Core) : (s.updCore c f).pending = s.pending := rfl
@[simp] theorem State.updCore_fresh (s : State) (c : Nat) (f : Core → Core) : (s.updCore c f).fresh = s.fresh := rfl
@[simp] theorem State.updCore_mode (s : State) (c : Nat) (f : Core → Core) : (s.updCore c f).mode = s.mode := rfl
@[simp] theorem State.updCore_lastReset (s : State) (c : Nat) (f : Core → Core) : (s.updCore c f).lastReset = s.lastReset := rfl
@[simp] theorem State.updCore_noarch (s : State) (c : Nat) (f : Core → Core) : (s.updCore c f).noarch = s.noarch := rfl
@[simp] theorem State.updCore_pins (s : State) (c : Nat) (f : Core → Core) : (s.updCore c f).pins = s.pins := rfl
@[simp] theorem State.updCore_straps (s : State) (c : Nat) (f : Core → Core) : (s.updCore c f).straps = s.straps := rfl
@[simp] theorem State.updCore_fuses (s : State) (c : Nat) (f : Core → Core) : (s.updCore c f).fuses = s.fuses := rfl
@[simp] theorem State.updCore_archive (s : State) (c : Nat) (f : Core → Core) : (s.updCore c f).archive = s.archive := rfl
@[simp] theorem State.updCore_fw (s : State) (c : Nat) (f : Core → Core) : (s.updCore c f).fw = s.fw := rfl
@[simp] theorem State.updCore_settings (s : State) (c : Nat) (f : Core → Core) : (s.updCore c f).settings = s.settings := rfl
@[simp] theorem State.updCore_hif (s : State) (c : Nat) (f : Core → Core) : (s.updCore c f).hif = s.hif := rfl
@[simp] theorem State.updCore_msix (s : State) (c : Nat) (f : Core → Core) : (s.updCore c f).msix = s.msix := rfl
@[simp] theorem State.updCore_pba (s : State) (c : Nat) (f : Core → Core) : (s.updCore c f).pba = s.pba := rfl
@[simp] theorem State.updCore_raised (s : State) (c : Nat) (f : Core → Core) : (s.updCore c f).raised = s.raised := rfl
@[simp] theorem State.updCore_rings (s : State) (c : Nat) (f : Core → Core) : (s.updCore c f).rings = s.rings := rfl
@[simp] theorem State.updCore_evq (s : State) (c : Nat) (f : Core → Core) : (s.updCore c f).evq = s.evq := rfl
@[simp] theorem State.updCore_hostMem (s : State) (c : Nat) (f : Core → Core) : (s.updCore c f).hostMem = s.hostMem := rfl
@[simp] theorem State.updCore_lastRead (s : State) (c : Nat) (f : Core → Core) : (s.updCore c f).lastRead = s.lastRead := rfl
@[simp] theorem State.updCore_sideOut (s : State) (c : Nat) (f : Core → Core) : (s.updCore c f).sideOut = s.sideOut := rfl
@[simp] theorem State.updCore_ledgerOut (s : State) (c : Nat) (f : Core → Core) : (s.updCore c f).ledgerOut = s.ledgerOut := rfl
@[simp] theorem State.updCore_txn (s : State) (c : Nat) (f : Core → Core) : (s.updCore c f).txn = s.txn := rfl
@[simp] theorem State.updCore_channels (s : State) (c : Nat) (f : Core → Core) : (s.updCore c f).channels = s.channels := rfl
@[simp] theorem State.updCore_rate (s : State) (c : Nat) (f : Core → Core) : (s.updCore c f).rate = s.rate := rfl
@[simp] theorem State.updCore_dram (s : State) (c : Nat) (f : Core → Core) : (s.updCore c f).dram = s.dram := rfl
@[simp] theorem State.updCore_cleared (s : State) (c : Nat) (f : Core → Core) : (s.updCore c f).cleared = s.cleared := rfl
@[simp] theorem State.updCore_retired (s : State) (c : Nat) (f : Core → Core) : (s.updCore c f).retired = s.retired := rfl
@[simp] theorem State.updCore_poison (s : State) (c : Nat) (f : Core → Core) : (s.updCore c f).poison = s.poison := rfl
@[simp] theorem State.updCore_poisonAt (s : State) (c : Nat) (f : Core → Core) : (s.updCore c f).poisonAt = s.poisonAt := rfl
@[simp] theorem State.updCore_ceLines (s : State) (c : Nat) (f : Core → Core) : (s.updCore c f).ceLines = s.ceLines := rfl
@[simp] theorem State.updCore_ceFrames (s : State) (c : Nat) (f : Core → Core) : (s.updCore c f).ceFrames = s.ceFrames := rfl
@[simp] theorem State.updCore_retireDue (s : State) (c : Nat) (f : Core → Core) : (s.updCore c f).retireDue = s.retireDue := rfl
@[simp] theorem State.updCore_spareFrames (s : State) (c : Nat) (f : Core → Core) : (s.updCore c f).spareFrames = s.spareFrames := rfl
@[simp] theorem State.updCore_restoring (s : State) (c : Nat) (f : Core → Core) : (s.updCore c f).restoring = s.restoring := rfl
@[simp] theorem State.updCore_pages (s : State) (c : Nat) (f : Core → Core) : (s.updCore c f).pages = s.pages := rfl
@[simp] theorem State.updCore_caches (s : State) (c : Nat) (f : Core → Core) : (s.updCore c f).caches = s.caches := rfl
@[simp] theorem State.updCore_allocs (s : State) (c : Nat) (f : Core → Core) : (s.updCore c f).allocs = s.allocs := rfl
@[simp] theorem State.updCore_tensors (s : State) (c : Nat) (f : Core → Core) : (s.updCore c f).tensors = s.tensors := rfl
@[simp] theorem State.updCore_owners (s : State) (c : Nat) (f : Core → Core) : (s.updCore c f).owners = s.owners := rfl
@[simp] theorem State.updCore_polys (s : State) (c : Nat) (f : Core → Core) : (s.updCore c f).polys = s.polys := rfl
@[simp] theorem State.updCore_programs (s : State) (c : Nat) (f : Core → Core) : (s.updCore c f).programs = s.programs := rfl
@[simp] theorem State.updCore_jobs (s : State) (c : Nat) (f : Core → Core) : (s.updCore c f).jobs = s.jobs := rfl
@[simp] theorem State.updCore_copies (s : State) (c : Nat) (f : Core → Core) : (s.updCore c f).copies = s.copies := rfl
@[simp] theorem State.updCore_nextCopy (s : State) (c : Nat) (f : Core → Core) : (s.updCore c f).nextCopy = s.nextCopy := rfl
@[simp] theorem State.updCore_dispatches (s : State) (c : Nat) (f : Core → Core) : (s.updCore c f).dispatches = s.dispatches := rfl
@[simp] theorem State.updCore_nextOrder (s : State) (c : Nat) (f : Core → Core) : (s.updCore c f).nextOrder = s.nextOrder := rfl
@[simp] theorem State.updCore_regions (s : State) (c : Nat) (f : Core → Core) : (s.updCore c f).regions = s.regions := rfl
@[simp] theorem State.updCore_tallies (s : State) (c : Nat) (f : Core → Core) : (s.updCore c f).tallies = s.tallies := rfl
@[simp] theorem State.updCore_routes (s : State) (c : Nat) (f : Core → Core) : (s.updCore c f).routes = s.routes := rfl
@[simp] theorem State.updCore_sendVer (s : State) (c : Nat) (f : Core → Core) : (s.updCore c f).sendVer = s.sendVer := rfl
@[simp] theorem State.updCore_sendRoutes (s : State) (c : Nat) (f : Core → Core) : (s.updCore c f).sendRoutes = s.sendRoutes := rfl
@[simp] theorem State.updCore_sendPrev (s : State) (c : Nat) (f : Core → Core) : (s.updCore c f).sendPrev = s.sendPrev := rfl
@[simp] theorem State.updCore_ports (s : State) (c : Nat) (f : Core → Core) : (s.updCore c f).ports = s.ports := rfl
@[simp] theorem State.updCore_streams (s : State) (c : Nat) (f : Core → Core) : (s.updCore c f).streams = s.streams := rfl
@[simp] theorem State.updCore_fabricOut (s : State) (c : Nat) (f : Core → Core) : (s.updCore c f).fabricOut = s.fabricOut := rfl
@[simp] theorem State.updCore_ownerHolds (s : State) (c : Nat) (f : Core → Core) : (s.updCore c f).ownerHolds = s.ownerHolds := rfl
@[simp] theorem State.updCore_nextReq (s : State) (c : Nat) (f : Core → Core) : (s.updCore c f).nextReq = s.nextReq := rfl
@[simp] theorem State.updCore_bridge (s : State) (c : Nat) (f : Core → Core) : (s.updCore c f).bridge = s.bridge := rfl
@[simp] theorem State.updCore_scrubAt (s : State) (c : Nat) (f : Core → Core) : (s.updCore c f).scrubAt = s.scrubAt := rfl
@[simp] theorem State.updCore_thermal (s : State) (c : Nat) (f : Core → Core) : (s.updCore c f).thermal = s.thermal := rfl
@[simp] theorem State.updCore_powerCap (s : State) (c : Nat) (f : Core → Core) : (s.updCore c f).powerCap = s.powerCap := rfl
@[simp] theorem State.updCore_ledger (s : State) (c : Nat) (f : Core → Core) : (s.updCore c f).ledger = s.ledger := rfl

/-! ### State.updRegion -/
@[simp] theorem State.updRegion_pending (s : State) (r : Nat) (f : Region → Region) : (s.updRegion r f).pending = s.pending := rfl
@[simp] theorem State.updRegion_fresh (s : State) (r : Nat) (f : Region → Region) : (s.updRegion r f).fresh = s.fresh := rfl
@[simp] theorem State.updRegion_mode (s : State) (r : Nat) (f : Region → Region) : (s.updRegion r f).mode = s.mode := rfl
@[simp] theorem State.updRegion_lastReset (s : State) (r : Nat) (f : Region → Region) : (s.updRegion r f).lastReset = s.lastReset := rfl
@[simp] theorem State.updRegion_noarch (s : State) (r : Nat) (f : Region → Region) : (s.updRegion r f).noarch = s.noarch := rfl
@[simp] theorem State.updRegion_pins (s : State) (r : Nat) (f : Region → Region) : (s.updRegion r f).pins = s.pins := rfl
@[simp] theorem State.updRegion_straps (s : State) (r : Nat) (f : Region → Region) : (s.updRegion r f).straps = s.straps := rfl
@[simp] theorem State.updRegion_fuses (s : State) (r : Nat) (f : Region → Region) : (s.updRegion r f).fuses = s.fuses := rfl
@[simp] theorem State.updRegion_archive (s : State) (r : Nat) (f : Region → Region) : (s.updRegion r f).archive = s.archive := rfl
@[simp] theorem State.updRegion_fw (s : State) (r : Nat) (f : Region → Region) : (s.updRegion r f).fw = s.fw := rfl
@[simp] theorem State.updRegion_settings (s : State) (r : Nat) (f : Region → Region) : (s.updRegion r f).settings = s.settings := rfl
@[simp] theorem State.updRegion_hif (s : State) (r : Nat) (f : Region → Region) : (s.updRegion r f).hif = s.hif := rfl
@[simp] theorem State.updRegion_msix (s : State) (r : Nat) (f : Region → Region) : (s.updRegion r f).msix = s.msix := rfl
@[simp] theorem State.updRegion_pba (s : State) (r : Nat) (f : Region → Region) : (s.updRegion r f).pba = s.pba := rfl
@[simp] theorem State.updRegion_raised (s : State) (r : Nat) (f : Region → Region) : (s.updRegion r f).raised = s.raised := rfl
@[simp] theorem State.updRegion_rings (s : State) (r : Nat) (f : Region → Region) : (s.updRegion r f).rings = s.rings := rfl
@[simp] theorem State.updRegion_evq (s : State) (r : Nat) (f : Region → Region) : (s.updRegion r f).evq = s.evq := rfl
@[simp] theorem State.updRegion_hostMem (s : State) (r : Nat) (f : Region → Region) : (s.updRegion r f).hostMem = s.hostMem := rfl
@[simp] theorem State.updRegion_lastRead (s : State) (r : Nat) (f : Region → Region) : (s.updRegion r f).lastRead = s.lastRead := rfl
@[simp] theorem State.updRegion_sideOut (s : State) (r : Nat) (f : Region → Region) : (s.updRegion r f).sideOut = s.sideOut := rfl
@[simp] theorem State.updRegion_ledgerOut (s : State) (r : Nat) (f : Region → Region) : (s.updRegion r f).ledgerOut = s.ledgerOut := rfl
@[simp] theorem State.updRegion_txn (s : State) (r : Nat) (f : Region → Region) : (s.updRegion r f).txn = s.txn := rfl
@[simp] theorem State.updRegion_channels (s : State) (r : Nat) (f : Region → Region) : (s.updRegion r f).channels = s.channels := rfl
@[simp] theorem State.updRegion_rate (s : State) (r : Nat) (f : Region → Region) : (s.updRegion r f).rate = s.rate := rfl
@[simp] theorem State.updRegion_dram (s : State) (r : Nat) (f : Region → Region) : (s.updRegion r f).dram = s.dram := rfl
@[simp] theorem State.updRegion_cleared (s : State) (r : Nat) (f : Region → Region) : (s.updRegion r f).cleared = s.cleared := rfl
@[simp] theorem State.updRegion_retired (s : State) (r : Nat) (f : Region → Region) : (s.updRegion r f).retired = s.retired := rfl
@[simp] theorem State.updRegion_poison (s : State) (r : Nat) (f : Region → Region) : (s.updRegion r f).poison = s.poison := rfl
@[simp] theorem State.updRegion_poisonAt (s : State) (r : Nat) (f : Region → Region) : (s.updRegion r f).poisonAt = s.poisonAt := rfl
@[simp] theorem State.updRegion_ceLines (s : State) (r : Nat) (f : Region → Region) : (s.updRegion r f).ceLines = s.ceLines := rfl
@[simp] theorem State.updRegion_ceFrames (s : State) (r : Nat) (f : Region → Region) : (s.updRegion r f).ceFrames = s.ceFrames := rfl
@[simp] theorem State.updRegion_retireDue (s : State) (r : Nat) (f : Region → Region) : (s.updRegion r f).retireDue = s.retireDue := rfl
@[simp] theorem State.updRegion_spareFrames (s : State) (r : Nat) (f : Region → Region) : (s.updRegion r f).spareFrames = s.spareFrames := rfl
@[simp] theorem State.updRegion_restoring (s : State) (r : Nat) (f : Region → Region) : (s.updRegion r f).restoring = s.restoring := rfl
@[simp] theorem State.updRegion_pages (s : State) (r : Nat) (f : Region → Region) : (s.updRegion r f).pages = s.pages := rfl
@[simp] theorem State.updRegion_caches (s : State) (r : Nat) (f : Region → Region) : (s.updRegion r f).caches = s.caches := rfl
@[simp] theorem State.updRegion_allocs (s : State) (r : Nat) (f : Region → Region) : (s.updRegion r f).allocs = s.allocs := rfl
@[simp] theorem State.updRegion_tensors (s : State) (r : Nat) (f : Region → Region) : (s.updRegion r f).tensors = s.tensors := rfl
@[simp] theorem State.updRegion_owners (s : State) (r : Nat) (f : Region → Region) : (s.updRegion r f).owners = s.owners := rfl
@[simp] theorem State.updRegion_polys (s : State) (r : Nat) (f : Region → Region) : (s.updRegion r f).polys = s.polys := rfl
@[simp] theorem State.updRegion_programs (s : State) (r : Nat) (f : Region → Region) : (s.updRegion r f).programs = s.programs := rfl
@[simp] theorem State.updRegion_jobs (s : State) (r : Nat) (f : Region → Region) : (s.updRegion r f).jobs = s.jobs := rfl
@[simp] theorem State.updRegion_copies (s : State) (r : Nat) (f : Region → Region) : (s.updRegion r f).copies = s.copies := rfl
@[simp] theorem State.updRegion_nextCopy (s : State) (r : Nat) (f : Region → Region) : (s.updRegion r f).nextCopy = s.nextCopy := rfl
@[simp] theorem State.updRegion_dispatches (s : State) (r : Nat) (f : Region → Region) : (s.updRegion r f).dispatches = s.dispatches := rfl
@[simp] theorem State.updRegion_nextOrder (s : State) (r : Nat) (f : Region → Region) : (s.updRegion r f).nextOrder = s.nextOrder := rfl
@[simp] theorem State.updRegion_cores (s : State) (r : Nat) (f : Region → Region) : (s.updRegion r f).cores = s.cores := rfl
@[simp] theorem State.updRegion_tallies (s : State) (r : Nat) (f : Region → Region) : (s.updRegion r f).tallies = s.tallies := rfl
@[simp] theorem State.updRegion_routes (s : State) (r : Nat) (f : Region → Region) : (s.updRegion r f).routes = s.routes := rfl
@[simp] theorem State.updRegion_sendVer (s : State) (r : Nat) (f : Region → Region) : (s.updRegion r f).sendVer = s.sendVer := rfl
@[simp] theorem State.updRegion_sendRoutes (s : State) (r : Nat) (f : Region → Region) : (s.updRegion r f).sendRoutes = s.sendRoutes := rfl
@[simp] theorem State.updRegion_sendPrev (s : State) (r : Nat) (f : Region → Region) : (s.updRegion r f).sendPrev = s.sendPrev := rfl
@[simp] theorem State.updRegion_ports (s : State) (r : Nat) (f : Region → Region) : (s.updRegion r f).ports = s.ports := rfl
@[simp] theorem State.updRegion_streams (s : State) (r : Nat) (f : Region → Region) : (s.updRegion r f).streams = s.streams := rfl
@[simp] theorem State.updRegion_fabricOut (s : State) (r : Nat) (f : Region → Region) : (s.updRegion r f).fabricOut = s.fabricOut := rfl
@[simp] theorem State.updRegion_ownerHolds (s : State) (r : Nat) (f : Region → Region) : (s.updRegion r f).ownerHolds = s.ownerHolds := rfl
@[simp] theorem State.updRegion_nextReq (s : State) (r : Nat) (f : Region → Region) : (s.updRegion r f).nextReq = s.nextReq := rfl
@[simp] theorem State.updRegion_bridge (s : State) (r : Nat) (f : Region → Region) : (s.updRegion r f).bridge = s.bridge := rfl
@[simp] theorem State.updRegion_scrubAt (s : State) (r : Nat) (f : Region → Region) : (s.updRegion r f).scrubAt = s.scrubAt := rfl
@[simp] theorem State.updRegion_thermal (s : State) (r : Nat) (f : Region → Region) : (s.updRegion r f).thermal = s.thermal := rfl
@[simp] theorem State.updRegion_powerCap (s : State) (r : Nat) (f : Region → Region) : (s.updRegion r f).powerCap = s.powerCap := rfl
@[simp] theorem State.updRegion_ledger (s : State) (r : Nat) (f : Region → Region) : (s.updRegion r f).ledger = s.ledger := rfl

/-! ### State.updChannel -/
@[simp] theorem State.updChannel_pending (s : State) (c : Nat) (f : Channel → Channel) : (s.updChannel c f).pending = s.pending := rfl
@[simp] theorem State.updChannel_fresh (s : State) (c : Nat) (f : Channel → Channel) : (s.updChannel c f).fresh = s.fresh := rfl
@[simp] theorem State.updChannel_mode (s : State) (c : Nat) (f : Channel → Channel) : (s.updChannel c f).mode = s.mode := rfl
@[simp] theorem State.updChannel_lastReset (s : State) (c : Nat) (f : Channel → Channel) : (s.updChannel c f).lastReset = s.lastReset := rfl
@[simp] theorem State.updChannel_noarch (s : State) (c : Nat) (f : Channel → Channel) : (s.updChannel c f).noarch = s.noarch := rfl
@[simp] theorem State.updChannel_pins (s : State) (c : Nat) (f : Channel → Channel) : (s.updChannel c f).pins = s.pins := rfl
@[simp] theorem State.updChannel_straps (s : State) (c : Nat) (f : Channel → Channel) : (s.updChannel c f).straps = s.straps := rfl
@[simp] theorem State.updChannel_fuses (s : State) (c : Nat) (f : Channel → Channel) : (s.updChannel c f).fuses = s.fuses := rfl
@[simp] theorem State.updChannel_archive (s : State) (c : Nat) (f : Channel → Channel) : (s.updChannel c f).archive = s.archive := rfl
@[simp] theorem State.updChannel_fw (s : State) (c : Nat) (f : Channel → Channel) : (s.updChannel c f).fw = s.fw := rfl
@[simp] theorem State.updChannel_settings (s : State) (c : Nat) (f : Channel → Channel) : (s.updChannel c f).settings = s.settings := rfl
@[simp] theorem State.updChannel_hif (s : State) (c : Nat) (f : Channel → Channel) : (s.updChannel c f).hif = s.hif := rfl
@[simp] theorem State.updChannel_msix (s : State) (c : Nat) (f : Channel → Channel) : (s.updChannel c f).msix = s.msix := rfl
@[simp] theorem State.updChannel_pba (s : State) (c : Nat) (f : Channel → Channel) : (s.updChannel c f).pba = s.pba := rfl
@[simp] theorem State.updChannel_raised (s : State) (c : Nat) (f : Channel → Channel) : (s.updChannel c f).raised = s.raised := rfl
@[simp] theorem State.updChannel_rings (s : State) (c : Nat) (f : Channel → Channel) : (s.updChannel c f).rings = s.rings := rfl
@[simp] theorem State.updChannel_evq (s : State) (c : Nat) (f : Channel → Channel) : (s.updChannel c f).evq = s.evq := rfl
@[simp] theorem State.updChannel_hostMem (s : State) (c : Nat) (f : Channel → Channel) : (s.updChannel c f).hostMem = s.hostMem := rfl
@[simp] theorem State.updChannel_lastRead (s : State) (c : Nat) (f : Channel → Channel) : (s.updChannel c f).lastRead = s.lastRead := rfl
@[simp] theorem State.updChannel_sideOut (s : State) (c : Nat) (f : Channel → Channel) : (s.updChannel c f).sideOut = s.sideOut := rfl
@[simp] theorem State.updChannel_ledgerOut (s : State) (c : Nat) (f : Channel → Channel) : (s.updChannel c f).ledgerOut = s.ledgerOut := rfl
@[simp] theorem State.updChannel_txn (s : State) (c : Nat) (f : Channel → Channel) : (s.updChannel c f).txn = s.txn := rfl
@[simp] theorem State.updChannel_rate (s : State) (c : Nat) (f : Channel → Channel) : (s.updChannel c f).rate = s.rate := rfl
@[simp] theorem State.updChannel_dram (s : State) (c : Nat) (f : Channel → Channel) : (s.updChannel c f).dram = s.dram := rfl
@[simp] theorem State.updChannel_cleared (s : State) (c : Nat) (f : Channel → Channel) : (s.updChannel c f).cleared = s.cleared := rfl
@[simp] theorem State.updChannel_retired (s : State) (c : Nat) (f : Channel → Channel) : (s.updChannel c f).retired = s.retired := rfl
@[simp] theorem State.updChannel_poison (s : State) (c : Nat) (f : Channel → Channel) : (s.updChannel c f).poison = s.poison := rfl
@[simp] theorem State.updChannel_poisonAt (s : State) (c : Nat) (f : Channel → Channel) : (s.updChannel c f).poisonAt = s.poisonAt := rfl
@[simp] theorem State.updChannel_ceLines (s : State) (c : Nat) (f : Channel → Channel) : (s.updChannel c f).ceLines = s.ceLines := rfl
@[simp] theorem State.updChannel_ceFrames (s : State) (c : Nat) (f : Channel → Channel) : (s.updChannel c f).ceFrames = s.ceFrames := rfl
@[simp] theorem State.updChannel_retireDue (s : State) (c : Nat) (f : Channel → Channel) : (s.updChannel c f).retireDue = s.retireDue := rfl
@[simp] theorem State.updChannel_spareFrames (s : State) (c : Nat) (f : Channel → Channel) : (s.updChannel c f).spareFrames = s.spareFrames := rfl
@[simp] theorem State.updChannel_restoring (s : State) (c : Nat) (f : Channel → Channel) : (s.updChannel c f).restoring = s.restoring := rfl
@[simp] theorem State.updChannel_pages (s : State) (c : Nat) (f : Channel → Channel) : (s.updChannel c f).pages = s.pages := rfl
@[simp] theorem State.updChannel_caches (s : State) (c : Nat) (f : Channel → Channel) : (s.updChannel c f).caches = s.caches := rfl
@[simp] theorem State.updChannel_allocs (s : State) (c : Nat) (f : Channel → Channel) : (s.updChannel c f).allocs = s.allocs := rfl
@[simp] theorem State.updChannel_tensors (s : State) (c : Nat) (f : Channel → Channel) : (s.updChannel c f).tensors = s.tensors := rfl
@[simp] theorem State.updChannel_owners (s : State) (c : Nat) (f : Channel → Channel) : (s.updChannel c f).owners = s.owners := rfl
@[simp] theorem State.updChannel_polys (s : State) (c : Nat) (f : Channel → Channel) : (s.updChannel c f).polys = s.polys := rfl
@[simp] theorem State.updChannel_programs (s : State) (c : Nat) (f : Channel → Channel) : (s.updChannel c f).programs = s.programs := rfl
@[simp] theorem State.updChannel_jobs (s : State) (c : Nat) (f : Channel → Channel) : (s.updChannel c f).jobs = s.jobs := rfl
@[simp] theorem State.updChannel_copies (s : State) (c : Nat) (f : Channel → Channel) : (s.updChannel c f).copies = s.copies := rfl
@[simp] theorem State.updChannel_nextCopy (s : State) (c : Nat) (f : Channel → Channel) : (s.updChannel c f).nextCopy = s.nextCopy := rfl
@[simp] theorem State.updChannel_dispatches (s : State) (c : Nat) (f : Channel → Channel) : (s.updChannel c f).dispatches = s.dispatches := rfl
@[simp] theorem State.updChannel_nextOrder (s : State) (c : Nat) (f : Channel → Channel) : (s.updChannel c f).nextOrder = s.nextOrder := rfl
@[simp] theorem State.updChannel_regions (s : State) (c : Nat) (f : Channel → Channel) : (s.updChannel c f).regions = s.regions := rfl
@[simp] theorem State.updChannel_cores (s : State) (c : Nat) (f : Channel → Channel) : (s.updChannel c f).cores = s.cores := rfl
@[simp] theorem State.updChannel_tallies (s : State) (c : Nat) (f : Channel → Channel) : (s.updChannel c f).tallies = s.tallies := rfl
@[simp] theorem State.updChannel_routes (s : State) (c : Nat) (f : Channel → Channel) : (s.updChannel c f).routes = s.routes := rfl
@[simp] theorem State.updChannel_sendVer (s : State) (c : Nat) (f : Channel → Channel) : (s.updChannel c f).sendVer = s.sendVer := rfl
@[simp] theorem State.updChannel_sendRoutes (s : State) (c : Nat) (f : Channel → Channel) : (s.updChannel c f).sendRoutes = s.sendRoutes := rfl
@[simp] theorem State.updChannel_sendPrev (s : State) (c : Nat) (f : Channel → Channel) : (s.updChannel c f).sendPrev = s.sendPrev := rfl
@[simp] theorem State.updChannel_ports (s : State) (c : Nat) (f : Channel → Channel) : (s.updChannel c f).ports = s.ports := rfl
@[simp] theorem State.updChannel_streams (s : State) (c : Nat) (f : Channel → Channel) : (s.updChannel c f).streams = s.streams := rfl
@[simp] theorem State.updChannel_fabricOut (s : State) (c : Nat) (f : Channel → Channel) : (s.updChannel c f).fabricOut = s.fabricOut := rfl
@[simp] theorem State.updChannel_ownerHolds (s : State) (c : Nat) (f : Channel → Channel) : (s.updChannel c f).ownerHolds = s.ownerHolds := rfl
@[simp] theorem State.updChannel_nextReq (s : State) (c : Nat) (f : Channel → Channel) : (s.updChannel c f).nextReq = s.nextReq := rfl
@[simp] theorem State.updChannel_bridge (s : State) (c : Nat) (f : Channel → Channel) : (s.updChannel c f).bridge = s.bridge := rfl
@[simp] theorem State.updChannel_scrubAt (s : State) (c : Nat) (f : Channel → Channel) : (s.updChannel c f).scrubAt = s.scrubAt := rfl
@[simp] theorem State.updChannel_thermal (s : State) (c : Nat) (f : Channel → Channel) : (s.updChannel c f).thermal = s.thermal := rfl
@[simp] theorem State.updChannel_powerCap (s : State) (c : Nat) (f : Channel → Channel) : (s.updChannel c f).powerCap = s.powerCap := rfl
@[simp] theorem State.updChannel_ledger (s : State) (c : Nat) (f : Channel → Channel) : (s.updChannel c f).ledger = s.ledger := rfl

/-! ### State.updPort -/
@[simp] theorem State.updPort_pending (s : State) (p : Nat) (f : Port → Port) : (s.updPort p f).pending = s.pending := rfl
@[simp] theorem State.updPort_fresh (s : State) (p : Nat) (f : Port → Port) : (s.updPort p f).fresh = s.fresh := rfl
@[simp] theorem State.updPort_mode (s : State) (p : Nat) (f : Port → Port) : (s.updPort p f).mode = s.mode := rfl
@[simp] theorem State.updPort_lastReset (s : State) (p : Nat) (f : Port → Port) : (s.updPort p f).lastReset = s.lastReset := rfl
@[simp] theorem State.updPort_noarch (s : State) (p : Nat) (f : Port → Port) : (s.updPort p f).noarch = s.noarch := rfl
@[simp] theorem State.updPort_pins (s : State) (p : Nat) (f : Port → Port) : (s.updPort p f).pins = s.pins := rfl
@[simp] theorem State.updPort_straps (s : State) (p : Nat) (f : Port → Port) : (s.updPort p f).straps = s.straps := rfl
@[simp] theorem State.updPort_fuses (s : State) (p : Nat) (f : Port → Port) : (s.updPort p f).fuses = s.fuses := rfl
@[simp] theorem State.updPort_archive (s : State) (p : Nat) (f : Port → Port) : (s.updPort p f).archive = s.archive := rfl
@[simp] theorem State.updPort_fw (s : State) (p : Nat) (f : Port → Port) : (s.updPort p f).fw = s.fw := rfl
@[simp] theorem State.updPort_settings (s : State) (p : Nat) (f : Port → Port) : (s.updPort p f).settings = s.settings := rfl
@[simp] theorem State.updPort_hif (s : State) (p : Nat) (f : Port → Port) : (s.updPort p f).hif = s.hif := rfl
@[simp] theorem State.updPort_msix (s : State) (p : Nat) (f : Port → Port) : (s.updPort p f).msix = s.msix := rfl
@[simp] theorem State.updPort_pba (s : State) (p : Nat) (f : Port → Port) : (s.updPort p f).pba = s.pba := rfl
@[simp] theorem State.updPort_raised (s : State) (p : Nat) (f : Port → Port) : (s.updPort p f).raised = s.raised := rfl
@[simp] theorem State.updPort_rings (s : State) (p : Nat) (f : Port → Port) : (s.updPort p f).rings = s.rings := rfl
@[simp] theorem State.updPort_evq (s : State) (p : Nat) (f : Port → Port) : (s.updPort p f).evq = s.evq := rfl
@[simp] theorem State.updPort_hostMem (s : State) (p : Nat) (f : Port → Port) : (s.updPort p f).hostMem = s.hostMem := rfl
@[simp] theorem State.updPort_lastRead (s : State) (p : Nat) (f : Port → Port) : (s.updPort p f).lastRead = s.lastRead := rfl
@[simp] theorem State.updPort_sideOut (s : State) (p : Nat) (f : Port → Port) : (s.updPort p f).sideOut = s.sideOut := rfl
@[simp] theorem State.updPort_ledgerOut (s : State) (p : Nat) (f : Port → Port) : (s.updPort p f).ledgerOut = s.ledgerOut := rfl
@[simp] theorem State.updPort_txn (s : State) (p : Nat) (f : Port → Port) : (s.updPort p f).txn = s.txn := rfl
@[simp] theorem State.updPort_channels (s : State) (p : Nat) (f : Port → Port) : (s.updPort p f).channels = s.channels := rfl
@[simp] theorem State.updPort_rate (s : State) (p : Nat) (f : Port → Port) : (s.updPort p f).rate = s.rate := rfl
@[simp] theorem State.updPort_dram (s : State) (p : Nat) (f : Port → Port) : (s.updPort p f).dram = s.dram := rfl
@[simp] theorem State.updPort_cleared (s : State) (p : Nat) (f : Port → Port) : (s.updPort p f).cleared = s.cleared := rfl
@[simp] theorem State.updPort_retired (s : State) (p : Nat) (f : Port → Port) : (s.updPort p f).retired = s.retired := rfl
@[simp] theorem State.updPort_poison (s : State) (p : Nat) (f : Port → Port) : (s.updPort p f).poison = s.poison := rfl
@[simp] theorem State.updPort_poisonAt (s : State) (p : Nat) (f : Port → Port) : (s.updPort p f).poisonAt = s.poisonAt := rfl
@[simp] theorem State.updPort_ceLines (s : State) (p : Nat) (f : Port → Port) : (s.updPort p f).ceLines = s.ceLines := rfl
@[simp] theorem State.updPort_ceFrames (s : State) (p : Nat) (f : Port → Port) : (s.updPort p f).ceFrames = s.ceFrames := rfl
@[simp] theorem State.updPort_retireDue (s : State) (p : Nat) (f : Port → Port) : (s.updPort p f).retireDue = s.retireDue := rfl
@[simp] theorem State.updPort_spareFrames (s : State) (p : Nat) (f : Port → Port) : (s.updPort p f).spareFrames = s.spareFrames := rfl
@[simp] theorem State.updPort_restoring (s : State) (p : Nat) (f : Port → Port) : (s.updPort p f).restoring = s.restoring := rfl
@[simp] theorem State.updPort_pages (s : State) (p : Nat) (f : Port → Port) : (s.updPort p f).pages = s.pages := rfl
@[simp] theorem State.updPort_caches (s : State) (p : Nat) (f : Port → Port) : (s.updPort p f).caches = s.caches := rfl
@[simp] theorem State.updPort_allocs (s : State) (p : Nat) (f : Port → Port) : (s.updPort p f).allocs = s.allocs := rfl
@[simp] theorem State.updPort_tensors (s : State) (p : Nat) (f : Port → Port) : (s.updPort p f).tensors = s.tensors := rfl
@[simp] theorem State.updPort_owners (s : State) (p : Nat) (f : Port → Port) : (s.updPort p f).owners = s.owners := rfl
@[simp] theorem State.updPort_polys (s : State) (p : Nat) (f : Port → Port) : (s.updPort p f).polys = s.polys := rfl
@[simp] theorem State.updPort_programs (s : State) (p : Nat) (f : Port → Port) : (s.updPort p f).programs = s.programs := rfl
@[simp] theorem State.updPort_jobs (s : State) (p : Nat) (f : Port → Port) : (s.updPort p f).jobs = s.jobs := rfl
@[simp] theorem State.updPort_copies (s : State) (p : Nat) (f : Port → Port) : (s.updPort p f).copies = s.copies := rfl
@[simp] theorem State.updPort_nextCopy (s : State) (p : Nat) (f : Port → Port) : (s.updPort p f).nextCopy = s.nextCopy := rfl
@[simp] theorem State.updPort_dispatches (s : State) (p : Nat) (f : Port → Port) : (s.updPort p f).dispatches = s.dispatches := rfl
@[simp] theorem State.updPort_nextOrder (s : State) (p : Nat) (f : Port → Port) : (s.updPort p f).nextOrder = s.nextOrder := rfl
@[simp] theorem State.updPort_regions (s : State) (p : Nat) (f : Port → Port) : (s.updPort p f).regions = s.regions := rfl
@[simp] theorem State.updPort_cores (s : State) (p : Nat) (f : Port → Port) : (s.updPort p f).cores = s.cores := rfl
@[simp] theorem State.updPort_tallies (s : State) (p : Nat) (f : Port → Port) : (s.updPort p f).tallies = s.tallies := rfl
@[simp] theorem State.updPort_routes (s : State) (p : Nat) (f : Port → Port) : (s.updPort p f).routes = s.routes := rfl
@[simp] theorem State.updPort_sendVer (s : State) (p : Nat) (f : Port → Port) : (s.updPort p f).sendVer = s.sendVer := rfl
@[simp] theorem State.updPort_sendRoutes (s : State) (p : Nat) (f : Port → Port) : (s.updPort p f).sendRoutes = s.sendRoutes := rfl
@[simp] theorem State.updPort_sendPrev (s : State) (p : Nat) (f : Port → Port) : (s.updPort p f).sendPrev = s.sendPrev := rfl
@[simp] theorem State.updPort_streams (s : State) (p : Nat) (f : Port → Port) : (s.updPort p f).streams = s.streams := rfl
@[simp] theorem State.updPort_fabricOut (s : State) (p : Nat) (f : Port → Port) : (s.updPort p f).fabricOut = s.fabricOut := rfl
@[simp] theorem State.updPort_ownerHolds (s : State) (p : Nat) (f : Port → Port) : (s.updPort p f).ownerHolds = s.ownerHolds := rfl
@[simp] theorem State.updPort_nextReq (s : State) (p : Nat) (f : Port → Port) : (s.updPort p f).nextReq = s.nextReq := rfl
@[simp] theorem State.updPort_bridge (s : State) (p : Nat) (f : Port → Port) : (s.updPort p f).bridge = s.bridge := rfl
@[simp] theorem State.updPort_scrubAt (s : State) (p : Nat) (f : Port → Port) : (s.updPort p f).scrubAt = s.scrubAt := rfl
@[simp] theorem State.updPort_thermal (s : State) (p : Nat) (f : Port → Port) : (s.updPort p f).thermal = s.thermal := rfl
@[simp] theorem State.updPort_powerCap (s : State) (p : Nat) (f : Port → Port) : (s.updPort p f).powerCap = s.powerCap := rfl
@[simp] theorem State.updPort_ledger (s : State) (p : Nat) (f : Port → Port) : (s.updPort p f).ledger = s.ledger := rfl

/-! ### State.updRing -/
@[simp] theorem State.updRing_pending (s : State) (n : Nat) (f : Ring → Ring) : (s.updRing n f).pending = s.pending := rfl
@[simp] theorem State.updRing_fresh (s : State) (n : Nat) (f : Ring → Ring) : (s.updRing n f).fresh = s.fresh := rfl
@[simp] theorem State.updRing_mode (s : State) (n : Nat) (f : Ring → Ring) : (s.updRing n f).mode = s.mode := rfl
@[simp] theorem State.updRing_lastReset (s : State) (n : Nat) (f : Ring → Ring) : (s.updRing n f).lastReset = s.lastReset := rfl
@[simp] theorem State.updRing_noarch (s : State) (n : Nat) (f : Ring → Ring) : (s.updRing n f).noarch = s.noarch := rfl
@[simp] theorem State.updRing_pins (s : State) (n : Nat) (f : Ring → Ring) : (s.updRing n f).pins = s.pins := rfl
@[simp] theorem State.updRing_straps (s : State) (n : Nat) (f : Ring → Ring) : (s.updRing n f).straps = s.straps := rfl
@[simp] theorem State.updRing_fuses (s : State) (n : Nat) (f : Ring → Ring) : (s.updRing n f).fuses = s.fuses := rfl
@[simp] theorem State.updRing_archive (s : State) (n : Nat) (f : Ring → Ring) : (s.updRing n f).archive = s.archive := rfl
@[simp] theorem State.updRing_fw (s : State) (n : Nat) (f : Ring → Ring) : (s.updRing n f).fw = s.fw := rfl
@[simp] theorem State.updRing_settings (s : State) (n : Nat) (f : Ring → Ring) : (s.updRing n f).settings = s.settings := rfl
@[simp] theorem State.updRing_hif (s : State) (n : Nat) (f : Ring → Ring) : (s.updRing n f).hif = s.hif := rfl
@[simp] theorem State.updRing_msix (s : State) (n : Nat) (f : Ring → Ring) : (s.updRing n f).msix = s.msix := rfl
@[simp] theorem State.updRing_pba (s : State) (n : Nat) (f : Ring → Ring) : (s.updRing n f).pba = s.pba := rfl
@[simp] theorem State.updRing_raised (s : State) (n : Nat) (f : Ring → Ring) : (s.updRing n f).raised = s.raised := rfl
@[simp] theorem State.updRing_evq (s : State) (n : Nat) (f : Ring → Ring) : (s.updRing n f).evq = s.evq := rfl
@[simp] theorem State.updRing_hostMem (s : State) (n : Nat) (f : Ring → Ring) : (s.updRing n f).hostMem = s.hostMem := rfl
@[simp] theorem State.updRing_lastRead (s : State) (n : Nat) (f : Ring → Ring) : (s.updRing n f).lastRead = s.lastRead := rfl
@[simp] theorem State.updRing_sideOut (s : State) (n : Nat) (f : Ring → Ring) : (s.updRing n f).sideOut = s.sideOut := rfl
@[simp] theorem State.updRing_ledgerOut (s : State) (n : Nat) (f : Ring → Ring) : (s.updRing n f).ledgerOut = s.ledgerOut := rfl
@[simp] theorem State.updRing_txn (s : State) (n : Nat) (f : Ring → Ring) : (s.updRing n f).txn = s.txn := rfl
@[simp] theorem State.updRing_channels (s : State) (n : Nat) (f : Ring → Ring) : (s.updRing n f).channels = s.channels := rfl
@[simp] theorem State.updRing_rate (s : State) (n : Nat) (f : Ring → Ring) : (s.updRing n f).rate = s.rate := rfl
@[simp] theorem State.updRing_dram (s : State) (n : Nat) (f : Ring → Ring) : (s.updRing n f).dram = s.dram := rfl
@[simp] theorem State.updRing_cleared (s : State) (n : Nat) (f : Ring → Ring) : (s.updRing n f).cleared = s.cleared := rfl
@[simp] theorem State.updRing_retired (s : State) (n : Nat) (f : Ring → Ring) : (s.updRing n f).retired = s.retired := rfl
@[simp] theorem State.updRing_poison (s : State) (n : Nat) (f : Ring → Ring) : (s.updRing n f).poison = s.poison := rfl
@[simp] theorem State.updRing_poisonAt (s : State) (n : Nat) (f : Ring → Ring) : (s.updRing n f).poisonAt = s.poisonAt := rfl
@[simp] theorem State.updRing_ceLines (s : State) (n : Nat) (f : Ring → Ring) : (s.updRing n f).ceLines = s.ceLines := rfl
@[simp] theorem State.updRing_ceFrames (s : State) (n : Nat) (f : Ring → Ring) : (s.updRing n f).ceFrames = s.ceFrames := rfl
@[simp] theorem State.updRing_retireDue (s : State) (n : Nat) (f : Ring → Ring) : (s.updRing n f).retireDue = s.retireDue := rfl
@[simp] theorem State.updRing_spareFrames (s : State) (n : Nat) (f : Ring → Ring) : (s.updRing n f).spareFrames = s.spareFrames := rfl
@[simp] theorem State.updRing_restoring (s : State) (n : Nat) (f : Ring → Ring) : (s.updRing n f).restoring = s.restoring := rfl
@[simp] theorem State.updRing_pages (s : State) (n : Nat) (f : Ring → Ring) : (s.updRing n f).pages = s.pages := rfl
@[simp] theorem State.updRing_caches (s : State) (n : Nat) (f : Ring → Ring) : (s.updRing n f).caches = s.caches := rfl
@[simp] theorem State.updRing_allocs (s : State) (n : Nat) (f : Ring → Ring) : (s.updRing n f).allocs = s.allocs := rfl
@[simp] theorem State.updRing_tensors (s : State) (n : Nat) (f : Ring → Ring) : (s.updRing n f).tensors = s.tensors := rfl
@[simp] theorem State.updRing_owners (s : State) (n : Nat) (f : Ring → Ring) : (s.updRing n f).owners = s.owners := rfl
@[simp] theorem State.updRing_polys (s : State) (n : Nat) (f : Ring → Ring) : (s.updRing n f).polys = s.polys := rfl
@[simp] theorem State.updRing_programs (s : State) (n : Nat) (f : Ring → Ring) : (s.updRing n f).programs = s.programs := rfl
@[simp] theorem State.updRing_jobs (s : State) (n : Nat) (f : Ring → Ring) : (s.updRing n f).jobs = s.jobs := rfl
@[simp] theorem State.updRing_copies (s : State) (n : Nat) (f : Ring → Ring) : (s.updRing n f).copies = s.copies := rfl
@[simp] theorem State.updRing_nextCopy (s : State) (n : Nat) (f : Ring → Ring) : (s.updRing n f).nextCopy = s.nextCopy := rfl
@[simp] theorem State.updRing_dispatches (s : State) (n : Nat) (f : Ring → Ring) : (s.updRing n f).dispatches = s.dispatches := rfl
@[simp] theorem State.updRing_nextOrder (s : State) (n : Nat) (f : Ring → Ring) : (s.updRing n f).nextOrder = s.nextOrder := rfl
@[simp] theorem State.updRing_regions (s : State) (n : Nat) (f : Ring → Ring) : (s.updRing n f).regions = s.regions := rfl
@[simp] theorem State.updRing_cores (s : State) (n : Nat) (f : Ring → Ring) : (s.updRing n f).cores = s.cores := rfl
@[simp] theorem State.updRing_tallies (s : State) (n : Nat) (f : Ring → Ring) : (s.updRing n f).tallies = s.tallies := rfl
@[simp] theorem State.updRing_routes (s : State) (n : Nat) (f : Ring → Ring) : (s.updRing n f).routes = s.routes := rfl
@[simp] theorem State.updRing_sendVer (s : State) (n : Nat) (f : Ring → Ring) : (s.updRing n f).sendVer = s.sendVer := rfl
@[simp] theorem State.updRing_sendRoutes (s : State) (n : Nat) (f : Ring → Ring) : (s.updRing n f).sendRoutes = s.sendRoutes := rfl
@[simp] theorem State.updRing_sendPrev (s : State) (n : Nat) (f : Ring → Ring) : (s.updRing n f).sendPrev = s.sendPrev := rfl
@[simp] theorem State.updRing_ports (s : State) (n : Nat) (f : Ring → Ring) : (s.updRing n f).ports = s.ports := rfl
@[simp] theorem State.updRing_streams (s : State) (n : Nat) (f : Ring → Ring) : (s.updRing n f).streams = s.streams := rfl
@[simp] theorem State.updRing_fabricOut (s : State) (n : Nat) (f : Ring → Ring) : (s.updRing n f).fabricOut = s.fabricOut := rfl
@[simp] theorem State.updRing_ownerHolds (s : State) (n : Nat) (f : Ring → Ring) : (s.updRing n f).ownerHolds = s.ownerHolds := rfl
@[simp] theorem State.updRing_nextReq (s : State) (n : Nat) (f : Ring → Ring) : (s.updRing n f).nextReq = s.nextReq := rfl
@[simp] theorem State.updRing_bridge (s : State) (n : Nat) (f : Ring → Ring) : (s.updRing n f).bridge = s.bridge := rfl
@[simp] theorem State.updRing_scrubAt (s : State) (n : Nat) (f : Ring → Ring) : (s.updRing n f).scrubAt = s.scrubAt := rfl
@[simp] theorem State.updRing_thermal (s : State) (n : Nat) (f : Ring → Ring) : (s.updRing n f).thermal = s.thermal := rfl
@[simp] theorem State.updRing_powerCap (s : State) (n : Nat) (f : Ring → Ring) : (s.updRing n f).powerCap = s.powerCap := rfl
@[simp] theorem State.updRing_ledger (s : State) (n : Nat) (f : Ring → Ring) : (s.updRing n f).ledger = s.ledger := rfl

/-! ### State.updDispatch -/
@[simp] theorem State.updDispatch_pending (s : State) (n : Nat) (f : Dispatch → Dispatch) : (s.updDispatch n f).pending = s.pending := rfl
@[simp] theorem State.updDispatch_fresh (s : State) (n : Nat) (f : Dispatch → Dispatch) : (s.updDispatch n f).fresh = s.fresh := rfl
@[simp] theorem State.updDispatch_mode (s : State) (n : Nat) (f : Dispatch → Dispatch) : (s.updDispatch n f).mode = s.mode := rfl
@[simp] theorem State.updDispatch_lastReset (s : State) (n : Nat) (f : Dispatch → Dispatch) : (s.updDispatch n f).lastReset = s.lastReset := rfl
@[simp] theorem State.updDispatch_noarch (s : State) (n : Nat) (f : Dispatch → Dispatch) : (s.updDispatch n f).noarch = s.noarch := rfl
@[simp] theorem State.updDispatch_pins (s : State) (n : Nat) (f : Dispatch → Dispatch) : (s.updDispatch n f).pins = s.pins := rfl
@[simp] theorem State.updDispatch_straps (s : State) (n : Nat) (f : Dispatch → Dispatch) : (s.updDispatch n f).straps = s.straps := rfl
@[simp] theorem State.updDispatch_fuses (s : State) (n : Nat) (f : Dispatch → Dispatch) : (s.updDispatch n f).fuses = s.fuses := rfl
@[simp] theorem State.updDispatch_archive (s : State) (n : Nat) (f : Dispatch → Dispatch) : (s.updDispatch n f).archive = s.archive := rfl
@[simp] theorem State.updDispatch_fw (s : State) (n : Nat) (f : Dispatch → Dispatch) : (s.updDispatch n f).fw = s.fw := rfl
@[simp] theorem State.updDispatch_settings (s : State) (n : Nat) (f : Dispatch → Dispatch) : (s.updDispatch n f).settings = s.settings := rfl
@[simp] theorem State.updDispatch_hif (s : State) (n : Nat) (f : Dispatch → Dispatch) : (s.updDispatch n f).hif = s.hif := rfl
@[simp] theorem State.updDispatch_msix (s : State) (n : Nat) (f : Dispatch → Dispatch) : (s.updDispatch n f).msix = s.msix := rfl
@[simp] theorem State.updDispatch_pba (s : State) (n : Nat) (f : Dispatch → Dispatch) : (s.updDispatch n f).pba = s.pba := rfl
@[simp] theorem State.updDispatch_raised (s : State) (n : Nat) (f : Dispatch → Dispatch) : (s.updDispatch n f).raised = s.raised := rfl
@[simp] theorem State.updDispatch_rings (s : State) (n : Nat) (f : Dispatch → Dispatch) : (s.updDispatch n f).rings = s.rings := rfl
@[simp] theorem State.updDispatch_evq (s : State) (n : Nat) (f : Dispatch → Dispatch) : (s.updDispatch n f).evq = s.evq := rfl
@[simp] theorem State.updDispatch_hostMem (s : State) (n : Nat) (f : Dispatch → Dispatch) : (s.updDispatch n f).hostMem = s.hostMem := rfl
@[simp] theorem State.updDispatch_lastRead (s : State) (n : Nat) (f : Dispatch → Dispatch) : (s.updDispatch n f).lastRead = s.lastRead := rfl
@[simp] theorem State.updDispatch_sideOut (s : State) (n : Nat) (f : Dispatch → Dispatch) : (s.updDispatch n f).sideOut = s.sideOut := rfl
@[simp] theorem State.updDispatch_ledgerOut (s : State) (n : Nat) (f : Dispatch → Dispatch) : (s.updDispatch n f).ledgerOut = s.ledgerOut := rfl
@[simp] theorem State.updDispatch_txn (s : State) (n : Nat) (f : Dispatch → Dispatch) : (s.updDispatch n f).txn = s.txn := rfl
@[simp] theorem State.updDispatch_channels (s : State) (n : Nat) (f : Dispatch → Dispatch) : (s.updDispatch n f).channels = s.channels := rfl
@[simp] theorem State.updDispatch_rate (s : State) (n : Nat) (f : Dispatch → Dispatch) : (s.updDispatch n f).rate = s.rate := rfl
@[simp] theorem State.updDispatch_dram (s : State) (n : Nat) (f : Dispatch → Dispatch) : (s.updDispatch n f).dram = s.dram := rfl
@[simp] theorem State.updDispatch_cleared (s : State) (n : Nat) (f : Dispatch → Dispatch) : (s.updDispatch n f).cleared = s.cleared := rfl
@[simp] theorem State.updDispatch_retired (s : State) (n : Nat) (f : Dispatch → Dispatch) : (s.updDispatch n f).retired = s.retired := rfl
@[simp] theorem State.updDispatch_poison (s : State) (n : Nat) (f : Dispatch → Dispatch) : (s.updDispatch n f).poison = s.poison := rfl
@[simp] theorem State.updDispatch_poisonAt (s : State) (n : Nat) (f : Dispatch → Dispatch) : (s.updDispatch n f).poisonAt = s.poisonAt := rfl
@[simp] theorem State.updDispatch_ceLines (s : State) (n : Nat) (f : Dispatch → Dispatch) : (s.updDispatch n f).ceLines = s.ceLines := rfl
@[simp] theorem State.updDispatch_ceFrames (s : State) (n : Nat) (f : Dispatch → Dispatch) : (s.updDispatch n f).ceFrames = s.ceFrames := rfl
@[simp] theorem State.updDispatch_retireDue (s : State) (n : Nat) (f : Dispatch → Dispatch) : (s.updDispatch n f).retireDue = s.retireDue := rfl
@[simp] theorem State.updDispatch_spareFrames (s : State) (n : Nat) (f : Dispatch → Dispatch) : (s.updDispatch n f).spareFrames = s.spareFrames := rfl
@[simp] theorem State.updDispatch_restoring (s : State) (n : Nat) (f : Dispatch → Dispatch) : (s.updDispatch n f).restoring = s.restoring := rfl
@[simp] theorem State.updDispatch_pages (s : State) (n : Nat) (f : Dispatch → Dispatch) : (s.updDispatch n f).pages = s.pages := rfl
@[simp] theorem State.updDispatch_caches (s : State) (n : Nat) (f : Dispatch → Dispatch) : (s.updDispatch n f).caches = s.caches := rfl
@[simp] theorem State.updDispatch_allocs (s : State) (n : Nat) (f : Dispatch → Dispatch) : (s.updDispatch n f).allocs = s.allocs := rfl
@[simp] theorem State.updDispatch_tensors (s : State) (n : Nat) (f : Dispatch → Dispatch) : (s.updDispatch n f).tensors = s.tensors := rfl
@[simp] theorem State.updDispatch_owners (s : State) (n : Nat) (f : Dispatch → Dispatch) : (s.updDispatch n f).owners = s.owners := rfl
@[simp] theorem State.updDispatch_polys (s : State) (n : Nat) (f : Dispatch → Dispatch) : (s.updDispatch n f).polys = s.polys := rfl
@[simp] theorem State.updDispatch_programs (s : State) (n : Nat) (f : Dispatch → Dispatch) : (s.updDispatch n f).programs = s.programs := rfl
@[simp] theorem State.updDispatch_jobs (s : State) (n : Nat) (f : Dispatch → Dispatch) : (s.updDispatch n f).jobs = s.jobs := rfl
@[simp] theorem State.updDispatch_copies (s : State) (n : Nat) (f : Dispatch → Dispatch) : (s.updDispatch n f).copies = s.copies := rfl
@[simp] theorem State.updDispatch_nextCopy (s : State) (n : Nat) (f : Dispatch → Dispatch) : (s.updDispatch n f).nextCopy = s.nextCopy := rfl
@[simp] theorem State.updDispatch_nextOrder (s : State) (n : Nat) (f : Dispatch → Dispatch) : (s.updDispatch n f).nextOrder = s.nextOrder := rfl
@[simp] theorem State.updDispatch_regions (s : State) (n : Nat) (f : Dispatch → Dispatch) : (s.updDispatch n f).regions = s.regions := rfl
@[simp] theorem State.updDispatch_cores (s : State) (n : Nat) (f : Dispatch → Dispatch) : (s.updDispatch n f).cores = s.cores := rfl
@[simp] theorem State.updDispatch_tallies (s : State) (n : Nat) (f : Dispatch → Dispatch) : (s.updDispatch n f).tallies = s.tallies := rfl
@[simp] theorem State.updDispatch_routes (s : State) (n : Nat) (f : Dispatch → Dispatch) : (s.updDispatch n f).routes = s.routes := rfl
@[simp] theorem State.updDispatch_sendVer (s : State) (n : Nat) (f : Dispatch → Dispatch) : (s.updDispatch n f).sendVer = s.sendVer := rfl
@[simp] theorem State.updDispatch_sendRoutes (s : State) (n : Nat) (f : Dispatch → Dispatch) : (s.updDispatch n f).sendRoutes = s.sendRoutes := rfl
@[simp] theorem State.updDispatch_sendPrev (s : State) (n : Nat) (f : Dispatch → Dispatch) : (s.updDispatch n f).sendPrev = s.sendPrev := rfl
@[simp] theorem State.updDispatch_ports (s : State) (n : Nat) (f : Dispatch → Dispatch) : (s.updDispatch n f).ports = s.ports := rfl
@[simp] theorem State.updDispatch_streams (s : State) (n : Nat) (f : Dispatch → Dispatch) : (s.updDispatch n f).streams = s.streams := rfl
@[simp] theorem State.updDispatch_fabricOut (s : State) (n : Nat) (f : Dispatch → Dispatch) : (s.updDispatch n f).fabricOut = s.fabricOut := rfl
@[simp] theorem State.updDispatch_ownerHolds (s : State) (n : Nat) (f : Dispatch → Dispatch) : (s.updDispatch n f).ownerHolds = s.ownerHolds := rfl
@[simp] theorem State.updDispatch_nextReq (s : State) (n : Nat) (f : Dispatch → Dispatch) : (s.updDispatch n f).nextReq = s.nextReq := rfl
@[simp] theorem State.updDispatch_bridge (s : State) (n : Nat) (f : Dispatch → Dispatch) : (s.updDispatch n f).bridge = s.bridge := rfl
@[simp] theorem State.updDispatch_scrubAt (s : State) (n : Nat) (f : Dispatch → Dispatch) : (s.updDispatch n f).scrubAt = s.scrubAt := rfl
@[simp] theorem State.updDispatch_thermal (s : State) (n : Nat) (f : Dispatch → Dispatch) : (s.updDispatch n f).thermal = s.thermal := rfl
@[simp] theorem State.updDispatch_powerCap (s : State) (n : Nat) (f : Dispatch → Dispatch) : (s.updDispatch n f).powerCap = s.powerCap := rfl
@[simp] theorem State.updDispatch_ledger (s : State) (n : Nat) (f : Dispatch → Dispatch) : (s.updDispatch n f).ledger = s.ledger := rfl

/-! ### State.updCounter -/
@[simp] theorem State.updCounter_pending (s : State) (r k : Nat) (f : Counter → Counter) : (s.updCounter r k f).pending = s.pending := rfl
@[simp] theorem State.updCounter_fresh (s : State) (r k : Nat) (f : Counter → Counter) : (s.updCounter r k f).fresh = s.fresh := rfl
@[simp] theorem State.updCounter_mode (s : State) (r k : Nat) (f : Counter → Counter) : (s.updCounter r k f).mode = s.mode := rfl
@[simp] theorem State.updCounter_lastReset (s : State) (r k : Nat) (f : Counter → Counter) : (s.updCounter r k f).lastReset = s.lastReset := rfl
@[simp] theorem State.updCounter_noarch (s : State) (r k : Nat) (f : Counter → Counter) : (s.updCounter r k f).noarch = s.noarch := rfl
@[simp] theorem State.updCounter_pins (s : State) (r k : Nat) (f : Counter → Counter) : (s.updCounter r k f).pins = s.pins := rfl
@[simp] theorem State.updCounter_straps (s : State) (r k : Nat) (f : Counter → Counter) : (s.updCounter r k f).straps = s.straps := rfl
@[simp] theorem State.updCounter_fuses (s : State) (r k : Nat) (f : Counter → Counter) : (s.updCounter r k f).fuses = s.fuses := rfl
@[simp] theorem State.updCounter_archive (s : State) (r k : Nat) (f : Counter → Counter) : (s.updCounter r k f).archive = s.archive := rfl
@[simp] theorem State.updCounter_fw (s : State) (r k : Nat) (f : Counter → Counter) : (s.updCounter r k f).fw = s.fw := rfl
@[simp] theorem State.updCounter_settings (s : State) (r k : Nat) (f : Counter → Counter) : (s.updCounter r k f).settings = s.settings := rfl
@[simp] theorem State.updCounter_hif (s : State) (r k : Nat) (f : Counter → Counter) : (s.updCounter r k f).hif = s.hif := rfl
@[simp] theorem State.updCounter_msix (s : State) (r k : Nat) (f : Counter → Counter) : (s.updCounter r k f).msix = s.msix := rfl
@[simp] theorem State.updCounter_pba (s : State) (r k : Nat) (f : Counter → Counter) : (s.updCounter r k f).pba = s.pba := rfl
@[simp] theorem State.updCounter_raised (s : State) (r k : Nat) (f : Counter → Counter) : (s.updCounter r k f).raised = s.raised := rfl
@[simp] theorem State.updCounter_rings (s : State) (r k : Nat) (f : Counter → Counter) : (s.updCounter r k f).rings = s.rings := rfl
@[simp] theorem State.updCounter_evq (s : State) (r k : Nat) (f : Counter → Counter) : (s.updCounter r k f).evq = s.evq := rfl
@[simp] theorem State.updCounter_hostMem (s : State) (r k : Nat) (f : Counter → Counter) : (s.updCounter r k f).hostMem = s.hostMem := rfl
@[simp] theorem State.updCounter_lastRead (s : State) (r k : Nat) (f : Counter → Counter) : (s.updCounter r k f).lastRead = s.lastRead := rfl
@[simp] theorem State.updCounter_sideOut (s : State) (r k : Nat) (f : Counter → Counter) : (s.updCounter r k f).sideOut = s.sideOut := rfl
@[simp] theorem State.updCounter_ledgerOut (s : State) (r k : Nat) (f : Counter → Counter) : (s.updCounter r k f).ledgerOut = s.ledgerOut := rfl
@[simp] theorem State.updCounter_txn (s : State) (r k : Nat) (f : Counter → Counter) : (s.updCounter r k f).txn = s.txn := rfl
@[simp] theorem State.updCounter_channels (s : State) (r k : Nat) (f : Counter → Counter) : (s.updCounter r k f).channels = s.channels := rfl
@[simp] theorem State.updCounter_rate (s : State) (r k : Nat) (f : Counter → Counter) : (s.updCounter r k f).rate = s.rate := rfl
@[simp] theorem State.updCounter_dram (s : State) (r k : Nat) (f : Counter → Counter) : (s.updCounter r k f).dram = s.dram := rfl
@[simp] theorem State.updCounter_cleared (s : State) (r k : Nat) (f : Counter → Counter) : (s.updCounter r k f).cleared = s.cleared := rfl
@[simp] theorem State.updCounter_retired (s : State) (r k : Nat) (f : Counter → Counter) : (s.updCounter r k f).retired = s.retired := rfl
@[simp] theorem State.updCounter_poison (s : State) (r k : Nat) (f : Counter → Counter) : (s.updCounter r k f).poison = s.poison := rfl
@[simp] theorem State.updCounter_poisonAt (s : State) (r k : Nat) (f : Counter → Counter) : (s.updCounter r k f).poisonAt = s.poisonAt := rfl
@[simp] theorem State.updCounter_ceLines (s : State) (r k : Nat) (f : Counter → Counter) : (s.updCounter r k f).ceLines = s.ceLines := rfl
@[simp] theorem State.updCounter_ceFrames (s : State) (r k : Nat) (f : Counter → Counter) : (s.updCounter r k f).ceFrames = s.ceFrames := rfl
@[simp] theorem State.updCounter_retireDue (s : State) (r k : Nat) (f : Counter → Counter) : (s.updCounter r k f).retireDue = s.retireDue := rfl
@[simp] theorem State.updCounter_spareFrames (s : State) (r k : Nat) (f : Counter → Counter) : (s.updCounter r k f).spareFrames = s.spareFrames := rfl
@[simp] theorem State.updCounter_restoring (s : State) (r k : Nat) (f : Counter → Counter) : (s.updCounter r k f).restoring = s.restoring := rfl
@[simp] theorem State.updCounter_pages (s : State) (r k : Nat) (f : Counter → Counter) : (s.updCounter r k f).pages = s.pages := rfl
@[simp] theorem State.updCounter_caches (s : State) (r k : Nat) (f : Counter → Counter) : (s.updCounter r k f).caches = s.caches := rfl
@[simp] theorem State.updCounter_allocs (s : State) (r k : Nat) (f : Counter → Counter) : (s.updCounter r k f).allocs = s.allocs := rfl
@[simp] theorem State.updCounter_tensors (s : State) (r k : Nat) (f : Counter → Counter) : (s.updCounter r k f).tensors = s.tensors := rfl
@[simp] theorem State.updCounter_owners (s : State) (r k : Nat) (f : Counter → Counter) : (s.updCounter r k f).owners = s.owners := rfl
@[simp] theorem State.updCounter_polys (s : State) (r k : Nat) (f : Counter → Counter) : (s.updCounter r k f).polys = s.polys := rfl
@[simp] theorem State.updCounter_programs (s : State) (r k : Nat) (f : Counter → Counter) : (s.updCounter r k f).programs = s.programs := rfl
@[simp] theorem State.updCounter_jobs (s : State) (r k : Nat) (f : Counter → Counter) : (s.updCounter r k f).jobs = s.jobs := rfl
@[simp] theorem State.updCounter_copies (s : State) (r k : Nat) (f : Counter → Counter) : (s.updCounter r k f).copies = s.copies := rfl
@[simp] theorem State.updCounter_nextCopy (s : State) (r k : Nat) (f : Counter → Counter) : (s.updCounter r k f).nextCopy = s.nextCopy := rfl
@[simp] theorem State.updCounter_dispatches (s : State) (r k : Nat) (f : Counter → Counter) : (s.updCounter r k f).dispatches = s.dispatches := rfl
@[simp] theorem State.updCounter_nextOrder (s : State) (r k : Nat) (f : Counter → Counter) : (s.updCounter r k f).nextOrder = s.nextOrder := rfl
@[simp] theorem State.updCounter_cores (s : State) (r k : Nat) (f : Counter → Counter) : (s.updCounter r k f).cores = s.cores := rfl
@[simp] theorem State.updCounter_tallies (s : State) (r k : Nat) (f : Counter → Counter) : (s.updCounter r k f).tallies = s.tallies := rfl
@[simp] theorem State.updCounter_routes (s : State) (r k : Nat) (f : Counter → Counter) : (s.updCounter r k f).routes = s.routes := rfl
@[simp] theorem State.updCounter_sendVer (s : State) (r k : Nat) (f : Counter → Counter) : (s.updCounter r k f).sendVer = s.sendVer := rfl
@[simp] theorem State.updCounter_sendRoutes (s : State) (r k : Nat) (f : Counter → Counter) : (s.updCounter r k f).sendRoutes = s.sendRoutes := rfl
@[simp] theorem State.updCounter_sendPrev (s : State) (r k : Nat) (f : Counter → Counter) : (s.updCounter r k f).sendPrev = s.sendPrev := rfl
@[simp] theorem State.updCounter_ports (s : State) (r k : Nat) (f : Counter → Counter) : (s.updCounter r k f).ports = s.ports := rfl
@[simp] theorem State.updCounter_streams (s : State) (r k : Nat) (f : Counter → Counter) : (s.updCounter r k f).streams = s.streams := rfl
@[simp] theorem State.updCounter_fabricOut (s : State) (r k : Nat) (f : Counter → Counter) : (s.updCounter r k f).fabricOut = s.fabricOut := rfl
@[simp] theorem State.updCounter_ownerHolds (s : State) (r k : Nat) (f : Counter → Counter) : (s.updCounter r k f).ownerHolds = s.ownerHolds := rfl
@[simp] theorem State.updCounter_nextReq (s : State) (r k : Nat) (f : Counter → Counter) : (s.updCounter r k f).nextReq = s.nextReq := rfl
@[simp] theorem State.updCounter_bridge (s : State) (r k : Nat) (f : Counter → Counter) : (s.updCounter r k f).bridge = s.bridge := rfl
@[simp] theorem State.updCounter_scrubAt (s : State) (r k : Nat) (f : Counter → Counter) : (s.updCounter r k f).scrubAt = s.scrubAt := rfl
@[simp] theorem State.updCounter_thermal (s : State) (r k : Nat) (f : Counter → Counter) : (s.updCounter r k f).thermal = s.thermal := rfl
@[simp] theorem State.updCounter_powerCap (s : State) (r k : Nat) (f : Counter → Counter) : (s.updCounter r k f).powerCap = s.powerCap := rfl
@[simp] theorem State.updCounter_ledger (s : State) (r k : Nat) (f : Counter → Counter) : (s.updCounter r k f).ledger = s.ledger := rfl

/-! ### State.count -/
@[simp] theorem State.count_pending (s : State) (i n : Nat) : (s.count i n).pending = s.pending := rfl
@[simp] theorem State.count_fresh (s : State) (i n : Nat) : (s.count i n).fresh = s.fresh := rfl
@[simp] theorem State.count_mode (s : State) (i n : Nat) : (s.count i n).mode = s.mode := rfl
@[simp] theorem State.count_lastReset (s : State) (i n : Nat) : (s.count i n).lastReset = s.lastReset := rfl
@[simp] theorem State.count_noarch (s : State) (i n : Nat) : (s.count i n).noarch = s.noarch := rfl
@[simp] theorem State.count_pins (s : State) (i n : Nat) : (s.count i n).pins = s.pins := rfl
@[simp] theorem State.count_straps (s : State) (i n : Nat) : (s.count i n).straps = s.straps := rfl
@[simp] theorem State.count_fuses (s : State) (i n : Nat) : (s.count i n).fuses = s.fuses := rfl
@[simp] theorem State.count_archive (s : State) (i n : Nat) : (s.count i n).archive = s.archive := rfl
@[simp] theorem State.count_fw (s : State) (i n : Nat) : (s.count i n).fw = s.fw := rfl
@[simp] theorem State.count_settings (s : State) (i n : Nat) : (s.count i n).settings = s.settings := rfl
@[simp] theorem State.count_hif (s : State) (i n : Nat) : (s.count i n).hif = s.hif := rfl
@[simp] theorem State.count_msix (s : State) (i n : Nat) : (s.count i n).msix = s.msix := rfl
@[simp] theorem State.count_pba (s : State) (i n : Nat) : (s.count i n).pba = s.pba := rfl
@[simp] theorem State.count_raised (s : State) (i n : Nat) : (s.count i n).raised = s.raised := rfl
@[simp] theorem State.count_rings (s : State) (i n : Nat) : (s.count i n).rings = s.rings := rfl
@[simp] theorem State.count_evq (s : State) (i n : Nat) : (s.count i n).evq = s.evq := rfl
@[simp] theorem State.count_hostMem (s : State) (i n : Nat) : (s.count i n).hostMem = s.hostMem := rfl
@[simp] theorem State.count_lastRead (s : State) (i n : Nat) : (s.count i n).lastRead = s.lastRead := rfl
@[simp] theorem State.count_sideOut (s : State) (i n : Nat) : (s.count i n).sideOut = s.sideOut := rfl
@[simp] theorem State.count_ledgerOut (s : State) (i n : Nat) : (s.count i n).ledgerOut = s.ledgerOut := rfl
@[simp] theorem State.count_txn (s : State) (i n : Nat) : (s.count i n).txn = s.txn := rfl
@[simp] theorem State.count_channels (s : State) (i n : Nat) : (s.count i n).channels = s.channels := rfl
@[simp] theorem State.count_rate (s : State) (i n : Nat) : (s.count i n).rate = s.rate := rfl
@[simp] theorem State.count_dram (s : State) (i n : Nat) : (s.count i n).dram = s.dram := rfl
@[simp] theorem State.count_cleared (s : State) (i n : Nat) : (s.count i n).cleared = s.cleared := rfl
@[simp] theorem State.count_retired (s : State) (i n : Nat) : (s.count i n).retired = s.retired := rfl
@[simp] theorem State.count_poison (s : State) (i n : Nat) : (s.count i n).poison = s.poison := rfl
@[simp] theorem State.count_poisonAt (s : State) (i n : Nat) : (s.count i n).poisonAt = s.poisonAt := rfl
@[simp] theorem State.count_ceLines (s : State) (i n : Nat) : (s.count i n).ceLines = s.ceLines := rfl
@[simp] theorem State.count_ceFrames (s : State) (i n : Nat) : (s.count i n).ceFrames = s.ceFrames := rfl
@[simp] theorem State.count_retireDue (s : State) (i n : Nat) : (s.count i n).retireDue = s.retireDue := rfl
@[simp] theorem State.count_spareFrames (s : State) (i n : Nat) : (s.count i n).spareFrames = s.spareFrames := rfl
@[simp] theorem State.count_restoring (s : State) (i n : Nat) : (s.count i n).restoring = s.restoring := rfl
@[simp] theorem State.count_pages (s : State) (i n : Nat) : (s.count i n).pages = s.pages := rfl
@[simp] theorem State.count_caches (s : State) (i n : Nat) : (s.count i n).caches = s.caches := rfl
@[simp] theorem State.count_allocs (s : State) (i n : Nat) : (s.count i n).allocs = s.allocs := rfl
@[simp] theorem State.count_tensors (s : State) (i n : Nat) : (s.count i n).tensors = s.tensors := rfl
@[simp] theorem State.count_owners (s : State) (i n : Nat) : (s.count i n).owners = s.owners := rfl
@[simp] theorem State.count_polys (s : State) (i n : Nat) : (s.count i n).polys = s.polys := rfl
@[simp] theorem State.count_programs (s : State) (i n : Nat) : (s.count i n).programs = s.programs := rfl
@[simp] theorem State.count_jobs (s : State) (i n : Nat) : (s.count i n).jobs = s.jobs := rfl
@[simp] theorem State.count_copies (s : State) (i n : Nat) : (s.count i n).copies = s.copies := rfl
@[simp] theorem State.count_nextCopy (s : State) (i n : Nat) : (s.count i n).nextCopy = s.nextCopy := rfl
@[simp] theorem State.count_dispatches (s : State) (i n : Nat) : (s.count i n).dispatches = s.dispatches := rfl
@[simp] theorem State.count_nextOrder (s : State) (i n : Nat) : (s.count i n).nextOrder = s.nextOrder := rfl
@[simp] theorem State.count_regions (s : State) (i n : Nat) : (s.count i n).regions = s.regions := rfl
@[simp] theorem State.count_cores (s : State) (i n : Nat) : (s.count i n).cores = s.cores := rfl
@[simp] theorem State.count_tallies (s : State) (i n : Nat) : (s.count i n).tallies = s.tallies := rfl
@[simp] theorem State.count_routes (s : State) (i n : Nat) : (s.count i n).routes = s.routes := rfl
@[simp] theorem State.count_sendVer (s : State) (i n : Nat) : (s.count i n).sendVer = s.sendVer := rfl
@[simp] theorem State.count_sendRoutes (s : State) (i n : Nat) : (s.count i n).sendRoutes = s.sendRoutes := rfl
@[simp] theorem State.count_sendPrev (s : State) (i n : Nat) : (s.count i n).sendPrev = s.sendPrev := rfl
@[simp] theorem State.count_ports (s : State) (i n : Nat) : (s.count i n).ports = s.ports := rfl
@[simp] theorem State.count_streams (s : State) (i n : Nat) : (s.count i n).streams = s.streams := rfl
@[simp] theorem State.count_fabricOut (s : State) (i n : Nat) : (s.count i n).fabricOut = s.fabricOut := rfl
@[simp] theorem State.count_ownerHolds (s : State) (i n : Nat) : (s.count i n).ownerHolds = s.ownerHolds := rfl
@[simp] theorem State.count_nextReq (s : State) (i n : Nat) : (s.count i n).nextReq = s.nextReq := rfl
@[simp] theorem State.count_bridge (s : State) (i n : Nat) : (s.count i n).bridge = s.bridge := rfl
@[simp] theorem State.count_scrubAt (s : State) (i n : Nat) : (s.count i n).scrubAt = s.scrubAt := rfl
@[simp] theorem State.count_thermal (s : State) (i n : Nat) : (s.count i n).thermal = s.thermal := rfl
@[simp] theorem State.count_powerCap (s : State) (i n : Nat) : (s.count i n).powerCap = s.powerCap := rfl

/-! ### Lists of units -/

@[simp] theorem length_updateAt {α : Type} (l : List α) (i : Nat) (f : α → α) : (updateAt l i f).length = l.length := by
  induction l generalizing i with
  | nil => rfl
  | cons a r ih => cases i <;> simp [updateAt, ih]

/-- An element after one element was changed. -/
theorem getElem?_updateAt {α : Type} (l : List α) (i j : Nat) (f : α → α) :
    (updateAt l i f)[j]? = if i = j then l[j]?.map f else l[j]? := by
  induction l generalizing i j with
  | nil => simp [updateAt]
  | cons a r ih =>
    cases i with
    | zero => cases j <;> simp [updateAt]
    | succ i => cases j with
      | zero => simp [updateAt]
      | succ j => simp [updateAt, ih]

/-- Changing one element twice. -/
theorem updateAt_updateAt {α : Type} (l : List α) (i : Nat) (f g : α → α) : updateAt (updateAt l i f) i g = updateAt l i (g ∘ f) := by
  induction l generalizing i with
  | nil => rfl
  | cons a r ih => cases i <;> simp [updateAt, ih]

/-- Changing one element by functions that agree on it. -/
theorem updateAt_congr {α : Type} (l : List α) (i : Nat) (f g : α → α) (h : ∀ a, l[i]? = some a → f a = g a) :
    updateAt l i f = updateAt l i g := by
  induction l generalizing i with
  | nil => rfl
  | cons a r ih =>
    cases i with
    | zero => simp [updateAt, h a (by simp)]
    | succ i => simp only [updateAt]; rw [ih i (fun b hb => h b (by simpa using hb))]

/-- An element changed by a function that leaves it alone. -/
theorem updateAt_id {α : Type} (l : List α) (i : Nat) : updateAt l i (fun a => a) = l := by
  induction l generalizing i with
  | nil => rfl
  | cons a r ih => cases i <;> simp [updateAt, ih]

@[simp] theorem State.updCore_cores_length (s : State) (c : Nat) (f : Core → Core) : (s.updCore c f).cores.length = s.cores.length := by
  simp [State.updCore]

/-- The core that was changed. -/
theorem State.core_updCore_self (s : State) (c : Nat) (f : Core → Core) (h : c < s.cores.length) : (s.updCore c f).core c = f (s.core c) := by
  simp [State.core, State.updCore, getElem?_updateAt, List.getElem?_eq_getElem h]

/-- Every other core. -/
theorem State.core_updCore_ne (s : State) (c d : Nat) (f : Core → Core) (h : d ≠ c) : (s.updCore c f).core d = s.core d := by
  simp [State.core, State.updCore, getElem?_updateAt, Ne.symm h]

/-- A core changed twice. -/
theorem State.updCore_updCore (s : State) (c : Nat) (f g : Core → Core) : (s.updCore c f).updCore c g = s.updCore c (g ∘ f) := by
  simp [State.updCore, updateAt_updateAt]

/-- A core changed by functions that agree on it. -/
theorem State.updCore_congr (s : State) (c : Nat) (f g : Core → Core) (h : f (s.core c) = g (s.core c)) :
    s.updCore c f = s.updCore c g := by
  unfold State.updCore
  rw [updateAt_congr s.cores c f g (fun a ha => by simpa [State.core, ha] using h)]

/-- The region that was changed. -/
theorem State.region_updRegion_self (s : State) (r : Nat) (f : Region → Region) (h : r < s.regions.length) :
    (s.updRegion r f).region r = f (s.region r) := by
  simp [State.region, State.updRegion, getElem?_updateAt, List.getElem?_eq_getElem h]

/-- Every other region. -/
theorem State.region_updRegion_ne (s : State) (r q : Nat) (f : Region → Region) (h : q ≠ r) : (s.updRegion r f).region q = s.region q := by
  simp [State.region, State.updRegion, getElem?_updateAt, Ne.symm h]

@[simp] theorem State.core_updRegion (s : State) (r c : Nat) (f : Region → Region) : (s.updRegion r f).core c = s.core c := rfl
@[simp] theorem State.core_updCounter (s : State) (r k c : Nat) (f : Counter → Counter) : (s.updCounter r k f).core c = s.core c := rfl
@[simp] theorem State.core_updDispatch (s : State) (n c : Nat) (f : Dispatch → Dispatch) : (s.updDispatch n f).core c = s.core c := rfl
@[simp] theorem State.core_updRing (s : State) (n c : Nat) (f : Ring → Ring) : (s.updRing n f).core c = s.core c := rfl
@[simp] theorem State.core_count (s : State) (i n c : Nat) : (s.count i n).core c = s.core c := rfl

/-! ### Tables by key -/

/-- The value of a key that was set. -/
theorem lookupK_insertK_self {α : Type} (k : Nat) (v : α) (l : List (Nat × α)) : lookupK k (insertK k v l) = some v := by
  induction l with
  | nil => simp [insertK, lookupK]
  | cons p r ih =>
    obtain ⟨j, u⟩ := p
    simp only [insertK]
    split
    · simp [lookupK]
    · split
      · simp [lookupK]
      · rename_i h; simp [lookupK, Ne.symm h, ih]

/-- The value of another key. -/
theorem lookupK_insertK_ne {α : Type} (k j : Nat) (v : α) (l : List (Nat × α)) (h : j ≠ k) : lookupK j (insertK k v l) = lookupK j l := by
  induction l with
  | nil => simp [insertK, lookupK, Ne.symm h]
  | cons p r ih =>
    obtain ⟨i, u⟩ := p
    simp only [insertK]
    split
    · simp [lookupK, Ne.symm h]
    · split
      · rename_i e; subst e; simp [lookupK, Ne.symm h]
      · simp only [lookupK, ih]

/-- The value of a key whose value was changed. -/
theorem lookupK_updK_self {α : Type} (k : Nat) (f : α → α) (l : List (Nat × α)) : lookupK k (updK k f l) = (lookupK k l).map f := by
  induction l with
  | nil => rfl
  | cons p r ih =>
    obtain ⟨j, u⟩ := p
    simp only [updK, List.map_cons] at *
    by_cases h : j = k <;> simp [lookupK, h, ih]

/-- The value of another key. -/
theorem lookupK_updK_ne {α : Type} (k j : Nat) (f : α → α) (l : List (Nat × α)) (h : j ≠ k) : lookupK j (updK k f l) = lookupK j l := by
  induction l with
  | nil => rfl
  | cons p r ih =>
    obtain ⟨i, u⟩ := p
    simp only [updK, List.map_cons] at *
    by_cases e : i = k
    · subst e; simp [lookupK, Ne.symm h, ih]
    · simp [lookupK, e, ih]

/-- A key taken out is not found. -/
theorem lookupK_eraseK_self {α : Type} (k : Nat) (l : List (Nat × α)) : lookupK k (eraseK k l) = none := by
  induction l with
  | nil => rfl
  | cons p r ih =>
    obtain ⟨j, u⟩ := p
    by_cases h : j = k <;> simp_all [eraseK, lookupK]

/-- The value of another key when one is taken out. -/
theorem lookupK_eraseK_ne {α : Type} (k j : Nat) (l : List (Nat × α)) (h : j ≠ k) : lookupK j (eraseK k l) = lookupK j l := by
  induction l with
  | nil => rfl
  | cons p r ih =>
    obtain ⟨i, u⟩ := p
    by_cases e : i = k
    · subst e; simp_all [eraseK, lookupK, Ne.symm h]
    · by_cases e2 : i = j <;> simp_all [eraseK, lookupK]


end Sys2Proof.Machine
end

