-- ==== Sys2Proof/Laws/Ops.lean ====
section
/-! SUPPORT. Laws of the named operations: what an event, an interrupt, a count, a read or write of Hokuec, a reply and the reading of a packet
can change. -/
namespace Sys2Proof.Machine

/-- An event changes the event queue only. -/
theorem State.event_eq (s : State) (e : Event) : s.event e = { s with evq := (s.event e).evq } := by
  unfold State.event; split <;> split <;> first | rfl | (split <;> rfl)

@[simp] theorem State.core_event (s : State) (e : Event) (c : Nat) : (s.event e).core c = s.core c := by rw [State.event_eq]; rfl
@[simp] theorem State.event_cores (s : State) (e : Event) : (s.event e).cores = s.cores := by rw [State.event_eq]

/-- A raised vector changes the pending bits, the vectors raised and the ledger only. -/
theorem State.raise_eq (s : State) (v : Nat) :
    s.raise v = { s with pba := (s.raise v).pba, raised := (s.raise v).raised, ledger := (s.raise v).ledger } := by
  unfold State.raise; split <;> rfl

/-- A piece written changes the ledger, the memories and the poison only. -/
theorem State.writePiece_eq (s : State) (a : Nat) (bs : List Byte) :
    s.writePiece a bs = { s with ledger := (s.writePiece a bs).ledger, hostMem := (s.writePiece a bs).hostMem,
                                 dram := (s.writePiece a bs).dram, poison := (s.writePiece a bs).poison } := by
  unfold State.writePiece
  split
  · rfl
  · simp only []; split <;> rfl

/-- A translation changes the ledger, the caches and the number of free values only. -/
theorem State.translate_eq (s : State) (r : Option Nat) (a : Nat) :
    s.translate r a = { s with ledger := (s.translate r a).ledger, fresh := (s.translate r a).fresh, caches := (s.translate r a).caches } := by
  simp only [State.translate]
  cases lookupK (a / 65536) s.pages <;> rfl

/-- A write changes the ledger, the memories, the poison, the caches and the number of free values only. -/
theorem State.writeVA_eq (s : State) (a : Nat) (bs : List Byte) (r : Option Nat) :
    s.writeVA a bs r = { s with ledger := (s.writeVA a bs r).ledger, hostMem := (s.writeVA a bs r).hostMem, dram := (s.writeVA a bs r).dram,
                                poison := (s.writeVA a bs r).poison, fresh := (s.writeVA a bs r).fresh,
                                caches := (s.writeVA a bs r).caches } := by
  unfold State.writeVA
  generalize pagePieces a bs.length = l
  induction l generalizing s with
  | nil => rfl
  | cons p l ih =>
    rw [List.foldl_cons]
    refine (ih _).trans ?_
    rw [State.writePiece_eq (s.translate r p.1) p.1, State.translate_eq s r p.1]

/-- A write by Hokuec changes the ledger, the memories, the poison, the caches and the number of free values only. -/
theorem State.sysWrite_eq (s : State) (a : W64) (bs : List Byte) :
    s.sysWrite a bs = { s with ledger := (s.sysWrite a bs).ledger, hostMem := (s.sysWrite a bs).hostMem, dram := (s.sysWrite a bs).dram,
                               poison := (s.sysWrite a bs).poison, fresh := (s.sysWrite a bs).fresh, caches := (s.sysWrite a bs).caches } := by
  unfold State.sysWrite
  split
  · rfl
  · split
    · rw [State.writeVA_eq]
    · rfl

/-- Counting a read changes the ledger only. -/
theorem State.countRead_eq (s : State) (a n : Nat) : s.countRead a n = { s with ledger := (s.countRead a n).ledger } := by
  unfold State.countRead
  split
  · rfl
  · split <;> rfl

/-- A read counted with its translations changes the ledger, the caches and the number of free values only. -/
theorem State.touch_eq (s : State) (a n : Nat) (r : Option Nat) :
    s.touch a n r = { s with ledger := (s.touch a n r).ledger, fresh := (s.touch a n r).fresh, caches := (s.touch a n r).caches } := by
  unfold State.touch
  generalize pagePieces a n = l
  induction l generalizing s with
  | nil => rfl
  | cons p l ih =>
    rw [List.foldl_cons]
    refine (ih _).trans ?_
    rw [State.countRead_eq (s.translate r p.1) p.1, State.translate_eq s r p.1]

/-- Counting a read by Hokuec changes the ledger, the caches and the number of free values only. -/
theorem State.sysTouch_eq (s : State) (a : W64) (n : Nat) :
    s.sysTouch a n = { s with ledger := (s.sysTouch a n).ledger, fresh := (s.sysTouch a n).fresh, caches := (s.sysTouch a n).caches } := by
  unfold State.sysTouch
  split
  · rfl
  · rw [State.touch_eq]

/-- Reading a packet changes its ring, the ledger, the caches and the number of free values only. -/
theorem State.consume_eq (s : State) (src : Src) (p : Packet) :
    s.consume src p = { s with rings := (s.consume src p).rings, ledger := (s.consume src p).ledger, fresh := (s.consume src p).fresh,
                               caches := (s.consume src p).caches } := by
  unfold State.consume
  split
  · split
    · rfl
    · simp only [State.updRing]; rw [State.sysTouch_eq]
  · rfl

theorem SameButIo.refl (s : State) : SameButIo s s := rfl

theorem SameButIo.trans {s t u : State} (h : SameButIo s t) (k : SameButIo t u) : SameButIo s u := by
  unfold SameButIo at *; rw [k, h]

theorem State.sameButIo_raise (s : State) (v : Nat) : SameButIo s (s.raise v) := by
  unfold SameButIo; rw [State.raise_eq]

theorem State.sameButIo_sysWrite (s : State) (a : W64) (bs : List Byte) : SameButIo s (s.sysWrite a bs) := by
  unfold SameButIo; rw [State.sysWrite_eq]

theorem State.sameButIo_consume (s : State) (src : Src) (p : Packet) : SameButIo s (s.consume src p) := by
  unfold SameButIo; rw [State.consume_eq]

theorem State.sameButIo_updRing (s : State) (n : Nat) (f : Ring → Ring) : SameButIo s (s.updRing n f) := rfl

/-- A reply on a ring touches nothing but what a reply can. -/
theorem State.sameButIo_replyRing (s : State) (n op tag : Nat) (irq : Bool) (r : Rep) : SameButIo s (s.replyRing n op tag irq r) := by
  unfold State.replyRing
  split
  · exact .refl s
  · split
    · exact .refl s
    · simp only []
      have key : ∀ x, SameButIo s x → ∀ g k v f, SameButIo s ((x.cqStore g k v).updRing n f) := fun x hx g k v f =>
        (hx.trans (State.sameButIo_sysWrite _ _ _)).trans (State.sameButIo_updRing _ _ _)
      have first : ∀ (c : Option Nat) (g : Ring) (k : Nat) (v : Nat → Nat),
          SameButIo s (match c with | none => s | some c => s.cqStore g k (v c)) := by
        intro c g k v; cases c
        · exact .refl s
        · exact State.sameButIo_sysWrite _ _ _
      have fin : ∀ (b : Bool) (x : State), SameButIo s x → SameButIo s (if b then x.raise n else x) := by
        intro b x hx; cases b
        · exact hx
        · exact hx.trans (State.sameButIo_raise _ _)
      exact fin _ _ (key _ (first _ _ _ _) _ _ _ _)

/-- A reply touches nothing but what a reply can. -/
theorem State.sameButIo_answer (s : State) (src : Src) (p : Packet) (r : Rep) : SameButIo s (s.answer src p r) := by
  unfold State.answer
  split
  · exact State.sameButIo_replyRing _ _ _ _ _ _
  · rfl
  · rfl

/-- A packet that passes the gate is carried out. -/
theorem State.command_accepted {s : State} {src : Src} {p : Packet} {op : Nat} (h : Accepted s src p op) (sel : Packet → Bool)
    (hs : sel p = true) (body : State → Packet → State) : s.command src op sel body = .next (body (s.consume src p) p) := by
  obtain ⟨h1, h2, h3⟩ := h
  unfold State.command
  simp [h1, h2, h3, hs]

/-- What holds at the start of a fold and is kept by each of its steps holds at its end. -/
theorem foldl_keeps {α β : Type} {P : β → Prop} {f : β → α → β} (hf : ∀ b a, P b → P (f b a)) : ∀ (l : List α) (b : β), P b → P (l.foldl f b)
  | [], _, h => h
  | a :: r, b, h => foldl_keeps hf r (f b a) (hf b a h)

/-- Undoing writes changes the memories and draws free values only. -/
theorem State.undoWrites_eq (s : State) (us : List Undo) :
    s.undoWrites us = { s with dram := (s.undoWrites us).dram, hostMem := (s.undoWrites us).hostMem, fresh := (s.undoWrites us).fresh } := by
  refine foldl_keeps (P := fun t : State => t = { s with dram := t.dram, hostMem := t.hostMem, fresh := t.fresh }) ?_ us s rfl
  intro t u ht
  refine foldl_keeps (P := fun t : State => t = { s with dram := t.dram, hostMem := t.hostMem, fresh := t.fresh }) ?_ _ _ ?_
  · intro v p hv
    generalize hw : v.page? p.1 = g
    cases g with
    | none => exact hv
    | some g => simp only []; split <;> (rw [hv])
  · rw [ht]

/-- The runs of an instruction tile without a mismatch stand. -/
@[simp] theorem State.judge_nil (c q : Nat) (sparse cont : Bool) (s : State) (n : Nat) :
    State.judge c q sparse cont [] s n = (s, .stands, n) := rfl

/-- What is undone for a core are writes of its issued instructions. -/
theorem State.openWrites_mem {s : State} {k : Core} {u : Undo} (h : u ∈ s.openWrites k) : ∃ f ∈ k.inflight, u ∈ f.undo := by
  unfold State.openWrites at h
  split at h
  · cases h
  · simpa using h
end Sys2Proof.Machine
end

