-- ==== Sys2Proof/Laws/Sequencer.lean ====
section
/-! SUPPORT. Laws of issue: an instruction that can issue is put through its own rules, and one of another phase waits for its phase. -/
namespace Sys2Proof.Machine

/-- An instruction that can issue in its phase is put through its own rules. -/
theorem State.tryIssue_runs {s : State} {c : Nat} {i : TileInstr} (h : RunsIn s c i) (row : TileInstr → Bool) (hr : row i = true)
    (body : State → TileInstr → Issue) : s.tryIssue c row body = .next (s.carry c (body s i)) := by
  obtain ⟨⟨h1, h2, h3, h4⟩, h5⟩ := h
  subst h4
  unfold State.tryIssue
  rw [if_neg (by omega)]
  simp only [h2, h3, hr, Bool.not_true, Bool.or_self, Bool.false_eq_true, if_false]
  split
  · rename_i p hp; rw [if_pos (h5 p hp)]
  · rfl

/-- An instruction of no phase issues in any phase. -/
theorem Runs.runsIn {s : State} {c : Nat} {i : TileInstr} (h : Runs s c i) (hp : i.phase = none) : RunsIn s c i :=
  ⟨h, fun p hp' => by rw [hp] at hp'; cases hp'⟩

/-- An instruction of another phase waits for its phase (R342). -/
theorem State.tryIssue_phase {s : State} {c : Nat} {i : TileInstr} (h : Runs s c i) (p : Phase) (hp : i.phase = some p)
    (hn : p ≠ (s.core c).phase) (row : TileInstr → Bool) (hr : row i = true) (body : State → TileInstr → Issue) :
    s.tryIssue c row body = .next (s.updCore c (fun k => { k with wait := some .phase })) := by
  obtain ⟨h1, h2, h3, h4⟩ := h
  subst h4
  unfold State.tryIssue
  rw [if_neg (by omega)]
  simp only [h2, h3, hr, Bool.not_true, Bool.or_self, Bool.false_eq_true, if_false, hp, hn, State.carry]

/-- An issued instruction that changes only its own core, carried out. -/
theorem State.carry_go_updCore (s : State) (c : Nat) (f : Core → Core) :
    s.carry c (.go (s.updCore c f)) = s.updCore c (fun k =>
      { f k with pc := (advanceFrom (s.core c).pc (f k).loops).1, loops := (advanceFrom (s.core c).pc (f k).loops).2, wait := none }) := by
  simp only [State.carry, State.updCore_updCore]; rfl

/-- An issued instruction that changes no core, carried out. -/
theorem State.carry_go (s t : State) (c : Nat) (h : t.core c = s.core c) :
    s.carry c (.go t) = t.updCore c (fun k =>
      { k with pc := (advanceFrom k.pc k.loops).1, loops := (advanceFrom k.pc k.loops).2, wait := none }) := by
  simp only [State.carry]
  exact State.updCore_congr _ _ _ _ (by rw [h]; rfl)

/-- A core that can issue is not stopped. -/
theorem Runs.stopped {s : State} {c : Nat} {i : TileInstr} (h : Runs s c i) : (s.core c).stopped = none := by
  have := h.2.1; simp [State.ready] at this; exact this.1.2

/-- A fault at issue stops the sequencer at the instruction and reports it, and changes nothing else (R395). -/
theorem State.carry_fail {s : State} {c : Nat} {i : TileInstr} (h : Runs s c i) (st : St) (d w : Nat) :
    (s.carry c (.fail st d w)).core c = { s.core c with wait := none, stopped := some ⟨(s.core c).pc, st, d⟩ } ∧
    s.carry c (.fail st d w) = { s with cores := (s.carry c (.fail st d w)).cores, evq := (s.carry c (.fail st d w)).evq } := by
  have hl := h.1
  have hs := h.stopped
  simp only [State.carry, State.faultAt]
  constructor
  · rw [State.core_updCore_self _ _ _ (by simpa using hl), State.core_event, State.core_updCore_self _ _ _ hl]
    simp [hs]
  · rw [State.event_eq]
    rfl

end Sys2Proof.Machine
end

