-- ==== Sys2Proof/Tests/Slice0.lean ====
section
/-! SUPPORT. The model's own tests: ill-formed terms that the checks refuse, words of tile programs written out from chapter 8, the manual's
worked examples, and a witness for the hypotheses of every statement. -/
namespace Sys2Proof.Tests
open Sys2Proof Sys2Proof.Machine

set_option Elab.async false
/-! ## Ill-formed terms -/

theorem test_wf_units : coreOk 128 = false ∧ regionOk 16 = false ∧ ringOk 64 = false ∧ portOk 16 = false ∧ channelOk 24 = false ∧
    inputOk 8 = false ∧ procOk 4 = false ∧ linkOk 5 = false ∧ railOk 11 = false := by decide
theorem test_wf_numbers : handleOk (2 ^ 32) = false ∧ numberOk 0 = false ∧ numberOk (2 ^ 24) = false ∧ counterOk 64 = false ∧
    vaOk (2 ^ 52) = false ∧ frameOk 100663296 = false ∧ socketOk 4096 = false := by decide
theorem test_wf_src : Src.wf (.ring 64) = false := by decide
theorem test_wf_memErr : MemErr.wf ⟨24, 0, 0, true⟩ = false ∧ MemErr.wf ⟨0, 6152 * 16384, 0, true⟩ = false ∧ MemErr.wf ⟨0, 0, 512, true⟩ = false ∧ MemErr.wf ⟨23, 0, 511, true⟩ = true := by decide
theorem test_wf_mismatch : Mismatch.wf ⟨128, true⟩ = false := by decide
theorem test_wf_bootIn : BootIn.wf ⟨0, List.replicate 25 none, []⟩ = false ∧ BootIn.wf ⟨0, [], [(144, 0)]⟩ = false ∧
    BootIn.wf ⟨0, [], [(0, 128)]⟩ = false := by decide
theorem test_wf_allocPick : AllocPick.wf ⟨2 ^ 32, 0, [], []⟩ = false ∧ AllocPick.wf ⟨1, 2 ^ 52, [], []⟩ = false ∧
    AllocPick.wf ⟨1, 0, [100663296], []⟩ = false ∧ AllocPick.wf ⟨1, 0, [], [24]⟩ = false := by decide
theorem test_wf_placePick : PlacePick.wf ⟨0, [], []⟩ = false ∧ PlacePick.wf ⟨1, [⟨16, 0, 64, 0, 1⟩], []⟩ = false ∧
    PlacePick.wf ⟨1, [⟨0, 64, 64, 0, 1⟩], []⟩ = false ∧ PlacePick.wf ⟨1, [⟨0, 0, 63, 0, 1⟩], []⟩ = false ∧
    PlacePick.wf ⟨1, [⟨0, 0, 4097, 0, 1⟩], []⟩ = false ∧ PlacePick.wf ⟨1, [⟨0, 0, 64, 1, 1⟩], []⟩ = false ∧
    PlacePick.wf ⟨1, [⟨0, 0, 64, 0, 1⟩], [(⟨1, 0, 2⟩, [0])]⟩ = false := by decide
theorem test_wf_fbody : FBody.wf (.read 0 0 513) = false ∧ FBody.wf (.write 0 (List.replicate 513 (0, 0)) 0) = false ∧
    FBody.wf (.addTo 0 (2 ^ 52) 0) = false ∧ FBody.wf (.reserve 0 (2 ^ 52) 1 1) = false ∧ FBody.wf (.tallyInc 4096 1) = false ∧
    FBody.wf (.readData 0 (List.replicate 513 0)) = false ∧ FBody.wf (.notice 4096) = false := by decide +kernel
theorem test_wf_fpacket : FPacket.wf ⟨4096, 0, 0, 0, 0, .ack⟩ = false ∧ FPacket.wf ⟨0, 4096, 0, 0, 0, .ack⟩ = false ∧
    FPacket.wf ⟨0, 0, 256, 0, 0, .ack⟩ = false ∧ FPacket.wf ⟨0, 0, 0, 0, 2, .ack⟩ = false := by decide
theorem test_wf_xfer_jtag : XferId.wf (.core 128 0) = false ∧ Jtag.wf (.extest 56 true) = false := by decide
theorem test_wf_tile_commands : Instr.wf (.setx 128) = false ∧ Instr.wf (.load 0 [⟨0, 0, 512, true⟩]) = false ∧
    Instr.wf (.mma 0 [⟨128, true⟩]) = false ∧ Instr.wf (.phaseEnter 0 [] [⟨128, true⟩]) = false ∧
    Instr.wf (.ewiseDiag ⟨128, []⟩) = false ∧ Instr.wf (.tileRerun ⟨0, [⟨128, true⟩]⟩ 0) = false ∧ Instr.wf (.runToBuffer (2 ^ 32) 0) = false ∧
    Instr.wf (.transferResume (.core 128 0) []) = false := by decide
theorem test_wf_ring_commands : Instr.wf (.nop (.ring 64)) = false ∧ Instr.wf (.alloc (.ring 0) ⟨2 ^ 32, 0, [], []⟩) = false ∧
    Instr.wf (.createTensor (.ring 0) (2 ^ 32)) = false ∧ Instr.wf (.dispatchAccept 64 ⟨1, [], []⟩) = false ∧
    Instr.wf (.dispatchComplete 0) = false ∧ Instr.wf (.refcheckComplete [0, 0, 0] [0, 0, 0, 0]) = false ∧
    Instr.wf (.ledgerRecordRelease false [0]) = false ∧ Instr.wf (.staulCheckpoint []) = false := by decide
theorem test_wf_host_events : Instr.wf (.registerWrite 4 0) = false ∧ Instr.wf (.registerWrite (2 ^ 20) 0) = false ∧
    Instr.wf (.doorbellSqTail 0 0 [(2 ^ 52, [0])]) = false ∧ Instr.wf (.bar4Read (2 ^ 36) 1) = false ∧
    Instr.wf (.bar4Write (2 ^ 36 - 1) [0, 0]) = false ∧ Instr.wf (.laneFail 0 8) = false ∧ Instr.wf (.flitReceive 0 ⟨0, 2, [(2, 0)]⟩ 0 true) = false ∧
    Instr.wf (.flitReceive 0 ⟨0, 1, [(0, 0)]⟩ 1 true) = false ∧ Instr.wf (.migrationCopyDone ⟨2 ^ 52, []⟩) = false ∧ Instr.wf (.portTrained 0 9 none) = false ∧
    Instr.wf (.portTrained 0 8 (some (4096, 0))) = false ∧ Instr.wf (.pcieLinkTrained 17) = false ∧ Instr.wf (.railFault 11) = false ∧
    Instr.wf (.pageMigrate (2 ^ 52) .retire []) = false ∧ Instr.wf (.boundaryScan (.extest 56 true)) = false := by decide
theorem test_wf_tile_instrs : TileInstr.wf (.setx 32 0) = false ∧ TileInstr.wf (.setx 0 (2 ^ 48)) = false ∧
    TileInstr.wf (.addx 0 0 0 64 0) = false ∧ TileInstr.wf (.loop 0 0 (2 ^ 13)) = false ∧ TileInstr.wf (.br 0 0 8 0) = false ∧
    TileInstr.wf (.reduce 8 0 0 0) = false ∧ TileInstr.wf (.take 0 64) = false ∧ TileInstr.wf (.tally 4096 0 0) = false ∧
    TileInstr.wf (.send 256 0 0 0) = false ∧ TileInstr.wf (.dbg 0 (2 ^ 16)) = false := by decide
theorem test_wf_fields : TF.wf ⟨8, 0, 0, 0, 0, 0, false, 0, 0, false, 0, 0, false, false⟩ = false ∧
    TF.wf ⟨0, 256, 0, 0, 0, 0, false, 0, 0, false, 0, 0, false, false⟩ = false ∧
    TF.wf ⟨0, 0, 0, 0, 0, 0, false, 64, 0, false, 0, 0, false, false⟩ = false ∧
    MF.wf ⟨256, 0, 0, 0, 0, 0, 0, 0, 0, 0, 0, 0, 0, false, 0, false, false⟩ = false ∧
    MF.wf ⟨0, 0, 0, 0, 0, 4, 0, 0, 0, 0, 0, 0, 0, false, 0, false, false⟩ = false ∧
    DiagF.wf ⟨false, false, 256, false, 0, 0, false, 0⟩ = false ∧ DiagF.wf ⟨false, false, 0, false, 16, 0, false, 0⟩ = false := by decide

/-! ## Words of tile programs, bit by bit from the field tables of chapter 8 -/

theorem test_word_setx : decodeTile 0b00000001_11110_000_111111111111111111111111111111111111111111111111 = some (.setx 30 (2 ^ 48 - 1)) := by decide
theorem test_word_addx : decodeTile 0b00000010_01101_00001_00010_000011_000_00000000000000000000000000000101 = some (.addx 13 1 2 3 5) := by decide
theorem test_word_loop : decodeTile 0b00000011_00000_0000000000000100_0000000000010_0000000000000000000000 = some (.loop 0 4 2) := by decide
theorem test_word_br : decodeTile 0b00000100_10111_11110_001_000000000000000000000000000_0000000000001101 = some (.br 23 30 1 13) := by decide
theorem test_word_load : decodeTile 0b00010000_001_00001000_00_01110_10000_001_0_000000_000_0_000_00000000_0_0_000000 =
    some (.load ⟨1, 8, 0, 14, 16, 1, false, 0, 0, false, 0, 0, false, false⟩) := by decide
theorem test_word_store : decodeTile 0b00010001_010_00010001_00_10100_11000_000_0_000000_000_0_000_00000000_0_0_000000 =
    some (.store ⟨2, 17, 0, 20, 24, 0, false, 0, 0, false, 0, 0, false, false⟩) := by decide
theorem test_word_gather : decodeTile 0b00010010_001_00000011_00_00100_00110_000_0_000000_010_0_001_00000000_0_0_000000 =
    some (.gather ⟨1, 3, 0, 4, 6, 0, false, 0, 2, false, 1, 0, false, false⟩) := by decide
theorem test_word_scatter : decodeTile 0b00010011_001_00000011_00_00100_00110_000_0_000000_010_0_001_00000000_0_0_000000 =
    some (.scatter ⟨1, 3, 0, 4, 6, 0, false, 0, 2, false, 1, 0, false, false⟩) := by decide
theorem test_word_loadcard : decodeTile 0b00010100_001_00000000_10_00100_00110_001_0_000000_000_0_000_00000000_1_1_000000 =
    some (.loadcard ⟨1, 0, 2, 4, 6, 1, false, 0, 0, false, 0, 0, true, true⟩) := by decide
theorem test_word_mma : decodeTile 0b00100000_00000000_00001000_00000000_00001_11010_00_00_00_00_00_00_01_100_0_00_0_0 =
    some (.mma ⟨0, 8, 0, 1, 26, 0, 0, 0, 0, 0, 0, 1, 4, false, 0, false, false⟩) := by decide
theorem test_word_spma : decodeTile 0b00100001_00000010_00001000_00000000_00001_11010_00_00_00_00_00_00_10_100_0_00_0_0 =
    some (.spma ⟨2, 8, 0, 1, 26, 0, 0, 0, 0, 0, 0, 2, 4, false, 0, false, false⟩) := by decide
theorem test_word_spge : decodeTile 0b00100010_00000010_00001000_00010000_00001_11010_00_00_01_00_00_00_00_100_0_00_0_0 =
    some (.spge ⟨2, 8, 16, 1, 26, 0, 0, 1, 0, 0, 0, 0, 4, false, 0, false, false⟩) := by decide
theorem test_word_ewise_diag : decodeTile 0b00100011_0_1_1_00010000_0_0011_100_1_00100000_0000000000000000000000000000 =
    some (.ewiseDiag ⟨true, true, 16, false, 3, 4, true, 32⟩) := by decide
theorem test_word_ewise_chain : decodeTile 0b00100011_1_00_00010000_00010001_000001_00101_00000000000000000000000000 =
    some (.ewiseChain 16 17 1 5) := by decide
theorem test_word_reduce : decodeTile 0b00100100_010_00010000_00010001_00101_0_0000000000000000000000000000000 = some (.reduce 2 16 17 5) := by decide
theorem test_word_splitk : decodeTile 0b00100100_011_00010000_00010001_00101_1_0000000000000000000000000000000 =
    some (.reduceSplitk 16 17 5 true) := by decide
theorem test_word_drain : decodeTile 0b00110000_000001_00010001_11011_100_0_000000000000000000000000000000000 = some (.drain 1 17 27 4) := by decide
theorem test_word_partial : decodeTile 0b00110000_000000_00010001_11011_100_1_000000000000000000000000000000000 =
    some (.drainPartial 17 27 4) := by decide
theorem test_word_take : decodeTile 0b01000000_10100_000001_000000000000000000000000000000000000000000000 = some (.take 20 1) := by decide
theorem test_word_commit : decodeTile 0b01000001_11100_000000000000000000000000000000000000000000000000000 = some (.commit 28) := by decide
theorem test_word_yield : decodeTile 0x4200000000000000 = some .yield ∧ decodeTile 0x4200000000000001 = none := by decide
theorem test_word_send : decodeTile 0b01010000_00010001_00101_00000011_00110_000000000000000000000000000000 = some (.send 17 5 3 6) := by decide
theorem test_word_tally : decodeTile 0b01010001_000000000111_00101_00110_0000000000000000000000000000000000 = some (.tally 7 5 6) := by decide
theorem test_word_wait : decodeTile 0b01010010_000000000111_00101_000000000000000000000000000000000000000 = some (.wait 7 5) := by decide
theorem test_word_fence_halt : decodeTile 0x6000000000000000 = some .fence ∧ decodeTile 0x6100000000000000 = some .halt := by decide
theorem test_word_dbg : decodeTile 0b01111111_00101_0000000000001001_00000000000000000000000000000000000 = some (.dbg 5 9) := by decide
theorem test_word_refused : decodeTile 0x0500000000000000 = none ∧ decodeTile 0b00000100_00000_00000_111_0000000000000000000000000000000000000000000 = none ∧
    decodeTile 0 = none := by decide

/-! ## The manual's examples -/

/-- Example 14-1: the repair words after the switch and after the fence. -/
theorem test_repair_words : (Repair.word ⟨some 77, none, [], false, false⟩) = 0x0100CD02 ∧ (Repair.word ⟨some 77, none, [], true, false⟩) = 0x0100CD06 := by decide

/-! ## Small states -/

/-- A request of two tiles of 128 × 128. -/
def req : Request :=
  { ring := 1, tag := 7, opcode := 0x0402, irq := false, prio := 0, tallyWait := none, deps := [], program := 1, slots := [1, 2, 3, 4, 0, 0, 0, 0],
    params := List.replicate 15 5, ext := [256, 128, 1], step := [128, 128, 1], inner := false, restart := false, debug := true, stagger := 0,
    target := 0, costTensor := 0, costs := none, marked := none, affinity := 0, regions := 0, scratch := 0, contract := none }
/-- The counter of the dispatch: tiles 0 and 1. -/
def ctr : Counter :=
  { dispatch := 1, prio := 0, state := .active, inner := false, restart := false, win := 64, stagger := 0, target := 1, superseded := 0,
    ranges := [(0, 2)], unformed := [(0, 2)], chunks := [], returned := [], taken := [], suspended := [], committed := [],
    starts := [(0, true)] }
/-- The dispatch, number 1, on counter 0 of region 0. -/
def disp : Dispatch :=
  { number := 1, order := 0, req := req, rerunStep := 8, wd := 16, ws := 16, fixed := 16, polyVers := List.replicate 64 0, routeVer := 0,
    deps := [], ready := true, counters := [(0, 0)], internal := [], homeless := [], homelessBack := [], ending := none, cancelling := false,
    dropped := [], committed := 0, replayed := 0, superseded := 0, abandoned := 0, skipped := 0, audited := 0, misses := 0, flags := 0, readsOut := [], acksOut := [] }
/-- A held tile of it. -/
def held (t : Nat) : Held :=
  { accession := 2 ^ 32 + t, tile := t, dispatch := 1, region := 0, counter := 0, runs := [], cards := [], nofit := false, sends := [], flags := 0,
    skipped := 0, audited := 0, misses := 0 }
/-- Region 0 with the counter. -/
def reg : Region := { Region.fresh true with counters := [(0, ctr)] }
/-- A DENSE tensor of INT8 at a base. -/
def tens (h base : Nat) (sizes : List Nat) (strides : List Int) (fmt layout : Nat) : Desc :=
  { handle := h, alloc := 1, base := base, aux0 := 0, aux1 := 0, aux2 := 0, nent := 0, owner := 0, sizes := sizes, strides := strides, fmt := fmt,
    rank := sizes.length, layout := layout, sb := 0, access := 0, oob := 0, overlap := false, xpose := false, scatAcc := false, kaxis := 0,
    append := false, uscale := 0, paysize := 0, fore := false }
/-- A local page, resident, and a page of host memory. -/
def localPage : Page := ⟨false, true, true, false, 5, none, none, false, [], []⟩
def hostPage (r : Bool) : Page := ⟨true, true, r, false, 3, none, none, false, [], []⟩
/-- An issued instruction that goes on. -/
def flight (i : TileInstr) : Inflight :=
  { idx := 0, pc := 0, instr := i, x := List.replicate 32 0, gens := [], reads := [], writes := [], cycles := 0, row := 0, done := 0, stop := none,
    rows := [], asked := [], got := [], later := [], trail := false, acks := [], undo := [], rerun := false, redo := false, cursor := [], sendRoute := none }
/-- Registers 1, 2, … with given values, the others 0. -/
def regs (l : List Nat) : List W64 := (0 :: l.map (BitVec.ofNat 64)) ++ List.replicate (31 - l.length) 0
/-- A core that runs the dispatch. -/
def core (xs : List Nat) : Core :=
  { Core.fresh (.ofWord 0) false true with dispatch := some 1, x := regs xs, slots := [1, 2, 3, 4, 0, 0, 0, 0] }
/-- A running device of one region, whose core 0 is `k`, and whose dispatch's program is one instruction. -/
def on (i : TileInstr) (k : Core) : State :=
  { State.reset with
    mode := .running, hif := { Hif.reset with ready := true }, cores := [k], regions := [reg], dispatches := [(1, disp)],
    programs := [(1, ⟨1, 0, 200, false, 512, [i], [(1, ⟨false, [⟨3, 0, 0, 0, false, false, 0, 0, 0, 0, 0⟩]⟩)]⟩)],
    tensors := [(1, tens 1 65536 [256, 4] [1, 256] 6 0), (2, tens 2 66560 [4] [1] 0x10 0), (3, tens 3 131072 [256] [1] 6 0), (4, tens 4 196608 [256] [1] 6 0)],
    pages := [(1, localPage), (2, hostPage true), (3, hostPage false)] }
/-- An answer is a next state that meets a test: for tests of one step. -/
def after (o : Out) (p : State → Bool) : Bool := match o with | .next t => p t | _ => false

/-! ## Witnesses: the block and the sequencer -/

theorem witness_StepTakesFront : ({ State.reset with pending := [.eventWrite] } : State).pending = [Instr.eventWrite] ∧ State.reset.pending = [] := by
  decide
theorem witness_ControlFlow : Runs (on (.setx 1 5) (core [])) 0 (.setx 1 5) ∧ Runs (on (.addx 31 1 2 63 5) (core [])) 0 (.addx 31 1 2 63 5) ∧
    Runs (on (.loop 0 0 1) (core [])) 0 (.loop 0 0 1) ∧ Runs (on (.loop 1 0 1) (core [3])) 0 (.loop 1 0 1) ∧
    Runs (on (.br 1 2 6 0xFFFF) (core [])) 0 (.br 1 2 6 0xFFFF) := by
  unfold Runs; decide +kernel
theorem witness_FenceHaltDbg_fence : Runs (on .fence (core [])) 0 .fence ∧ ((on .fence (core [])).core 0).inflight = [] ∧
    Runs (on .fence { core [] with inflight := [flight .fence] }) 0 .fence ∧
    ((on .fence { core [] with inflight := [flight .fence] }).core 0).inflight ≠ [] := by unfold Runs; decide +kernel
theorem witness_FenceHaltDbg_halt : Runs (on .halt (core [])) 0 .halt ∧ ((on .halt (core [])).core 0).held = none ∧
    ((on .halt (core [])).core 0).inflight = [] ∧ Runs (on .halt { core [] with held := some (held 0) }) 0 .halt ∧
    ((on .halt { core [] with held := some (held 0) }).core 0).held = some (held 0) := by unfold Runs; decide +kernel
/-- The dispatch with debug events off. -/
def quiet (s : State) : State := { s with dispatches := [(1, { disp with req := { req with debug := false } })] }
theorem witness_FenceHaltDbg_dbg : Runs (on (.dbg 1 9) (core [4])) 0 (.dbg 1 9) ∧ ((on (.dbg 1 9) (core [4])).core 0).dispatch = some 1 ∧
    lookupK 1 (on (.dbg 1 9) (core [4])).dispatches = some disp ∧ disp.req.debug = true ∧
    Runs (quiet (on (.dbg 1 9) (core [4]))) 0 (.dbg 1 9) := by unfold Runs; decide +kernel
/-- The wait is met at a difference of 2^63 - 1 and not at 2^63. -/
theorem witness_Tallies_wait : let a := on (.wait 0 1) (core [2 ^ 63 + 1]); let b := on (.wait 0 1) (core [2 ^ 63])
    Runs a 0 (.wait 0 1) ∧ (a.tally 0 - (a.core 0).xr 1).toNat < 2 ^ 63 ∧ Runs b 0 (.wait 0 1) ∧
    ¬ (b.tally 0 - (b.core 0).xr 1).toNat < 2 ^ 63 := by unfold Runs; decide +kernel
theorem witness_Tallies_release : Waits (on (.wait 0 1) { core [2 ^ 63 + 1] with wait := some .cond }) 0 (.wait 0 1) .cond ∧
    Waits (on (.wait 0 1) { core [2 ^ 63] with wait := some .cond }) 0 (.wait 0 1) .cond := by unfold Waits; decide +kernel
/-- A state with this device's own route entry, socket 5, and a route to socket 6 by port 0. -/
def net (s : State) : State :=
  { s with routes := [(5, 2 ^ 63 + 2 ^ 62), (6, 2 ^ 63)], ports := { Port.reset true with state := 2, width := 8 } :: List.replicate 15 (Port.reset true) }
theorem witness_Tallies_local : let f : Inflight := flight (.send 0 1 0 2)
    Runs (on (.tally 4095 0 0) { core [] with inflight := [f] }) 0 (.tally 4095 0 0) ∧ f.instr.opcode = 0x50 ∧
    Runs (on (.tally 4095 0 0) (core [])) 0 (.tally 4095 0 0) ∧ Runs (net (on (.tally 1 2 1) (core [5]))) 0 (.tally 1 2 1) ∧
    (net (on (.tally 1 2 1) (core [5]))).self? = some (((net (on (.tally 1 2 1) (core [5]))).core 0).xr 1).toNat ∧
    Waits (on (.tally 1 0 0) { core [] with wait := some .tally }) 0 (.tally 1 0 0) .tally := by unfold Runs Waits; decide +kernel
theorem witness_Tallies_remote : let a := net (on (.tally 1 2 1) (core [6])); let b := net (on (.tally 1 2 1) (core [7]))
    a.self? = some 5 ∧ ((a.core 0).xr 1).toNat = 6 ∧ Runs a 0 (.tally 1 2 1) ∧ (a.core 0).inflight = [] ∧ (a.stream 6).unreachable = false ∧
    a.exitPort 6 = some (0, false) ∧ Runs b 0 (.tally 1 2 1) ∧ ((b.core 0).xr 1).toNat = 7 ∧ b.exitPort 7 = none := by unfold Runs; decide +kernel

/-! ## Witnesses: desks -/

/-- Whether a TAKE would be given a tile. -/
def serves (s : State) (t : Nat) : Bool := match s.serveTake 0 disp with | .tile x _ => x == t | _ => false
/-- Whether the counter is exhausted. -/
def exhausted (s : State) : Bool := match s.serveTake 0 disp with | .exhausted => true | _ => false
/-- The region with another counter. -/
def withCtr (s : State) (k : Counter) : State := { s with regions := [{ Region.fresh true with counters := [(0, k)] }] }
theorem witness_TakeGivesTile : let s := on (.take 24 0) (core [])
    (s.core 0).held = none ∧ (s.core 0).dispatch = some 1 ∧ lookupK 1 s.dispatches = some disp ∧ disp.req.contract = none ∧
    s.boundaryPreempt 0 = false ∧ s.lowerWaits 0 disp = false ∧ serves s 0 = true ∧ Runs s 0 (.take 24 0) ∧ s.staggered 0 disp = false := by
  unfold Runs; decide +kernel
theorem witness_TakeGivesTile_waits : let s := on (.take 0 0) { core [] with wait := some .take }
    let t := withCtr (on (.take 1 0) { core [] with wait := some .stagger }) { ctr with stagger := 9, starts := [(1, true), (0, false)] }
    Waits s 0 (.take 0 0) .take ∧ serves s 0 = true ∧ s.lowerWaits 0 disp = false ∧ s.boundaryPreempt 0 = false ∧
    Waits t 0 (.take 1 0) .stagger ∧ serves t 0 = true ∧ disp.counterIn (regionOf 0) = some 0 ∧ t.lowerWaits 0 disp = false ∧
    t.boundaryPreempt 0 = false ∧ (t.counter? (regionOf 0) 0).map Counter.starts = some [(1, true), (0, false)] := by unfold Waits; decide +kernel
theorem witness_TakeGivesTile_exhausted : let s := withCtr (on (.take 24 0) (core [])) { ctr with unformed := [], committed := [0, 1] }
    Runs s 0 (.take 24 0) ∧ exhausted s = true ∧ s.boundaryPreempt 0 = false ∧ s.staggered 0 disp = false ∧ s.lowerWaits 0 disp = false := by
  unfold Runs; decide +kernel
theorem witness_DeskRules_order : let all := fun (_ : Nat) => true
    let k := { ctr with returned := [1], unformed := [], ranges := [(0, 9)] }
    req.marked = none ∧ 1 ∈ k.returned ∧ (∀ r ∈ k.returned, all r = true → 1 ≤ r) ∧ ({ ctr with chunks := [(0, [3])] } : Counter).chunk 0 = [3] ∧
    ctr.chunk 0 = [] ∧ ctr.unformed = [(0, 2)] ∧
    ({ ctr with chunks := [(1, [4, 5])], unformed := [] } : Counter).victim req 0 = some (1, [4, 5]) ∧ [4, 5].getLast? = some 5 ∧ (∀ r ∈ ctr.returned, all r = false) := by decide +kernel
theorem witness_DeskRules_chunk : req.marked = none ∧ ({ ctr with unformed := [(0, 300)], target := 10 ^ 9 } : Counter).unformed = [(0, 300)] ∧ 0 < 300 := by decide
theorem witness_DeskRules_window : let k := { ctr with unformed := [(0, 300)], ranges := [(0, 300)] }
    k.above.length ≤ k.win ∧ (match k.serve req (fun _ => true) 0 with | .tile x _ => x == 0 | _ => false) = true := by decide +kernel
theorem witness_CommitYield_commit : Runs (on (.commit 28) { core [] with held := some (held 0) }) 0 (.commit 28) ∧
    Runs (on (.commit 28) (core [])) 0 (.commit 28) ∧ ((on (.commit 28) (core [])).core 0).held = none := by unfold Runs; decide +kernel
/-- A core that offers its commit of tile 0, which it has taken. -/
def offering (k : Counter) : State := withCtr (on (.commit 28) { core [] with held := some (held 0), wait := some .offer }) k
/-- Tile 0 taken, and taken when it is already committed. -/
def taken0 : Counter := { ctr with taken := [(0, 0)], unformed := [(1, 2)] }
theorem witness_CommitYield_offer : ∀ k, k = taken0 ∨ k = { taken0 with committed := [0] } →
    Waits (offering k) 0 (.commit 28) .offer ∧ ((offering k).core 0).held = some (held 0) ∧ ((offering k).core 0).inflight = [] ∧
    (held 0).cards = [] ∧ (held 0).runs = [] ∧ (held 0).sends = [] ∧ disp.number = (held 0).dispatch ∧ (offering k).homeOf disp 0 = some (0, 0, k) ∧
    k.state ≠ .cancelling ∧ disp.cancelling = false ∧ 0 < (offering k).regions.length := by
  rintro k (rfl | rfl) <;> unfold Waits <;> decide +kernel
theorem witness_CommitYield_yield : let s := withCtr (on .yield { core [] with held := some (held 0) }) taken0
    Runs s 0 .yield ∧ (s.core 0).held = some (held 0) ∧ s.homeOf disp 0 = some (0, 0, taken0) ∧ 0 < s.regions.length ∧ taken0.state ≠ .cancelling ∧
    0 ∉ taken0.committed ∧ 0 ∉ taken0.suspended ∧ (∀ x ∈ taken0.taken, x.2 = 0) ∧
    Runs (on .yield (core [])) 0 .yield ∧ (on .yield (core [])).boundaryPreempt 0 = false := by unfold Runs; decide +kernel

/-! ## Witnesses: contexts and programs -/

/-- A core busy with tile 0 of the dispatch, wanted by an URGENT dispatch. -/
def wantedCore : State :=
  let s := withCtr (on .fence { core [3] with held := some (held 0) }) taken0
  let d2 : Dispatch := { disp with number := 2, order := 1, req := { req with prio := 2 }, counters := [(0, 1)] }
  { s with dispatches := [(1, disp), (2, d2)], regions := [{ Region.fresh true with counters := [(0, taken0), (1, { ctr with dispatch := 2, prio := 2 })] }],
           nextOrder := 5 }
theorem witness_ContextsSaved_save : let s := wantedCore
    regionOf 0 < s.regions.length ∧ s.ready 0 = true ∧ (s.core 0).split = false ∧ (s.core 0).fore = false ∧ (s.core 0).inflight = [] ∧
    s.wanted 0 (s.prioOf (s.core 0)) (fun p => p == 2) = true ∧ (s.core 0).dispatch = some 1 ∧ (s.core 0).held = some (held 0) ∧
    (held 0).dispatch = 1 ∧ lookupK 1 s.dispatches = some disp ∧ s.homeOf disp 0 = some (0, 0, taken0) ∧ taken0.state ≠ .cancelling ∧
    0 ∉ taken0.committed ∧ (∀ x ∈ taken0.taken, x.2 = 0) ∧ 0 ∉ taken0.suspended := by decide +kernel
/-- A saved context of tile 0. -/
def saved : Context := ⟨1, 0, 4, { core [3] with held := some (held 0), pc := 1 }⟩
/-- An idle core of a region with that context. -/
def resumable : State :=
  let s := on .fence { core [] with dispatch := none }
  { s with regions := [{ Region.fresh true with counters := [(0, { ctr with unformed := [(1, 2)], suspended := [0] })], contexts := [saved] }] }
theorem witness_ContextsSaved_resume : let s := resumable
    (s.region 0).nextContext = some saved ∧ regionOf 0 < s.regions.length ∧ s.startable 0 = true ∧ s.nextWork 0 = some (.inl saved) ∧
    saved.core.inflight = [] ∧ (∀ j ∈ s.jobs, ∀ r ∈ j.2.runs, r.core.map Prod.fst ≠ some 0) := by decide +kernel
/-- A dispatch whose program an idle core can start. -/
def starting : State :=
  let s := withCtr (on .fence { core [] with dispatch := none }) { ctr with starts := [] }
  { s with dispatches := [(1, { disp with req := { req with params := [11, 12] } })] }
theorem witness_ProgramStarts : let s := starting
    s.startable 0 = true ∧ s.nextWork 0 = some (.inr { disp with req := { req with params := [11, 12] } }) ∧ req.contract = none ∧
    (lookupK req.program s.programs).isSome = true := by decide +kernel
/-- Two regions with a counter each. -/
def twoCtrs : State := { State.reset with
  mode := .running, hif := { Hif.reset with ready := true }, regions := [reg, { Region.fresh true with counters := [(3, { ctr with ranges := [(9, 10)], unformed := [] })] }],
  cores := [] }
theorem witness_TileRangeMoves : let s := twoCtrs
    0 < s.regions.length ∧ 1 < s.regions.length ∧ ((0, 0) : Nat × Nat) ≠ (1, 3) ∧ s.running = true ∧ s.counter? 0 0 = some ctr ∧
    (s.counter? 1 3).map Counter.dispatch = some ctr.dispatch ∧ ctr.state ≠ .cancelling ∧ ctr.unformed = [] ++ [(0, 2)] ∧ 0 < 2 ∧ 2 ≤ 2 - 0 ∧
    (0, 2) ∈ ctr.ranges ∧ ctr.ranges.Pairwise (fun x y => x.2 ≤ y.1) ∧
    (s.counter? 1 3).map (fun k => decide ((k.adopt [(0, 2)] []).above.length ≤ k.win)) = some true := by decide +kernel

/-! ## Witnesses: phases and transfers -/

/-- Transfer fields: slot, shelf, first register of the origin and of the extents. -/
def tf (slot sh xo xe : Nat) : TF := ⟨slot, sh, 0, xo, xe, 0, false, 0, 1, false, 1, 0, false, false⟩
/-- Matrix fields: a dense OS tile of 128 × 128. -/
def mf : MF := ⟨0, 2, 0, 1, 2, 0, 0, 0, 0, 0, 0, 1, 4, false, 0, false, false⟩
theorem witness_IssueCompletes_phase : Runs (on (.load (tf 0 0 1 3)) { core [] with phase := .drain }) 0 (.load (tf 0 0 1 3)) ∧
    Runs (on (.store (tf 0 0 1 3)) (core [])) 0 (.store (tf 0 0 1 3)) ∧ Runs (on (.mma mf) (core [])) 0 (.mma mf) ∧
    Waits (on (.mma mf) { core [] with wait := some .phase }) 0 (.mma mf) .phase ∧ TileInstr.phase (.mma mf) = some .compute ∧
    Waits (on (.mma mf) { core [] with wait := some .phase, inflight := [flight (.load (tf 0 0 1 3))] }) 0 (.mma mf) .phase ∧
    (flight (.load (tf 0 0 1 3))).instr.phase = some (core []).phase := by unfold Runs Waits; decide +kernel
theorem witness_IssueCompletes_complete : let a := on .fence { core [] with inflight := [flight (.load (tf 0 0 1 3))] }
    let b := on .fence { core [] with inflight := [flight (.load (tf 0 0 1 3))], wait := some .fence }
    let stopped : Inflight := { flight (.load (tf 0 0 1 3)) with stop := some ⟨0, 0, 1, false, 0⟩ }
    let f := flight (.load (tf 0 0 1 3))
    let h := on .halt { core [] with inflight := [f], wait := some .fence }
    let t := on .fence { core [] with inflight := [{ f with trail := true }] }
    (a.flightOf 0 0).isSome = true ∧ a.unitAlive 0 = true ∧ f.stop = none ∧ f.asked = [] ∧ f.rerun = false ∧ f.redo = false ∧ f.acks = [] ∧
    f.trail = false ∧ f.sendRoute = none ∧ a.writesHeld (a.core 0) f = false ∧
    (∀ u ∈ (a.core 0).unitsOf f.instr, ∀ g ∈ ((a.core 0).onUnit u).head?, g.idx = 0) ∧ (a.core 0).wait ≠ some .fence ∧
    Waits b 0 .fence .fence ∧ b.unitAlive 0 = true ∧ (b.core 0).inflight.filter (fun g => g.idx != 0) = [] ∧ Waits h 0 .halt .fence ∧
    h.unitAlive 0 = true ∧ t.flightOf 0 0 = some { f with trail := true } ∧ t.unitAlive 0 = true ∧
    (on .fence { core [] with inflight := [stopped] }).flightOf 0 0 = some stopped ∧ stopped.stop ≠ none := by unfold Waits; decide +kernel
/-- A SEND without a held tile by route 0 to a landing of this device, socket 5, with and without an arrival tally. -/
def sentBy (e : Nat) : State :=
  { net (on .fence { core [] with inflight := [{ flight (.send 4 3 0 4) with sendRoute := some 0 }] }) with sendRoutes := [(0, e)] }
theorem witness_IssueCompletes_send : let a := sentBy (2 ^ 255 + 5 * 2 ^ 240 + 9 * 2 ^ 228); let b := sentBy (2 ^ 255 + 2 ^ 254 + 5 * 2 ^ 240)
    ∀ s, s = a ∨ s = b → s.unitAlive 0 = true ∧ (s.core 0).wait ≠ some .fence ∧ (s.flightOf 0 0).map Inflight.sendRoute = some (some 0) ∧
      s.self? = some (srSocket (s.routeEntry (s.core 0) 0)) ∧ (srNoTally (s.routeEntry (s.core 0) 0) = true ↔ s = b) ∧
      ∀ u ∈ (s.core 0).unitsOf (.send 4 3 0 4), ∀ g ∈ ((s.core 0).onUnit u).head?, g.idx = 0 := by
  rintro a b s (rfl | rfl) <;> decide +kernel

/-- The small device with local bytes 1, 2, … at the start of its page 1, whose index tensor there at 400h holds 3. -/
def filled (s : State) : State :=
  { s with dram := (Mem.cells 0 []).writeBytes (5 * 65536) (leBytes 4 0x04030201) |>.writeBytes (5 * 65536 + 1024) (leBytes 4 3)
             |>.writeBytes (5 * 65536 + 768) (leBytes 2 0x0807) }
/-- The tensor of a slot. -/
def t1 : Desc := tens 1 65536 [256, 4] [1, 256] 6 0
def row1 (base : Nat) : Desc := tens 1 base [256] [1] 6 0
/-- The device with slot 0 bound to a row at a base. -/
def rowAt (base : Nat) (s : State) : State := { filled s with tensors := [(1, row1 base)] }
theorem witness_LoadRow : let i := TileInstr.load (tf 0 4 1 3)
    let s := rowAt 65536 (on i (core [0, 0, 256])); let h := rowAt 196608 (on i (core [0, 0, 256])); let u := rowAt 262144 (on i (core [0, 0, 256]))
    Runs s 0 i ∧ i.phase = some (s.core 0).phase ∧ s.slotDesc (s.core 0) 0 = some (row1 65536) ∧ (row1 65536).Plain ∧ (row1 65536).rank = 1 ∧
    ((s.core 0).xr 1).toInt = ((0 : Nat) : Int) ∧ ((s.core 0).xr 3).toNat = 256 ∧ 0 + 256 ≤ (row1 65536).size 0 ∧ (s.core 0).inflight = [] ∧
    4 + shelvesFor (roundUp 256 64) ≤ s.limitOf 0 ∧ s.jobs = [] ∧ (65536 + 0) % 65536 + 256 ≤ 65536 ∧ s.page? 65536 = some localPage ∧
    s.checkRead 65536 256 = .ok ∧ Runs h 0 i ∧ h.page? 196608 = some (hostPage false) ∧ Runs u 0 i ∧ u.page? 262144 = none := by
  unfold Runs Desc.Plain; decide +kernel
/-- A DATA object of one row of bytes at shelf 4. -/
def withObj (k : Core) (e0 fmt : Nat) : Core :=
  { k with tags := [(4, ⟨1, e0, 4, 0, 0, 0, false, 0, fmt, 0, 0⟩)], carrel := Mem.cells (4 * 16384) [9#8, 8#8, 7#8, 6#8] }
/-- The core in its last phase with that object. -/
def storing (xs : List Nat) : Core := withObj { core xs with phase := .drain } 256 6
theorem witness_StoreRow : let i := TileInstr.store (tf 0 4 1 3)
    let s := rowAt 65536 (on i (storing [0, 0, 256]))
    Runs s 0 i ∧ i.phase = some (s.core 0).phase ∧ s.slotDesc (s.core 0) 0 = some (row1 65536) ∧ (row1 65536).Plain ∧
    (s.core 0).object (s.limitOf 0) 4 = .inl ⟨1, 256, 4, 0, 0, 0, false, 0, 6, 0, 0⟩ ∧ (s.core 0).inflight = [] ∧ (s.core 0).carrel.wf = true ∧
    s.page? 65536 = some localPage ∧ s.checkWrite false 65536 256 = .ok ∧ (s.core 0).foreShelves = [] ∧ (s.core 0).fore = false := by
  unfold Runs Desc.Plain; decide +kernel
/-- The gathered tensor, its index tensor, and a state for each of GATHER and SCATTER: registers 1 and 2 hold the first index and their number. -/
def ix : Desc := tens 2 66560 [4] [1] 0x10 0
theorem witness_GatherScatter : let g := TileInstr.gather (tf 0 4 1 3); let c := TileInstr.scatter (tf 0 4 1 3)
    let s := filled (on g (core [0, 1])); let u := filled (on c (storing [0, 1]))
    Runs s 0 g ∧ g.phase = some (s.core 0).phase ∧ s.slotDesc (s.core 0) 0 = some t1 ∧ s.slotDesc (s.core 0) 1 = some ix ∧ t1.Plain ∧ ix.PlainIndex ∧
    t1.rank = 2 ∧ (0 : Nat) < ix.size 0 ∧ 0 ≤ t1.stride 1 ∧ s.page? (66560 + 0) = some localPage ∧ s.checkRead 66560 4 = .ok ∧
    ofLe (s.bytesAt 66560 4) = 3 ∧ 3 < t1.size 1 ∧ s.page? (65536 + 3 * 256) = some localPage ∧ s.checkRead 66304 256 = .ok ∧
    4 + shelvesFor (roundUp 256 64) ≤ s.limitOf 0 ∧ s.jobs = [] ∧
    Runs u 0 c ∧ c.phase = some (u.core 0).phase ∧ (u.core 0).object (u.limitOf 0) 4 = .inl ⟨1, 256, 4, 0, 0, 0, false, 0, 6, 0, 0⟩ ∧
    u.checkRead 66560 4 = .ok ∧ ofLe (u.bytesAt 66560 4) = 3 ∧ u.checkWrite false 66304 256 = .ok ∧ (u.core 0).carrel.wf = true := by
  unfold Runs Desc.Plain Desc.PlainIndex; decide +kernel
/-- A folio in slot 0 whose cards lie at the start of page 1, empty tiles all. -/
def folio : Desc := { tens 1 65536 [256, 128] [1, 256] 6 1 with aux0 := 65536 }
/-- The device with that folio. -/
def carded (i : TileInstr) : State := { on i (core [0, 0, 128, 128]) with tensors := [(1, folio)] }
theorem witness_LoadcardCard : let i := TileInstr.loadcard { tf 0 0 1 3 with ps := 2, role := 1 }; let s := carded i
    Runs s 0 i ∧ i.phase = some (s.core 0).phase ∧ s.slotDesc (s.core 0) 0 = some folio ∧ folio.rank = 2 ∧ (s.core 0).xr 1 = 0 ∧ (s.core 0).xr 2 = 0 ∧
    ((s.core 0).xr 3).toNat = 128 ∧ ((s.core 0).xr 4).toNat = 128 ∧ 128 ≤ folio.size 0 ∧ 128 ≤ folio.size 1 ∧ s.page? 65536 = some localPage ∧
    s.checkRead 65536 32 = .ok ∧ cardCheck folio (ofLe (s.bytesAt 65536 32)) = none ∧ (s.core 0).inflight = [] := by unfold Runs; decide +kernel
/-- Send route 3: this socket, base at page 1, 1,024 bytes. -/
def route3 (s : State) : State := { net s with sendRoutes := [(3, 2 ^ 255 + 5 * 2 ^ 240 + 16 * 2 ^ 152 + 65536 * 2 ^ 64)] }
/-- A core that holds tile 0 and an object to send. -/
def sending : Core := { withObj { core [256, 64] with phase := .drain } 256 6 with held := some (held 0) }
theorem witness_SendLands : let i := TileInstr.send 4 1 3 2; let s := route3 (on i sending); let e := s.routeEntry (s.core 0) 3
    Runs s 0 i ∧ i.phase = some (s.core 0).phase ∧ s.self? = some 5 ∧ (s.core 0).held = some (held 0) ∧
    (s.core 0).object (s.limitOf 0) 4 = .inl ⟨1, 256, 4, 0, 0, 0, false, 0, 6, 0, 0⟩ ∧ (s.core 0).inflight = [] ∧ ((s.core 0).xr 1).toNat = 256 ∧
    4 * 16384 + 256 ≤ s.limitOf 0 * 16384 ∧ srValid e = true ∧ srSocket e = 5 ∧ 64 % 64 = 0 ∧ 64 + 256 ≤ srSize e ∧
    s.page? (srBase e + 64) = some localPage ∧ s.checkWrite false (srBase e + 64) 256 = .ok := by unfold Runs; decide +kernel
theorem witness_SendLands_free : let i := TileInstr.send 4 1 3 2; let s := route3 (on i { sending with held := none })
    Runs s 0 i ∧ i.phase = some (s.core 0).phase ∧ (s.core 0).held = none ∧ (s.core 0).inflight = [] ∧
    (s.core 0).object (s.limitOf 0) 4 = .inl ⟨1, 256, 4, 0, 0, 0, false, 0, 6, 0, 0⟩ := by unfold Runs; decide +kernel
/-- A FILL of one row, stopped, whose page is mapped by now. -/
def fillOp : CopyOp := ⟨0, 1, 0, 65536 + 4096, none, 0xAB, 4096, 64, some ⟨0, 0, 1, false, 65536⟩, []⟩
theorem witness_TransferResumes : let f : Inflight := { flight (.load (tf 3 0 1 3)) with stop := some ⟨0, 0, 1, false, 196608⟩ }
    let a := on .fence { core [] with inflight := [f] }; let s := { on .fence (core []) with copies := [fillOp] }
    a.flightOf 0 0 = some f ∧ a.resolved ⟨0, 0, 1, false, 196608⟩ = false ∧ s.resolved ⟨0, 0, 1, false, 65536⟩ = true ∧ s.running = true ∧
    s.page? (fillOp.dst + 64) = some localPage ∧ (fillOp.dst + 64) % 65536 + 4032 ≤ 65536 ∧
    s.checkWrite false (fillOp.dst + 64) 4032 = .ok ∧ 65536 + 4096 + 64 < 2 ^ 52 := by decide +kernel

/-! ## Witnesses: engines and drains -/

/-- A core with two KOUTER operands of 32 K-steps of INT8, and the tile control word of a full tile. -/
def operands (k : Core) : Core :=
  { k with phase := .compute, tags := [(0, ⟨32, 128, 0, 0, 0, 1, false, 0, 6, 0, 0⟩), (2, ⟨32, 128, 2, 0, 0, 1, false, 0, 6, 0, 0⟩)] }
theorem witness_MatrixRuns : let i := matrixInstr 0 mf; let s := on i (operands (core [32, 128 * 65537])); let b := on i (operands (core [31, 128 * 65537]))
    Runs s 0 i ∧ i.phase = some (s.core 0).phase ∧ (s.core 0).mmaCheck (s.limitOf 0) 0 mf = none ∧ (s.core 0).inflight = [] ∧
    (s.core 0).repair.pending = [] ∧ ((s.core 0).tag mf.sa).sb ≠ 1 ∧ ((s.core 0).tag mf.sb).sb ≠ 1 ∧ (s.core 0).usesSparse mf = false ∧
    Runs b 0 i ∧ (b.core 0).mmaCheck (b.limitOf 0) 0 mf = some .shape := by unfold Runs; decide +kernel
/-- A stream of no entries, and the instruction SPMA over it. -/
def streamOperands (k : Core) : Core :=
  { k with phase := .compute, tags := [(0, ⟨128, 32, 0, 0, 0, 3, false, 0, 6, 0, 0⟩), (2, ⟨32, 128, 2, 0, 0, 1, false, 0, 6, 0, 0⟩)] }
theorem witness_MatrixRuns_spma : let i := matrixInstr 1 mf; let s := on i (streamOperands (core [32, 128 * 65537 + 16 * 2 ^ 40]))
    Runs s 0 i ∧ i.phase = some (s.core 0).phase ∧ (s.core 0).mmaCheck (s.limitOf 0) 1 mf = none := by unfold Runs; decide +kernel
theorem witness_AccTileKept : let rows := List.replicate 64 (List.replicate 64 (2 ^ 64 - 1))
    0 ≤ 4 ∧ (core []).acc.wf = true ∧ 64 = 1 * (geoOf 0 false).g ∧ 64 = 1 * (geoOf 0 false).gc ∧ rows.length = 64 ∧
    (∀ r ∈ rows, r.length = 64 ∧ ∀ e ∈ r, e < 2 ^ 64) := by decide +kernel
/-- A run-mode operand of one entry (row 5, K 3), a directory of row 3 with one entry in the stream at shelf 6 (column 9), all in FP8, and a merge job. -/
def runCore : Core :=
  { core [77, 10] with
    phase := .compute, held := some (held 0),
    tags := [(0, ⟨128, 128, 0, 0, 0, 4, false, 0, 4, 0, 1⟩), (2, ⟨128, 128, 2, 6, 0, 5, false, 0, 4, 0, 1⟩), (6, ⟨128, 128, 6, 0, 0, 4, false, 0, 4, 0, 1⟩)],
    carrel := (Mem.cells 0 (leBytes 16 (5 * 2 ^ 96 + 3 * 2 ^ 64 + 0x3F800000 * 2 ^ 32))) ++ (Mem.cells 32768 (leBytes 16 (3 + 2 ^ 64)))
      ++ Mem.cells 98304 (leBytes 16 (2 ^ 96 * 3 + 9 * 2 ^ 64 + 0x3F800000 * 2 ^ 32)) }
/-- A merge job on no region. -/
def job : Job := { handle := 77, region := none, form := 0, out := 2 ^ 63, spill := 0, dispatch := some 1, runs := [], merging := false, flags := 0, finished := false }
/-- An SPGE in RUN with its run area at shelf 16. -/
def mfRun : MF := { mf with sp := 16, flow := 1, eng := 0 }
theorem witness_SpgeRuns : let i := TileInstr.spge mfRun; let s := { on i runCore with jobs := [(77, job)] }; let k := s.core 0
    Runs s 0 i ∧ i.phase = some k.phase ∧ k.object (s.limitOf 0) 0 = .inl (k.tag 0) ∧ k.object (s.limitOf 0) 2 = .inl (k.tag 2) ∧
    k.object (s.limitOf 0) (k.tag 2).link = .inl (k.tag 6) ∧ (k.tag 0).role = 4 ∧ (k.tag 2).role = 5 ∧ (k.tag 6).role = 4 ∧
    mfRun.sp + runArea (k.tcw mfRun) ≤ s.limitOf 0 ∧ k.held = some (held 0) ∧ k.inflight = [] ∧ (∀ j ∈ s.jobs, ∀ r ∈ j.2.runs, r.core.map Prod.fst ≠ some 0) ∧
    s.jobs = [((k.xr mfRun.xk).toNat, job)] ∧ job.finished = false ∧
    (let be := (runEntries (k.objMem 6 (k.tag 6)) 1).toArray
     let dir := directory (k.objMem 2 (k.tag 2)) 1
     let of := fun (kk : Nat) => dir.flatMap (fun d => if d.1 == kk then (List.range d.2.2).filterMap (fun j => be[d.2.1 + j]?) else [])
     let out := runMode (runEntries (k.objMem 0 (k.tag 0)) 1) of
     out.1.length = 1 ∧ sumNat (out.1.map (fun o => o.entries.length)) * 16 ≤ runArea (k.tcw mfRun) * 16384) := by unfold Runs; decide +kernel
/-- A tile record of 128 × 128. -/
def trec : TileRec := { start := 0, m := 128, n := 128, flow := 0, mode := 0, fmtA := 6, fmtB := 6, vm := 128, vn := 128, skipped := [], audited := [], st := AccSt.zero }
theorem witness_DiagPass : let f : DiagF := ⟨true, false, 4, false, 0, 4, false, 0⟩; let i := TileInstr.ewiseDiag f
    let k : Core := { core [] with phase := .compute, recs := [(4, trec)], tags := [(4, ⟨128, 128, 4, 0, 0, 1, false, 0, 6, 0, 0⟩)] }
    let s := on i k; let b := on i { k with recs := [] }
    Runs s 0 i ∧ i.phase = some (s.core 0).phase ∧ lookupK 4 k.recs = some trec ∧ k.split = false ∧
    k.object (s.limitOf 0) 4 = .inl ⟨128, 128, 4, 0, 0, 1, false, 0, 6, 0, 0⟩ ∧ (geoOf 4 false).g ≤ 128 ∧ k.repair.pending = [] ∧
    Runs b 0 i ∧ lookupK 4 (b.core 0).recs = none := by unfold Runs; decide +kernel
theorem witness_DiagPass_loads : let f : DiagF := ⟨true, true, 4, false, 0, 4, true, 6⟩; let i := TileInstr.ewiseDiag f
    let t : Tag := ⟨128, 128, 4, 0, 0, 1, false, 0, 6, 0, 0⟩; let ts : Tag := ⟨128, 128, 6, 0, 0, 1, false, 0, 6, 0, 0⟩
    let k : Core := { core [] with phase := .compute, recs := [(4, trec)], tags := [(4, t), (6, ts)] }
    let s := on i k; let b := on i { k with recs := [(4, { trec with mode := 1 })] }; let d := on i { k with fore := true }
    Runs s 0 i ∧ f.loads = true ∧ k.object (s.limitOf 0) 4 = .inl t ∧ k.object (s.limitOf 0) 6 = .inl ts ∧ k.fore = false ∧
    Runs b 0 i ∧ (lookupK f.qtr (b.core 0).recs).map TileRec.mode = some 1 ∧ Runs d 0 i ∧ (d.core 0).fore = true ∧
    k.stat.wf = true ∧ 63 < (geoOf 3 false).g ∧ (geoOf 3 false).row0 + 63 = 127 := by unfold Runs; decide +kernel
/-- A core at a drain with a tile record in quarter 0 of 64 × 64. -/
def draining (r : TileRec) : Core := { core [3] with phase := .drain, recs := [(0, { r with m := 64, n := 64, vm := 64, vn := 64 })], split := true }
theorem witness_DrainWrites : let i := TileInstr.drain 0 4 0 0; let s := on i (draining trec); let p := TileInstr.drainPartial 4 0 0
    let b := on i { draining trec with recs := [] }; let q := on p (draining trec); let f := on p (draining { trec with mode := 2 })
    Runs s 0 i ∧ i.phase = some (s.core 0).phase ∧ (lookupK 0 (s.core 0).recs).map (fun r => (r.mode, r.st.outscale, r.skipped, r.audited)) = some (0, 0, [], []) ∧
    4 + shelvesFor (64 * roundUp (4 * 64) 64) ≤ s.limitOf 0 ∧ s.jobs = [] ∧ (s.core 0).carrel.wf = true ∧
    Runs b 0 i ∧ Runs q 0 p ∧ p.phase = some (q.core 0).phase ∧ 4 + shelvesFor (64 + 64 * 64 * 8) ≤ q.limitOf 0 ∧ Runs f 0 p := by
  unfold Runs; decide +kernel
theorem witness_DrainWrites_element : let r := { trec with m := 64, n := 64 }
    (match (draining trec).tileRows r 0 with | l :: _ => (match l with | _ :: _ => true | [] => false) | [] => false) = true := by decide +kernel
/-- The small device with one chain, of given stages, and send route 3 with slots of 16 KiB from page 1 on. -/
def chained (st : List Stage) (i : TileInstr) (k : Core) : State :=
  let s := on i k
  { net s with programs := [(1, ⟨1, 0, 200, false, 512, [i], [(1, ⟨false, st⟩)]⟩)],
               sendRoutes := [(3, 2 ^ 255 + 5 * 2 ^ 240 + 256 * 2 ^ 200 + 1024 * 2 ^ 152 + 65536 * 2 ^ 64)] }
/-- A send stage on route 3. -/
def sendStage : Stage := ⟨9, 0, 0, 0, false, false, 0, 0, 3, 0, 0⟩
theorem witness_DrainWrites_chain : let i := TileInstr.drain 1 4 0 0; let k := { draining { trec with start := 1, skipped := [2] } with held := some (held 0) }
    let s := on i k; let st := stagesOf (s.chainOf k 1)
    Runs s 0 i ∧ i.phase = some k.phase ∧ st.length = 1 ∧ (∀ g ∈ st, g.cls = 3) ∧ k.chainFault (s.limitOf 0) st = none ∧
    (∀ p ∈ outShelves st 64 64 64 4, p.1 + p.2 ≤ s.limitOf 0) ∧ k.inflight = [] ∧ s.jobs = [] := by unfold Runs; decide +kernel
theorem witness_DrainWrites_fore : foreChain [⟨7, 0, 0x0A, 0, false, false, 0, 0, 0, 0, 0⟩] = true := by decide +kernel
theorem witness_DrainWrites_send : let i := TileInstr.drain 1 4 0 0; let k := { draining trec with held := some (held 0) }
    let s := chained [sendStage] i k; let st := stagesOf (s.chainOf k 1); let e := s.routeEntry k 3; let len := (outTag st 64 64).bytes 0
    Runs s 0 i ∧ st.find? (fun g => g.cls == 9) = some sendStage ∧ s.self? = some 5 ∧ srValid e = true ∧ srSocket e = 5 ∧ len ≤ srSlot e ∧
    (held 0).tile * srSlot e + len ≤ srSize e ∧ s.page? (srBase e) = some localPage ∧ s.checkWrite false (srBase e) len = .ok ∧
    k.chainFault (s.limitOf 0) st = none ∧ (∀ p ∈ outShelves st 64 64 64 4, p.1 + p.2 ≤ s.limitOf 0) := by unfold Runs; decide +kernel
theorem witness_DrainWrites_phase : let p := TileInstr.drainPartial 4 0 0; let s := on p { draining trec with phase := .compute, wait := some .phase }
    Waits s 0 p .phase ∧ (lookupK 0 (s.core 0).recs).map TileRec.mode = some 0 ∧ (s.core 0).inflight = [] := by unfold Waits; decide +kernel
/-- Chain 1 of the small device's program is one ReLU stage. -/
theorem witness_ChainReduce_chain : let i := TileInstr.ewiseChain 4 8 1 1; let s := on i (storing [])
    let t : Tag := ⟨1, 256, 4, 0, 0, 0, false, 0, 6, 0, 0⟩
    Runs s 0 i ∧ i.phase = some (s.core 0).phase ∧ s.chainOf (s.core 0) 1 = some ⟨false, [⟨3, 0, 0, 0, false, false, 0, 0, 0, 0, 0⟩]⟩ ∧
    (s.core 0).object (s.limitOf 0) 4 = .inl t ∧ 8 + shelvesFor (1 * roundUp (4 * 256) 64) ≤ s.limitOf 0 ∧ (s.core 0).inflight = [] ∧ s.jobs = [] ∧
    (s.core 0).carrel.wf = true ∧ ((dataRow ((s.core 0).objMem 4 t) t 0)[255]?).isSome = true := by unfold Runs; decide +kernel
/-- A chain of two stages, the second of which quantises to format 09h. -/
def biasChain : List Stage := [⟨1, 0, 0x0A, 0, false, false, 12, 0, 0, 0, 0⟩, ⟨7, 0, 0x09, 0, true, false, 0, 0, 0, 0, 0⟩]
theorem witness_ChainReduce_any : let i := TileInstr.ewiseChain 4 8 1 1; let k := withObj { core [7] with phase := .drain } 256 6; let s := chained biasChain i k
    let st := stagesOf (s.chainOf k 1); let t : Tag := ⟨1, 256, 4, 0, 0, 0, false, 0, 6, 0, 0⟩
    Runs s 0 i ∧ i.phase = some k.phase ∧ st = biasChain ∧ (∀ g ∈ st, g.cls ≠ 2 ∧ g.cls ≠ 9) ∧ k.object (s.limitOf 0) 4 = .inl t ∧
    k.chainFault (s.limitOf 0) st = none ∧ (∀ p ∈ outShelves st t.e1 t.e0 128 8, p.1 + p.2 ≤ s.limitOf 0) ∧ k.inflight = [] ∧ s.jobs = [] := by
  unfold Runs; decide +kernel
/-- Two records of 128 FP32 entries on shelf 4. -/
def records (n : Nat) : Core := { withObj { core [n] with phase := .drain } 128 0x0A with tags := [(4, ⟨2, 128, 4, 0, 0, 0, false, 0, 0x0A, 0, 0⟩)] }
theorem witness_ChainReduce_reduce : let i := TileInstr.reduce 0 4 8 1; let s := on i (records 2); let z := on i (records 0)
    Runs s 0 i ∧ i.phase = some (s.core 0).phase ∧ ((s.core 0).xr 1).toNat = 2 ∧ (s.core 0).object (s.limitOf 0) 4 = .inl ((s.core 0).tag 4) ∧
    ((s.core 0).tag 4).role = 0 ∧ ((s.core 0).tag 4).fmt = 0x0A ∧ shelvesFor (2 * 8 * 64) = 1 ∧ 8 + shelvesFor (128 * 4) ≤ s.limitOf 0 ∧
    ((s.core 0).tag 4).first = 4 ∧ (s.core 0).carrel.wf = true ∧
    Runs z 0 i ∧ (z.core 0).xr 1 = 0 ∧ (z.core 0).object (z.limitOf 0) 4 = .inl ((z.core 0).tag 4) := by unfold Runs; decide +kernel
/-- Two partial images of 64 × 64 at shelves 10 and 13. -/
def images : Core :=
  { core [2] with
    phase := .drain, tags := [(10, ⟨64, 64, 10, 0, 0, 6, false, 0, 0x0A, 0, 0⟩), (11, ⟨64, 64, 10, 0, 0, 6, false, 0, 0x0A, 0, 0⟩), (12, ⟨64, 64, 10, 0, 0, 6, false, 0, 0x0A, 0, 0⟩),
      (13, ⟨64, 64, 13, 0, 0, 6, false, 0, 0x0A, 0, 0⟩), (14, ⟨64, 64, 13, 0, 0, 6, false, 0, 0x0A, 0, 0⟩), (15, ⟨64, 64, 13, 0, 0, 6, false, 0, 0x0A, 0, 0⟩)],
    carrel := Mem.cells (10 * 16384) (leBytes 64 ({ trec with m := 64, n := 64 } : TileRec).header)
      ++ Mem.cells (13 * 16384) (leBytes 64 ({ trec with m := 64, n := 64 } : TileRec).header) }
theorem witness_ChainReduce_splitk : let i := TileInstr.reduceSplitk 10 20 1 true; let s := on i images; let k := s.core 0
    let h := (k.objMem 10 (k.tag 10)).readLe 0 64
    Runs s 0 i ∧ i.phase = some k.phase ∧ (k.xr 1).toNat = 2 ∧
    k.imagesAt (s.limitOf 0) (Nat.min 2 (s.limitOf 0 + 1)) 10 = .inl [(10, k.tag 10), (13, k.tag 13)] ∧ (k.tag 13).e0 = (k.tag 10).e0 ∧
    (k.tag 13).e1 = (k.tag 10).e1 ∧ k.imageMode 13 = bits h 85 84 ∧ k.imageMode 10 = bits h 85 84 ∧ k.inflight = [] ∧ s.jobs = [] ∧ k.recs = [] ∧
    s.splitOf k = none ∧ 20 + shelvesFor (accImageBytes 64 64 0) ≤ s.limitOf 0 := by unfold Runs; decide +kernel
theorem witness_ChainReduce_held : let i := TileInstr.reduceSplitk 10 20 1 true; let s := on i { images with recs := [(4, trec)] }; let k := s.core 0
    Runs s 0 i ∧ i.phase = some k.phase ∧ (k.xr 1).toNat = 2 ∧
    k.imagesAt (s.limitOf 0) (Nat.min 2 (s.limitOf 0 + 1)) 10 = .inl [(10, k.tag 10), (13, k.tag 13)] ∧ (k.tag 13).e0 = (k.tag 10).e0 ∧
    (k.tag 13).e1 = (k.tag 10).e1 ∧ k.imageMode 13 = k.imageMode 10 ∧
    k.imageMode 10 = bits ((k.objMem 10 (k.tag 10)).readLe 0 64) 85 84 ∧ k.recs ≠ [] := by unfold Runs; decide +kernel
/-- An MMA with an overflow, whose rerun is due. -/
def rerunning : State :=
  on (.mma mf) { operands (core [32, 128 * 65537]) with
    recs := [(4, trec)], pc := 1, inflight := [{ flight (.mma mf) with rerun := true, x := regs [32, 128 * 65537] }] }
theorem witness_RepairsReruns_rerun : let s := rerunning
    s.unitAlive 0 = true ∧ (s.core 0).inflight.map (fun g => (g.idx, g.instr, g.rerun)) = [(0, .mma mf, true)] ∧ mf.start ≠ 2 ∧
    lookupK 4 (s.core 0).recs = some trec ∧ (s.core 0).usesSparse mf = false ∧ s.jobs = [] := by decide +kernel
/-- A core with a repair pending for row 127, and one whose first spare is in use. -/
def repairing (sp : Option Nat) : State := on .fence { core [] with repair := ⟨sp, none, [(127, true)], false, false⟩, acc := Mem.cells (127 * 16384) [1#8, 2#8] }
theorem witness_RepairsReruns_switch : ∀ sp, sp = none ∨ sp = some 3 → (repairing sp).unitAlive 0 = true ∧
    ((repairing sp).core 0).repair.pending = [(127, true)] ∧ ((repairing sp).core 0).inflight = [] ∧ ((repairing sp).core 0).recs = [] ∧
    ((repairing sp).core 0).repair.sp0 = sp ∧ ((repairing sp).core 0).repair.sp1 = none := by rintro sp (rfl | rfl) <;> decide +kernel

/-! ## Witnesses: the bindery -/

/-- A run of one entry. -/
def run (row col tile : Nat) (core : Option (Nat × List Nat)) : Run := ⟨tile, 0, [⟨row, col, Twin.zero⟩], 0, core, false, 0, false⟩
/-- A device with a merge job of region 0. -/
def bindery (j : Job) (now : Option Nat) (q : List Nat) : State :=
  let s := withCtr (on .fence (core [])) { ctr with unformed := [], committed := [0, 1] }
  { s with jobs := [(77, { j with region := some 0 })], regions := s.regions.map (fun g => { g with jobNow := now, jobQueue := q }) }
theorem witness_BinderyMerges_start : let s := bindery job none [77, 78]
    s.alive = true ∧ (s.region 0).isolated = none ∧ (s.region 0).jobNow = none ∧ (s.region 0).jobQueue = 77 :: [78] ∧
    (lookupK 77 s.jobs).map (fun j => (j.finished, j.dispatch)) = some (false, some 1) ∧ s.dispatch? 1 = some disp ∧ s.allCommitted disp = true ∧
    disp.cancelling = false := by decide +kernel
theorem witness_BinderyMerges_pass : let s := bindery { job with runs := List.replicate 8 (run 3 4 0 none), merging := true } (some 77) []
    s.alive = true ∧ (s.region 0).isolated = none ∧ (s.region 0).jobNow = some 77 ∧ (lookupK 77 s.jobs).map (fun j => (j.runs.length, j.form, j.out)) = some (8, 0, 2 ^ 63) ∧
    isBus (BitVec.ofNat 64 (2 ^ 63)) = true := by decide +kernel
theorem witness_BinderyMerges_buffer : let s := bindery { job with runs := [run 3 4 0 (some (0, [16]))] } none []
    s.alive = true ∧ (lookupK 77 s.jobs).map (fun j => j.runs[0]?.map (fun x => (x.core.isSome, j.foreign x))) = some (some (true, false)) ∧ s.bufferUse 0 + 1 ≤ 16384 ∧
    (let f := bindery { job with runs := [run 3 4 0 (some (8, [16]))] } none []; (lookupK 77 f.jobs).map (fun j => j.runs[0]?.map (fun x => (x.core.isSome, j.foreign x))) = some (some (true, true))) := by decide +kernel

/-! ## Packets -/

/-- A packet of an opcode with tag 9. -/
def pkt (op : Nat) (ps : List Nat) : Packet :=
  BitVec.ofNat 512 (op * 2 ^ 32 + 9 + (ps.zipIdx.foldl (fun a p => a + p.1 % 2 ^ 64 * 2 ^ (64 * (p.2 + 1))) 0))
/-- Ring 1: its submission ring at bus address 0, its completion ring at 1000h, 16 entries each. -/
def ring1 : Ring :=
  { sqBase := 0x8000000000000000#64, cqBase := 0x8000000000001000#64, sqLog := 4, cqLog := 4, irqCount := 1, sqHead := 0, sqTail := 1,
    cqTail := 0, cqUsed := 0, cqPhase := true, reserved := 0, unfinal := 0, sinceIrq := 0, error := false, waiting := none, busy := none }
/-- The small device with one packet in ring 1. -/
def given (p : Packet) (s : State := on .fence (core [])) : State :=
  { s with rings := [(1, ring1)], hostMem := Mem.cells 0 (leBytes 64 p.toNat) }
/-- Ring 1 as a source. -/
abbrev r1 : Src := .ring 1
/-- A bus address as a parameter. -/
def bus (a : Nat) : Nat := 2 ^ 63 + a

theorem witness_PacketsRefused : ((0x0100, Instr.nop) : Nat × (Src → Instr)).1 = (commandRows.head?.map Prod.fst).getD 0 ∧
    (given (pkt 0x0999 [])).offered r1 = some (pkt 0x0999 []) ∧ listedOp (pktOp (pkt 0x0999 [])) = false ∧
    (given (pkt (0x0100 + 2 ^ 17) [])).offered r1 = some (pkt (0x0100 + 2 ^ 17) []) ∧ bits (pkt (0x0100 + 2 ^ 17) []).toNat 49 49 ≠ 0 ∧
    (given (pkt 0x0100 [0, 0, 0, 0, 0, 0, 1])).offered r1 = some (pkt 0x0100 [0, 0, 0, 0, 0, 0, 1]) ∧ 6 < 7 ∧
    bits (pkt 0x0100 [0, 0, 0, 0, 0, 0, 1]).toNat 63 51 = 0 ∧ bits (pkt 0x0100 [0, 0, 0, 0, 0, 0, 1]).toNat 49 49 = 0 ∧
    (∀ j, j < 6 → (pktP (pkt 0x0100 [0, 0, 0, 0, 0, 0, 1]) j).toNat &&& (mAll ^^^ ((paramMask 0x0100)[j]?).getD 0) = 0) ∧
    (pktP (pkt 0x0100 [0, 0, 0, 0, 0, 0, 1]) 6).toNat &&& (mAll ^^^ ((paramMask 0x0100)[6]?).getD 0) ≠ 0 ∧
    (given (pkt 0x0101 [])).offered r1 = some (pkt 0x0101 []) ∧ pktOp (pkt 0x0101 []) ≠ 0x0100 := by decide +kernel
theorem witness_ReplyLands : let s := given (pkt 0x0100 [])
    lookupK 1 s.rings = some ring1 ∧ ring1.error = false ∧ s.mode = .running ∧ ({} : Rep).cont = none ∧ ({} : Rep).kind = .final ∧
    dispatchOp (pktOp (pkt 0x0100 [])) = false ∧ isBus ring1.cqBase = true ∧ ring1.cqBase.toNat % 2 ^ 52 + 32 * 2 ^ ring1.cqLog ≤ 2 ^ 52 ∧
    ring1.cqTail < 2 ^ ring1.cqLog ∧ bit (s.msix.readLe (16 * 1 + 12) 4) 0 = false := by decide +kernel
/-- The same at the last entry of the ring, its vector masked, and with interrupts off. -/
theorem witness_ReplyLands_edges : let m := Mem.cells (16 * 1 + 12) [1#8]
    bit (m.readLe (16 * 1 + 12) 4) 0 = true ∧ (15 : Nat) < 2 ^ ring1.cqLog ∧ ¬ ({ ring1 with irqCount := 0 } : Ring).irqCount ≠ 0 := by decide +kernel
theorem witness_SimpleCommands : Accepted (given (pkt 0x0100 [])) r1 (pkt 0x0100 []) 0x0100 ∧ Accepted (given (pkt 0x0101 [])) r1 (pkt 0x0101 []) 0x0101 ∧
    Accepted (given (pkt 0x0120 [7])) r1 (pkt 0x0120 [7]) 0x0120 ∧ (given (pkt 0x0120 [7])).inTxn r1 = false ∧
    Accepted (given (pkt 0x0500 [4095])) r1 (pkt 0x0500 [4095]) 0x0500 ∧ Accepted (given (pkt 0x0501 [1, 5])) r1 (pkt 0x0501 [1, 5]) 0x0501 ∧
    Accepted (given (pkt 0x0502 [1, 5])) r1 (pkt 0x0502 [1, 5]) 0x0502 := by unfold Accepted; decide +kernel
/-- Setting 1 at its highest value, beyond it, and a number that is no setting. -/
theorem witness_SimpleCommands_settings : let f := Fuses.initial
    (∀ v, v = (f.settingRange 1).2 ∨ v = (f.settingRange 1).2 + 1 → Accepted (given (pkt 0x0104 [1, v])) r1 (pkt 0x0104 [1, v]) 0x0104) ∧
    ((given (pkt 0x0104 [1, 0])).settings.get 1).isSome = true ∧ Accepted (given (pkt 0x0104 [9, 0])) r1 (pkt 0x0104 [9, 0]) 0x0104 ∧
    (given (pkt 0x0104 [9, 0])).settings.get 9 = none ∧ Accepted (given (pkt 0x0105 [1])) r1 (pkt 0x0105 [1]) 0x0105 := by
  unfold Accepted; refine ⟨?_, by decide +kernel⟩; rintro v (rfl | rfl) <;> decide +kernel
/-- A tally wait whose value is 2^63 - 1 and 2^63 ahead. -/
theorem witness_SimpleCommands_wait : let p := pkt 0x0503 [0, 2 ^ 63 + 1]; let q := pkt 0x0503 [0, 2 ^ 63]
    Accepted (given p) r1 p 0x0503 ∧ ((given p).tally 0 - pktP p 1).toNat < 2 ^ 63 ∧ Accepted (given q) r1 q 0x0503 ∧
    2 ^ 63 ≤ ((given q).tally 0 - pktP q 1).toNat := by unfold Accepted; decide +kernel
/-- A ring with a waiting TALLY_WAIT. -/
def waitingTally (v : W64) : State := { on .fence (core []) with rings := [(1, { ring1 with waiting := some (.tally 9 0 v false), unfinal := 1, reserved := 1 })] }
theorem witness_SimpleCommands_satisfied : ((waitingTally 0).rings.map (fun g => g.2.waiting)) = [some (.tally 9 0 0 false)] ∧ (waitingTally 0).running = true ∧
    ((waitingTally 0).tally 0 - 0).toNat < 2 ^ 63 ∧ 2 ^ 63 ≤ ((waitingTally 1).tally 0 - 1).toNat := by decide +kernel
/-- The parameters of a CREATE_RING: number, bases, sizes. -/
def newRing (n a z : Nat) : Packet := pkt 0x0102 [n, bus a, bus 8192, z]
theorem witness_RingCommands_create : Accepted (given (newRing 0 4096 0x0404)) r1 (newRing 0 4096 0x0404) 0x0102 ∧
    Accepted (given (newRing 1 4096 0x0404)) r1 (newRing 1 4096 0x0404) 0x0102 ∧ Accepted (given (newRing 2 4096 0x1010)) r1 (newRing 2 4096 0x1010) 0x0102 ∧
    Accepted (given (newRing 2 64 0x0404)) r1 (newRing 2 64 0x0404) 0x0102 ∧ Accepted (given (newRing 2 4096 0x0403)) r1 (newRing 2 4096 0x0403) 0x0102 := by
  unfold Accepted; decide +kernel
theorem witness_RingCommands_fields : let p := newRing 2 4096 0x1010
    lookupK 2 ((given p).consume r1 p).rings = none ∧ lookupK 1 ((given p).consume r1 p).rings ≠ none ∧ addrLegal (pktP p 1) = true ∧
    addrLegal (pktP p 2) = true ∧ (pktP p 1).toNat % 4096 = 0 ∧ (pktP p 2).toNat % 4096 = 0 ∧ bits (pktP p 3).toNat 4 0 = 16 ∧
    bits (pktP p 3).toNat 12 8 = 16 ∧ (pktP (newRing 2 64 0) 1).toNat % 4096 ≠ 0 ∧ bits (pktP (newRing 2 4096 0x0403) 3).toNat 4 0 = 3 := by decide +kernel
theorem witness_RingCommands_bases : let r := pkt 0x0102 [2, bus 4096, bus 64, 0x0404]
    Accepted (given r) r1 r 0x0102 ∧ addrLegal (pktP r 1) = true ∧ addrLegal (pktP r 2) = true ∧ (pktP r 1).toNat % 4096 = 0 ∧ (pktP r 2).toNat % 4096 ≠ 0 := by unfold Accepted; decide +kernel
theorem witness_RingCommands_destroy : let p := pkt 0x0103 [2]; let q := pkt 0x0103 [1]
    let s : State := { given p with rings := [(1, ring1), (2, { ring1 with sqTail := 0 })] }
    Accepted s r1 p 0x0103 ∧ (lookupK 2 (s.consume r1 p).rings).map (fun g => (g.error, g.sqHead, g.sqTail, g.unfinal)) = some (false, 0, 0, 0) ∧
    Accepted (given q) r1 q 0x0103 ∧ (lookupK 1 ((given q).consume r1 q).rings).map (fun g => (g.error, g.unfinal)) = some (false, 1) ∧
    Accepted (given (pkt 0x0103 [0])) r1 (pkt 0x0103 [0]) 0x0103 := by unfold Accepted; decide +kernel

/-! ## Witnesses: transactions and routes -/

/-- A packet in ring 1 with a block of bytes at bus address 2000h. -/
def blocked (p : Packet) (bs : List Byte) (s : State := on .fence (core [])) : State :=
  { given p s with hostMem := Mem.cells 0 (leBytes 64 p.toNat) ++ Mem.cells 8192 bs }
/-- With a transaction of ring 1 open. -/
def inTxn (g : List Staged) (s : State) : State := { s with txn := some ⟨1, g, 8 * g.length⟩ }
theorem witness_TransactionsRoutes_txn : let b := pkt 0x0110 []; let c := pkt 0x0111 []; let r := pkt 0x0112 []
    Accepted (given b) r1 b 0x0110 ∧ (given b).txn = none ∧ Accepted { given b with txn := some ⟨2, [], 0⟩ } r1 b 0x0110 ∧
    Accepted (inTxn [.setting 1 5, .events 3] (given c)) r1 c 0x0111 ∧ Accepted (inTxn [.poly 0 []] (given c)) r1 c 0x0111 ∧
    Accepted (inTxn [] (given r)) r1 r 0x0112 ∧ Accepted (given c) r1 c 0x0111 ∧ Accepted (given r) r1 r 0x0112 := by
  unfold Accepted; decide +kernel
/-- A table that a dispatch still holds: its version is one behind. -/
def polyHeld (s : State) : State := { s with polys := ⟨1, [], []⟩ :: List.replicate 63 .reset }
theorem witness_TransactionsRoutes_stage : let p := pkt 0x0104 [1, 5]; let s := inTxn (List.replicate 4095 (.setting 1 5)) (given p)
    Accepted s r1 p 0x0104 ∧ s.settings.get 1 ≠ none ∧ (s.fuses.settingRange 1).1 ≤ 5 ∧ 5 ≤ (s.fuses.settingRange 1).2 ∧
    (List.replicate 4095 (Staged.setting 1 5)).length < 4096 ∧ 8 * 4095 + 8 ≤ 2 ^ 20 ∧
    Accepted (inTxn (List.replicate 4096 (.setting 1 5)) (given p)) r1 p 0x0104 ∧ (polyHeld (on .fence (core []))).polyBusy 0 = true := by
  unfold Accepted; decide +kernel
theorem witness_TransactionsRoutes_route : let p := pkt 0x0108 [4095, 1, bus 8192]; let q := pkt 0x0108 [4095, 2, bus 8192]
    let s := blocked p (leBytes 8 (2 ^ 56)); let b := blocked p [1#8]
    Accepted s r1 p 0x0108 ∧ s.inTxn r1 = false ∧ 4095 + 1 ≤ 4096 ∧ s.blockFault (pktP p 2) 8 2 = none ∧
    s.routeFault 4095 (entriesOf 8 1 (s.sysBytes (pktP p 2) 8)) = none ∧
    (∀ e ∈ entriesOf 8 1 (s.sysBytes (pktP p 2) 8), routeRestarts (s.routeOf 4095) e = false) ∧
    (∃ e ∈ entriesOf 8 1 (b.sysBytes (pktP p 2) 8), bits e 41 0 ≠ 0) ∧ Accepted (given q) r1 q 0x0108 ∧ 4096 < 4095 + 2 := by
  unfold Accepted; decide +kernel
theorem witness_TransactionsRoutes_sendroute : let p := pkt 0x0109 [255, 1, bus 8192]; let q := pkt 0x0109 [255, 2, bus 8192]
    let s := blocked p (leBytes 32 (2 ^ 255)); let b := blocked p [1#8]; let h := { s with sendVer := 1 }
    Accepted s r1 p 0x0109 ∧ s.blockFault (pktP p 2) 32 2 = none ∧ (entriesOf 32 1 (s.sysBytes (pktP p 2) 32)).any srReserved = false ∧
    s.sendRoutesBusy = false ∧ (entriesOf 32 1 (b.sysBytes (pktP p 2) 32)).any srReserved = true ∧ h.sendRoutesBusy = true ∧
    Accepted (given q) r1 q 0x0109 := by unfold Accepted; decide +kernel
theorem witness_TransactionsRoutes_poly : let p := pkt 0x0306 [63, bus 8192]
    let s := blocked p ((List.range 16).flatMap (fun i => leBytes 32 (if i = 0 then 0 else 0x7FC00000 * 2 ^ 128))); let b := blocked p (leBytes 32 (2 ^ 255))
    Accepted s r1 p 0x0306 ∧ s.blockFault (pktP p 1) 512 1 = none ∧ polyBad (entriesOf 32 16 (s.sysBytes (pktP p 1) 512)) = false ∧
    s.polyBusy 63 = false ∧ polyBad (entriesOf 32 16 (b.sysBytes (pktP p 1) 512)) = true ∧ s.inTxn r1 = false := by unfold Accepted; decide +kernel

/-! ## Witnesses: memory commands -/

/-- The small device with cleared frames. -/
def roomy : State := { on .fence (core []) with cleared := [7, 8, 9], allocs := [(4, ⟨4, 65536, 1, 0, [], false⟩)] }
/-- What Hokuec picks for an ALLOC of two pages. -/
def pick2 : AllocPick := ⟨6, 10 * 65536, [9, 7], []⟩
theorem witness_AllocationsPages_alloc : let p := pkt 0x0200 [131072, 0, 0, 0]; let s := given p roomy
    Accepted s r1 p 0x0200 ∧ s.allocFault p = none ∧ s.allocPickOk p pick2 = true ∧
    Accepted (given (pkt 0x0200 [65535])) r1 (pkt 0x0200 [65535]) 0x0200 ∧ 65535 % 65536 ≠ 0 ∧
    Accepted (given (pkt 0x0200 [2 ^ 52])) r1 (pkt 0x0200 [2 ^ 52]) 0x0200 ∧ (given (pkt 0x0200 [2 ^ 52])).allocatable < (given (pkt 0x0200 [2 ^ 52])).usedFrames + 2 ^ 52 / 65536 := by
  unfold Accepted; decide +kernel
theorem witness_AllocationsPages_free : let p := pkt 0x0201 [4]; let s := given p { roomy with tensors := [] }; let t := given p { roomy with tensors := [(1, { t1 with alloc := 4 })] }
    let q := pkt 0x0201 [5]
    Accepted s r1 p 0x0201 ∧ lookupK 4 s.allocs = some ⟨4, 65536, 1, 0, [], false⟩ ∧ (∀ d ∈ s.tensors, d.2.liesIn ⟨4, 65536, 1, 0, [], false⟩ = false) ∧
    (∀ d ∈ s.dispatches, ∀ x ∈ d.2.internal, x.2.liesIn ⟨4, 65536, 1, 0, [], false⟩ = false) ∧
    Accepted t r1 p 0x0201 ∧ (∃ d ∈ t.tensors, d.2.liesIn ⟨4, 65536, 1, 0, [], false⟩ = true) ∧ Accepted (given q) r1 q 0x0201 ∧
    lookupK 5 (given q).allocs = none := by unfold Accepted; decide +kernel
theorem witness_AllocationsPages_host : let e := pkt 0x0203 [131072, 2]; let r := pkt 0x0204 [131072, 2, bus 8192]; let m := pkt 0x0205 [131072, 2]
    let s := blocked r (leBytes 8 (5 * 65536 + 3) ++ leBytes 8 (6 * 65536 + 1)); let b := blocked r []
    Accepted (given e) r1 e 0x0203 ∧ Accepted s r1 r 0x0204 ∧ Accepted (given m) r1 m 0x0205 ∧ 131072 % 65536 = 0 ∧ 2 ≤ s.pages.length ∧
    (∀ i, i < 2 → ((lookupK (131072 / 65536 + i) s.pages).map Page.host) = some true) ∧ s.blockFault (pktP r 2) 16 2 = none ∧
    (∀ x ∈ entriesOf 8 2 (s.sysBytes (pktP r 2) 16), hostEntryBad x = false ∧ bits x 0 0 = 1) ∧
    (∃ x ∈ entriesOf 8 2 (b.sysBytes (pktP r 2) 16), hostEntryBad x = true ∨ bits x 0 0 = 0) ∧
    Accepted (given (pkt 0x0203 [64, 1])) r1 (pkt 0x0203 [64, 1]) 0x0203 ∧ Accepted (given (pkt 0x0203 [65536, 1])) r1 (pkt 0x0203 [65536, 1]) 0x0203 ∧
    ((lookupK 1 s.pages).map Page.host) = some false := by unfold Accepted; decide +kernel
theorem witness_AllocationsPages_translate : let p := pkt 0x0206 [65536 + 5]; let q := pkt 0x0206 [262144]
    Accepted (given p) r1 p 0x0206 ∧ (given p).page? (65536 + 5) = some localPage ∧ Accepted (given q) r1 q 0x0206 ∧ (given q).page? 262144 = none := by
  unfold Accepted; decide +kernel
theorem witness_CopyFill : let c := pkt 0x0207 [bus 65536, bus 8192, 4096]; let m := pkt 0x0207 [bus 8256, bus 8192, 128]; let f := pkt 0x0208 [bus 65536, 4096, 0xAB]
    Accepted (given c) r1 c 0x0207 ∧ 4096 % 64 = 0 ∧ rangesMeet (pktP c 0) (pktP c 1) 4096 = false ∧ isBus (pktP c 0) = true ∧ isBus (pktP c 1) = true ∧
    (given c).copies = [] ∧ Accepted (given m) r1 m 0x0207 ∧ rangesMeet (pktP m 0) (pktP m 1) 128 = true ∧
    Accepted (given (pkt 0x0207 [bus 0, bus 8192, 63])) r1 (pkt 0x0207 [bus 0, bus 8192, 63]) 0x0207 ∧ Accepted (given f) r1 f 0x0208 ∧
    (given c).sysCheckRead (pktP c 1) 4096 = .ok ∧ (given c).sysCheckWrite (pktP c 0) 4096 = .ok ∧ (given f).sysCheckWrite (pktP f 0) 4096 = .ok ∧
    isBus (pktP f 0) = true ∧ Accepted (given (pkt 0x0208 [bus 0, 65])) r1 (pkt 0x0208 [bus 0, 65]) 0x0208 := by unfold Accepted; decide +kernel
theorem witness_CopyFill_local : let c := pkt 0x0207 [65600, 65536 + 4096, 128]; let z := pkt 0x0207 [65600, 65536, 0]; let f := pkt 0x0208 [65600, 128, 0xAB]; let s := given c
    Accepted s r1 c 0x0207 ∧ rangesMeet (pktP c 0) (pktP c 1) 128 = false ∧ isBus (pktP c 0) = false ∧ s.sysCheckRead (pktP c 1) 128 = .ok ∧
    s.sysCheckWrite (pktP c 0) 128 = .ok ∧ s.page? 65600 = some localPage ∧ Accepted (given z) r1 z 0x0207 ∧ rangesMeet (pktP z 0) (pktP z 1) 0 = false ∧
    (given z).sysCheckRead (pktP z 1) 0 = .ok ∧ Accepted (given f) r1 f 0x0208 ∧ (given f).sysCheckWrite (pktP f 0) 128 = .ok := by
  unfold Accepted; decide +kernel
/-- A COPY whose bytes are all moved, with its ring. -/
def copied : State := { given (pkt 0x0100 []) with copies := [⟨0, 1, 0, bus 0, none, 0, 64, 64, none, []⟩], rings := [(1, { ring1 with busy := some (pkt 0x0208 []), unfinal := 1, reserved := 1 })] }
theorem witness_CopyFill_complete : copied.running = true ∧ (copied.copies.map (fun o => (o.stop, o.pos, o.len))) = [(none, 64, 64)] ∧
    ((lookupK 1 copied.rings).map Ring.busy) = some (some (pkt 0x0208 [])) := by decide +kernel

/-! ## Witnesses: descriptors, tables, programs -/

/-- The image of a row of 256 elements of INT8 at page 1. -/
def image : Nat := 65536 + 256 * 2 ^ 256 + 2 ^ 448 + 6 * 2 ^ 768 + 2 ^ 776 + 3 * 2 ^ 786
theorem witness_Tensors_create : let p := pkt 0x0300 [bus 8192]; let s := blocked p (leBytes 128 image) roomy; let b := blocked p [] roomy
    newHandle 5 s.tensors = true ∧ Accepted s r1 p 0x0300 ∧ pktP p 1 = 0 ∧ s.blockFault (pktP p 0) 128 0 = none ∧
    s.validate (ofLe (s.sysBytes (pktP p 0) 128)) { Desc.ofImage image with handle := 5, alloc := 4 } = none ∧
    (s.allocAt (Desc.ofImage image).base).map Alloc.handle = some 4 ∧ (Desc.ofImage image).empty = false ∧
    (b.validate (ofLe (b.sysBytes (pktP p 0) 128)) { Desc.ofImage 0 with handle := 5 }).isSome = true := by unfold Accepted; decide +kernel
theorem witness_Tensors_destroy : let p := pkt 0x0301 [1]; let q := pkt 0x0301 [9]
    Accepted (given p) r1 p 0x0301 ∧ lookupK 1 (given p).tensors ≠ none ∧ (∃ d ∈ (given p).dispatches, d.2.req.names 1 = true) ∧
    (∀ d ∈ ({ given p with dispatches := [] } : State).dispatches, d.2.req.names 1 = false) ∧ Accepted { given p with dispatches := [] } r1 p 0x0301 ∧
    Accepted (given q) r1 q 0x0301 ∧ lookupK 9 (given q).tensors = none := by unfold Accepted; decide +kernel
/-- An owner table of one block. -/
def own (sealed_ : Bool) : Owner := ⟨4, 2 ^ 40, 1, false, 0, [(0, 1)], [(0, 5)], sealed_, [], 0, none, [], []⟩
/-- The small device with that table, which nothing uses. -/
def owned (o : Owner) (p : Packet) : State := { given p with owners := [(4, o)], tensors := [] }
theorem witness_OwnerTables_create : let p := pkt 0x0302 [2 ^ 21, 2 ^ 26, 1]
    newHandle 4 (given p).owners = true ∧ Accepted (given p) r1 p 0x0302 ∧ 2 ^ 21 % 2 ^ 21 = 0 ∧ (given p).owners.length < 1024 ∧
    Accepted (given (pkt 0x0302 [2 ^ 20, 1])) r1 (pkt 0x0302 [2 ^ 20, 1]) 0x0302 ∧ 2 ^ 20 % 2 ^ 21 ≠ 0 ∧
    Accepted (given (pkt 0x0302 [0, 0])) r1 (pkt 0x0302 [0, 0]) 0x0302 ∧
    Accepted (given (pkt 0x0302 [0, 2 ^ 26 + 1])) r1 (pkt 0x0302 [0, 2 ^ 26 + 1]) 0x0302 := by unfold Accepted; decide +kernel
theorem witness_OwnerTables_full : let p := pkt 0x0302 [0, 1]; let s := { given p with owners := List.replicate 1024 (4, own false) }
    newHandle 5 s.owners = true ∧ Accepted s r1 p 0x0302 ∧ 1024 ≤ s.owners.length := by unfold Accepted; decide +kernel
theorem witness_OwnerTables_write : let p := pkt 0x0303 [4, 0, 1, bus 8192]; let q := pkt 0x0303 [4, 0, 2, bus 8192]
    let s := { inTxn [] (owned (own false) p) with hostMem := Mem.cells 0 (leBytes 64 p.toNat) ++ Mem.cells 8192 [3#8] }
    Accepted s r1 p 0x0303 ∧ s.txn = some ⟨1, [], 0⟩ ∧ (own false).sealed_ = false ∧ 0 + 1 ≤ (own false).count ∧ s.blockFault (pktP p 3) 8 3 = none ∧
    (entriesOf 8 1 (s.sysBytes (pktP p 3) 8)).any ownReserved = false ∧ Accepted (inTxn [] (owned (own true) p)) r1 p 0x0303 ∧
    Accepted (inTxn [] (owned (own false) q)) r1 q 0x0303 ∧ (own false).count < 0 + 2 := by unfold Accepted; decide +kernel
theorem witness_OwnerTables_switch : let p := pkt 0x0304 [4]; let d := pkt 0x0305 [4]
    Accepted (owned (own false) p) r1 p 0x0304 ∧ (owned (own false) p).txn = none ∧ (own false).copy = false ∧ Accepted (owned (own true) p) r1 p 0x0304 ∧
    Accepted (given p) r1 p 0x0304 ∧ lookupK 4 (given p).owners = none ∧ Accepted (owned (own false) d) r1 d 0x0305 ∧
    (∀ x ∈ (owned (own false) d).tensors, x.2.owner ≠ 4) ∧ Accepted (owned (own true) d) r1 d 0x0305 ∧ Accepted (given d) r1 d 0x0305 ∧
    Accepted { owned (own false) d with tensors := [(1, { t1 with owner := 4 })] } r1 d 0x0305 := by unfold Accepted; decide +kernel
/-- A sealed table whose SWITCH_OWNER waits in ring 1. -/
def switching (k : Core) : State := { on .fence k with owners := [(4, own true)], tensors := [], rings := [(1, { ring1 with sqTail := 0, busy := some (pkt 0x0304 [4]), unfinal := 1, reserved := 1 })] }
theorem witness_OwnerTables_finish : let s := switching (core []); let w := switching { core [] with inflight := [{ flight (.load (tf 0 0 1 3)) with gens := [(4, 0)], row := 1, stop := some ⟨0, 0, 1, false, 196608⟩ }] }
    lookupK 4 s.owners = some (own true) ∧ s.running = true ∧ s.txn = none ∧ s.switchReady 4 (own true) = true ∧ (own true).heldWrites = [] ∧
    w.switchReady 4 (own true) = false ∧ (lookupK 1 s.rings).map Ring.busy = some (some (pkt 0x0304 [4])) := by decide +kernel
/-- A program image of one HALT, with its CRC. -/
def img : List Byte :=
  let h := fun (crc : Nat) => leBytes 64 (0x0A097E90 + 2 ^ 32 + 72 * 2 ^ 64 + 2 ^ 96 + 2 ^ 112 + crc * 2 ^ 192) ++ leBytes 8 (0x61 * 2 ^ 56)
  h (crc32 (h 0))
theorem witness_JobsAndPrograms_job : let p := pkt 0x0307 [0xFFFF, 64, 4]; let q := pkt 0x0307 [0, 64, 9]; let s := given p roomy
    newHandle 77 s.jobs = true ∧ Accepted s r1 p 0x0307 ∧ bits 0xFFFF 17 16 = 0 ∧ lookupK 4 s.allocs ≠ none ∧ Accepted (given q roomy) r1 q 0x0307 ∧
    bits 0 15 0 < (given q roomy).regions.length ∧ lookupK 9 (given q roomy).allocs = none := by unfold Accepted; decide +kernel
theorem witness_JobsAndPrograms_load : let p := pkt 0x0400 [bus 8192]; let s := blocked p img; let b := blocked p []; let c := blocked p (img.set 24 0)
    newHandle 8 s.programs = true ∧ Accepted s r1 p 0x0400 ∧ s.blockFault (pktP p 0) 64 0 = none ∧ imageHeader (ofLe (s.sysBytes (pktP p 0) 64)) = none ∧
    bits (ofLe (s.sysBytes (pktP p 0) 64)) 95 64 = 72 ∧ s.blockFault (pktP p 0) 72 0 = none ∧
    (match readImage 8 (s.sysBytes (pktP p 0) 72) with | .inl _ => true | .inr _ => false) = true ∧
    (imageHeader (ofLe (b.sysBytes (pktP p 0) 64))).isSome = true ∧ imageHeader (ofLe (c.sysBytes (pktP p 0) 64)) = none ∧
    (match readImage 8 (c.sysBytes (pktP p 0) 72) with | .inl _ => true | .inr _ => false) = false := by unfold Accepted; decide +kernel
theorem witness_JobsAndPrograms_unload : let p := pkt 0x0401 [1]; let q := pkt 0x0401 [2]
    Accepted (given p) r1 p 0x0401 ∧ lookupK 1 (given p).programs ≠ none ∧ (∃ d ∈ (given p).dispatches, d.2.req.contract = none ∧ d.2.req.program = 1) ∧
    Accepted { given p with dispatches := [] } r1 p 0x0401 ∧ Accepted (given q) r1 q 0x0401 ∧ lookupK 2 (given q).programs = none := by
  unfold Accepted; decide +kernel

/-! ## Witnesses: dispatches -/

/-- A dispatch block: program 1 over a grid of 2 × 1 × 1 tiles. -/
def block : Nat := 256 * 2 ^ 1216 + 2 ^ 1248 + 2 ^ 1280 + 128 * 2 ^ 1312 + 2 ^ 1344 + 2 ^ 1376 + 2 ^ 1408
theorem witness_DispatchReads_dispatch : let p := pkt 0x0402 [bus 8192, 0]; let s := blocked p (leBytes 256 block); let b := blocked p (leBytes 256 (2 ^ 2047))
    let f := blocked p (leBytes 256 0); let q := pkt 0x0402 [bus 8192, 3]
    Accepted s r1 p 0x0402 ∧ bits (pktP p 1).toNat 1 0 ≠ 3 ∧ s.blockFault (pktP p 0) 256 0 = none ∧ blockReserved (ofLe (s.sysBytes (pktP p 0) 256)) = false ∧
    s.dispatchFault ((Request.control p 1).ofBlock block) = none ∧ ofLe (s.sysBytes (pktP p 0) 256) = block ∧
    lookupK ((Request.control p 1).ofBlock block).costTensor s.tensors = none ∧ blockReserved (ofLe (b.sysBytes (pktP p 0) 256)) = true ∧
    (f.dispatchFault ((Request.control p 1).ofBlock (ofLe (f.sysBytes (pktP p 0) 256)))).isSome = true ∧
    Accepted (given q) r1 q 0x0402 ∧ bits (pktP q 1).toNat 1 0 = 3 := by unfold Accepted; decide +kernel
/-- A contraction block over descriptors 1, 2, 3 (no valid operands), and one with a reserved bit. -/
theorem witness_DispatchReads_contract : let p := pkt 0x0403 [bus 8192, 0]; let s := blocked p (leBytes 128 (1 + 2 * 2 ^ 32 + 9 * 2 ^ 64)); let b := blocked p (leBytes 128 (2 ^ 1023))
    Accepted s r1 p 0x0403 ∧ s.blockFault (pktP p 0) 128 0 = none ∧ ctBad (ofLe (s.sysBytes (pktP p 0) 128)) = false ∧
    bits (ofLe (s.sysBytes (pktP p 0) 128)) 531 480 = 0 ∧
    (match s.tileContract { Request.control p 1 with restart := false } (Contraction.ofBlock (1 + 2 * 2 ^ 32 + 9 * 2 ^ 64) none) with | .inr _ => true | .inl _ => false) = true ∧
    ctBad (ofLe (b.sysBytes (pktP p 0) 128)) = true := by unfold Accepted; decide +kernel
/-- The device with a cost tensor of two elements at an address, and a dispatch block that names it. -/
def costly (base : Nat) : State :=
  { blocked (pkt 0x0402 [bus 8192, 0]) (leBytes 256 (block + 5 * 2 ^ 1440)) with tensors := (on .fence (core [])).tensors ++ [(5, tens 5 base [2] [1] 0x12 0)] }
theorem witness_DispatchReads_costs : let q := (Request.control (pkt 0x0402 [bus 8192, 0]) 1).ofBlock (block + 5 * 2 ^ 1440)
    (costly 65536).dispatchFault q = none ∧ (costly 262144).dispatchFault q = none ∧
    (match (costly 65536).readCosts q with | (_, .inl (some l)) => l.length == 2 | _ => false) = true ∧
    (match (costly 262144).readCosts q with | (_, .inr f) => f.st == .unmapped | _ => false) = true := by decide +kernel
theorem witness_DispatchReads_chain : let s := on .fence (core [])
    (match s.chainRecord 65536 with | (_, .inl (some c)) => !c.prologue && c.stages.isEmpty | _ => false) = true ∧
    (match s.chainRecord 8 with | (_, .inr f) => f.st == .align | _ => false) = true := by decide +kernel
/-- Operands of a contraction of 128 × 128 × 128, and its block. -/
def ctDescs : List (Nat × Desc) :=
  [(1, { tens 1 65536 [128, 128] [1, 128] 6 0 with access := 1 }), (2, { tens 2 81920 [128, 128] [1, 128] 6 0 with access := 1 }),
   (3, { tens 3 65536 [128, 128] [1, 128] 0x0A 0 with access := 2 })]
def ctBlock : Nat := 1 + 2 * 2 ^ 32 + 3 * 2 ^ 64
theorem witness_DispatchReads_contract_waits : let p := pkt 0x0403 [bus 8192, 0]; let s := { blocked p (leBytes 128 ctBlock) with tensors := ctDescs }
    Accepted s r1 p 0x0403 ∧ ctBad (ofLe (s.sysBytes (pktP p 0) 128)) = false ∧
    (match s.tileContract { Request.control p 1 with restart := false } (Contraction.ofBlock ctBlock none) with | .inl r => r.tiles == 1 | .inr _ => false) = true := by
  unfold Accepted; decide +kernel
/-- A request that waits at ring 1, with no dispatch accepted. -/
def waitingReq (q : Request) : State :=
  { on .fence { core [] with dispatch := none } with
    dispatches := [], regions := [Region.fresh true], rings := [(1, { ring1 with waiting := some (.dispatch q), unfinal := 1, reserved := 3 })] }
def place : PlacePick := ⟨5, [⟨0, 0, 64, 0, 2⟩], []⟩
theorem witness_DispatchAccepted : let s := waitingReq req
    (lookupK 1 s.rings).map Ring.waiting = some (some (.dispatch req)) ∧ s.running = true ∧ s.ringsPaused = false ∧ s.requestFault req = none ∧
    s.pickOk req place = true ∧ req.contract = none ∧ req.tiles ≠ 0 ∧ s.pickOk req ⟨5, [], []⟩ = false ∧
    ((waitingReq { req with program := 9 }).requestFault { req with program := 9 }).isSome = true := by decide +kernel
/-- A dispatch with a tally wait; one with a dependency; one whose work is done. -/
def tallied : State := { on .fence (core []) with dispatches := [(1, { disp with req := { req with tallyWait := some (3, 0) }, ready := false })] }
def depends (st : Option St) : State := { on .fence (core []) with dispatches := [(1, { disp with deps := [⟨2, 9, st⟩] })] }
def done : State :=
  { withCtr (on .fence { core [] with dispatch := none }) { ctr with unformed := [], committed := [0, 1] } with
    dispatches := [(1, { disp with committed := 2 })], rings := [(1, { ring1 with sqTail := 0, unfinal := 1, reserved := 2 })] }
theorem witness_DispatchEnds : tallied.running = true ∧ (tallied.tally 3 - 0).toNat < 2 ^ 63 ∧
    2 ^ 63 ≤ ({ tallied with tallies := [(3, -1)] }.tally 3 - 0).toNat ∧ (depends (some .ok)).running = true ∧
    (∀ e ∈ (depends (some .ok)).dispatches, ∀ x ∈ e.2.deps, x.number = 9 → x.ended = none ∨ x.ended = some .ok) ∧
    (depends (some .faulted)).dispatches.map (fun e => (e.2.cancelling, e.2.deps)) = [(false, [⟨2, 9, some .faulted⟩])] := by decide +kernel
theorem witness_DispatchEnds_complete : done.running = true ∧ lookupK 1 done.dispatches = some { disp with committed := 2 } ∧ done.workDone { disp with committed := 2 } = true ∧
    (∀ e ∈ done.dispatches, e.2.homeless = [] ∧ e.2.homelessBack = []) ∧ (on .fence (core [])).workDone disp = false := by decide +kernel

/-- A dispatch that a core with tile 0 runs, and the same with its core stopped by a fault. -/
def running (st : Option Stopped) (p : Packet) : State := given p (withCtr (on .fence { core [] with held := some (held 0), stopped := st }) { ctr with taken := [(0, 0)], unformed := [(1, 2)] })
theorem witness_Cancels_dispatch : let c := pkt 0x0404 [1]; let f := pkt 0x0406 [1]; let x := some (Stopped.mk 0 .bounds 0)
    Accepted (running none c) r1 c 0x0404 ∧ pktP c 1 = 0 ∧ pktP c 2 = 0 ∧ lookupK 1 (running none c).dispatches = some disp ∧ disp.cancelling = false ∧
    Accepted (running x f) r1 f 0x0406 ∧ (running x f).stoppedCores 1 ≠ [] ∧ Accepted (running none f) r1 f 0x0406 ∧ (running none f).stoppedCores 1 = [] ∧
    Accepted (given (pkt 0x0404 [2])) r1 (pkt 0x0404 [2]) 0x0404 ∧ lookupK 2 (given (pkt 0x0404 [2])).dispatches = none := by unfold Accepted; decide +kernel
/-- A dispatch that is being cancelled by a packet of ring 1. -/
def cancelling : State :=
  { withCtr (on .fence { core [] with dispatch := none }) { ctr with state := .cancelling, unformed := [] } with
    dispatches := [(1, { disp with cancelling := true, ending := some (.cancelled, 0) })],
    rings := [(1, { ring1 with sqTail := 0, busy := some (pkt 0x0404 [1]), unfinal := 2, reserved := 3 })] }
theorem witness_Cancels_complete : cancelling.running = true ∧ (lookupK 1 cancelling.dispatches).map Dispatch.cancelling = some true ∧
    (cancelling.dispatches.map (fun e => (e.2.readsOut, e.2.acksOut)) = [([], [])]) ∧
    (let d := { disp with cancelling := true, readsOut := [4] }; ({ cancelling with dispatches := [(1, d)] } : State).quiet d = false) ∧
    (∀ e ∈ cancelling.dispatches, e.2.homeless = [] ∧ e.2.homelessBack = []) ∧ (lookupK 1 cancelling.rings).map Ring.busy = some (some (pkt 0x0404 [1])) := by decide +kernel
/-- Rings 1 and 2: the packet in ring 1, and a packet that waits at the head of ring 2. -/
def other (w : Option Waiting) (p : Packet) : State :=
  let s := given p
  { s with rings := s.rings ++ [(2, { ring1 with cqBase := 0x8000000000002000#64, waiting := w, unfinal := 1, reserved := 1 })] }
theorem witness_Cancels_waiting : let p := pkt 0x0404 [2, 1, 7]; let w := some (Waiting.dispatch req); let t := some (Waiting.tally 7 0 1 false)
    Accepted (other w p) r1 p 0x0404 ∧ bit (pktP p 1).toNat 0 = true ∧ (lookupK 2 ((other w p).consume r1 p).rings).map Ring.waiting = some w ∧
    req.tag = (pktP p 2).toNat ∧ Accepted (other t p) r1 p 0x0404 ∧ Accepted (other none p) r1 p 0x0404 ∧
    Accepted (other w (pkt 0x0404 [2, 1, 8])) r1 (pkt 0x0404 [2, 1, 8]) 0x0404 ∧ req.tag ≠ 8 ∧
    Accepted (given (pkt 0x0404 [64, 1])) r1 (pkt 0x0404 [64, 1]) 0x0404 ∧ 64 ≤ (pktP (pkt 0x0404 [64, 1]) 0).toNat := by unfold Accepted; decide +kernel
/-- A stopped core without a tile. -/
def stopped0 (p : Packet) : State := given p (on .fence { core [] with stopped := some ⟨0, .bounds, 0⟩ })
theorem witness_Cancels_drop : let p := pkt 0x0406 [1, 1]
    Accepted (stopped0 p) r1 p 0x0406 ∧ bit (pktP p 1).toNat 0 = true ∧ lookupK 1 (stopped0 p).dispatches = some disp ∧ (stopped0 p).stoppedCores 1 = [0] ∧
    ((stopped0 p).core 0).held = none := by unfold Accepted; decide +kernel

/-! ## Witnesses: service -/

/-- The small device with a repair state of its core. -/
def repaired (r : Repair) (p : Packet) : State := given p (on .fence { core [] with repair := r })
theorem witness_RecordsRepairs_read : let k := pkt 0x0600 [0, 0]; let c := pkt 0x0600 [2, 23]; let d := pkt 0x0600 [1, 0, bus 8192]
    Accepted (given k) r1 k 0x0600 ∧ 0 < (given k).cores.length ∧ Accepted (given c) r1 c 0x0600 ∧ (given c).channels[23]? = some Channel.initial ∧
    Accepted (given d) r1 d 0x0600 ∧ 0 / 64 < (given d).regions.length ∧ isBus (pktP d 2) = true ∧ addrLegal (pktP d 2) = true ∧
    (pktP d 2).toNat % 64 = 0 ∧ Accepted (given (pkt 0x0600 [3])) r1 (pkt 0x0600 [3]) 0x0600 ∧
    Accepted (given (pkt 0x0600 [0, 1])) r1 (pkt 0x0600 [0, 1]) 0x0600 ∧ (given (pkt 0x0600 [0, 1])).cores.length ≤ 1 ∧
    Accepted (given (pkt 0x0600 [1, 64])) r1 (pkt 0x0600 [1, 64]) 0x0600 ∧ Accepted (given (pkt 0x0600 [2, 24])) r1 (pkt 0x0600 [2, 24]) 0x0600 := by
  unfold Accepted; decide +kernel
theorem witness_RecordsRepairs_repair : let p := pkt 0x0601 [0, 127]
    ∀ r ∈ [Repair.ofWord 0, ⟨some 127, none, [], false, false⟩, ⟨some 1, some 2, [], false, false⟩, ⟨none, none, [], true, false⟩],
      (repaired r p).offered r1 = some p ∧ ((repaired r p).consume r1 p).gate r1 p = none ∧ ((repaired r p).core 0).present = true := by decide +kernel
theorem witness_RecordsRepairs_word : ∀ x, (Repair.mk (some 127) (some 0) [(5, true)] true true).sp0 = some x → x < 128 := by
  rintro x h; cases h; decide
/-- An idle core of a region whose spare is free or not. -/
def idle (used : Bool) : State := { on .fence { core [] with dispatch := none } with regions := [{ Region.fresh true with spareUsed := used }], dispatches := [] }
theorem witness_CoresQuarantined : ∀ u, u = true ∨ u = false → (idle u).running = true ∧ ((idle u).core 0).present = true ∧ ((idle u).core 0).dispatch = none ∧
    ((idle u).core 0).held = none ∧ ((idle u).core 0).inflight = [] ∧ ((idle u).region 0).spareOk = true ∧ ((idle u).region 0).spareUsed = u := by
  rintro u (rfl | rfl) <;> decide +kernel
theorem witness_CoresQuarantined_command : let p := pkt 0x0604 [0]; let q := pkt 0x0604 [1]
    Accepted (given p (idle false)) r1 p 0x0604 ∧ Accepted (given p (idle true)) r1 p 0x0604 ∧ Accepted (given q (idle false)) r1 q 0x0604 ∧
    Accepted { given p (idle false) with cores := [{ core [] with present := false }] } r1 p 0x0604 := by unfold Accepted; decide +kernel
theorem witness_CoresQuarantined_held : let s := { withCtr (on .fence { core [] with held := some (held 0) }) taken0 with regions := [{ Region.fresh true with counters := [(0, taken0)], spareUsed := true }] }
    s.running = true ∧ (s.core 0).present = true ∧ (s.core 0).held = some (held 0) ∧ (s.core 0).inflight = [] ∧ s.dispatch? 1 = some disp ∧
    s.homeOf disp 0 = some (0, 0, taken0) ∧ taken0.state = .active ∧ 0 ∉ taken0.committed ∧ 0 ∉ taken0.suspended ∧ (∀ x ∈ taken0.taken, x.1 = 0 → x.2 = 0) ∧
    (s.region 0).spareUsed = true := by decide +kernel
/-- Two regions of one core each (core 8 is in region 1), one dispatch with a counter in both. -/
def two (k0 k1 : Counter) (d : Dispatch) : State :=
  let s := on .fence { core [] with held := some (held 0) }
  { s with cores := core [] :: List.replicate 7 { core [] with dispatch := none } ++ [{ core [] with dispatch := none }],
           regions := [{ Region.fresh true with counters := [(0, k0)] }, { Region.fresh true with counters := [(2, k1)] }],
           dispatches := [(1, { d with counters := [(0, 0), (1, 2)] })] }
/-- Tile 0 taken, tile 1 returned; the other counter has tiles 5 to 9. -/
def split2 : State := two { ctr with taken := [(0, 0)], returned := [1], unformed := [], committed := [2], ranges := [(0, 3)] } { ctr with ranges := [(5, 10)], unformed := [(5, 10)] } disp
theorem witness_RegionsIsolated_error : let s := split2
    0 < s.regions.length ∧ s.running = true ∧ (s.region 0).isolated = none ∧ IsoCause.desk ≠ .command ∧
    (s.dispatches.map (fun d => (d.1, d.2.number, d.2.cancelling, d.2.counters))) = [(1, 1, false, [(0, 0), (1, 2)])] ∧
    (s.core 8).dispatch = none ∧ ({ s with dispatches := [], cores := [] } : State).dispatches = [] := by decide +kernel
theorem witness_RegionsIsolated_tiles : let s := split2
    s.jobs = [] ∧ IsoCause.stack ≠ .command ∧ IsoCause.stack ≠ .desk ∧ s.inService 1 = true ∧ (s.counter? 0 0).isSome = true ∧ (s.counter? 1 2).isSome = true ∧
    disp.homeless = [] ∧ disp.homelessBack = [] ∧ ((0, 0) : Nat × Nat).1 ≠ 1 := by decide +kernel
theorem witness_RegionsIsolated_commands : let p := pkt 0x0605 [0]; let s := given p split2; let iso := fun (s : State) (r : Nat) => s.updRegion r (fun g => { g with isolated := some .command })
    Accepted s r1 p 0x0605 ∧ (s.region 1).isolated = none ∧ Accepted (iso s 1) r1 p 0x0605 ∧ (∀ q, q < (iso s 1).regions.length → q ≠ 0 → ((iso s 1).region q).isolated ≠ none) ∧
    Accepted (iso s 0) r1 p 0x0605 ∧ ((iso s 0).region 0).isolated ≠ none ∧ Accepted (given (pkt 0x0605 [2]) split2) r1 (pkt 0x0605 [2]) 0x0605 := by
  unfold Accepted; decide +kernel
theorem witness_RegionsIsolated_restore : let p := pkt 0x0606 [0]; let s := (given p split2).updRegion 0 (fun g => { g with isolated := some .stack })
    Accepted s r1 p 0x0606 ∧ (s.region 0).isolated = some .stack ∧ (∀ e ∈ s.dispatches, e.2.homeless = [] ∧ e.2.homelessBack = []) ∧
    Accepted (given p split2) r1 p 0x0606 ∧ Accepted (given (pkt 0x0606 [2]) split2) r1 (pkt 0x0606 [2]) 0x0606 := by unfold Accepted; decide +kernel

/-! ## Witnesses: frames, pages, channels -/

/-- The running device with pages and no core. -/
def plain (pages : List (Nat × Page)) : State := { State.reset with mode := .running, hif := { Hif.reset with ready := true }, cores := [], regions := [], pages := pages }
theorem witness_FramesPages_frames : let s := { plain [] with poison := [maxFrames * 512 - 512, 7] }
    s.running = true ∧ maxFrames - 1 < maxFrames ∧ s.frameUsed (maxFrames - 1) = false ∧ maxFrames - 1 ∉ s.retired ∧ maxFrames - 1 ∉ s.cleared ∧
    ({ s with settings := { s.settings with scrubRate := 0 } } : State).settings.scrubRate = 0 ∧ s.settings.scrubRate ≠ 0 ∧ s.channels[23]? = some Channel.initial ∧
    Channel.initial.state = 1 ∧ 511 < 512 ∧ s.scrubAt[23]? = some 0 ∧ 23 < s.channels.length := by decide +kernel
/-- The line that a channel's patrol reads is some line of some frame, and may lie on the channel. -/
theorem witness_FramesPages_patrol : ∃ f l, l < 512 ∧ Config.patrolLine 23 (((plain []).scrubAt[23]?).getD 0) = f * 512 + l ∧ (plain []).onChannel f l 23 = true :=
  ⟨_, _, Nat.mod_lt _ (by decide), (Nat.div_add_mod' _ 512).symm, rfl⟩
/-- A page that moves for an evacuation of channel 0, and one whose frame is due for retirement. -/
def leaving : State := { plain [(1, localPage)] with cleared := [9], channels := { Channel.initial with state := 2, leaving := [1] } :: List.replicate 23 .initial }
def retiring : State := { plain [(1, { localPage with big := true }), (2, { localPage with big := true, at_ := 6 })] with cleared := [9], retireDue := [(5, 3)] }
theorem witness_FramesPages_migrate : leaving.running = true ∧ lookupK (65536 / 65536) leaving.pages = some localPage ∧ leaving.frameFree 9 = true ∧
    (∃ c ∈ leaving.channels, 1 ∈ c.leaving) ∧ ({ leaving with restoring := [1] } : State).restoring = [1] ∧ lookupK 1 retiring.pages = some { localPage with big := true } ∧
    retiring.frameFree 9 = true ∧ lookupK 5 retiring.retireDue = some 3 ∧ retiring.spareFrames ≠ 0 ∧ retiring.running = true := by decide +kernel
/-- The copy of that move. -/
def moving : State := { leaving with pages := [(1, { localPage with moving := some 9 })], dram := Mem.cells (5 * 65536) [1#8, 2#8], poison := [5 * 512 + 3] }
theorem witness_FramesPages_copy : moving.running = true ∧ lookupK 1 moving.pages = some { localPage with moving := some 9 } ∧ moving.retireDue = [] ∧
    moving.ownerHolds = [] ∧ moving.dram.wf = true ∧ (moving.channels[0]?).map (fun c => (c.state, c.leaving)) = some (2, [1]) := by decide +kernel
/-- A device with one allocation of one page. -/
def allocated : State := { plain [(1, { localPage with ways := [22, 23] })] with allocs := [(4, ⟨4, 65536, 1, 0, [], false⟩)] }
/-- A device with no pages: an evacuated channel is OUT at once. -/
theorem witness_ChannelsServed_evacuate : let p := pkt 0x0602 [23]; let s := given p allocated; let e := given p (plain [])
    let one := given p { plain [] with channels := List.replicate 23 { Channel.initial with state := 3 } ++ [Channel.initial] }
    Accepted s r1 p 0x0602 ∧ s.channels[23]? = some Channel.initial ∧ Channel.initial.state = 1 ∧
    (s.updChannel 23 (fun q => { q with state := 2, leaving := s.pagesOn 23 })).serviceChannels ≠ [] ∧
    s.usedFrames ≤ (s.updChannel 23 (fun q => { q with state := 2, leaving := s.pagesOn 23 })).allocatable ∧ s.pagesOn 23 ≠ [] ∧ e.pagesOn 23 = [] ∧
    Accepted one r1 p 0x0602 ∧ (one.updChannel 23 (fun q => { q with state := 2, leaving := one.pagesOn 23 })).serviceChannels = [] ∧
    Accepted (given (pkt 0x0602 [24]) (plain [])) r1 (pkt 0x0602 [24]) 0x0602 ∧
    Accepted (given p { plain [] with channels := List.replicate 24 { Channel.initial with state := 3 } }) r1 p 0x0602 := by unfold Accepted; decide +kernel
/-- A channel that is out, with a RETURN_CHANNEL of ring 1 waiting for it. -/
def returning : State :=
  { plain [] with channels := { Channel.initial with state := 3, pwren := some true } :: List.replicate 23 .initial,
                  rings := [(1, { ring1 with sqTail := 0, busy := some (pkt 0x0603 [0]), unfinal := 1, reserved := 1 })] }
theorem witness_ChannelsServed_return : let p := pkt 0x0603 [0]
    let s := given p { plain [] with channels := { Channel.initial with state := 5 } :: List.replicate 23 .initial }
    Accepted s r1 p 0x0603 ∧ (s.channels[0]?).map Channel.state = some 5 ∧ Accepted (given p (plain [])) r1 p 0x0603 ∧
    Accepted (given (pkt 0x0603 [24]) (plain [])) r1 (pkt 0x0603 [24]) 0x0603 ∧ (returning.channels[0]?).map Channel.state = some 3 ∧ returning.running = true ∧
    returning.ringsBusy 0x0603 (fun p => (pktP p 0).toNat == 0) = [1] ∧ dimmListed ⟨256, 12800, true⟩ = true ∧
    (∀ x ∈ returning.channels, (x.state = 1 ∨ x.state = 2) → x.size = 256) ∧ ¬ 12800 < returning.rate ∧ dimmListed ⟨255, 12800, true⟩ = false := by
  unfold Accepted; decide +kernel

/-! ## Witnesses: the fabric -/

/-- The running device with no core, a local page, its socket 5, a route to socket 6 by port 0 (and by port 1 when that is down), and ports 0 and 1. -/
def fab (q0 q1 : Port) : State := { net (plain [(1, localPage)]) with routes := [(5, 2 ^ 63 + 2 ^ 62), (6, 2 ^ 63 + 2 ^ 60 + 2 ^ 52)], ports := q0 :: q1 :: List.replicate 14 (Port.reset true) }
/-- An UP port with given failed lanes and width. -/
def up (fail width : Nat) : Port := { Port.reset true with state := 2, laneFail := fail, width := width, peerSock := 6 }
theorem witness_PortsTrained_lanes : let s := fab (up 0 8) (up 0 8)
    s.ports[0]? = some (up 0 8) ∧ s.alive = true ∧ (up 0 8).state = 2 ∧ bit (up 0 8).laneFail 7 = false ∧ 8 - popcount 8 (0 + 2 ^ 7) = 7 ∧
    8 - popcount 8 (1 + 2 ^ 7) = 6 ∧ 8 - popcount 8 (3 + 2 ^ 7) = 5 ∧ 8 - popcount 8 (7 + 2 ^ 7) = 4 ∧ 8 - popcount 8 (15 + 2 ^ 7) = 3 ∧
    (fab (up 15 4) (up 0 8)).socketsBy [0] = [] ∧
    (let q : Port := { up 0 8 with bad := (List.range 15).map (fun i => (i, 7)), words := 64 }
     let bad : List (Nat × Nat) := (q.bad ++ [(69, 7)]).filter (fun b => 128 ≤ b.1 + 2 ^ 20)
     (bad.filter (fun b => b.2 == 7)).length = 16 ∧ ∀ m, m < 8 → m ≠ 7 → (bad.filter (fun b => b.2 == m)).length < 16) := by decide +kernel
/-- One packet of the stream to socket 6 not acknowledged. -/
def sent : FPacket := ⟨6, 5, 0, 0, 0, .tallyInc 1 1⟩
def streaming (s : State) : State := { s with streams := [(6, ⟨1, [sent], 0, false, []⟩)] }
theorem witness_PortsTrained_alternate : let s := streaming (fab (up 15 4) (up 0 8))
    s.streams = [(6, ⟨1, [sent], 0, false, []⟩)] ∧ s.exitPort 6 = some (0, false) ∧ bits (s.routeOf 6) 59 56 = 0 ∧ bit (s.routeOf 6) 60 = true ∧
    bits (s.routeOf 6) 55 52 = 1 ∧ s.portUp 1 = true ∧ s.ports[0]? = some (up 15 4) ∧ bit 15 7 = false := by decide +kernel
theorem witness_PortsTrained_train : let s := fab { Port.reset true with state := 1 } { up 1 7 with stalled := true }
    (s.ports[0]?).map Port.state = some 1 ∧ s.alive = true ∧ s.laserRings 0x0608 (s.fuses.engineOf 0) = [] ∧ s.self? = some 5 ∧ 6 ≠ 5 ∧
    (s.ports[1]?).map Port.stalled = some true ∧ (plain []).self? = none := by decide +kernel
/-- Packets of the laser commands for input 0. -/
theorem witness_LasersSwapped_commands : let p := pkt 0x0607 [0]; let d := pkt 0x0608 [0]
    let s := given p { fab (up 0 8) (up 0 8) with routes := [(5, 2 ^ 63 + 2 ^ 62)] }; let b := given p (fab (up 0 8) (up 0 8))
    let t := given d (fab { Port.reset true with state := 4 } { Port.reset true with state := 4 })
    Accepted s r1 p 0x0607 ∧ s.fuses.usesInput 0 = true ∧ s.strandedBy (s.enginePorts 0) = none ∧ s.socketsBy (s.enginePorts 0) = [] ∧
    Accepted b r1 p 0x0607 ∧ b.strandedBy (b.enginePorts 0) = some 6 ∧ Accepted t r1 d 0x0608 ∧ t.socketsBy (t.enginePorts 0) = [] ∧ 0 ∉ t.pins.laserLost ∧
    t.fuses.engineOf 1 = 0 ∧ (t.ports[1]?).map Port.state = some 4 ∧
    Accepted (given (pkt 0x0607 [3]) { plain [] with fuses := { Fuses.initial with part0961 := true } }) r1 (pkt 0x0607 [3]) 0x0607 ∧
    ({ Fuses.initial with part0961 := true } : Fuses).usesInput 3 = false := by unfold Accepted; decide +kernel
/-- A ring whose laser command waits. -/
def lasering (op : Nat) (s : State) : State := { s with rings := [(1, { ring1 with sqTail := 0, busy := some (pkt op [0]), unfinal := 1, reserved := 1 })] }
theorem witness_LasersSwapped_events : let s := lasering 0x0607 (fab { up 0 8 with closing := true } { up 0 8 with closing := true })
    let t := lasering 0x0608 (fab { Port.reset true with state := 1, retraining := true } (up 0 8)); let l := fab (up 0 8) (up 0 8)
    s.alive = true ∧ s.laserRings 0x0607 0 ≠ [] ∧ (t.ports[0]?).map Port.state = some 1 ∧ t.self? = some 5 ∧ t.laserRings 0x0608 0 ≠ [] ∧
    (t.ports[1]?).map (fun y => (y.retraining, y.state)) = some (false, 2) ∧ t.fuses.engineOf 1 = 0 ∧ t.fuses.engineOf 2 = 1 ∧
    l.fuses.usesInput 7 = true ∧ 7 ∉ l.pins.laserLost ∧ l.alive = true ∧ l.laserRings 0x0608 7 = [] ∧ l.socketsBy (l.enginePorts 7) = [] ∧
    l.fuses.engineOf 15 = 7 ∧ (l.ports[15]?).map Port.state = some 0 := by decide +kernel
/-- A packet of socket 6 for this device, or for another socket. -/
def fp (dst seq : Nat) (b : FBody) : FPacket := ⟨dst, 6, 0, seq, 0, b⟩
theorem witness_FabricPackets : let s := fab (up 0 8) (up 0 8)
    0 < s.ports.length ∧ s.portReceives 0 = true ∧ s.self? = some 5 ∧ (fp 6 0 .ack).dst ≠ 5 ∧ s.exitPort 6 = some (0, false) ∧ s.exitPort 9 = none ∧
    (fp 5 0 .ack).dst = 5 ∧ (fp 5 0 .ack).epoch = routeEpoch (s.routeOf 6) ∧ ({ fp 5 0 (.tallyInc 1 1) with epoch := 1 } : FPacket).epoch ≠ routeEpoch (s.routeOf 6) ∧
    s.holdsFor 6 = false ∧ (s.stream 6).expect = 0 ∧ s.page? 65536 = some localPage ∧ localPage.host = false ∧ s.checkRead 65536 512 = .ok ∧
    s.checkWrite false 65536 512 = .ok ∧ localPage.moving = none ∧ s.page? 262144 = none ∧
    ({ s with pages := [(1, { localPage with moving := some 9 })] } : State).page? 65536 = some { localPage with moving := some 9 } := by decide +kernel
/-- A core whose SEND waits for its acknowledgement. -/
def awaiting : State :=
  let s := on .fence { core [] with inflight := [{ flight (.tally 1 0 1) with acks := [(6, 0)] }] }
  streaming { s with routes := [(5, 2 ^ 63 + 2 ^ 62), (6, 2 ^ 63)] }
theorem witness_FabricPackets_unreachable : let s := fab (up 0 8) (up 0 8); let w := awaiting; let f : Inflight := { flight (.tally 1 0 1) with acks := [(6, 0)] }
    s.alive = true ∧ s.owners = [] ∧ s.cores = [] ∧ (s.stream 4095).arrivals = [] ∧ w.self? = some 5 ∧ (w.core 0).inflight = [f] ∧ w.waitsOn f 6 = true ∧
    (w.core 0).stopped = none ∧ 4095 < 4096 := by decide +kernel

/-! ## Witnesses: errors of the chip -/

/-- The running device with its event ring on. -/
def evented (s : State) : State := { s with hif := { s.hif with evqOn := true, evqBase := 0x8000000000010000#64, evqSize := 4#64 } }
theorem witness_ChipErrors : let s := evented (plain []); let full := { s with evq := { s.evq with used := 16 } }
    s.up = true ∧ s.bridge[4]? = some 0 ∧ ({ s with bridge := [0, 0, 0, 0, 15] } : State).bridge[4]? = some 15 ∧ 16 ≤ 15 + 1 ∧ 14 + 1 < 16 ∧
    s.hif.evqOn = true ∧ s.hif.ready = true ∧ s.evq.used < s.evqEntries ∧ isBus (s.hif.evqBase + BitVec.ofNat 64 (64 * (s.evq.tail % s.evqEntries))) = true ∧
    full.evqEntries ≤ full.evq.used ∧ full.evq.queue.length < 4096 ∧ full.evq.held = [] ∧ ({ s with mode := .fatal 1 } : State).mode = .fatal 1 ∧
    s.fw.failed = [] ∧ 3 < 4 ∧ ({ s with fw := { s.fw with failed := [3] } } : State).fw.failed ≠ [] ∧ s.running = true := by decide +kernel
theorem witness_ChipErrors_power : let s := on .fence { core [] with dispatch := none }
    ({ s with thermal := true } : State).thermal = true ∧ s.mode ≠ .off ∧ s.mode ≠ .railFault ∧ 0 < s.cores.length ∧ s.running = true ∧
    (s.core 0).present = true ∧ (s.core 0).held = none ∧ (s.core 0).inflight = [] ∧ (s.core 0).power ≠ .gated ∧ (s.core 0).dispatch = none ∧
    ((on .fence { core [] with held := some (held 0) }).core 0).held ≠ none := by decide +kernel

/-! ## Witnesses: archive, firmware, attestation -/

/-- A packet of ring 1 in the running device, with an archive. -/
def archived (a : Archive) (p : Packet) : State := { given p (plain []) with archive := a }
theorem witness_ArchiveWritten_store : let p := pkt 0x0106 []; let full := { Archive.initial with writes0 := pageWrites, writes1 := pageWrites }
    Accepted (archived Archive.initial p) r1 p 0x0106 ∧ (archived Archive.initial p).archiveOpen = true ∧ Archive.initial.setPage ≠ none ∧
    Archive.initial.ops = [] ∧ Archive.initial.setInForce.map SetCopy.values ≠ some (archived Archive.initial p).settings ∧
    Accepted (archived full p) r1 p 0x0106 ∧ full.setPage = none ∧
    ({ Archive.initial with set0 := some ⟨0, (archived Archive.initial p).settings⟩ } : Archive).setInForce.map SetCopy.values = some (archived Archive.initial p).settings := by
  unfold Accepted; decide +kernel
/-- An IMAGE_WRITE of 256 bytes to slot 1, whose header says 256. -/
def imageP : Packet := pkt 0x0609 [1, bus 8192, 256]
def imageS (size : Nat) (p : Packet) : State := { blocked p (leBytes 256 (size * 2 ^ 576)) (plain []) with archive := Archive.initial }
theorem witness_ArchiveWritten_image : let s := imageS 256 imageP; let q := pkt 0x0609 [0, bus 8192, 256]; let z := pkt 0x0609 [1, bus 8192, 255]
    Accepted s r1 imageP 0x0609 ∧ s.archiveOpen = true ∧ 1 ∉ s.runningSlots ∧ isBus (pktP imageP 1) = true ∧ addrLegal (pktP imageP 1) = true ∧
    (pktP imageP 1).toNat % 64 = 0 ∧ fwSize (s.sysBytes (pktP imageP 1) 256) = 256 ∧ 256 ≤ slotBytes ∧ (s.archive.slot 1).writes < pageWrites ∧ s.archive.ops = [] ∧
    s.archive.control.seq + 1 < 2 ^ 32 ∧ Accepted (imageS 256 q) r1 q 0x0609 ∧ 0 ∈ (imageS 256 q).runningSlots ∧ Accepted (imageS 256 z) r1 z 0x0609 ∧
    Accepted (imageS 300 imageP) r1 imageP 0x0609 ∧ fwSize ((imageS 300 imageP).sysBytes (pktP imageP 1) 256) = 300 ∧ 256 ≠ 300 ∧ 256 ≠ 300 + 256 ∧
    pageWrites ≤ (({ Archive.initial with slotB := ⟨[], 0, pageWrites⟩ } : Archive).slot 1).writes := by unfold Accepted; decide +kernel
/-- An archive operation in progress, with its ring. -/
def writing (o : ArchiveOp) : State := { plain [] with archive := { Archive.initial with ops := [o] }, rings := [(1, { ring1 with sqTail := 0, busy := some (pkt 0x0106 []), unfinal := 1, reserved := 1 })] }
theorem witness_ArchiveWritten_complete : let s := writing (.settings 1 (pkt 0x0106 []) (plain []).settings); let t := writing (.image 1 imageP 1 (List.replicate 256 0))
    s.functionUp = true ∧ s.archive.ops = [.settings 1 (pkt 0x0106 []) (plain []).settings] ∧ s.archive.setPage ≠ none ∧ s.archive.setInForce = none ∧
    t.functionUp = true ∧ t.archive.ops = [.image 1 imageP 1 (List.replicate 256 0)] ∧ t.archive.control.seq + 1 < 2 ^ 32 ∧ 1 < 2 := by decide +kernel
theorem witness_ImagesActivate : let p := pkt 0x060A [1]; let s := archived Archive.initial p
    Accepted s r1 p 0x060A ∧ s.archiveOpen = true ∧ s.archive.ops = [] ∧ s.mode = .running ∧ s.archive.control.seq + 1 < 2 ^ 32 ∧
    ({ s with txn := some ⟨2, [], 0⟩ } : State).txn ≠ none ∧ s.txn = none := by unfold Accepted; decide +kernel
/-- A handover from slot 0 to slot 1 that stands at a processor. -/
def handing (k : Nat) : State := { plain [] with fw := { (plain []).fw with handover := some (k, 1, 0) }, rings := [(1, { ring1 with sqTail := 0, busy := some (pkt 0x060A [1]), unfinal := 1, reserved := 1 })] }
theorem witness_ImagesActivate_handover : 3 < 4 ∧ (handing 3).up = true ∧ (handing 3).fw.handover = some (3, 1, 0) ∧ (handing 0).fw.handover = some (0, 1, 0) ∧
    (handing 0).archive.control.seq + 1 < 2 ^ 32 := by decide +kernel
/-- A device whose debug port is on. -/
def debugging (p : Packet) : State := { given p with straps := 0x4FF00#19, fuses := { Fuses.initial with debugBlown := false } }
theorem witness_AttestsDebugs_attest : let p := pkt 0x060B [bus 8192, bus 12288]; let q := pkt 0x060B [0, 0, 1, 2, 3, 4]
    Accepted (given p) r1 p 0x060B ∧ isBus (pktP p 0) = true ∧ addrLegal (pktP p 0) = true ∧ (pktP p 0).toNat % 64 = 0 ∧ isBus (pktP p 1) = true ∧
    (pktP p 1).toNat % 64 = 0 ∧ Accepted (plain []) (.sideband q) q 0x060B ∧ (plain []).endpointUp = true := by unfold Accepted; decide +kernel
theorem witness_AttestsDebugs_debug : let p := pkt 0x7F00 [3, 0, 0, 65536, bus 8192]; let w := pkt 0x7F01 [0, 0, 0, 64, bus 8192]; let b := pkt 0x7F00 [3, 0, 1, 131076, bus 8192]; let r := pkt 0x7F00 [3, 0, 131072, 4, bus 8192]
    Accepted (debugging p) r1 p 0x7F00 ∧ (debugging p).debugOn = true ∧ ((debugging p).core 0).present = true ∧ 0 + 65536 ≤ debugSize 3 ∧
    Accepted (debugging w) r1 w 0x7F01 ∧ isBus (pktP w 4) = true ∧ addrLegal (pktP w 4) = true ∧ (pktP w 4).toNat % 64 = 0 ∧
    Accepted (given p) r1 p 0x7F00 ∧ (given p).debugOn = false ∧ Accepted (debugging b) r1 b 0x7F00 ∧ debugSize 3 < 1 + 131076 ∧ Accepted (debugging r) r1 r 0x7F00 ∧ 131072 + 4 ≤ debugSize 3 ∧
    Accepted (debugging (pkt 0x7F00 [4])) r1 (pkt 0x7F00 [4]) 0x7F00 ∧ Accepted (debugging (pkt 0x7F00 [2, 1])) r1 (pkt 0x7F00 [2, 1]) 0x7F00 ∧
    (debugging p).cores.length ≤ 1 ∧ ((debugging p).core 0).accBusy = false := by unfold Accepted; decide +kernel

/-! ## Witnesses: the ledger -/

theorem witness_LedgerServed_ring : let p := pkt 0x0700 [bus 8192, 1, 2]; let c := pkt 0x0702 [bus 8192]
    let full := { given p with ledger := { (given p).ledger with queue := List.replicate 16 ⟨0x0700, false, 2, 0⟩ } }
    let busy := { given c with ledger := { (given c).ledger with queue := [⟨0x0702, true, 0, 0⟩] } }
    Accepted (given p) r1 p 0x0700 ∧ isBus (pktP p 0) = true ∧ addrLegal (pktP p 0) = true ∧ (pktP p 0).toNat % 64 = 0 ∧
    ((given p).ledger.queue.filter (fun q => q.side == false)).length < 16 ∧ Accepted full r1 p 0x0700 ∧
    16 ≤ (full.ledger.queue.filter (fun q => q.side == false)).length ∧ Accepted busy r1 c 0x0702 ∧
    (busy.ledger.queue.head?.map LedgerReq.opcode) = some 0x0702 ∧ Accepted (given (pkt 0x0701 [bus 8192])) r1 (pkt 0x0701 [bus 8192]) 0x0701 := by
  unfold Accepted; decide +kernel
theorem witness_LedgerServed_band : let p := pkt 0x0701 [7]
    Accepted (plain []) (.ledgerBand p) p 0x0701 ∧ ((plain []).ledger.queue.filter (fun q => q.side == true)).length < 16 := by unfold Accepted; decide +kernel
/-- A readout that waits, of either path. -/
def reading (side : Bool) (op : Nat) : State :=
  let p := pkt op [bus 8192, 1, 2]
  { plain [] with ledger := { (plain []).ledger with queue := [⟨op, side, 1, p⟩] }, rings := [(1, { ring1 with sqTail := 0, busy := some p, unfinal := 1, reserved := 1 })] }
theorem witness_LedgerServed_release : (reading false 0x0700).ledger.up = true ∧ (reading false 0x0700).mode = .running ∧ (reading true 0x0700).ledger.up = true ∧
    (lookupK 1 (reading false 0x0700).rings).map Ring.busy = some (some (pkt 0x0700 [bus 8192, 1, 2])) ∧ isBus (pktP (pkt 0x0700 [bus 8192, 1, 2]) 0) = true ∧
    (reading true 0x0702).ledger.queue.map (fun q => (q.opcode, q.side)) = [(0x0702, true)] := by decide +kernel
theorem witness_LedgerServed_island : (plain []).ledger.up = true ∧ (plain []).mode = .running ∧ (plain []).ledger.now.energy[3]? = some 0 ∧ [1, 2, 3, 4][3]? = some 4 ∧
    ({ (plain []).ledger with up := false } : Ledger).up = false := by decide +kernel

/-! ## Witnesses: host registers, events, resets, the whole machine -/

/-- The running device with chosen host registers; ring 0 and ring 1 exist. -/
def hosted (f : Hif → Hif) : State := { plain [] with hif := f { Hif.reset with ready := true }, rings := [(0, ring1), (1, ring1)] }
/-- Registers of ring 0: bases at 4096 and 8192 of the bus, 2^16 and 2^4 entries. -/
def aqRegs (h : Hif) : Hif := { h with asqBase := BitVec.ofNat 64 (bus 4096), acqBase := BitVec.ofNat 64 (bus 8192), aqSize := 0x030410 }
def evRegs (h : Hif) : Hif := { h with evqBase := BitVec.ofNat 64 (bus 4096), evqSize := 4 }
theorem witness_HostRegisters_aq : let s := hosted aqRegs; let z := s.hif.aqSize.toNat
    s.hostAlive = true ∧ s.hif.aqEn = false ∧ s.hif.ready = true ∧ s.mode = .running ∧ addrLegal s.hif.asqBase = true ∧ addrLegal s.hif.acqBase = true ∧
    s.hif.asqBase.toNat % 4096 = 0 ∧ s.hif.acqBase.toNat % 4096 = 0 ∧ bits z 4 0 = 16 ∧ bits z 12 8 = 4 ∧ s.txn = none ∧ (lookupK 0 s.rings).isSome = true ∧
    (hosted (fun h => { aqRegs h with asqBase := BitVec.ofNat 64 (bus 64) })).hif.asqBase.toNat % 4096 ≠ 0 ∧
    addrLegal (hosted (fun h => { aqRegs h with asqBase := BitVec.ofNat 64 (bus 64) })).hif.asqBase = true ∧
    addrLegal (hosted (fun h => { aqRegs h with asqBase := 0x0010000000000000#64 })).hif.asqBase = false ∧
    (hosted (fun h => { h with ready := false })).hif.ready = false ∧ (hosted (fun h => { h with aqEn := true })).hif.aqEn = true := by decide +kernel
theorem witness_HostRegisters_evq : let s := hosted evRegs; let m : State := { s with pba := [64], msix := [(1036, 1)] }
    s.hostAlive = true ∧ s.hif.evqEn = false ∧ s.hif.ready = true ∧ addrLegal s.hif.evqBase = true ∧ s.hif.evqBase.toNat % 4096 = 0 ∧
    4 = bits s.hif.evqSize.toNat 4 0 ∧ (hosted (fun h => { evRegs h with evqBase := BitVec.ofNat 64 (bus 64) })).hif.evqBase.toNat % 4096 ≠ 0 ∧
    (hosted (fun h => { h with evqEn := true })).hif.evqEn = true ∧ 64 < 65 ∧ 64 ∈ m.pba ∧ bit (0#64).toNat 32 = false ∧ bit (2#64 ^ 32).toNat 32 = true ∧
    m.msix.wf = true ∧ 64 ∉ s.pba := by decide +kernel
/-- A doorbell's value: a new tail, or a new head. -/
def tailV (n : Nat) : W64 := BitVec.ofNat 64 (2 ^ 32 + n)
def headV (n : Nat) : W64 := BitVec.ofNat 64 (2 ^ 33 + 2 ^ 16 * n)
theorem witness_HostAccesses_doorbells : let s := hosted id; let q : Ring := { ring1 with cqTail := 2, cqUsed := 5 }
    s.hostAlive = true ∧ lookupK 1 s.rings = some ring1 ∧ ring1.error = false ∧ bit (tailV 15).toNat 32 = true ∧ bit (tailV 15).toNat 33 = false ∧
    bits (tailV 15).toNat 15 0 = 15 ∧ 15 < 2 ^ ring1.sqLog ∧ 2 ^ ring1.sqLog ≤ bits (tailV 16).toNat 15 0 ∧ bit (headV 13).toNat 33 = true ∧
    bit (headV 13).toNat 32 = false ∧ q.cqTail < 2 ^ q.cqLog ∧ q.cqUsed ≤ 2 ^ q.cqLog ∧
    bits (headV 13).toNat 31 16 = (q.cqTail + 2 ^ q.cqLog - q.cqUsed + 0) % 2 ^ q.cqLog ∧
    bits (headV 2).toNat 31 16 = (q.cqTail + 2 ^ q.cqLog - q.cqUsed + 5) % 2 ^ q.cqLog ∧
    bits (headV 3).toNat 31 16 = (q.cqTail + 2 ^ q.cqLog - q.cqUsed + 6) % 2 ^ q.cqLog ∧ q.cqUsed < 6 ∧ 6 < 2 ^ q.cqLog ∧
    bits (headV 16).toNat 31 16 = 16 ∧ 2 ^ q.cqLog ≤ 16 := by decide +kernel
/-- BAR4 over page 1, local; page 2 belongs to the host; page 3 is not mapped. -/
def windowed (w : Bool) : State :=
  { plain [(1, { localPage with write := w }), (2, hostPage true)] with hif := { Hif.reset with ready := true }, dram := Mem.cells (5 * 65536 + 65528) [1, 2, 3, 4, 5, 6, 7, 8] }
theorem witness_HostAccesses_window : let s := windowed true
    s.hostAlive = true ∧ s.hif.ready = true ∧ s.hif.winBase.toNat < 2 ^ 52 ∧ s.hif.winBase.toNat % 2 ^ 36 = 0 ∧ 131064 < 2 ^ 36 ∧
    InPage s 131064 8 localPage ∧ localPage.host = false ∧ s.checkRead 131064 8 = .ok ∧ localPage.write = true ∧ localPage.moving = none ∧
    (windowed false).page? 131064 = some { localPage with write := false } ∧ s.page? 196608 = none ∧
    (s.page? 131072).map Page.host = some true := by unfold InPage; decide +kernel
/-- The event ring, of 16 entries, on. -/
def evtOn (q : EventRing) : State := { plain [] with hif := { (evRegs Hif.reset) with ready := true, evqEn := true, evqOn := true }, evq := q }
def evt (c : Nat) : Event := ⟨c, .ok, 3, 0xFF, 0, 99, none⟩
theorem witness_EventsWritten_write : let s := evtOn { EventRing.reset with queue := [evt 7], tail := 15, used := 15, phase := true }
    s.hif.evqOn = true ∧ s.eventsFlow = true ∧ s.evq.merged = 0 ∧ s.evq.queue = [evt 7] ∧ s.evq.held = [] ∧ (evt 7).cont = none ∧
    s.evq.used < s.evqEntries ∧ s.evq.tail < s.evqEntries ∧ isBus s.hif.evqBase = true ∧ s.hif.evqBase.toNat % 2 ^ 52 + 64 * s.evqEntries ≤ 2 ^ 52 ∧
    bit (s.msix.readLe 1036 4) 0 = false ∧ bit (({ s with msix := [(1036, 1)] } : State).msix.readLe 1036 4) 0 = true ∧
    (evtOn { EventRing.reset with used := 16 }).evqEntries ≤ (evtOn { EventRing.reset with used := 16 }).evq.used ∧ (plain []).hif.evqOn = false ∧
    0 < (evtOn { EventRing.reset with merged := 5 }).evq.merged ∧ (evtOn { EventRing.reset with merged := 5 }).evq.used < (evtOn { EventRing.reset with merged := 5 }).evqEntries := by
  decide +kernel
theorem witness_EventsWritten_head : let s := evtOn { EventRing.reset with tail := 2, used := 5 }
    s.hostAlive = true ∧ s.hif.evqOn = true ∧ s.evq.tail < s.evqEntries ∧ s.evq.used ≤ s.evqEntries ∧ 5 ≤ s.evq.used ∧ 5 < s.evqEntries ∧
    bits (2#64).toNat 15 0 = (s.evq.tail + s.evqEntries - s.evq.used + 5) % s.evqEntries ∧
    bits (13#64).toNat 15 0 = (s.evq.tail + s.evqEntries - s.evq.used + 0) % s.evqEntries := by decide +kernel
theorem witness_EventsWritten_mask : let full := { EventRing.reset with queue := List.replicate 4096 (evt 1) }
    (evt 5).code = 0x0005 ∧ bit (2 : Nat) 1 = true ∧ bit (0 : Nat) 1 = false ∧ EventRing.reset.queue.length < 4096 ∧ EventRing.reset.held = [] ∧
    ¬ full.queue.length < 4096 := by decide +kernel
/-- The device off, as found before its power comes, with straps that keep engine 7 unused and call for the archive or not. -/
def bootIn (straps : Nat) : BootIn := ⟨BitVec.ofNat 19 straps, [], []⟩
def atBoot (m : Mode) (up : Bool) : State := { plain [] with mode := m, pins := { (plain []).pins with pwrgood := up } }
theorem witness_ResetsBoot : let a : Archive := { Archive.initial with set0 := some ⟨0, ⟨4, 16, 16, 16, 3200, 1600, 1⟩⟩ }
    (bootIn 0x0100).rowFails = [] ∧ (atBoot .off false).pins.pwrgood = false ∧ (atBoot .running true).pins.pwrgood = true ∧ (plain []).mode ≠ .railFault ∧
    (atBoot .running true).mode ≠ .noReference ∧ (atBoot .noReference true).mode = .noReference ∧ (plain []).pins.coldHeld = false ∧ (plain []).mode ≠ .hot ∧
    bit (bootIn 4).straps.toNat 2 = true ∧ a.setInForce ≠ none ∧ Archive.initial.setInForce = none := by decide +kernel
theorem witness_ResetsOfHost : let s := { plain [] with mode := .booting, hif := .reset }
    s.mode = .booting ∧ s.hif.aqEn = false ∧ s.hif.evqEn = false ∧ ({ s with mode := .recovering } : State).mode = .recovering ∧
    (plain []).functionUp = true ∧ (plain []).pins.linkUp = true ∧ s.ports[0]?.isSome = true ∧ (plain []).hif.ready = true ∧
    ({ (plain []).pins with linkUp := false } : Pins).linkUp = false := by decide +kernel
theorem witness_PowerStops : let s := plain []
    s.pins.pwrgood = true ∧ 10 < 11 ∧ (atBoot .railFault true).mode = .railFault ∧ 55 < 56 ∧ s.mode ≠ .railFault ∧ s.mode ≠ .noReference ∧
    ({ s with fw := { s.fw with raiseTo := some 3 } } : State).fw.raiseTo = some 3 ∧ s.hif.ready = true ∧ s.mode = .running := by decide +kernel
theorem witness_MemoriesKept : MemoriesWf { given (pkt 0x0100 []) (plain []) with pending := [.nop r1] } ∧
    MemoriesWf (windowed true) := by unfold MemoriesWf; decide +kernel
theorem witness_TileWords : (TileInstr.mma ⟨255, 255, 255, 31, 31, 3, 3, 0, 0, 0, 0, 0, 0, false, 0, false, false⟩).wf = true ∧
    (TileInstr.drain 1 63 31 4).wf = true ∧ tileLegal (TileInstr.drain 1 63 31 4) = true ∧ tileLegal (TileInstr.load ⟨1, 8, 0, 14, 16, 1, false, 0, 0, false, 0, 0, false, false⟩) = true ∧
    (decodeTile 0x6000000000000000).isSome = true ∧ 0x42 * 2 ^ 56 + 1 < 2 ^ 64 ∧ (0x42 * 2 ^ 56 + 1) / 2 ^ 56 = 0x42 ∧ (0x42 * 2 ^ 56 + 1) % 2 ^ 56 ≠ 0 := by decide +kernel

end Sys2Proof.Tests
end

section
/-! The bindery (R33, R231 to R237): how a job starts, what a pass leaves, and where a committed run goes. -/
namespace Sys2Proof.Machine

/-- The two spellings of "not this number". -/
theorem bne_fun_eq_decide (n : Nat) : (fun x : Nat => x != n) = fun x => decide (x ≠ n) := by
  funext x; rw [Bool.eq_iff_iff]; simp

/-- A list no longer than a piece is one piece. -/
theorem chunksOf_single {α : Type} {n : Nat} {l : List α} (h : l ≠ []) (hn : l.length ≤ n) : chunksOf n (l.length + 1) l = [l] := by
  obtain ⟨a, r, rfl⟩ := List.exists_cons_of_ne_nil h
  simp [chunksOf, List.take_of_length_le hn, List.drop_eq_nil_of_le hn]

/-- The first waiting job of a region in service starts once its dispatch has committed its last tile (R33). -/
theorem exec_binderyJobStart {s : State} {r h n : Nat} {l : List Nat} {j : Job} {d : Dispatch} (hr : r < s.regions.length)
    (ha : s.alive = true) (hi : (s.region r).isolated = none) (hn : (s.region r).jobNow = none) (hq : (s.region r).jobQueue = h :: l)
    (hj : lookupK h s.jobs = some j) (hf : j.finished = false) (hd : j.dispatch = some n) (hdis : s.dispatch? n = some d)
    (hc : s.allCommitted d = true) (hx : d.cancelling = false) :
    exec (.binderyJobStart r) s = .next ({ s with jobs := updK h (fun x => { x with merging := true }) s.jobs }.updRegion r (fun g =>
      { g with jobNow := some h, jobQueue := g.jobQueue.filter (· != h) })) := by
  show execBinderyJobStart r s = _
  unfold execBinderyJobStart
  simp [Nat.not_le.2 hr, hq, hj, hf, hd, hdis, hc, hx, ha, hi, hn]

/-- A pass over at most 8 runs ends the job: the merged run is written as the result, and the bindery is free (R233, R235). -/
theorem exec_binderyPassComplete {s : State} {r h : Nat} {j : Job} (hr : r < s.regions.length) (ha : s.alive = true)
    (hi : (s.region r).isolated = none) (hn : (s.region r).jobNow = some h) (hj : lookupK h s.jobs = some j) (h0 : j.runs ≠ [])
    (h8 : j.runs.length ≤ 8) :
    ∃ k, exec (.binderyPassComplete r) s = .next (({ s.count 0 k with jobs := updK h (fun x =>
      { x with runs := [], merging := false, finished := true, flags := x.flags ||| (mergeGroup j.runs).flags }) s.jobs }.writeResult j
        (mergeGroup j.runs) (j.dispatch.getD 0)).updRegion r (fun q => { q with jobNow := none })) := by
  refine ⟨sumNat (j.runs.map (fun r => if r.inmem then lineBytes 0 (16 * r.entries.length) else 0)), ?_⟩
  show execBinderyPassComplete r s = _
  unfold execBinderyPassComplete
  simp only [ge_iff_le, Nat.not_le.2 hr, if_false, hn, hj, ha, hi, Bool.not_true, Option.isSome_none, Bool.or_self, Bool.false_eq_true,
    chunksOf_single h0 h8, List.map_cons, List.map_nil]
  rfl

/-- A write by Hokuec to a bus address reaches host memory and is counted. -/
theorem State.sysWrite_bus {s : State} {a : W64} (h : isBus a = true) (bs : List Byte) :
    s.sysWrite a bs = { s.count 3 bs.length with hostMem := s.hostMem.writeBytes (addrOf a) bs } := by
  unfold State.sysWrite; rw [if_pos h]

/-- A result in the form of runs is written where the job says (R235). -/
theorem State.writeResult_runs {s : State} {j : Job} (h : j.form = 0) (r : Run) (n : Nat) :
    s.writeResult j r n = s.sysWrite (BitVec.ofNat 64 j.out) (r.entries.flatMap (fun e => leBytes 16 e.word)) := by
  unfold State.writeResult; simp [h]

/-! ### Merging (R233, R234) -/

/-- The order of entries: rising rows, and rising columns in a row. -/
def RunEntry.Before (a b : RunEntry) : Prop := a.row < b.row ∨ (a.row = b.row ∧ a.col < b.col)

theorem RunEntry.Before.trans {a b c : RunEntry} (h : a.Before b) (k : b.Before c) : a.Before c := by
  unfold RunEntry.Before at *; omega

/-- A list of entries holds an entry at a row and a column. -/
def HasEntry (l : List RunEntry) (a b : Nat) : Prop := ∃ e ∈ l, e.row = a ∧ e.col = b

theorem hasEntry_nil (a b : Nat) : ¬ HasEntry [] a b := by simp [HasEntry]

theorem hasEntry_cons (e : RunEntry) (l : List RunEntry) (a b : Nat) :
    HasEntry (e :: l) a b ↔ (e.row = a ∧ e.col = b) ∨ HasEntry l a b := by simp [HasEntry]

/-- An entry combined into a run adds its own coordinates and no others. -/
theorem hasEntry_addEntry (e : RunEntry) (l : List RunEntry) (a b : Nat) :
    HasEntry (addEntry e l).1 a b ↔ (e.row = a ∧ e.col = b) ∨ HasEntry l a b := by
  induction l with
  | nil => exact hasEntry_cons e [] a b
  | cons f r ih =>
    unfold addEntry
    split
    next same =>
      simp only [Bool.and_eq_true, beq_iff_eq] at same
      simp only [hasEntry_cons, same, ← or_assoc, or_self]
    next =>
      split
      next => exact hasEntry_cons _ _ _ _
      next =>
        simp only [hasEntry_cons, ih]
        exact or_left_comm

/-- What comes before a new entry and before every entry of a run comes before every entry of the two combined. -/
theorem before_addEntry {f e : RunEntry} {l : List RunEntry} (he : f.Before e) (hl : ∀ x ∈ l, f.Before x) :
    ∀ x ∈ (addEntry e l).1, f.Before x := by
  intro x hx
  obtain ⟨hr, hc⟩ | ⟨y, hy, hr, hc⟩ := (hasEntry_addEntry e l x.row x.col).1 ⟨x, hx, rfl, rfl⟩
  · unfold RunEntry.Before at *; omega
  · have := hl y hy; unfold RunEntry.Before at *; omega

/-- An entry combined into a run in rising order leaves it in rising order. -/
theorem pairwise_addEntry (e : RunEntry) {l : List RunEntry} (h : l.Pairwise RunEntry.Before) :
    (addEntry e l).1.Pairwise RunEntry.Before := by
  induction l with
  | nil => exact List.pairwise_singleton _ _
  | cons f r ih =>
    obtain ⟨hf, hr⟩ := List.pairwise_cons.1 h
    unfold addEntry
    split
    next => exact List.pairwise_cons.2 ⟨hf, hr⟩
    next other =>
      simp only [Bool.and_eq_true, beq_iff_eq] at other
      split
      next less =>
        have hef : e.Before f := by simpa [RunEntry.Before] using less
        exact List.pairwise_cons.2 ⟨List.forall_mem_cons.2 ⟨hef, fun x hx => hef.trans (hf x hx)⟩, h⟩
      next more =>
        have hfe : f.Before e := by
          simp only [Bool.or_eq_true, Bool.and_eq_true, decide_eq_true_eq, beq_iff_eq] at more
          unfold RunEntry.Before; omega
        exact List.pairwise_cons.2 ⟨before_addEntry hfe hf, ih hr⟩

/-- The entries of a run combined one after another into what has been merged so far, with whether one overflowed. -/
def mergeRun (a : List RunEntry × Bool) (r : Run) : List RunEntry × Bool :=
  r.entries.foldl (fun b e => ((addEntry e b.1).1, b.2 || (addEntry e b.1).2)) a

theorem mergeGroup_entries (rs : List Run) : (mergeGroup rs).entries = (rs.foldl mergeRun ([], false)).1 := rfl

/-- The entries of one more run merged keep the rising order. -/
theorem pairwise_mergeRun (a : List RunEntry × Bool) (r : Run) (h : a.1.Pairwise RunEntry.Before) :
    (mergeRun a r).1.Pairwise RunEntry.Before :=
  foldl_keeps (P := fun b : List RunEntry × Bool => b.1.Pairwise RunEntry.Before) (f := fun b e => ((addEntry e b.1).1, b.2 || (addEntry e b.1).2))
    (fun _ e hb => pairwise_addEntry e hb) r.entries a h

/-- One more run merged adds the coordinates of its entries and no others. -/
theorem hasEntry_mergeRun (q : List RunEntry × Bool) (r : Run) (a b : Nat) :
    HasEntry (mergeRun q r).1 a b ↔ HasEntry q.1 a b ∨ HasEntry r.entries a b := by
  unfold mergeRun
  generalize r.entries = es
  induction es generalizing q with
  | nil => simp [hasEntry_nil]
  | cons e es ih => rw [List.foldl_cons, ih, hasEntry_addEntry, hasEntry_cons, or_comm (b := HasEntry q.1 a b), or_assoc]

/-- A merged run is in rising order, so each pair of coordinates stands in it once (R233, R237). -/
theorem pairwise_mergeGroup (rs : List Run) : (mergeGroup rs).entries.Pairwise RunEntry.Before :=
  foldl_keeps (P := fun b : List RunEntry × Bool => b.1.Pairwise RunEntry.Before) pairwise_mergeRun rs _ List.Pairwise.nil

/-- A merged run holds the coordinates of the runs it is made of, and no others (R234). -/
theorem hasEntry_mergeGroup (rs : List Run) (a b : Nat) : HasEntry (mergeGroup rs).entries a b ↔ ∃ q ∈ rs, HasEntry q.entries a b := by
  have key : ∀ (rs : List Run) (q : List RunEntry × Bool),
      HasEntry (rs.foldl mergeRun q).1 a b ↔ HasEntry q.1 a b ∨ ∃ x ∈ rs, HasEntry x.entries a b := by
    intro rs
    induction rs with
    | nil => simp
    | cons r rs ih => intro q; rw [List.foldl_cons, ih, hasEntry_mergeRun, List.exists_mem_cons_iff, or_assoc]
  simpa [hasEntry_nil, mergeGroup_entries] using key rs ([], false)

/-! ### Runs into the buffer (R232, R236) -/

/-- A committed run of another region's carrel is spilled (R232). -/
theorem exec_runToBuffer_foreign {s : State} {h i : Nat} {j : Job} {x : Run} (ha : s.alive = true) (hj : lookupK h s.jobs = some j)
    (hx : j.runs[i]? = some x) (hf : j.foreign x = true) : exec (.runToBuffer h i) s = .next (s.spillRun h i) := by
  show execRunToBuffer h i s = _
  simp [execRunToBuffer, hj, hx, ha, hf]

/-- A committed run of the bindery's own region moves into the buffer where it has room (R236). -/
theorem exec_runToBuffer_own {s : State} {h i : Nat} {j : Job} {x : Run} (ha : s.alive = true) (hj : lookupK h s.jobs = some j)
    (hx : j.runs[i]? = some x) (hc : x.core ≠ none) (hf : j.foreign x = false)
    (hroom : s.bufferUse (j.region.getD 0) + x.entries.length ≤ 16384) :
    exec (.runToBuffer h i) s = .next { s with
      jobs := updK h (fun q => { q with runs := updateAt q.runs i (fun y => { y with core := none, buffered := true, inmem := false }) }) s.jobs } := by
  show execRunToBuffer h i s = _
  simp [execRunToBuffer, State.placeRun, hj, hx, ha, hf, hc, binderyBuffer, hroom, Nat.not_lt.2 hroom]

/-- Settles O25: a job starts by `exec_binderyJobStart`, a pass ends by `exec_binderyPassComplete`, the result is in order and complete by
`pairwise_mergeGroup` and `hasEntry_mergeGroup`, and a run leaves its carrel by `exec_runToBuffer_foreign` and `exec_runToBuffer_own`. -/
theorem binderyMerges : Obligations.BinderyMerges := by
  unfold Obligations.BinderyMerges
  refine ⟨?start, ?pass, ?merged, ?buffer⟩
  case start =>
    intro s r h n l j d hr ha hi hn hq hj hf hd hdis hc hx
    rw [exec_binderyJobStart hr ha hi hn hq hj hf hd hdis hc hx, bne_fun_eq_decide h]
    rfl
  case pass =>
    intro s r h j hr ha hi hn hj h0 h8 hform _ hbus
    obtain ⟨k, hk⟩ := exec_binderyPassComplete hr ha hi hn hj h0 h8
    rw [State.writeResult_runs hform, State.sysWrite_bus hbus] at hk
    refine ⟨_, hk, rfl, ?_, rfl, rfl⟩
    simp [addrOf, State.updRegion, State.count]
  case merged => exact fun rs => ⟨pairwise_mergeGroup rs, hasEntry_mergeGroup rs⟩
  case buffer =>
    exact fun s h i j x ha hj hx hc => ⟨exec_runToBuffer_foreign ha hj hx, exec_runToBuffer_own ha hj hx hc⟩

end Sys2Proof.Machine
end

section
/-! Errors of the chip, heat and power (R46 to R49, R652 to R654, R710, R711). -/
namespace Sys2Proof.Machine

/-! ## Fatal errors (R652, R653) -/

/-- The FATAL event of a cause (R653, R655). -/
def fatalEvent (cause : Nat) : Event := ⟨0x0020, .ok, 0, 0xFF, 0, cause, none⟩

/-- A fatal error is the FATAL event, written or queued, and the mode. -/
theorem State.fatal_eq (s : State) (cause : Nat) :
    s.fatal cause = { (if s.hif.evqOn && s.hif.ready && s.evq.used < s.evqEntries then s.writeEvent (fatalEvent cause)
      else s.event (fatalEvent cause)) with mode := .fatal cause } := rfl

/-- An event without a continuation is stored at the tail of the event ring, and vector 64 is raised (R525, R528). -/
theorem State.writeEvent_single {s : State} {e : Event} (h : e.cont = none) :
    s.writeEvent e = { s.evqStore 0 (e.entry s.evq.phase s.evq.seq) with evq := { (s.evqStore 0 (e.entry s.evq.phase s.evq.seq)).evq with
      tail := (s.evq.tail + 1) % s.evqEntries, used := s.evq.used + 1, seq := s.evq.seq + 1
      phase := if s.evq.tail + 1 < s.evqEntries then s.evq.phase else !s.evq.phase } }.raise 64 := by
  unfold State.writeEvent; simp [h, b2n]

/-- Writing an event touches the event ring, the interrupts and what a write by Hokuec can. -/
theorem State.writeEvent_eq {s : State} {e : Event} (h : e.cont = none) :
    s.writeEvent e = { s with evq := (s.writeEvent e).evq, pba := (s.writeEvent e).pba, raised := (s.writeEvent e).raised
                              ledger := (s.writeEvent e).ledger, hostMem := (s.writeEvent e).hostMem, dram := (s.writeEvent e).dram
                              poison := (s.writeEvent e).poison, fresh := (s.writeEvent e).fresh, caches := (s.writeEvent e).caches } := by
  rw [State.writeEvent_single h, State.raise_eq]
  unfold State.evqStore
  rw [State.sysWrite_eq]

/-- A fatal error touches the mode, the event ring, the interrupts and what a write by Hokuec can. -/
theorem State.fatal_frame (s : State) (cause : Nat) :
    s.fatal cause = { s with mode := .fatal cause, evq := (s.fatal cause).evq, pba := (s.fatal cause).pba, raised := (s.fatal cause).raised
                             ledger := (s.fatal cause).ledger, hostMem := (s.fatal cause).hostMem, dram := (s.fatal cause).dram
                             poison := (s.fatal cause).poison, fresh := (s.fatal cause).fresh, caches := (s.fatal cause).caches } := by
  rw [State.fatal_eq]
  split
  · rw [State.writeEvent_eq (e := fatalEvent cause) rfl]
  · rw [State.event_eq]

/-- With room in the event ring, the FATAL event is its next entry (R653). -/
theorem State.fatal_written {s : State} {cause : Nat} (hon : s.hif.evqOn = true) (hready : s.hif.ready = true)
    (hroom : s.evq.used < s.evqEntries)
    (hbus : isBus (s.hif.evqBase + BitVec.ofNat 64 (64 * (s.evq.tail % s.evqEntries))) = true) :
    (s.fatal cause).evq.queue = s.evq.queue ∧ (s.fatal cause).evq.used = s.evq.used + 1 ∧ (s.fatal cause).evq.seq = s.evq.seq + 1 ∧
    (s.fatal cause).hostMem = s.hostMem.writeBytes (addrOf (s.hif.evqBase + BitVec.ofNat 64 (64 * (s.evq.tail % s.evqEntries))))
      (leBytes 64 ((fatalEvent cause).entry s.evq.phase s.evq.seq)) := by
  rw [State.fatal_eq, if_pos (by simp [hon, hready, hroom]), State.writeEvent_single rfl, State.raise_eq]
  unfold State.evqStore
  rw [Nat.add_zero, State.sysWrite_bus hbus]
  exact ⟨rfl, rfl, rfl, rfl⟩

/-- An event that may not be dropped is queued where the queue has room (R565). -/
theorem State.event_queued {s : State} {e : Event} (hm : maskBit e.code = none) (hq : s.evq.queue.length < 4096) (hh : s.evq.held = []) :
    s.event e = { s with evq := { s.evq with queue := s.evq.queue ++ [e] } } := by
  unfold State.event
  simp [hm, eventQueueSize, hq, hh]

/-- Without room in the event ring, the FATAL event takes the next slot of the queue (R653). -/
theorem State.fatal_queued {s : State} {cause : Nat} (hfull : s.evqEntries ≤ s.evq.used) (hq : s.evq.queue.length < 4096)
    (hh : s.evq.held = []) :
    (s.fatal cause).evq.queue = s.evq.queue ++ [fatalEvent cause] ∧ (s.fatal cause).hostMem = s.hostMem := by
  rw [State.fatal_eq, if_neg (by simp [Nat.not_lt.2 hfull]), State.event_queued rfl hq hh]
  exact ⟨rfl, rfl⟩

/-! ## Nothing is read or replied after a fatal error (R653) -/

/-- A row whose source offers no packet does nothing. -/
theorem State.command_none {s : State} {src : Src} (h : s.offered src = none) (op : Nat) (sel : Packet → Bool)
    (body : State → Packet → State) : s.command src op sel body = .next s := by
  unfold State.command; rw [h]

/-- After a fatal error no ring offers a packet. -/
theorem State.offered_fatal {s : State} {cause : Nat} (h : s.mode = .fatal cause) (n : Nat) : s.offered (.ring n) = none := by
  unfold State.offered State.headPacket
  simp [h]

/-- Every row of the opcode reference is a command of its source with the row's opcode. -/
theorem exec_commandRows (src : Src) : ∀ row ∈ commandRows, ∃ sel body, ∀ s, exec (row.2 src) s = s.command src row.1 sel body := by
  intro row hrow
  fin_cases hrow <;> · unfold exec; exact ⟨_, _, fun _ => rfl⟩

/-- After a fatal error no reply is written. -/
theorem State.replyRing_fatal {s : State} {cause : Nat} (h : s.mode = .fatal cause) (n op tag : Nat) (irq : Bool) (r : Rep) :
    s.replyRing n op tag irq r = s := by
  unfold State.replyRing
  split
  · rfl
  · simp [h]

/-! ## What the errors lead to -/

/-- A flit of a bridge link that is not a replay ends the link's series of failed replays (R652). -/
theorem exec_bridgeFlitCrcFail_first {s : State} {k n : Nat} (hu : s.up = true) (hk : s.bridge[k]? = some n) :
    exec (.bridgeFlitCrcFail k false) s = .next { s with bridge := s.bridge.set k 0 } := by
  obtain ⟨hlt, -⟩ := List.getElem?_eq_some_iff.1 hk
  show execBridgeFlitCrcFail k false s = _
  simp [execBridgeFlitCrcFail, hu, Nat.not_le.2 hlt]

/-- A failed replay is counted, and the sixteenth in a row is fatal (R652). -/
theorem exec_bridgeFlitCrcFail_again {s : State} {k n : Nat} (hu : s.up = true) (hk : s.bridge[k]? = some n) :
    exec (.bridgeFlitCrcFail k true) s = .next (if 16 ≤ n + 1 then ({ s with bridge := s.bridge.set k (n + 1) } : State).fatal 0
      else { s with bridge := s.bridge.set k (n + 1) }) := by
  obtain ⟨hlt, hget⟩ := List.getElem?_eq_some_iff.1 hk
  show execBridgeFlitCrcFail k true s = _
  simp [execBridgeFlitCrcFail, hu, hk, Nat.not_le.2 hlt]

/-- The first management processor to fail restarts alone (R654); a second is fatal (R653). -/
theorem exec_mgmtProcessorFail {s : State} {k : Nat} (hk : k < 4) (hu : s.up = true) (hn : k ∉ s.fw.failed) :
    exec (.mgmtProcessorFail k) s =
      .next (if s.fw.failed = [] then { s with fw := { s.fw with failed := [k] } } else s.fatal 2) := by
  show execMgmtProcessorFail k s = _
  simp only [execMgmtProcessorFail, ge_iff_le, Nat.not_le.2 hk, if_false, hu, Bool.not_true, Bool.false_or, List.contains_eq_mem, hn,
    decide_false, Bool.false_eq_true, List.isEmpty_iff]
  split <;> rfl

/-- A restarted processor works again, with its event (R654). -/
theorem exec_mgmtRestartComplete {s : State} {k : Nat} (hk : k < 4) (hu : s.up = true) (hf : k ∈ s.fw.failed) :
    exec (.mgmtRestartComplete k) s = .next
      (({ s with fw := { s.fw with failed := s.fw.failed.filter (· != k) } } : State).plainEvent 0x001C k) := by
  show execMgmtRestartComplete k s = _
  simp [execMgmtRestartComplete, Nat.not_le.2 hk, hu, hf]

/-! ## Heat and power -/

/-- While tiles are withheld, the desk gives none (R49, R710). -/
theorem State.serveTake_withheld {s : State} (h : s.withheld = true) (c : Nat) (d : Dispatch) (t : Nat) (k : Counter) :
    s.serveTake c d ≠ .tile t k := by
  unfold State.serveTake
  split
  · nofun
  · split
    · nofun
    · split
      · simp [h]
      next other => exact fun he => other _ _ he

/-- A junction at 115 °C stops the device (R711). -/
theorem exec_thermtrip {s : State} (h0 : s.mode ≠ .off) (h1 : s.mode ≠ .railFault) :
    exec .thermtrip s = .next { s with mode := .hot, pins := { s.pins with thermTrip := true } } := by
  show execThermtrip s = _
  unfold execThermtrip
  split
  next h => exact absurd h h0
  next h => exact absurd h h1
  next => rfl

/-- A core is made active (R47). -/
theorem exec_coreWake {s : State} {c : Nat} (hc : c < s.cores.length) (hr : s.running = true) (hp : (s.core c).present = true) :
    exec (.coreWake c) s = .next (s.updCore c (fun k => { k with power := .active })) := by
  show execCoreWake c s = _
  simp [execCoreWake, Nat.not_le.2 hc, hr, hp]

/-- A core that holds a tile is not parked (R48). -/
theorem exec_corePark_held {s : State} {c : Nat} (hc : c < s.cores.length) (hh : (s.core c).held ≠ none) (b : Bool) :
    exec (.corePark c b) s = .next s := by
  show execCorePark c b s = _
  simp [execCorePark, Nat.not_le.2 hc, Option.isSome_iff_ne_none.2 hh]

/-- An idle core is parked, or gated once it runs no program (R46, R48). -/
theorem exec_corePark_idle {s : State} {c : Nat} (hc : c < s.cores.length) (hr : s.running = true) (hp : (s.core c).present = true)
    (hh : (s.core c).held = none) (hi : (s.core c).inflight = []) (hg : (s.core c).power ≠ .gated) (gate : Bool) :
    exec (.corePark c gate) s = .next (if gate then if (s.core c).dispatch.isSome then s else s.gateCore c
      else s.updCore c (fun q => { q with power := .parked })) := by
  show execCorePark c gate s = _
  simp only [execCorePark, ge_iff_le, Nat.not_le.2 hc, if_false, hr, hp, hh, hi, hg, Bool.not_true, Option.isSome_none, List.isEmpty_nil,
    Bool.or_self, beq_iff_eq, Bool.false_or]
  cases gate <;> rfl

/-- Gating a core draws four free values for what it loses, and changes that core (R46). -/
theorem State.gateCore_eq (s : State) (c : Nat) : ∃ carrel acc stat next, s.gateCore c = ({ s with fresh := s.fresh + 4 } : State).updCore c (fun k =>
    { k with power := .gated, tags := [], recs := [], drained := [], carrel := carrel, acc := acc, stat := stat, statNext := next }) :=
  ⟨_, _, _, _, rfl⟩

/-- A gated core has lost its objects and its tiles; no other core is touched (R46). -/
theorem State.gateCore_spec {s : State} {c : Nat} (hc : c < s.cores.length) :
    ((s.gateCore c).core c).power = .gated ∧ ((s.gateCore c).core c).tags = [] ∧ ((s.gateCore c).core c).recs = [] ∧
    (∀ e, e ≠ c → (s.gateCore c).core e = s.core e) ∧ s.gateCore c = { s with cores := (s.gateCore c).cores, fresh := (s.gateCore c).fresh } := by
  obtain ⟨carrel, acc, stat, next, heq⟩ := s.gateCore_eq c
  rw [heq, State.core_updCore_self _ c _ (by exact hc)]
  exact ⟨rfl, rfl, rfl, fun e he => State.core_updCore_ne _ c e _ he, rfl⟩

/-- Settles O48, clause by clause from the equations above. -/
theorem chipErrors : Obligations.ChipErrors := by
  unfold Obligations.ChipErrors
  refine ⟨?bridge, ?arbiter, ?silent, ?processors, ?limits, ?withheld, ?hot, ?cores⟩
  case bridge =>
    intro s k n hu hk
    rw [exec_bridgeFlitCrcFail_first hu hk, exec_bridgeFlitCrcFail_again hu hk]
    exact ⟨rfl, fun h => by rw [if_neg (by omega)], fun h => ⟨_, by rw [if_pos h], rfl⟩⟩
  case arbiter =>
    intro s hu
    refine ⟨s.fatal 1, ?_, rfl, ?_, ?_, ?_, State.fatal_written, State.fatal_queued⟩
    · show execFabricArbiterError s = _
      simp [execFabricArbiterError, hu]
    all_goals rw [State.fatal_frame]
  case silent =>
    refine fun s cause n h => ⟨fun row hrow => ?_, State.replyRing_fatal h n⟩
    obtain ⟨sel, body, heq⟩ := exec_commandRows (.ring n) row hrow
    rw [heq, State.command_none (State.offered_fatal h n)]
  case processors =>
    intro s k hk hu
    refine ⟨fun h0 => ?_, fun h0 hn => ?_, fun hf => ?_⟩
    · rw [exec_mgmtProcessorFail hk hu (by simp [h0]), if_pos h0]
    · exact ⟨_, by rw [exec_mgmtProcessorFail hk hu hn, if_neg h0], rfl⟩
    · rw [exec_mgmtRestartComplete hk hu hf, bne_fun_eq_decide]
  case limits =>
    intro s hr
    have running : ∀ t u : State, Host.Outcome.next (if s.running then t else u) = (.next t : Out) := fun t u => by rw [hr]; rfl
    exact ⟨running _ _, running _ _, running _ _, running _ _⟩
  case withheld =>
    exact fun s c d h t k => State.serveTake_withheld (by simpa [State.withheld] using h) c d t k
  case hot => exact fun s => exec_thermtrip
  case cores =>
    intro s c hc hr hp
    refine ⟨exec_coreWake hc hr hp, fun b hh => exec_corePark_held hc hh b, fun hh hi hg => ⟨?_, fun hd => ⟨s.gateCore c, ?_, State.gateCore_spec hc⟩⟩⟩
    · rw [exec_corePark_idle hc hr hp hh hi hg]; rfl
    · rw [exec_corePark_idle hc hr hp hh hi hg, hd]; rfl

end Sys2Proof.Machine
end

section
/-! Bits and bytes of words: little-endian bytes (R9), fields stacked in a word (R8), and slots of equal size in a row. -/
namespace Sys2Proof

@[simp] theorem length_leBytes (n v : Nat) : (leBytes n v).length = n := by
  induction n generalizing v with
  | zero => rfl
  | succ n ih => simp [leBytes, ih]

/-- The number that the bytes of a number hold. -/
theorem ofLe_leBytes (n v : Nat) : ofLe (leBytes n v) = v % 2 ^ (8 * n) := by
  induction n generalizing v with
  | zero => simp [leBytes, ofLe, Nat.mod_one]
  | succ n ih =>
    have hp : 2 ^ (8 * (n + 1)) = 256 * 2 ^ (8 * n) := by rw [Nat.mul_succ, Nat.pow_add]; omega
    simp only [leBytes, ofLe, ih, BitVec.toNat_ofNat, hp, Nat.mod_mul]

/-- A number that its bytes can hold is read back. -/
theorem ofLe_leBytes_of_lt {m n v : Nat} (hv : v < 2 ^ m) (hm : m ≤ 8 * n) : ofLe (leBytes n v) = v := by
  rw [ofLe_leBytes, Nat.mod_eq_of_lt (Nat.lt_of_lt_of_le hv (Nat.pow_le_pow_right (by decide) hm))]

/-- The bytes of a number in two runs. -/
theorem leBytes_add (a b v : Nat) : leBytes (a + b) v = leBytes a v ++ leBytes b (v / 2 ^ (8 * a)) := by
  induction a generalizing v with
  | zero => simp [leBytes]
  | succ a ih =>
    have hp : 2 ^ (8 * (a + 1)) = 256 * 2 ^ (8 * a) := by rw [Nat.mul_succ, Nat.pow_add]; omega
    rw [Nat.succ_add]
    simp only [leBytes, ih, List.cons_append, hp, Nat.div_div_eq_div_mul]

/-! ### Fields of a word -/

/-- The bits of a field below another. -/
theorem bits_at_add_below {k hi lo : Nat} (h : hi < k) (v w : Nat) : bits (at_ k v + w) hi lo = bits w hi lo := by
  unfold bits at_
  by_cases hl : lo ≤ hi
  · have hk : k = lo + (hi + 1 - lo) + (k - hi - 1) := by omega
    rw [Nat.shiftRight_eq_div_pow, Nat.shiftRight_eq_div_pow, Nat.shiftLeft_eq]
    generalize hi + 1 - lo = m at hk ⊢
    generalize k - hi - 1 = z at hk
    subst hk
    rw [show v * 2 ^ (lo + m + z) = 2 ^ lo * (2 ^ m * (v * 2 ^ z)) by rw [Nat.pow_add, Nat.pow_add]; ac_rfl,
      Nat.mul_add_div (Nat.two_pow_pos lo), Nat.mul_add_mod]
  · rw [show hi + 1 - lo = 0 by omega]; simp [Nat.mod_one]

/-- The bits of a field over what lies below it. -/
theorem bits_at_add_self {lo w : Nat} (hw : w < 2 ^ lo) (hi v : Nat) : bits (at_ lo v + w) hi lo = v % 2 ^ (hi + 1 - lo) := by
  unfold bits at_
  rw [Nat.shiftRight_eq_div_pow, Nat.shiftLeft_eq, Nat.mul_comm, Nat.mul_add_div (Nat.two_pow_pos lo), Nat.div_eq_of_lt hw, Nat.add_zero]

/-- A field over what lies below it stays below its end. -/
theorem at_low_add_lt {lo w : Nat} (hw : w < 2 ^ lo) (n v : Nat) : at_ lo (low n v) + w < 2 ^ (lo + n) := by
  have hv : low n v < 2 ^ n := Nat.mod_lt _ (Nat.two_pow_pos n)
  unfold at_
  rw [Nat.shiftLeft_eq, Nat.pow_add]
  calc low n v * 2 ^ lo + w < (low n v + 1) * 2 ^ lo := by rw [Nat.succ_mul]; omega
    _ ≤ 2 ^ n * 2 ^ lo := Nat.mul_le_mul_right _ hv
    _ = 2 ^ lo * 2 ^ n := Nat.mul_comm _ _

/-- A field given by its lowest bit, its width and its value. -/
structure Field where
  lo : Nat
  width : Nat
  value : Nat

/-- A word made of fields, given from the highest down. -/
def stack : List Field → Nat
  | [] => 0
  | f :: r => at_ f.lo (low f.width f.value) + stack r

/-- The first bit above the fields. -/
def stackEnd : List Field → Nat
  | [] => 0
  | f :: _ => f.lo + f.width

/-- No field is empty, and none reaches into the one above it. -/
def stackOk : List Field → Bool
  | [] => true
  | f :: r => 0 < f.width && stackEnd r ≤ f.lo && stackOk r

theorem stackOk_cons {f : Field} {r : List Field} (h : stackOk (f :: r) = true) :
    0 < f.width ∧ stackEnd r ≤ f.lo ∧ stackOk r = true := by
  simpa [stackOk, and_assoc] using h

theorem stack_lt : ∀ l : List Field, stackOk l = true → stack l < 2 ^ stackEnd l
  | [], _ => by decide
  | f :: r, h => by
    obtain ⟨-, hle, hr⟩ := stackOk_cons h
    exact at_low_add_lt (Nat.lt_of_lt_of_le (stack_lt r hr) (Nat.pow_le_pow_right (by decide) hle)) _ _

/-- Every field of a stack holds a bit, and ends where the stack ends or below. -/
theorem field_le_stackEnd : ∀ {l : List Field}, stackOk l = true → ∀ f ∈ l, 0 < f.width ∧ f.lo + f.width ≤ stackEnd l
  | g :: r, h, f, hf => by
    obtain ⟨hpos, hle, hr⟩ := stackOk_cons h
    obtain rfl | hf := List.mem_cons.1 hf
    · exact ⟨hpos, Nat.le_refl _⟩
    · obtain ⟨hf0, hfe⟩ := field_le_stackEnd hr f hf
      exact ⟨hf0, Nat.le_trans hfe (Nat.le_trans hle (Nat.le_add_right _ _))⟩

/-- A field of a stack reads as its value. -/
theorem bits_stack : ∀ {l : List Field}, stackOk l = true → ∀ f ∈ l, bits (stack l) (f.lo + f.width - 1) f.lo = low f.width f.value
  | g :: r, h, f, hf => by
    obtain ⟨hpos, hle, hr⟩ := stackOk_cons h
    obtain rfl | hf := List.mem_cons.1 hf
    · have below : stack r < 2 ^ f.lo := Nat.lt_of_lt_of_le (stack_lt r hr) (Nat.pow_le_pow_right (by decide) hle)
      rw [stack, bits_at_add_self below, show f.lo + f.width - 1 + 1 - f.lo = f.width by omega]
      exact Nat.mod_mod _ _
    · obtain ⟨hf0, hfe⟩ := field_le_stackEnd hr f hf
      rw [stack, bits_at_add_below (by omega), bits_stack hr f hf]

/-! ### Slots of equal size -/

/-- A slot of a row of slots of equal size. -/
theorem take_drop_flatMap {α β : Type} {k : Nat} {g : α → List β} (hg : ∀ a, (g a).length = k) (post : List β) :
    ∀ (l : List α) (i : Nat) (h : i < l.length), ((l.flatMap g ++ post).drop (k * i)).take k = g l[i]
  | a :: r, 0, _ => by simp [List.take_left' (hg a)]
  | a :: r, i + 1, h => by
    have hr := take_drop_flatMap hg post r i (by simpa using h)
    simpa [Nat.mul_succ, Nat.add_comm (k * i), ← List.drop_drop, List.drop_left' (hg a)] using hr

/-- A slot of a row of numbers of 16 bytes. -/
theorem take_drop_words (n i : Nat) (f : Nat → Nat) (h : i < n) (pre post : List Byte) :
    ((pre ++ ((List.range n).flatMap (fun j => leBytes 16 (f j)) ++ post)).drop (pre.length + 16 * i)).take 16 = leBytes 16 (f i) := by
  rw [← List.drop_drop, List.drop_left, take_drop_flatMap (fun j => length_leBytes 16 (f j)) post _ i (by simpa using h)]
  simp

end Sys2Proof
end

section
/-! The ledger (R44, R665 to R679, R697): the queue of requests, the readout record, its delivery, and the supply of the island. -/
namespace Sys2Proof.Machine

/-! ## Reading a packet leaves Staul's queue alone -/

theorem State.translate_queue (s : State) (r : Option Nat) (a : Nat) : (s.translate r a).ledger.queue = s.ledger.queue := by
  simp only [State.translate]
  cases lookupK (a / 65536) s.pages <;> rfl

theorem State.countRead_queue (s : State) (a n : Nat) : (s.countRead a n).ledger.queue = s.ledger.queue := by
  unfold State.countRead
  split
  · rfl
  · split <;> rfl

theorem State.sysTouch_queue (s : State) (a : W64) (n : Nat) : (s.sysTouch a n).ledger.queue = s.ledger.queue := by
  unfold State.sysTouch State.touch
  split
  · rfl
  · exact foldl_keeps (P := fun t : State => t.ledger.queue = s.ledger.queue)
      (fun t p ht => by rw [State.countRead_queue, State.translate_queue, ht]) _ _ rfl

theorem State.consume_queue (s : State) (src : Src) (p : Packet) : (s.consume src p).ledger.queue = s.ledger.queue := by
  unfold State.consume
  split
  · split
    · rfl
    · exact State.sysTouch_queue _ _ _
  · rfl

/-! ## Requests (R675, R676) -/

/-- A destination on the bus that is aligned passes the checks of a ledger command. -/
theorem State.ledgerDest_bus {s : State} {src : Src} {p : Packet} {n : Nat} (hb : isBus (pktP p 0) = true)
    (hl : addrLegal (pktP p 0) = true) (ha : (pktP p 0).toNat % 64 = 0) : s.ledgerDest src p n = none := by
  unfold State.ledgerDest State.destFault State.sysCheckWrite
  simp [hb, hl, ha]

/-- A ledger command of the sideband names no destination (R676). -/
theorem State.ledgerDest_side (s : State) (q p : Packet) (n : Nat) : s.ledgerDest (.ledgerBand q) p n = none := rfl

/-- A request of a path whose 16 places are taken is refused. -/
theorem State.askLedger_full {s : State} {src : Src} {p : Packet}
    (h : 16 ≤ (s.ledger.queue.filter (fun q => q.side == srcSide src)).length) : s.askLedger src p = s.answer src p { st := .busy } := by
  unfold State.askLedger
  rw [if_pos (by simpa [ledgerDepth] using h)]
  rfl

/-- A request of a ring with a place left waits in the queue, and its ring is kept. -/
theorem State.askLedger_ring {s : State} {n : Nat} {p : Packet} (h : (s.ledger.queue.filter (fun q => q.side == false)).length < 16) :
    s.askLedger (.ring n) p = (s.updRing n (fun g => { g with busy := some p })).updLedger (fun g =>
      { g with queue := g.queue ++ [⟨pktOp p, false, n, p⟩] }) := by
  unfold State.askLedger
  rw [if_neg (by simpa [ledgerDepth, srcSide] using h)]
  rfl

/-- A request of the sideband with a place left waits in the queue. -/
theorem State.askLedger_side {s : State} {q p : Packet} (h : (s.ledger.queue.filter (fun q => q.side == true)).length < 16) :
    s.askLedger (.ledgerBand q) p = s.updLedger (fun g => { g with queue := g.queue ++ [⟨pktOp p, true, noRing, p⟩] }) := by
  unfold State.askLedger
  rw [if_neg (by simpa [ledgerDepth, srcSide] using h)]
  rfl

/-- Staul serves a reference check: the first request of the queue is one. -/
def Checking (g : Ledger) : Prop := ∃ q, g.queue.head? = some q ∧ q.opcode = 0x0702

theorem Ledger.serving_iff (g : Ledger) : g.serving 0x0702 = true ↔ Checking g := by
  unfold Ledger.serving Checking
  cases g.queue <;> simp

/-- The rows of the ledger commands with their opcodes and the bytes they write. -/
def LedgerRow (op len : Nat) (row : Src → Instr) : Prop :=
  (op = 0x0700 ∧ row = .ledgerRead ∧ len = 1600) ∨ (op = 0x0701 ∧ row = .ledgerCert ∧ len = Config.ledgerCert.length) ∨
    (op = 0x0702 ∧ row = .ledgerRefcheck ∧ len = 1600)

/-- An accepted ledger command whose destination is in order asks Staul, but for a reference check while another runs (R675, R677). -/
theorem exec_ledgerRow {s : State} {src : Src} {p : Packet} {op len : Nat} {row : Src → Instr} (hrow : LedgerRow op len row)
    (hp : Accepted s src p op) (hd : ∀ t : State, t.ledgerDest src p len = none) :
    (op = 0x0702 ∧ Checking s.ledger → exec (row src) s = .next ((s.consume src p).answer src p { st := .busy })) ∧
    (¬ (op = 0x0702 ∧ Checking s.ledger) → exec (row src) s = .next ((s.consume src p).askLedger src p)) := by
  have hq : (s.consume src p).ledger.serving 0x0702 = s.ledger.serving 0x0702 := by unfold Ledger.serving; rw [State.consume_queue]
  obtain ⟨rfl, rfl, rfl⟩ | ⟨rfl, rfl, rfl⟩ | ⟨rfl, rfl, rfl⟩ := hrow
  case inl =>
    refine ⟨fun h => absurd h.1 (by decide), fun _ => ?_⟩
    show execLedgerRead src s = _
    unfold execLedgerRead
    rw [State.command_accepted hp _ rfl]; simp only [hd]
  case inr.inl =>
    refine ⟨fun h => absurd h.1 (by decide), fun _ => ?_⟩
    show execLedgerCert src s = _
    unfold execLedgerCert
    rw [State.command_accepted hp _ rfl]; simp only [hd]
  case inr.inr =>
    have heq : exec (.ledgerRefcheck src) s = .next (if s.ledger.serving 0x0702 then (s.consume src p).refuse src p .busy
        else (s.consume src p).askLedger src p) := by
      show execLedgerRefcheck src s = _
      unfold execLedgerRefcheck
      rw [State.command_accepted hp _ rfl]; simp only [hd, hq]
    rw [heq]
    exact ⟨fun h => by rw [if_pos ((Ledger.serving_iff _).2 h.2)]; rfl,
      fun h => by rw [if_neg (fun hc => h ⟨rfl, (Ledger.serving_iff _).1 hc⟩)]⟩

/-! ## The readout record (R671, R672) -/

/-- The fields of the header, from the highest down (R671). -/
def State.headerFields (s : State) (kind : Nat) (side pass : Bool) (mark nonce seq : Nat) : List Field :=
  [⟨448, 1, b2n pass⟩, ⟨432, 16, s.fuses.ledgerFw⟩, ⟨416, 16, s.fuses.calGen⟩, ⟨384, 32, s.ledger.now.refLost⟩,
   ⟨352, 32, s.ledger.now.powerUps⟩, ⟨345, 1, b2n s.ledger.clean⟩, ⟨344, 1, b2n side⟩, ⟨336, 8, kind⟩, ⟨272, 64, nonce⟩, ⟨208, 64, mark⟩,
   ⟨144, 64, seq⟩, ⟨80, 64, s.fuses.serial⟩, ⟨64, 16, s.partCode⟩, ⟨48, 16, 1600⟩, ⟨32, 16, 1⟩, ⟨0, 32, 0x0A091ED6⟩]

theorem low_b2n (b : Bool) : low 1 (b2n b) = b2n b := by cases b <;> rfl

theorem low_eq_self {n v : Nat} (h : v < 2 ^ n) : low n v = v := Nat.mod_eq_of_lt h

theorem State.partCode_lt (s : State) : s.partCode < 2 ^ 16 := by unfold State.partCode; split <;> decide

/-- The header is the word of its fields. -/
theorem State.ledgerHeader_eq (s : State) {kind : Nat} (hk : kind < 2 ^ 8) (side pass : Bool) (mark nonce seq : Nat) :
    s.ledgerHeader kind side pass mark nonce seq = leBytes 64 (stack (s.headerFields kind side pass mark nonce seq)) := by
  unfold State.ledgerHeader State.headerFields
  simp only [stack, low_b2n, low_eq_self hk, low_eq_self s.partCode_lt, Nat.add_assoc]
  rfl

/-- A field of the header reads as its value. -/
theorem State.bits_ledgerHeader (s : State) {kind : Nat} (hk : kind < 2 ^ 8) (side pass : Bool) (mark nonce seq : Nat) (f : Field)
    (hf : f ∈ s.headerFields kind side pass mark nonce seq) :
    bits (ofLe (s.ledgerHeader kind side pass mark nonce seq)) (f.lo + f.width - 1) f.lo = low f.width f.value := by
  have ok : stackOk (s.headerFields kind side pass mark nonce seq) = true := rfl
  rw [s.ledgerHeader_eq hk, ofLe_leBytes_of_lt (stack_lt _ ok) (show 449 ≤ 8 * 64 by decide)]
  exact bits_stack ok f hf

/-- What a record's signature covers: its first 1,536 bytes. -/
def State.ledgerBody (s : State) (kind : Nat) (side pass : Bool) (mark nonce seq : Nat) (energy : List Nat) : List Byte :=
  s.ledgerHeader kind side pass mark nonce seq ++ s.ledger.now.macBytes ++ s.ledger.now.byteBytes
    ++ (List.range 4).flatMap (fun i => leBytes 16 ((energy[i]?).getD 0))

/-- Bytes with the signature over them (R672). -/
def signed (calGen : Nat) (body : List Byte) : List Byte :=
  body ++ leBytes 32 (Config.ledgerSign calGen (shaNat body)).1 ++ leBytes 32 (Config.ledgerSign calGen (shaNat body)).2

section
variable (s : State) (kind : Nat) (side pass : Bool) (mark nonce seq : Nat) (energy : List Nat)

theorem State.length_ledgerHeader : (s.ledgerHeader kind side pass mark nonce seq).length = 64 := length_leBytes 64 _

theorem LedgerCounts.length_macBytes (g : LedgerCounts) : g.macBytes.length = 1280 := by simp [LedgerCounts.macBytes]

theorem LedgerCounts.length_byteBytes (g : LedgerCounts) : g.byteBytes.length = 128 := by simp [LedgerCounts.byteBytes]

theorem State.length_ledgerBody : (s.ledgerBody kind side pass mark nonce seq energy).length = 1536 := by
  simp [State.ledgerBody, State.length_ledgerHeader, LedgerCounts.length_macBytes, LedgerCounts.length_byteBytes]

/-- The first 64 bytes of a record are its header. -/
theorem State.take_ledgerBody (post : List Byte) :
    (s.ledgerBody kind side pass mark nonce seq energy ++ post).take 64 = s.ledgerHeader kind side pass mark nonce seq := by
  unfold State.ledgerBody
  rw [List.append_assoc, List.append_assoc, List.append_assoc, List.take_left' (State.length_ledgerHeader ..)]

/-- A MAC counter stands at 256c + 16f after the header. -/
theorem State.mac_ledgerBody {i : Nat} (h : i < 80) (post : List Byte) :
    ((s.ledgerBody kind side pass mark nonce seq energy ++ post).drop (64 + 16 * i)).take 16 =
      leBytes 16 (if 1 ≤ i % 16 && i % 16 ≤ 10 then lookupD 0 i s.ledger.now.mac else 0) := by
  have := take_drop_words 80 i (fun i => if 1 ≤ i % 16 && i % 16 ≤ 10 then lookupD 0 i s.ledger.now.mac else 0) h
    (s.ledgerHeader kind side pass mark nonce seq)
    (s.ledger.now.byteBytes ++ ((List.range 4).flatMap (fun i => leBytes 16 ((energy[i]?).getD 0)) ++ post))
  rw [State.length_ledgerHeader] at this
  unfold State.ledgerBody LedgerCounts.macBytes
  simpa only [List.append_assoc] using this

/-- A byte counter stands in its slot after the MAC counters. -/
theorem State.byte_ledgerBody {i : Nat} (h : i < 8) (post : List Byte) :
    ((s.ledgerBody kind side pass mark nonce seq energy ++ post).drop (1344 + 16 * i)).take 16 =
      leBytes 16 (if i < 7 then (s.ledger.now.bytes[i]?).getD 0 else 0) := by
  have := take_drop_words 8 i (fun i => if i < 7 then (s.ledger.now.bytes[i]?).getD 0 else 0) h
    (s.ledgerHeader kind side pass mark nonce seq ++ s.ledger.now.macBytes)
    ((List.range 4).flatMap (fun i => leBytes 16 ((energy[i]?).getD 0)) ++ post)
  rw [List.length_append, State.length_ledgerHeader, LedgerCounts.length_macBytes] at this
  unfold State.ledgerBody LedgerCounts.byteBytes
  simpa only [List.append_assoc, Nat.reduceAdd] using this

/-- An energy slot stands after the byte counters. -/
theorem State.energy_ledgerBody {i : Nat} (h : i < 4) (post : List Byte) :
    ((s.ledgerBody kind side pass mark nonce seq energy ++ post).drop (1472 + 16 * i)).take 16 = leBytes 16 ((energy[i]?).getD 0) := by
  have := take_drop_words 4 i (fun i => (energy[i]?).getD 0) h
    (s.ledgerHeader kind side pass mark nonce seq ++ s.ledger.now.macBytes ++ s.ledger.now.byteBytes) post
  rw [List.length_append, List.length_append, State.length_ledgerHeader, LedgerCounts.length_macBytes, LedgerCounts.length_byteBytes] at this
  unfold State.ledgerBody
  simpa only [List.append_assoc, Nat.reduceAdd] using this

/-- The fields of the header, read from a record. -/
theorem State.header_ledgerBody {kind : Nat} (hk : kind < 2 ^ 8) (post : List Byte) :
    let h := ofLe ((s.ledgerBody kind side pass mark nonce seq energy ++ post).take 64)
    bits h 31 0 = 0x0A091ED6 ∧ bits h 63 48 = 1600 ∧ bits h 207 144 = seq % 2 ^ 64 ∧ bits h 271 208 = mark % 2 ^ 64 ∧
    bits h 335 272 = nonce % 2 ^ 64 ∧ bits h 343 336 = kind ∧ bits h 344 344 = b2n side ∧ bits h 448 448 = b2n pass := by
  rw [State.take_ledgerBody]
  have field := s.bits_ledgerHeader hk side pass mark nonce seq
  exact ⟨field ⟨0, 32, 0x0A091ED6⟩ (by simp [State.headerFields]), field ⟨48, 16, 1600⟩ (by simp [State.headerFields]),
    field ⟨144, 64, seq⟩ (by simp [State.headerFields]), field ⟨208, 64, mark⟩ (by simp [State.headerFields]),
    field ⟨272, 64, nonce⟩ (by simp [State.headerFields]),
    (field ⟨336, 8, kind⟩ (by simp [State.headerFields])).trans (low_eq_self hk),
    (field ⟨344, 1, b2n side⟩ (by simp [State.headerFields])).trans (low_b2n side),
    (field ⟨448, 1, b2n pass⟩ (by simp [State.headerFields])).trans (low_b2n pass)⟩

end

/-! ## Records made and delivered (R671, R674, R676, R679) -/

/-- LDG.SEQ has risen, and the counters are durable (R674, R679). -/
def State.recorded (s : State) : State :=
  s.updLedger (fun g => ({ g with now := { g.now with seq := g.now.seq + 1 } } : Ledger).checkpoint)

/-- The bytes of a request of the sideband leave in its response messages, before the reply. -/
theorem State.serveLedger_side {s : State} {q : LedgerReq} (h : q.side = true) (bytes : List Byte) (r0 : Nat) :
    ∃ w : State, s.serveLedger q bytes r0 = w.answer (.ledgerBand q.pkt) q.pkt { r0 := r0 } ∧ w.ledgerOut = s.ledgerOut ++ [bytes] ∧
      w.ledger = { s.ledger with queue := s.ledger.queue.drop 1 } ∧ w = { s with ledgerOut := w.ledgerOut, ledger := w.ledger } := by
  refine ⟨{ s with ledger := { s.ledger with queue := s.ledger.queue.drop 1 }, ledgerOut := s.ledgerOut ++ [bytes] }, ?_, rfl, rfl, rfl⟩
  unfold State.serveLedger
  rw [if_pos h]; rfl

/-- The bytes of a ring's request are written at its destination on the bus, and the ring goes on with the reply. -/
theorem State.serveLedger_ring {s : State} {q : LedgerReq} {g : Ring} (h : q.side = false) (hm : s.mode = .running)
    (hg : lookupK q.ring s.rings = some g) (hb : g.busy = some q.pkt) (hbus : isBus (pktP q.pkt 0) = true) (bytes : List Byte) (r0 : Nat) :
    ∃ w : State, s.serveLedger q bytes r0 = w.release q.ring { r0 := r0 } ∧
      w.hostMem = s.hostMem.writeBytes (addrOf (pktP q.pkt 0)) bytes ∧
      w.ledger = { (s.count 3 bytes.length).ledger with queue := s.ledger.queue.drop 1 } ∧
      w = { s with hostMem := w.hostMem, ledger := w.ledger } := by
  have hbusy : (lookupK q.ring s.rings).bind Ring.busy = some q.pkt := by rw [hg]; exact hb
  refine ⟨({ s with ledger := { s.ledger with queue := s.ledger.queue.drop 1 } } : State).sysWrite (pktP q.pkt 0) bytes, ?_, ?_⟩
  · simp only [State.serveLedger, State.updLedger, h, hbusy, hm, Bool.false_eq_true, if_false, beq_self_eq_true, Bool.and_self, if_true]
  · rw [State.sysWrite_bus hbus]
    exact ⟨rfl, rfl, rfl⟩

/-- Energy of the domains' sensors added to the counts. -/
def State.sampled (s : State) (energy : List Nat) : State := s.updLedger (fun g => { g with now := g.now.addEnergy energy })

theorem LedgerCounts.addEnergy_energy {g : LedgerCounts} {e : List Nat} {i v x : Nat} (hv : g.energy[i]? = some v) (hx : e[i]? = some x) :
    (g.addEnergy e).energy[i]? = some (v + x) := by
  simp [LedgerCounts.addEnergy, List.getElem?_zipIdx, hv, hx]

/-- What the signature covers in the record of a READ: the command's mark and nonce, the risen LDG.SEQ and the sampled energy. -/
def State.readBody (s : State) (q : LedgerReq) (energy : List Nat) : List Byte :=
  (s.sampled energy).recorded.ledgerBody 0 q.side false (pktP q.pkt 1).toNat (pktP q.pkt 2).toNat (s.ledger.now.seq + 1)
    (s.ledger.now.addEnergy energy).energy

theorem State.length_readBody (s : State) (q : LedgerReq) (energy : List Nat) : (s.readBody q energy).length = 1536 :=
  State.length_ledgerBody ..

theorem State.header_readBody (s : State) (q : LedgerReq) (energy : List Nat) :
    let h := ofLe ((s.readBody q energy).take 64)
    bits h 31 0 = 0x0A091ED6 ∧ bits h 63 48 = 1600 ∧ bits h 207 144 = (s.ledger.now.seq + 1) % 2 ^ 64 ∧
    bits h 271 208 = (pktP q.pkt 1).toNat ∧ bits h 335 272 = (pktP q.pkt 2).toNat ∧ bits h 343 336 = 0 ∧ bits h 344 344 = b2n q.side := by
  obtain ⟨hmagic, hlen, hseq, hmark, hnonce, hkind, hpath, -⟩ := (s.sampled energy).recorded.header_ledgerBody q.side false
    (pktP q.pkt 1).toNat (pktP q.pkt 2).toNat (s.ledger.now.seq + 1) (s.ledger.now.addEnergy energy).energy (kind := 0) (by decide) []
  rw [List.append_nil] at *
  exact ⟨hmagic, hlen, hseq, hmark.trans (Nat.mod_eq_of_lt (pktP q.pkt 1).isLt), hnonce.trans (Nat.mod_eq_of_lt (pktP q.pkt 2).isLt),
    hkind, hpath⟩

theorem State.bytes_readBody (s : State) (q : LedgerReq) (energy : List Nat) {i v : Nat} (hi : i < 7) (hv : s.ledger.now.bytes[i]? = some v) :
    ofLe (((s.readBody q energy).drop (1344 + 16 * i)).take 16) = v % 2 ^ 128 := by
  have slot := (s.sampled energy).recorded.byte_ledgerBody 0 q.side false (pktP q.pkt 1).toNat (pktP q.pkt 2).toNat
    (s.ledger.now.seq + 1) (s.ledger.now.addEnergy energy).energy (i := i) (by omega) []
  have hv' : (s.sampled energy).recorded.ledger.now.bytes[i]? = some v := hv
  rw [List.append_nil, if_pos hi, hv'] at slot
  exact (congrArg ofLe slot).trans (ofLe_leBytes 16 v)

theorem State.mac_readBody (s : State) (q : LedgerReq) (energy : List Nat) {c f : Nat} (hc : c < 5) (h1 : 1 ≤ f) (h10 : f ≤ 10) :
    ofLe (((s.readBody q energy).drop (64 + 256 * c + 16 * f)).take 16) = lookupD 0 (16 * c + f) s.ledger.now.mac % 2 ^ 128 := by
  have slot := (s.sampled energy).recorded.mac_ledgerBody 0 q.side false (pktP q.pkt 1).toNat (pktP q.pkt 2).toNat
    (s.ledger.now.seq + 1) (s.ledger.now.addEnergy energy).energy (i := 16 * c + f) (by omega) []
  rw [List.append_nil, show (16 * c + f) % 16 = f by omega, if_pos (by simp [h1, h10])] at slot
  rw [show 64 + 256 * c + 16 * f = 64 + 16 * (16 * c + f) by omega]
  exact (congrArg ofLe slot).trans (ofLe_leBytes 16 _)

theorem State.energy_readBody (s : State) (q : LedgerReq) {energy : List Nat} {i v e : Nat} (hi : i < 4)
    (hv : s.ledger.now.energy[i]? = some v) (he : energy[i]? = some e) :
    ofLe (((s.readBody q energy).drop (1472 + 16 * i)).take 16) = (v + e) % 2 ^ 128 := by
  have slot := (s.sampled energy).recorded.energy_ledgerBody 0 q.side false (pktP q.pkt 1).toNat (pktP q.pkt 2).toNat
    (s.ledger.now.seq + 1) (s.ledger.now.addEnergy energy).energy hi []
  rw [List.append_nil, LedgerCounts.addEnergy_energy hv he] at slot
  exact (congrArg ofLe slot).trans (ofLe_leBytes 16 _)

/-- LEDGER_RECORD_RELEASE of a READ at the head of the queue samples the energy, raises LDG.SEQ and delivers the signed record. -/
theorem exec_ledgerRecordRelease {s : State} {q : LedgerReq} {l : List LedgerReq} (hq : s.ledger.queue = q :: l) (hu : s.ledger.up = true)
    (ho : q.opcode = 0x0700) {side : Bool} (hs : q.side = side) (energy : List Nat) :
    exec (.ledgerRecordRelease side energy) s = .next ((s.sampled energy).recorded.serveLedger q
      (signed s.fuses.calGen (s.readBody q energy)) (s.ledger.now.seq + 1)) := by
  have hmake : exec (.ledgerRecordRelease side energy) s =
      .next ((s.sampled energy).makeRecord q 0 false (s.ledger.now.addEnergy energy).energy) := by
    show execLedgerRecordRelease side energy s = _
    unfold execLedgerRecordRelease
    simp [hq, hu, ho, hs, State.sampled, State.updLedger]
  exact hmake

/-! ## Reference checks (R677) -/

/-- The energy slots of a REFCHECK record: the expected energy of each domain, and over it the measured one. -/
def refSlots (expected measured : List Nat) : List Nat :=
  (List.range 4).map (fun i => low 64 ((expected[i]?).getD 0) + at_ 64 (low 64 ((measured[i]?).getD 0)))

/-- Whether every domain is within its bound. -/
def refPass (expected measured : List Nat) : Bool :=
  (List.range 4).all (fun i => refClose ((expected[i]?).getD 0) ((measured[i]?).getD 0))

/-- What the signature covers in the record of a REFCHECK. -/
def State.refBody (s : State) (q : LedgerReq) (expected measured : List Nat) : List Byte :=
  s.recorded.ledgerBody 1 q.side (refPass expected measured) 0 0 (s.ledger.now.seq + 1) (refSlots expected measured)

/-- REFCHECK_COMPLETE of the request at the head of the queue raises LDG.SEQ and delivers the signed record. -/
theorem exec_refcheckComplete {s : State} {q : LedgerReq} {l : List LedgerReq} (hq : s.ledger.queue = q :: l) (hu : s.ledger.up = true)
    (ho : q.opcode = 0x0702) (expected measured : List Nat) :
    exec (.refcheckComplete expected measured) s = .next (s.recorded.serveLedger q
      (signed s.fuses.calGen (s.refBody q expected measured)) (s.ledger.now.seq + 1)) := by
  have hmake : exec (.refcheckComplete expected measured) s =
      .next (s.makeRecord q 1 (refPass expected measured) (refSlots expected measured)) := by
    show execRefcheckComplete expected measured s = _
    unfold execRefcheckComplete
    simp only [hq, hu, ho]
    rfl
  exact hmake

/-- Within 0.2%, without fractions. -/
theorem refClose_iff (e m : Nat) : refClose e m = true ↔ 500 * m ≤ 501 * e ∧ 499 * e ≤ 500 * m := by
  have hmax : Nat.max e m = max e m := rfl
  have hmin : Nat.min e m = min e m := rfl
  simp only [refClose, decide_eq_true_eq, hmax, hmin]
  omega

theorem refPass_iff (expected measured : List Nat) : refPass expected measured = true ↔ ∀ i, i < 4 →
    500 * ((measured[i]?).getD 0) ≤ 501 * ((expected[i]?).getD 0) ∧ 499 * ((expected[i]?).getD 0) ≤ 500 * ((measured[i]?).getD 0) := by
  simp only [refPass, List.all_eq_true, List.mem_range, refClose_iff]

/-- A slot of a REFCHECK record holds the expected energy in its low half, the measured one in its high half. -/
theorem ofLe_refSlot {i : Nat} (h : i < 4) (expected measured : List Nat) :
    ofLe ((leBytes 16 (((refSlots expected measured)[i]?).getD 0)).take 8) = (expected[i]?).getD 0 % 2 ^ 64 ∧
    ofLe ((leBytes 16 (((refSlots expected measured)[i]?).getD 0)).drop 8) = (measured[i]?).getD 0 % 2 ^ 64 := by
  have hslot : ((refSlots expected measured)[i]?).getD 0 =
      low 64 ((expected[i]?).getD 0) + at_ 64 (low 64 ((measured[i]?).getD 0)) := by
    simp [refSlots, List.getElem?_range h]
  rw [hslot, leBytes_add 8 8, List.take_left' (length_leBytes 8 _), List.drop_left' (length_leBytes 8 _), ofLe_leBytes, ofLe_leBytes]
  simp only [low, at_, Nat.shiftLeft_eq]
  omega

theorem b2n_eq_one (b : Bool) : b2n b = 1 ↔ b = true := by cases b <;> decide

/-- The header of a REFCHECK record says what it is and whether the check passed. -/
theorem State.header_refBody (s : State) (q : LedgerReq) (expected measured : List Nat) (post : List Byte) :
    let h := ofLe ((s.refBody q expected measured ++ post).take 64)
    bits h 343 336 = 1 ∧ (bits h 448 448 = 1 ↔ refPass expected measured = true) := by
  obtain ⟨-, -, -, -, -, hkind, -, hpass⟩ := s.recorded.header_ledgerBody q.side (refPass expected measured) 0 0 (s.ledger.now.seq + 1)
    (refSlots expected measured) (kind := 1) (by decide) post
  exact ⟨hkind, by rw [← b2n_eq_one, ← hpass]; rfl⟩

/-- The energy slots of a REFCHECK record. -/
theorem State.energy_refBody (s : State) (q : LedgerReq) (expected measured : List Nat) (post : List Byte) {i : Nat} (hi : i < 4) :
    ofLe (((s.refBody q expected measured ++ post).drop (1472 + 16 * i)).take 8) = (expected[i]?).getD 0 % 2 ^ 64 ∧
    ofLe (((s.refBody q expected measured ++ post).drop (1480 + 16 * i)).take 8) = (measured[i]?).getD 0 % 2 ^ 64 := by
  have slot := s.recorded.energy_ledgerBody 1 q.side (refPass expected measured) 0 0 (s.ledger.now.seq + 1) (refSlots expected measured) hi post
  obtain ⟨hlow, hhigh⟩ := ofLe_refSlot hi expected measured
  rw [← slot, List.take_take] at hlow
  rw [← slot, List.drop_take, List.drop_drop, show 1472 + 16 * i + 8 = 1480 + 16 * i by omega] at hhigh
  exact ⟨hlow, hhigh⟩

/-! ## The island (R44, R679, R697) -/

theorem exec_staulCheckpoint {s : State} (hu : s.ledger.up = true) (energy : List Nat) :
    exec (.staulCheckpoint energy) s = .next (s.updLedger (fun g => ({ g with now := g.now.addEnergy energy } : Ledger).checkpoint)) := by
  show execStaulCheckpoint energy s = _
  simp [execStaulCheckpoint, hu]

theorem exec_vldgFall {s : State} (hu : s.ledger.up = true) (held : Bool) :
    exec (.vldgFall held) s = .next (s.updLedger (fun g =>
      { (if held then g.checkpoint else g) with up := false, clean := held, queue := g.queue.filter (fun q => !q.side) })) := by
  show execVldgFall held s = _
  simp [execVldgFall, hu]

theorem exec_staulPowerUp {s : State} (hu : s.ledger.up = false) :
    exec .staulPowerUp s = .next (s.updLedger (fun g =>
      { g with up := true, now := { g.saved with powerUps := g.saved.powerUps + 1 }, saved := { g.saved with powerUps := g.saved.powerUps + 1 } })) := by
  show execStaulPowerUp s = _
  simp [execStaulPowerUp, hu]

/-! ## The statement -/

/-- Settles O52: the queue by `exec_ledgerRow`, the record by the lemmas on `ledgerBody`, its delivery by `serveLedger_ring` and
`serveLedger_side`. -/
theorem ledgerServed : Obligations.LedgerServed := by
  unfold Obligations.LedgerServed
  refine ⟨⟨?ring, ?side, ?release, ?refcheck⟩, ?checkpoint, ?fall, ?powerUp, ?reference⟩
  case ring =>
    intro s n p row op len hrow hp hb hl ha
    obtain ⟨hbusy, hask⟩ := exec_ledgerRow hrow hp (fun t => State.ledgerDest_bus hb hl ha)
    have hq := s.consume_queue (.ring n) p
    have hop : pktOp p = op := hp.2.1
    constructor
    · rintro (hc | hfull)
      · exact hbusy hc
      · by_cases hc : op = 0x0702 ∧ Checking s.ledger
        · exact hbusy hc
        · rw [hask hc, State.askLedger_full (by rw [hq]; exact hfull)]
    · intro hc hfree
      rw [hask hc, State.askLedger_ring (by rw [hq]; exact hfree)]
      refine ⟨_, rfl, rfl, ?_, rfl⟩
      simp only [State.updLedger, State.updRing_ledger, hq, hop]
  case side =>
    intro s p q row op hrow hp hfree
    have hrow' : LedgerRow op (if op = 0x0700 then 1600 else Config.ledgerCert.length) row := by
      obtain ⟨rfl, rfl⟩ | ⟨rfl, rfl⟩ := hrow
      · exact .inl ⟨rfl, rfl, rfl⟩
      · exact .inr (.inl ⟨rfl, rfl, rfl⟩)
    have hne : ¬ (op = 0x0702 ∧ Checking s.ledger) := by
      rintro ⟨rfl, -⟩
      obtain ⟨h, -⟩ | ⟨h, -⟩ := hrow <;> exact absurd h (by decide)
    rw [(exec_ledgerRow hrow' hp (fun t => State.ledgerDest_side ..)).2 hne]
    show Host.Outcome.next (s.askLedger _ _) = _
    rw [State.askLedger_side hfree, hp.2.1]
    rfl
  case release =>
    intro s q l g energy hq hu ho
    obtain ⟨hmagic, hlen, hseq, hmark, hnonce, hkind, hpath⟩ := s.header_readBody q energy
    refine ⟨s.readBody q energy, s.length_readBody q energy, hmagic, hlen, hseq, hmark, hnonce, hkind, hpath,
      fun i v hi hv => s.bytes_readBody q energy hi hv, fun c f hc h1 h10 => s.mac_readBody q energy hc h1 h10,
      fun i v e hi hv he => s.energy_readBody q hi hv he, fun hs hrun hg hb hbus => ?onRing, fun hs => ?onSide⟩
    case onRing =>
      obtain ⟨w, hserve, hmem, hledger, hframe⟩ := State.serveLedger_ring (s := (s.sampled energy).recorded) hs hrun hg hb hbus
        (signed s.fuses.calGen (s.readBody q energy)) (s.ledger.now.seq + 1)
      simp only [State.recorded, State.sampled, State.updLedger] at hframe
      refine ⟨w, by rw [exec_ledgerRecordRelease hq hu ho hs energy, hserve], hmem, ?_, ?_, ?_, hframe⟩
      all_goals rw [hledger]
      · exact congrArg (List.drop 1) hq
      · rfl
      · rfl
    case onSide =>
      obtain ⟨w, hserve, hout, hledger, hframe⟩ := (s.sampled energy).recorded.serveLedger_side hs
        (signed s.fuses.calGen (s.readBody q energy)) (s.ledger.now.seq + 1)
      simp only [State.recorded, State.sampled, State.updLedger] at hframe
      refine ⟨w, by rw [exec_ledgerRecordRelease hq hu ho hs energy, hserve], hout, ?_, ?_, ?_, hframe⟩
      all_goals rw [hledger]
      · exact congrArg (List.drop 1) hq
      · rfl
      · rfl
  case refcheck =>
    intro s q l expected measured hq hu ho hs
    obtain ⟨w, hserve, hout, hledger, hframe⟩ := s.recorded.serveLedger_side hs
      (signed s.fuses.calGen (s.refBody q expected measured)) (s.ledger.now.seq + 1)
    refine ⟨w, signed s.fuses.calGen (s.refBody q expected measured),
      by rw [exec_refcheckComplete hq hu ho expected measured, hserve], hout, ?_, ?_, ?_⟩
    · rw [hledger]; exact congrArg (List.drop 1) hq
    · rw [hledger]; rfl
    · unfold signed
      rw [List.append_assoc]
      obtain ⟨hkind, hpass⟩ := s.header_refBody q expected measured _
      exact ⟨hkind, hpass.trans (refPass_iff expected measured), fun i hi => s.energy_refBody q expected measured _ hi, hframe⟩
  case checkpoint =>
    exact fun s e hu => ⟨_, exec_staulCheckpoint hu e, rfl, rfl, rfl, rfl, fun i v x hv hx => LedgerCounts.addEnergy_energy hv hx, rfl⟩
  case fall =>
    exact fun s hu held => ⟨_, exec_vldgFall hu held, rfl, rfl, by cases held <;> rfl, rfl⟩
  case powerUp => exact fun s hu => ⟨_, exec_staulPowerUp hu, rfl, rfl, rfl, rfl⟩
  case reference =>
    intro s hu hm
    show execReferenceLoss s = _
    simp [execReferenceLoss, hm, hu]

end Sys2Proof.Machine
end

section
/-! Tiles that move between counters (R417, R419, R649): what ranges hold, what an isolated counter gives up, and what another adopts. -/
namespace Sys2Proof.Machine

/-- A tile lies in one of the ranges. -/
def InRanges (l : List (Nat × Nat)) (x : Nat) : Prop := ∃ r ∈ l, r.1 ≤ x ∧ x < r.2

theorem Counter.owns_iff (k : Counter) (x : Nat) : k.owns x = true ↔ InRanges k.ranges x := by
  simp [Counter.owns, InRanges]

theorem inRanges_nil (x : Nat) : ¬ InRanges [] x := by simp [InRanges]

theorem inRanges_cons (r : Nat × Nat) (l : List (Nat × Nat)) (x : Nat) : InRanges (r :: l) x ↔ (r.1 ≤ x ∧ x < r.2) ∨ InRanges l x := by
  simp only [InRanges, List.exists_mem_cons_iff]

theorem inRanges_append (l m : List (Nat × Nat)) (x : Nat) : InRanges (l ++ m) x ↔ InRanges l x ∨ InRanges m x := by
  simp only [InRanges, List.mem_append, or_and_right, exists_or]

/-- A range joined with others loses no tile. -/
theorem inRanges_addRange {r : Nat × Nat} {l : List (Nat × Nat)} {x : Nat} (h : InRanges (r :: l) x) : InRanges (addRange r l) x := by
  induction l generalizing r with
  | nil => exact h
  | cons y l ih =>
    rw [inRanges_cons, inRanges_cons] at h
    unfold addRange
    split
    next => simpa only [inRanges_cons] using h
    next =>
      split
      next =>
        rw [inRanges_cons]
        obtain h | h | h := h
        · exact .inr (ih ((inRanges_cons ..).2 (.inl h)))
        · exact .inl h
        · exact .inr (ih ((inRanges_cons ..).2 (.inr h)))
      next =>
        refine ih ((inRanges_cons ..).2 ?_)
        obtain h | h | h := h
        · exact .inl ⟨Nat.le_trans (Nat.min_le_left ..) h.1, Nat.lt_of_lt_of_le h.2 (Nat.le_max_left ..)⟩
        · exact .inl ⟨Nat.le_trans (Nat.min_le_right ..) h.1, Nat.lt_of_lt_of_le h.2 (Nat.le_max_right ..)⟩
        · exact .inr h

/-- Ranges joined one after another lose no tile. -/
theorem inRanges_addRanges {new l : List (Nat × Nat)} {x : Nat} (h : InRanges new x ∨ InRanges l x) :
    InRanges (new.foldl (fun l r => addRange r l) l) x := by
  induction new generalizing l with
  | nil => exact h.resolve_left (inRanges_nil x)
  | cons r new ih =>
    rw [inRanges_cons, or_assoc, or_left_comm, ← inRanges_cons] at h
    exact ih (h.imp_right inRanges_addRange)

/-- A tile cut out of ranges takes no other with it. -/
theorem inRanges_cutRanges {t x : Nat} {l : List (Nat × Nat)} (hx : x ≠ t) (h : InRanges l x) : InRanges (cutRanges t (t + 1) l) x := by
  obtain ⟨r, hr, hlo, hhi⟩ := h
  have piece : InRanges (if t + 1 ≤ r.1 || r.2 ≤ t then [r]
      else (if r.1 < t then [(r.1, t)] else []) ++ (if t + 1 < r.2 then [(t + 1, r.2)] else [])) x := by
    split
    next => exact ⟨r, by simp, hlo, hhi⟩
    next =>
      rw [inRanges_append]
      obtain hlt | hgt := Nat.lt_or_gt_of_ne hx
      · exact .inl (by rw [if_pos (by omega)]; exact ⟨_, List.mem_singleton_self _, hlo, hlt⟩)
      · exact .inr (by rw [if_pos (by omega)]; exact ⟨_, List.mem_singleton_self _, hgt, hhi⟩)
  obtain ⟨q, hq, hin⟩ := piece
  exact ⟨q, List.mem_flatMap.2 ⟨r, hr, hq⟩, hin⟩

/-- Tiles cut out of ranges take no other with them. -/
theorem inRanges_cutTiles {ts : List Nat} {l : List (Nat × Nat)} {x : Nat} (hx : x ∉ ts) (h : InRanges l x) :
    InRanges (ts.foldl (fun l t => cutRanges t (t + 1) l) l) x := by
  induction ts generalizing l with
  | nil => exact h
  | cons t ts ih =>
    rw [List.mem_cons, not_or] at hx
    exact ih hx.2 (inRanges_cutRanges hx.1 h)

/-! ## What a counter gives up and adopts -/

/-- The tiles to be taken again that an isolated counter gives up: those taken, returned or suspended and not committed. -/
theorem Counter.mem_giveUp_back (k : Counter) (x : Nat) :
    x ∈ k.giveUp.2 ↔ (x ∈ k.returned ∨ x ∈ k.suspended ∨ ∃ c, (x, c) ∈ k.taken) ∧ x ∉ k.committed := by
  simp only [Counter.giveUp, List.mem_dedup, List.mem_filter, List.mem_append, List.mem_map, Prod.exists, exists_and_right,
    exists_eq_right, Bool.not_eq_true', List.contains_eq_mem, decide_eq_false_iff_not]
  tauto

/-- A tile that is not committed is given up, as a range or to be taken again (R649). -/
theorem Counter.giveUp_covers {k : Counter} {x : Nat} (h : k.owns x = true) (hc : x ∉ k.committed) :
    InRanges k.giveUp.1 x ∨ x ∈ k.giveUp.2 := by
  by_cases hb : x ∈ k.giveUp.2
  · exact .inr hb
  · exact .inl (inRanges_cutTiles (fun hm => (List.mem_append.1 hm).elim hc hb) ((k.owns_iff x).1 h))

theorem Counter.settle_ranges (k : Counter) : k.settle.ranges = k.ranges := by unfold Counter.settle; split <;> rfl

theorem Counter.settle_returned (k : Counter) : k.settle.returned = k.returned := by unfold Counter.settle; split <;> rfl

theorem Counter.adopt_ranges (k : Counter) (free : List (Nat × Nat)) (back : List Nat) :
    (k.adopt free back).ranges = (free ++ back.map (fun t => (t, t + 1))).foldl (fun l r => addRange r l) k.ranges :=
  Counter.settle_ranges _

theorem Counter.adopt_returned (k : Counter) (free : List (Nat × Nat)) (back : List Nat) :
    (k.adopt free back).returned = k.returned ++ back := Counter.settle_returned _

theorem Counter.adopt_win (k : Counter) (free : List (Nat × Nat)) (back : List Nat) : (k.adopt free back).win = k.win := by
  unfold Counter.adopt Counter.settle; split <;> rfl

/-- A counter that adopts tiles owns them beside its own. -/
theorem Counter.adopt_owns {k : Counter} {free : List (Nat × Nat)} {back : List Nat} {x : Nat}
    (h : InRanges free x ∨ x ∈ back ∨ k.owns x = true) : InRanges (k.adopt free back).ranges x := by
  rw [Counter.adopt_ranges]
  refine inRanges_addRanges ?_
  rw [inRanges_append, or_assoc]
  refine h.imp_right (Or.imp (fun hb => ⟨(x, x + 1), List.mem_map.2 ⟨x, hb, rfl⟩, Nat.le_refl x, Nat.lt_succ_self x⟩) (k.owns_iff x).1)

/-- An isolated counter keeps the record of its committed tiles and has no others (R649). -/
theorem Counter.emptied_spec (k : Counter) : k.emptied.unformed = [] ∧ k.emptied.returned = [] ∧ k.emptied.taken = [] ∧
    k.emptied.suspended = [] ∧ k.emptied.committed = k.committed := ⟨rfl, rfl, rfl, rfl, rfl⟩

end Sys2Proof.Machine
end

section
/-! Isolation and restoration of regions (R36, R648 to R651): what each step of an isolation keeps, what it leaves in the cores, which dispatches
it ends, and where the tiles of the others go. -/
namespace Sys2Proof.Machine

/-! ## Tables and units -/

theorem lookupK_mem {α : Type} {k : Nat} {v : α} {l : List (Nat × α)} (h : lookupK k l = some v) : (k, v) ∈ l := by
  induction l with
  | nil => cases h
  | cons p l ih =>
    obtain ⟨j, u⟩ := p
    unfold lookupK at h
    split at h
    next e => obtain rfl := Option.some.inj h; simp [e]
    next => exact List.mem_cons_of_mem _ (ih h)

/-- Changing one region by a function that keeps a part of it keeps that part of every region. -/
theorem State.region_updRegion_keeps {α : Type} (s : State) (r q : Nat) {f : Region → Region} (part : Region → α)
    (h : ∀ g, part (f g) = part g) : part ((s.updRegion r f).region q) = part (s.region q) := by
  simp only [State.region, State.updRegion, getElem?_updateAt]
  split
  next e => subst e; cases s.regions[r]? <;> simp [h]
  next => rfl

/-- A counter after one counter was changed. -/
theorem State.counter?_updCounter_self {s : State} {r : Nat} (hr : r < s.regions.length) (k : Nat) (f : Counter → Counter) :
    (s.updCounter r k f).counter? r k = (s.counter? r k).map f := by
  unfold State.counter? State.updCounter
  rw [State.region_updRegion_self s r _ hr]
  exact lookupK_updK_self k f _

/-- A counter of another region. -/
theorem State.counter?_updCounter_ne {s : State} {r q : Nat} (h : q ≠ r) (k j : Nat) (f : Counter → Counter) :
    (s.updCounter r k f).counter? q j = s.counter? q j := by
  unfold State.counter? State.updCounter
  rw [State.region_updRegion_ne s r q _ h]

/-- A counter stands in a region that the part has. -/
theorem State.counter?_lt {s : State} {r k : Nat} {q : Counter} (h : s.counter? r k = some q) : r < s.regions.length := by
  by_contra hr
  simp [State.counter?, State.region, List.getElem?_eq_none (Nat.le_of_not_lt hr), Region.fresh, lookupK] at h

theorem State.dispatch?_updDispatch_self (s : State) (n : Nat) (f : Dispatch → Dispatch) :
    (s.updDispatch n f).dispatch? n = (s.dispatch? n).map f := lookupK_updK_self n f _

theorem State.dispatch?_updDispatch_ne (s : State) {n m : Nat} (h : m ≠ n) (f : Dispatch → Dispatch) :
    (s.updDispatch n f).dispatch? m = s.dispatch? m := lookupK_updK_ne n m f _ h

@[simp] theorem State.undoWrites_regions (s : State) (us : List Undo) : (s.undoWrites us).regions = s.regions := by
  rw [State.undoWrites_eq]

@[simp] theorem State.undoWrites_dispatches (s : State) (us : List Undo) : (s.undoWrites us).dispatches = s.dispatches := by
  rw [State.undoWrites_eq]

@[simp] theorem State.undoWrites_cores (s : State) (us : List Undo) : (s.undoWrites us).cores = s.cores := by rw [State.undoWrites_eq]

/-! ## Cores stopped (R450, R649) -/

/-- A core runs no program, holds no tile and carries nothing out. -/
def Core.Left (k : Core) : Prop := k.dispatch = none ∧ k.held = none ∧ k.inflight = []

/-- What a stopped core becomes. -/
def Core.stop (k : Core) : Core := { k.leave with tags := [], recs := [], foreShelves := [], fore := false, drained := [], prog := [] }

theorem State.stopCore_eq (s : State) (c : Nat) : s.stopCore c = (s.undoWrites (s.openWrites (s.core c))).updCore c Core.stop := rfl

/-- Stopping a core changes the memories, the free values and the cores only. -/
theorem State.stopCore_frame (s : State) (c : Nat) : s.stopCore c =
    { s with dram := (s.stopCore c).dram, hostMem := (s.stopCore c).hostMem, fresh := (s.stopCore c).fresh, cores := (s.stopCore c).cores } := by
  rw [State.stopCore_eq, State.updCore, State.undoWrites_eq]

@[simp] theorem State.stopCore_cores (s : State) (c : Nat) : (s.stopCore c).cores = updateAt s.cores c Core.stop := by
  rw [State.stopCore_eq, State.updCore, State.undoWrites_cores]

theorem State.stopCore_cores_length (s : State) (c : Nat) : (s.stopCore c).cores.length = s.cores.length := by simp

theorem State.core_stopCore_self {s : State} {c : Nat} (h : c < s.cores.length) : (s.stopCore c).core c = (s.core c).stop := by
  simp [State.core, getElem?_updateAt, List.getElem?_eq_getElem h]

theorem State.core_stopCore_ne (s : State) {c e : Nat} (h : e ≠ c) : (s.stopCore c).core e = s.core e := by
  simp [State.core, getElem?_updateAt, Ne.symm h]

theorem Core.left_stop (k : Core) : k.stop.Left := ⟨rfl, rfl, rfl⟩

/-- Stopping a core leaves every core as it was, or stops it. -/
theorem State.left_stopCore {s : State} {c e : Nat} (h : (s.core e).Left) (he : e < s.cores.length) : ((s.stopCore c).core e).Left := by
  by_cases hec : e = c
  · rw [hec, State.core_stopCore_self (hec ▸ he)]; exact Core.left_stop _
  · rw [State.core_stopCore_ne s hec]; exact h

/-- Stopping cores changes the memories, the free values and the cores only. -/
theorem State.stopCores_frame (s : State) (cs : List Nat) : cs.foldl State.stopCore s =
    { s with dram := (cs.foldl State.stopCore s).dram, hostMem := (cs.foldl State.stopCore s).hostMem,
             fresh := (cs.foldl State.stopCore s).fresh, cores := (cs.foldl State.stopCore s).cores } :=
  foldl_keeps (P := fun t : State => t = { s with dram := t.dram, hostMem := t.hostMem, fresh := t.fresh, cores := t.cores })
    (fun t c ht => by rw [State.stopCore_frame, ht]) cs s rfl

theorem State.stopCores_cores_length (s : State) (cs : List Nat) : (cs.foldl State.stopCore s).cores.length = s.cores.length :=
  foldl_keeps (P := fun t : State => t.cores.length = s.cores.length) (fun t c ht => by rw [State.stopCore_cores_length, ht]) cs s rfl

/-- Stopping cores leaves the others alone. -/
theorem State.core_stopCores_of_not_mem {s : State} {cs : List Nat} {e : Nat} (h : e ∉ cs) : (cs.foldl State.stopCore s).core e = s.core e := by
  induction cs generalizing s with
  | nil => rfl
  | cons c cs ih =>
    rw [List.mem_cons, not_or] at h
    rw [List.foldl_cons, ih h.2, State.core_stopCore_ne s h.1]

/-- Every core that is stopped runs and holds nothing. -/
theorem State.left_stopCores {s : State} {cs : List Nat} {e : Nat} (he : e < s.cores.length) (h : e ∈ cs) :
    ((cs.foldl State.stopCore s).core e).Left := by
  have kept : ∀ (cs : List Nat) (t : State), e < t.cores.length → (t.core e).Left → ((cs.foldl State.stopCore t).core e).Left := fun cs t hl ht =>
    (foldl_keeps (P := fun u : State => e < u.cores.length ∧ (u.core e).Left)
      (fun u c hu => ⟨by rw [State.stopCore_cores_length]; exact hu.1, State.left_stopCore hu.2 hu.1⟩) cs t ⟨hl, ht⟩).2
  induction cs generalizing s with
  | nil => cases h
  | cons c cs ih =>
    rw [List.foldl_cons]
    have hl : e < (s.stopCore c).cores.length := by rw [State.stopCore_cores_length]; exact he
    obtain rfl | h := List.mem_cons.1 h
    · exact kept cs _ hl (by rw [State.core_stopCore_self he]; exact Core.left_stop _)
    · exact ih hl h

theorem mem_regionCores (r c : Nat) : c ∈ regionCores r ↔ c / 8 = r := by
  simp only [regionCores, List.mem_map, List.mem_range]
  exact ⟨fun ⟨a, ha, h⟩ => by omega, fun h => ⟨c % 8, by omega, by omega⟩⟩

/-! ## What the steps of an isolation keep -/

/-- What cancellations and moves of tiles keep: everything but the memories, the free values, the desks, the jobs, the cores that run
something, and the dispatches; which regions are isolated, and that a region has no contexts. -/
structure Keeps (s t : State) : Prop where
  frame : t = { s with dram := t.dram, hostMem := t.hostMem, fresh := t.fresh, regions := t.regions, jobs := t.jobs, cores := t.cores,
                       dispatches := t.dispatches }
  isolated : ∀ q, (t.region q).isolated = (s.region q).isolated
  contexts : ∀ q, (s.region q).contexts = [] → (t.region q).contexts = []
  length : t.cores.length = s.cores.length
  idle : ∀ c, (s.core c).dispatch = none → t.core c = s.core c

theorem Keeps.refl (s : State) : Keeps s s := ⟨rfl, fun _ => rfl, fun _ h => h, rfl, fun _ _ => rfl⟩

theorem Keeps.trans {s t u : State} (h : Keeps s t) (k : Keeps t u) : Keeps s u where
  frame := by rw [k.frame, h.frame]
  isolated q := (k.isolated q).trans (h.isolated q)
  contexts q hq := k.contexts q (h.contexts q hq)
  length := k.length.trans h.length
  idle c hc := (k.idle c (by rw [h.idle c hc, hc])).trans (h.idle c hc)

theorem Keeps.undoWrites (s : State) (us : List Undo) : Keeps s (s.undoWrites us) where
  frame := by rw [State.undoWrites_eq]
  isolated q := by simp [State.region]
  contexts q h := by simpa [State.region] using h
  length := by simp
  idle c _ := by simp [State.core]

/-- A core that runs something may be stopped. -/
theorem Keeps.stopCore {s : State} {c : Nat} (h : (s.core c).dispatch ≠ none) : Keeps s (s.stopCore c) where
  frame := by rw [State.stopCore_frame]
  isolated q := by rw [State.stopCore_frame]; rfl
  contexts q hq := by rw [State.stopCore_frame]; exact hq
  length := State.stopCore_cores_length s c
  idle e he := State.core_stopCore_ne s (fun hec => h (hec ▸ he))

theorem Keeps.updDispatch (s : State) (n : Nat) (f : Dispatch → Dispatch) : Keeps s (s.updDispatch n f) :=
  ⟨rfl, fun _ => rfl, fun _ h => h, rfl, fun _ _ => rfl⟩

/-- A region after every region was changed. -/
theorem State.region_map (s : State) (f : Region → Region) (q : Nat) :
    ({ s with regions := s.regions.map f } : State).region q = ((s.regions[q]?).map f).getD (.fresh false) := by
  rw [← List.getElem?_map]; rfl

/-- The two states differ in what an isolation can touch, and in nothing else. -/
def Within (s t : State) : Prop :=
  t = { s with dram := t.dram, hostMem := t.hostMem, fresh := t.fresh, regions := t.regions, jobs := t.jobs, cores := t.cores,
               dispatches := t.dispatches, evq := t.evq }

theorem Within.trans {s t u : State} (h : Within s t) (k : Within t u) : Within s u := by
  unfold Within at *; rw [k, h]

theorem Keeps.within {s t : State} (h : Keeps s t) : Within s t := by
  unfold Within; rw [h.frame]

theorem Keeps.evq {s t : State} (h : Keeps s t) : t.evq = s.evq := by rw [h.frame]

/-- The desks and the jobs of a dispatch cleared, with each region's isolation kept and no context added. -/
theorem Keeps.clear (s : State) (f : Region → Region) (jobs : List (Nat × Job)) (hi : ∀ g, (f g).isolated = g.isolated)
    (hc : ∀ g, g.contexts = [] → (f g).contexts = []) : Keeps s { s with regions := s.regions.map f, jobs := jobs } where
  frame := rfl
  isolated q := by
    refine (congrArg Region.isolated (s.region_map f q)).trans ?_
    unfold State.region
    cases s.regions[q]? with
    | none => rfl
    | some g => exact hi g
  contexts q h := by
    refine (congrArg Region.contexts (s.region_map f q)).trans ?_
    unfold State.region at h
    cases hq : s.regions[q]? with
    | none => rfl
    | some g => rw [hq] at h; exact hc g h
  length := rfl
  idle _ _ := rfl

/-! ## Cancellation (R450) -/

/-- A region without the tiles, contexts and jobs of a dispatch whose jobs in `gone` end. -/
def Region.cancel (n : Nat) (gone : List Nat) (g : Region) : Region :=
  { g with counters := g.counters.map (fun k => (k.1, if k.2.dispatch == n then
             { k.2 with state := .cancelling, unformed := [], returned := [], chunks := [], suspended := [] } else k.2))
           contexts := g.contexts.filter (fun x => x.dispatch != n)
           jobQueue := g.jobQueue.filter (fun j => !gone.contains j)
           jobNow := match g.jobNow with | some j => if gone.contains j then none else some j | none => none }

/-- The desks, contexts and jobs of a dispatch cleared, with the open writes of its contexts undone. -/
def State.clearDesks (s : State) (n : Nat) : State :=
  let s1 := s.undoWrites (s.regions.flatMap (fun g => (g.contexts.filter (fun x => x.dispatch == n)).flatMap (fun x => s.openWrites x.core)))
  let gone := ((s1.jobsOf n).filter (fun j => !j.2.finished)).map Prod.fst
  { s1 with regions := s1.regions.map (Region.cancel n gone), jobs := s1.jobs.filter (fun j => !gone.contains j.1) }

/-- The cores that run a dispatch stopped. -/
def State.stopRunning (s : State) (n : Nat) : State :=
  (List.range s.cores.length).foldl (fun t c => if (t.core c).dispatch == some n then t.stopCore c else t) s

/-- Nothing is cancelled where no dispatch goes on under the number. -/
theorem State.beginCancel_of_ended {s : State} {n : Nat} (h : ∀ d, s.dispatch? n = some d → d.cancelling = true) (st : St) (detail : Nat) :
    s.beginCancel n st detail = s := by
  unfold State.beginCancel
  split
  next => rfl
  next d hd => rw [if_pos (h d hd)]

/-- A dispatch that goes on is cancelled with a status and a detail: its desks are cleared and its cores stopped. -/
theorem State.beginCancel_going {s : State} {n : Nat} {d : Dispatch} (hd : s.dispatch? n = some d) (hc : d.cancelling = false) (st : St)
    (detail : Nat) : ∃ f : Dispatch → Dispatch, (∀ e, (f e).cancelling = true ∧ (f e).ending = some (st, detail)) ∧
      s.beginCancel n st detail = ((s.clearDesks n).stopRunning n).updDispatch n f := by
  let flights := ((s.clearDesks n).cores.filter (fun k => k.dispatch == some n)).flatMap Core.inflight
  refine ⟨fun e => { e with cancelling := true, ending := some (st, detail), homeless := [], homelessBack := []
                            readsOut := flights.flatMap (fun f => f.asked.map (fun a => (a.1, a.2.sock)))
                            acksOut := flights.flatMap Inflight.acks }, fun e => ⟨rfl, rfl⟩, ?_⟩
  unfold State.beginCancel
  rw [hd]
  simp only [hc, Bool.false_eq_true, if_false]
  rfl

theorem Keeps.clearDesks (s : State) (n : Nat) : Keeps s (s.clearDesks n) :=
  (Keeps.undoWrites s _).trans (Keeps.clear _ _ _ (fun _ => rfl) (fun g hg => by rw [Region.cancel, hg]; rfl))

theorem Keeps.stopRunning (s : State) (n : Nat) : Keeps s (s.stopRunning n) :=
  foldl_keeps (P := Keeps s) (fun t c ht => by
    split
    next h => exact ht.trans (Keeps.stopCore (by simp_all))
    next => exact ht) _ s (.refl s)

/-- A cancellation keeps what an isolation keeps. -/
theorem Keeps.beginCancel (s : State) (n : Nat) (st : St) (detail : Nat) : Keeps s (s.beginCancel n st detail) := by
  by_cases h : ∀ d, s.dispatch? n = some d → d.cancelling = true
  · rw [State.beginCancel_of_ended h]; exact .refl s
  · simp only [not_forall, Bool.not_eq_true] at h
    obtain ⟨d, hd, hc⟩ := h
    obtain ⟨f, -, heq⟩ := State.beginCancel_going hd hc st detail
    rw [heq]
    exact ((Keeps.clearDesks s n).trans (Keeps.stopRunning _ n)).trans (Keeps.updDispatch _ n f)

@[simp] theorem State.clearDesks_dispatches (s : State) (n : Nat) : (s.clearDesks n).dispatches = s.dispatches :=
  s.undoWrites_dispatches _

@[simp] theorem State.stopRunning_dispatches (s : State) (n : Nat) : (s.stopRunning n).dispatches = s.dispatches :=
  foldl_keeps (P := fun t : State => t.dispatches = s.dispatches) (fun t c ht => by
    split
    next => rw [State.stopCore_frame]; exact ht
    next => exact ht) _ s rfl

/-- A cancellation touches its own dispatch only. -/
theorem State.dispatch?_beginCancel_ne (s : State) {n m : Nat} (h : m ≠ n) (st : St) (detail : Nat) :
    (s.beginCancel n st detail).dispatch? m = s.dispatch? m := by
  by_cases hg : ∀ d, s.dispatch? n = some d → d.cancelling = true
  · rw [State.beginCancel_of_ended hg]
  · simp only [not_forall, Bool.not_eq_true] at hg
    obtain ⟨d, hd, hc⟩ := hg
    obtain ⟨f, -, heq⟩ := State.beginCancel_going hd hc st detail
    rw [heq, State.dispatch?_updDispatch_ne _ h]
    unfold State.dispatch?
    rw [State.stopRunning_dispatches, State.clearDesks_dispatches]

/-- A dispatch is being cancelled with a status and a detail. -/
def State.Ends (s : State) (n : Nat) (e : St × Nat) : Prop := ∃ d, s.dispatch? n = some d ∧ d.cancelling = true ∧ d.ending = some e

/-- A dispatch that goes on ends with the status of its cancellation. -/
theorem State.ends_beginCancel {s : State} {n : Nat} {d : Dispatch} (hd : s.dispatch? n = some d) (hc : d.cancelling = false) (st : St)
    (detail : Nat) : (s.beginCancel n st detail).Ends n (st, detail) := by
  obtain ⟨f, hf, heq⟩ := State.beginCancel_going hd hc st detail
  have hd' : ((s.clearDesks n).stopRunning n).dispatch? n = some d := by
    unfold State.dispatch?
    rw [State.stopRunning_dispatches, State.clearDesks_dispatches]; exact hd
  exact ⟨f d, by rw [heq, State.dispatch?_updDispatch_self, hd']; rfl, hf d⟩

/-- How a dispatch ends stays as the first cancellation said. -/
theorem State.Ends.beginCancel {s : State} {n : Nat} {e : St × Nat} (h : s.Ends n e) (m : Nat) (st : St) (detail : Nat) :
    (s.beginCancel m st detail).Ends n e := by
  obtain ⟨d, hd, hc, he⟩ := h
  by_cases hm : n = m
  · subst hm
    rw [State.beginCancel_of_ended (fun x hx => by rw [hd] at hx; exact Option.some.inj hx ▸ hc)]
    exact ⟨d, hd, hc, he⟩
  · exact ⟨d, by rw [State.dispatch?_beginCancel_ne s hm]; exact hd, hc, he⟩

/-- The dispatches of a list cancelled one after another, each with the detail that stands beside it. -/
def State.cancelAll (s : State) (l : List (Nat × Nat)) : State := l.foldl (fun t e => t.beginCancel e.1 .faulted e.2) s

theorem Keeps.cancelAll (s : State) (l : List (Nat × Nat)) : Keeps s (s.cancelAll l) :=
  foldl_keeps (P := Keeps s) (fun t _ ht => ht.trans (.beginCancel t _ _ _)) l s (.refl s)

theorem State.Ends.cancelAll {s : State} {n : Nat} {e : St × Nat} (h : s.Ends n e) (l : List (Nat × Nat)) : (s.cancelAll l).Ends n e :=
  foldl_keeps (P := fun t : State => t.Ends n e) (fun _ _ ht => ht.beginCancel _ _ _) l s h

/-- A dispatch that goes on and stands in the list with one detail ends with it. -/
theorem State.ends_cancelAll {s : State} {n x : Nat} {d : Dispatch} (hd : s.dispatch? n = some d) (hc : d.cancelling = false)
    {l : List (Nat × Nat)} (hn : n ∈ l.map Prod.fst) (hl : ∀ e ∈ l, e.2 = x) : (s.cancelAll l).Ends n (.faulted, x) := by
  induction l generalizing s with
  | nil => cases hn
  | cons e l ih =>
    obtain ⟨m, y⟩ := e
    obtain ⟨rfl, hl⟩ := List.forall_mem_cons.1 hl
    show ((s.beginCancel m .faulted y).cancelAll l).Ends n _
    by_cases he : n = m
    · subst he
      exact State.Ends.cancelAll (State.ends_beginCancel hd hc _ _) l
    · exact ih (by rw [State.dispatch?_beginCancel_ne s he]; exact hd) ((List.mem_cons.1 hn).resolve_left he) hl

/-! ## Tiles that lose their counter (R649) -/

/-- Tiles of dispatch `n` placed: the desks, the dispatch and the free values; which regions are isolated and the contexts stay. -/
structure Placed (n : Nat) (s t : State) : Prop where
  frame : t = { s with fresh := t.fresh, regions := t.regions, dispatches := t.dispatches }
  isolated : ∀ q, (t.region q).isolated = (s.region q).isolated
  contexts : ∀ q, (t.region q).contexts = (s.region q).contexts
  others : ∀ m, m ≠ n → t.dispatch? m = s.dispatch? m

theorem Placed.refl (n : Nat) (s : State) : Placed n s s := ⟨rfl, fun _ => rfl, fun _ => rfl, fun _ _ => rfl⟩

theorem Placed.trans {n : Nat} {s t u : State} (h : Placed n s t) (k : Placed n t u) : Placed n s u where
  frame := by rw [k.frame, h.frame]
  isolated q := (k.isolated q).trans (h.isolated q)
  contexts q := (k.contexts q).trans (h.contexts q)
  others m hm := (k.others m hm).trans (h.others m hm)

theorem Placed.cores {n : Nat} {s t : State} (h : Placed n s t) : t.cores = s.cores := by rw [h.frame]

theorem Placed.keeps {n : Nat} {s t : State} (h : Placed n s t) : Keeps s t where
  frame := by rw [h.frame]
  isolated := h.isolated
  contexts q hq := (h.contexts q).trans hq
  length := by rw [h.cores]
  idle c _ := by rw [State.core, State.core, h.cores]

theorem Placed.updRegion (n : Nat) (s : State) (r : Nat) {f : Region → Region} (hi : ∀ g, (f g).isolated = g.isolated)
    (hc : ∀ g, (f g).contexts = g.contexts) : Placed n s (s.updRegion r f) :=
  ⟨rfl, fun q => s.region_updRegion_keeps r q Region.isolated hi, fun q => s.region_updRegion_keeps r q Region.contexts hc, fun _ _ => rfl⟩

theorem Placed.updCounter (n : Nat) (s : State) (r k : Nat) (f : Counter → Counter) : Placed n s (s.updCounter r k f) :=
  Placed.updRegion n s r (fun _ => rfl) (fun _ => rfl)

theorem Placed.updDispatch (n : Nat) (s : State) (f : Dispatch → Dispatch) : Placed n s (s.updDispatch n f) :=
  ⟨rfl, fun _ => rfl, fun _ => rfl, fun _ hm => s.dispatch?_updDispatch_ne hm f⟩

/-- A choice left open draws a free value at most. -/
theorem Placed.anyOf {n : Nat} {s t : State} {l : List Nat} {o : Option Nat} (h : s.anyOf l = (t, o)) : Placed n s t := by
  have key : Placed n s (s.anyOf l).1 := by
    unfold State.anyOf
    split
    · exact .refl n s
    · exact .refl n s
    · exact ⟨rfl, fun _ => rfl, fun _ => rfl, fun _ _ => rfl⟩
  rwa [h] at key

/-- Hokuec places the tiles of a dispatch that wait for a counter, where it can. -/
theorem Placed.rehome (s : State) (n : Nat) : Placed n s (s.rehome n) := by
  have give : ∀ (t : State) (r k : Nat) (d : Dispatch), Placed n t ((t.updCounter r k (fun q => q.adopt d.homeless d.homelessBack)).updDispatch n
      (fun e => { e with homeless := [], homelessBack := [] })) := fun t r k d => (Placed.updCounter n t r k _).trans (.updDispatch n _ _)
  unfold State.rehome
  split
  next => exact .refl n s
  next d hd =>
    split
    next => exact .refl n s
    next =>
      simp only []
      split
      next s1 r heq => exact (Placed.anyOf heq).trans (give s1 r _ d)
      next =>
        split
        next s1 r _ _ old heq hold =>
          refine Placed.trans ?_ (give _ _ _ d)
          refine Placed.trans ?_ (.updDispatch n _ _)
          exact (Placed.anyOf heq).trans (.updRegion n s1 r (fun _ => rfl) (fun _ => rfl))
        next => exact .refl n s

/-- A dispatch loses its counter in an isolated region. -/
theorem Placed.uproot (s : State) (r n : Nat) : Placed n s (s.uproot r n) := by
  unfold State.uproot
  split
  next => exact .refl n s
  next d hd =>
    split
    next => exact .refl n s
    next k q _ =>
      split
      next => exact .refl n s
      next => exact ((Placed.updCounter n s r k _).trans (.updDispatch n _ _)).trans (.rehome _ n)

/-- A dispatch that is being cancelled has no tiles to place. -/
theorem State.uproot_of_ends {s : State} {n : Nat} {e : St × Nat} (h : s.Ends n e) (r : Nat) : s.uproot r n = s := by
  obtain ⟨d, hd, hc, -⟩ := h
  unfold State.uproot
  rw [hd]
  simp only [hc, if_true]
  split <;> rfl

theorem State.Ends.uproot {s : State} {n : Nat} {e : St × Nat} (h : s.Ends n e) (r m : Nat) : (s.uproot r m).Ends n e := by
  by_cases hm : n = m
  · subst hm; rw [State.uproot_of_ends h]; exact h
  · obtain ⟨d, hd, hc⟩ := h
    exact ⟨d, by rw [(Placed.uproot s r m).others n hm]; exact hd, hc⟩

/-- Every dispatch of a list loses its counter in an isolated region. -/
def State.uprootAll (s : State) (r : Nat) (l : List Nat) : State := l.foldl (fun t n => t.uproot r n) s

theorem Keeps.uprootAll (s : State) (r : Nat) (l : List Nat) : Keeps s (s.uprootAll r l) :=
  foldl_keeps (P := Keeps s) (fun t n ht => ht.trans (Placed.uproot t r n).keeps) l s (.refl s)

theorem State.uprootAll_cores (s : State) (r : Nat) (l : List Nat) : (s.uprootAll r l).cores = s.cores :=
  foldl_keeps (P := fun t : State => t.cores = s.cores) (fun t n ht => (Placed.uproot t r n).cores.trans ht) l s rfl

theorem State.Ends.uprootAll {s : State} {n : Nat} {e : St × Nat} (h : s.Ends n e) (r : Nat) (l : List Nat) : (s.uprootAll r l).Ends n e :=
  foldl_keeps (P := fun t : State => t.Ends n e) (fun _ _ ht => ht.uproot _ _) l s h

/-! ## An isolation as a whole (R36, R648, R649) -/

/-- The region marked, once the open writes of its contexts are undone and its contexts dropped. -/
def State.mark (s : State) (r : Nat) (cause : IsoCause) : State :=
  (s.undoWrites ((s.region r).contexts.flatMap (fun x => s.openWrites x.core))).updRegion r (fun g =>
    { g with isolated := some cause, contexts := [] })

/-- The state when the region's cores have stopped. -/
def State.halted (s : State) (r : Nat) (cause : IsoCause) : State :=
  (regionCores r).foldl State.stopCore ((s.mark r cause).cancelAll ((s.mark r cause).isolationEnds r cause))

/-- The state when the tiles of the isolated region have gone to other counters. -/
def State.moved (s : State) (r : Nat) (cause : IsoCause) : State := (s.halted r cause).uprootAll r ((s.halted r cause).dispatches.map Prod.fst)

/-- An isolation marks the region, ends dispatches, stops cores, moves the tiles of the dispatches that go on, and tells of it. -/
theorem State.isolate_eq (s : State) (r : Nat) (cause : IsoCause) :
    s.isolate r cause = (s.moved r cause).event ⟨0x0017, .ok, 0, 0xFF, 0, low 4 r + at_ 8 cause.code, none⟩ := rfl

section
variable (s : State) (r : Nat) (cause : IsoCause)

theorem State.mark_frame : s.mark r cause = { s with dram := (s.mark r cause).dram, hostMem := (s.mark r cause).hostMem,
                                                     fresh := (s.mark r cause).fresh, regions := (s.mark r cause).regions } := by
  unfold State.mark State.updRegion
  rw [State.undoWrites_eq]

theorem State.mark_regions : (s.mark r cause).regions = updateAt s.regions r (fun g => { g with isolated := some cause, contexts := [] }) := by
  unfold State.mark State.updRegion
  rw [State.undoWrites_regions]

theorem State.mark_dispatches : (s.mark r cause).dispatches = s.dispatches := by rw [State.mark_frame]

theorem State.mark_jobs : (s.mark r cause).jobs = s.jobs := by rw [State.mark_frame]

theorem State.mark_cores : (s.mark r cause).cores = s.cores := by rw [State.mark_frame]

theorem State.core_mark (c : Nat) : (s.mark r cause).core c = s.core c := by unfold State.core; rw [State.mark_cores]

theorem State.region_mark_self (hr : r < s.regions.length) :
    (s.mark r cause).region r = { s.region r with isolated := some cause, contexts := [] } := by
  simp [State.region, State.mark_regions, getElem?_updateAt, List.getElem?_eq_getElem hr]

theorem State.region_mark_ne {q : Nat} (h : q ≠ r) : (s.mark r cause).region q = s.region q := by
  simp [State.region, State.mark_regions, getElem?_updateAt, Ne.symm h]

end

/-- The state when the dispatches that the isolation ends are being cancelled. -/
def State.ended (s : State) (r : Nat) (cause : IsoCause) : State := (s.mark r cause).cancelAll ((s.mark r cause).isolationEnds r cause)

section
variable (s : State) (r : Nat) (cause : IsoCause)

theorem Keeps.ended : Keeps (s.mark r cause) (s.ended r cause) := .cancelAll _ _

theorem State.halted_frame : s.halted r cause = { s.ended r cause with
    dram := (s.halted r cause).dram, hostMem := (s.halted r cause).hostMem, fresh := (s.halted r cause).fresh
    cores := (s.halted r cause).cores } := State.stopCores_frame _ _

theorem State.halted_regions : (s.halted r cause).regions = (s.ended r cause).regions := by rw [State.halted_frame]

theorem State.region_halted (q : Nat) : (s.halted r cause).region q = (s.ended r cause).region q := by
  unfold State.region; rw [State.halted_regions]

theorem State.halted_dispatches : (s.halted r cause).dispatches = (s.ended r cause).dispatches := by rw [State.halted_frame]

theorem Keeps.moved : Keeps (s.halted r cause) (s.moved r cause) := .uprootAll _ _ _

theorem State.isolate_frame_moved : s.isolate r cause = { s.moved r cause with evq := (s.isolate r cause).evq } := by
  rw [State.isolate_eq]
  exact State.event_eq _ _

theorem State.isolate_regions : (s.isolate r cause).regions = (s.moved r cause).regions := by rw [State.isolate_frame_moved]

theorem State.isolate_dispatches : (s.isolate r cause).dispatches = (s.moved r cause).dispatches := by rw [State.isolate_frame_moved]

theorem State.isolate_cores : (s.isolate r cause).cores = (s.halted r cause).cores := by
  have hmoved : (s.isolate r cause).cores = (s.moved r cause).cores := by rw [State.isolate_frame_moved]
  exact hmoved.trans (State.uprootAll_cores _ _ _)

theorem State.region_isolate (q : Nat) : (s.isolate r cause).region q = (s.moved r cause).region q := by
  unfold State.region; rw [State.isolate_regions]

theorem State.core_isolate (c : Nat) : (s.isolate r cause).core c = (s.halted r cause).core c := by
  unfold State.core; rw [State.isolate_cores]

/-- What an isolation can touch. -/
theorem State.isolate_within : Within s (s.isolate r cause) := by
  have mark : Within s (s.mark r cause) := by unfold Within; rw [State.mark_frame]
  have halted : Within (s.ended r cause) (s.halted r cause) := by unfold Within; rw [State.halted_frame]
  have told : Within (s.moved r cause) (s.isolate r cause) := by unfold Within; rw [State.isolate_frame_moved]
  exact (((mark.trans (Keeps.ended s r cause).within).trans halted).trans (Keeps.moved s r cause).within).trans told

/-- The region is isolated with its cause. -/
theorem State.isolated_isolate (hr : r < s.regions.length) : ((s.isolate r cause).region r).isolated = some cause := by
  rw [State.region_isolate, (Keeps.moved s r cause).isolated, State.region_halted, (Keeps.ended s r cause).isolated,
    State.region_mark_self s r cause hr]

/-- Its contexts are gone. -/
theorem State.contexts_isolate (hr : r < s.regions.length) : ((s.isolate r cause).region r).contexts = [] := by
  rw [State.region_isolate]
  refine (Keeps.moved s r cause).contexts r ?_
  rw [State.region_halted]
  exact (Keeps.ended s r cause).contexts r (by rw [State.region_mark_self s r cause hr])

/-- Every other region stays in service, or isolated. -/
theorem State.isolated_isolate_ne {q : Nat} (h : q ≠ r) : ((s.isolate r cause).region q).isolated = (s.region q).isolated := by
  rw [State.region_isolate, (Keeps.moved s r cause).isolated, State.region_halted, (Keeps.ended s r cause).isolated,
    State.region_mark_ne s r cause h]

/-- The region's cores have stopped. -/
theorem State.left_isolate {c : Nat} (hc : c < s.cores.length) (h : c / 8 = r) : ((s.isolate r cause).core c).Left := by
  rw [State.core_isolate]
  refine State.left_stopCores ?_ ((mem_regionCores r c).2 h)
  rw [(Keeps.cancelAll _ _).length, State.mark_frame]
  exact hc

/-- The idle cores of the other regions stay as they were. -/
theorem State.idle_isolate {c : Nat} (h : c / 8 ≠ r) (hi : (s.core c).dispatch = none) : (s.isolate r cause).core c = s.core c := by
  rw [State.core_isolate]
  unfold State.halted
  rw [State.core_stopCores_of_not_mem (fun hm => h ((mem_regionCores r c).1 hm)),
    (Keeps.cancelAll _ _).idle c (by rw [State.core_mark]; exact hi), State.core_mark]

end

/-- Events that may not be dropped depend on the event queue alone (R565). -/
theorem State.event_evq_congr {s t : State} {e : Event} (hm : maskBit e.code = none) (h : s.evq = t.evq) : (s.event e).evq = (t.event e).evq := by
  unfold State.event
  simp only [hm, h]
  split <;> rfl

theorem at_eight (v : Nat) : at_ 8 v = 256 * v := by rw [at_, Nat.shiftLeft_eq, Nat.mul_comm]

/-- The event of an isolation follows those that stood in the queue. -/
theorem State.evq_isolate (s : State) (r : Nat) (cause : IsoCause) :
    (s.isolate r cause).evq = (s.plainEvent 0x0017 (low 4 r + 256 * cause.code)).evq := by
  have hhalted : (s.halted r cause).evq = (s.ended r cause).evq := by rw [State.halted_frame]
  have hmark : (s.mark r cause).evq = s.evq := by rw [State.mark_frame]
  have hmoved : (s.moved r cause).evq = s.evq :=
    (((Keeps.moved s r cause).evq.trans hhalted).trans (Keeps.ended s r cause).evq).trans hmark
  rw [State.isolate_eq, at_eight]
  exact State.event_evq_congr rfl hmoved

/-! ### An error of the desk (R649) -/

theorem Dispatch.counterIn_isSome {d : Dispatch} {r k : Nat} (h : (r, k) ∈ d.counters) : (d.counterIn r).isSome = true := by
  unfold Dispatch.counterIn
  rw [Option.isSome_map, List.find?_isSome]
  exact ⟨(r, k), h, beq_self_eq_true r⟩

/-- An error of the desk ends every dispatch that has a counter there, with detail 2. -/
theorem State.ends_isolate_desk {s : State} {r n k : Nat} {d : Dispatch} (hd : s.dispatch? n = some d) (hc : d.cancelling = false)
    (hk : (r, k) ∈ d.counters) : (s.isolate r .desk).Ends n (.faulted, 2) := by
  have hd' : (s.mark r .desk).dispatch? n = some d := by unfold State.dispatch?; rw [State.mark_dispatches]; exact hd
  have hended : (s.ended r .desk).Ends n (.faulted, 2) := by
    unfold State.ended State.isolationEnds State.cancelAll
    rw [List.foldl_append]
    refine State.Ends.cancelAll (State.ends_cancelAll hd' hc ?_ ?_) _
    · simp only [beq_self_eq_true, if_true, List.map_map, List.mem_map]
      exact ⟨(n, d), List.mem_filter.2 ⟨lookupK_mem hd', Dispatch.counterIn_isSome hk⟩, rfl⟩
    · simp only [beq_self_eq_true, if_true]
      intro e he
      obtain ⟨x, -, rfl⟩ := List.mem_map.1 he
      rfl
  have hhalted : (s.halted r .desk).Ends n (.faulted, 2) := by
    unfold State.Ends State.dispatch? at *
    rw [State.halted_dispatches]
    exact hended
  have hmoved : (s.moved r .desk).Ends n (.faulted, 2) := hhalted.uprootAll r _
  unfold State.Ends State.dispatch? at *
  rw [State.isolate_dispatches]
  exact hmoved

/-! ### Tiles that move to the dispatch's other counter (R419, R649) -/

/-- A dispatch that goes on with a counter in the region gives its tiles up, and Hokuec places them. -/
theorem State.uproot_going {s : State} {r n k : Nat} {d : Dispatch} {q : Counter} (hd : s.dispatch? n = some d) (hc : d.cancelling = false)
    (hk : d.counterIn r = some k) (hq : s.counter? r k = some q) :
    s.uproot r n = ((s.updCounter r k Counter.emptied).updDispatch n (fun e =>
      { e with homeless := e.homeless ++ q.giveUp.1, homelessBack := e.homelessBack ++ q.giveUp.2 })).rehome n := by
  unfold State.uproot
  rw [hd]
  simp [hk, hq, hc]

/-- A dispatch without tiles that wait for a counter has none to place. -/
theorem State.rehome_nothing {s : State} {n : Nat} (h : ∀ d, s.dispatch? n = some d → d.homeless = [] ∧ d.homelessBack = []) :
    s.rehome n = s := by
  unfold State.rehome
  split
  next => rfl
  next d hd =>
    obtain ⟨hfree, hback⟩ := h d hd
    rw [if_pos (by simp [hfree, hback])]

/-- Tiles that wait for a counter go to the only other one of their dispatch, in service and with room in its window. -/
theorem State.rehome_other {s : State} {n r r2 k k2 : Nat} {d : Dispatch} {q2 : Counter} (hd : s.dispatch? n = some d)
    (hc : d.cancelling = false) (hcs : d.counters = [(r, k), (r2, k2)]) (hne : r2 ≠ r) (hout : s.inService r = false)
    (hin : s.inService r2 = true) (hq2 : s.counter? r2 k2 = some q2) (hfit : (q2.adopt d.homeless d.homelessBack).fits = true) :
    ∃ q2', (s.rehome n).counter? r2 k2 = some q2' ∧ q2'.ranges = (q2.adopt d.homeless d.homelessBack).ranges ∧
      q2'.returned = (q2.adopt d.homeless d.homelessBack).returned ∧ (s.rehome n).counter? r k = s.counter? r k := by
  have hk2 : d.counterIn r2 = some k2 := by simp [Dispatch.counterIn, hcs, Ne.symm hne]
  by_cases hempty : d.homeless = [] ∧ d.homelessBack = []
  · obtain ⟨h1, h2⟩ := hempty
    rw [State.rehome_nothing (fun e he => by rw [hd] at he; obtain rfl := Option.some.inj he; exact ⟨h1, h2⟩)]
    exact ⟨q2, hq2, by rw [Counter.adopt_ranges, h1, h2]; rfl, by rw [Counter.adopt_returned, h2, List.append_nil], rfl⟩
  · have hmove : s.rehome n = (s.updCounter r2 k2 (fun q => q.adopt d.homeless d.homelessBack)).updDispatch n
        (fun e => { e with homeless := [], homelessBack := [] }) := by
      unfold State.rehome
      rw [hd]
      simp [hempty, hc, hcs, hout, hin, hk2, hq2, hfit, State.anyOf]
    rw [hmove]
    refine ⟨_, ?_, rfl, rfl, State.counter?_updCounter_ne (Ne.symm hne) k2 k _⟩
    refine (State.counter?_updCounter_self (State.counter?_lt hq2) k2 _).trans ?_
    rw [hq2]; rfl

/-! ### Two counters, one of them isolated -/

theorem State.inService_iff (s : State) (r : Nat) : s.inService r = true ↔ r < s.regions.length ∧ (s.region r).isolated = none := by
  simp [State.inService]

/-- A dispatch with a counter in an isolated region and one in a region in service whose window has room: the isolated counter keeps its
committed tiles, and the other one adopts what it gives up (R419, R649). -/
theorem State.uproot_two {t : State} {r r2 k k2 n : Nat} {d : Dispatch} {q q2 : Counter} (hd : t.dispatch? n = some d)
    (hc : d.cancelling = false) (hcs : d.counters = [(r, k), (r2, k2)]) (hne : r2 ≠ r) (hl : d.homeless = []) (hb : d.homelessBack = [])
    (hout : t.inService r = false) (hin : t.inService r2 = true) (hq : t.counter? r k = some q) (hq2 : t.counter? r2 k2 = some q2)
    (hfit : (q2.adopt q.giveUp.1 q.giveUp.2).fits = true) :
    ∃ q2', (t.uproot r n).counter? r k = some q.emptied ∧ (t.uproot r n).counter? r2 k2 = some q2' ∧
      q2'.ranges = (q2.adopt q.giveUp.1 q.giveUp.2).ranges ∧ q2'.returned = (q2.adopt q.giveUp.1 q.giveUp.2).returned := by
  rw [State.uproot_going hd hc (by simp [Dispatch.counterIn, hcs]) hq]
  generalize hv : (t.updCounter r k Counter.emptied).updDispatch n (fun e =>
    { e with homeless := e.homeless ++ q.giveUp.1, homelessBack := e.homelessBack ++ q.giveUp.2 }) = v
  have hplaced : Placed n t v := hv ▸ (Placed.updCounter n t r k _).trans (.updDispatch n _ _)
  have hregions : v.regions = (t.updCounter r k Counter.emptied).regions := by rw [← hv]; rfl
  have hcounter : ∀ p j, v.counter? p j = (t.updCounter r k Counter.emptied).counter? p j := fun p j => by
    unfold State.counter? State.region; rw [hregions]
  have hserve : v.inService = t.inService := by
    funext p
    unfold State.inService
    rw [hplaced.isolated p, hregions, State.updCounter, State.updRegion, length_updateAt]
  have hvd : v.dispatch? n = some { d with homeless := q.giveUp.1, homelessBack := q.giveUp.2 } := by
    rw [← hv, State.dispatch?_updDispatch_self, show (t.updCounter r k Counter.emptied).dispatch? n = some d from hd]
    simp [hl, hb]
  have hvq : v.counter? r k = some q.emptied := by
    rw [hcounter, State.counter?_updCounter_self (State.counter?_lt hq), hq]; rfl
  have hvq2 : v.counter? r2 k2 = some q2 := by rw [hcounter, State.counter?_updCounter_ne hne, hq2]
  obtain ⟨q2', h2, hranges, hreturned, hkept⟩ :=
    State.rehome_other hvd hc hcs hne (by rw [hserve]; exact hout) (by rw [hserve]; exact hin) hvq2 hfit
  exact ⟨q2', hkept.trans hvq, h2, hranges, hreturned⟩

/-- The counters of a region that was marked are still there. -/
theorem State.counter?_mark (s : State) {r q k : Nat} {cause : IsoCause} {x : Counter} (h : s.counter? q k = some x) :
    (s.mark r cause).counter? q k = some x := by
  have hq := State.counter?_lt h
  unfold State.counter? at *
  by_cases hqr : q = r
  · subst hqr; rw [State.region_mark_self s q cause hq]; exact h
  · rw [State.region_mark_ne s r cause hqr]; exact h

/-- Without jobs, an error of another unit than the desk ends no dispatch. -/
theorem State.ended_of_no_jobs {s : State} {cause : IsoCause} (hj : s.jobs = []) (hc : cause ≠ .desk) (r : Nat) :
    s.ended r cause = s.mark r cause := by
  unfold State.ended State.isolationEnds
  rw [State.mark_jobs, hj, if_neg (by simpa using hc)]
  rfl

theorem State.uprootAll_singleton (t : State) (r n : Nat) (d : Dispatch) : t.uprootAll r ([(n, d)].map Prod.fst) = t.uproot r n := rfl

/-- With one dispatch, of two counters, and an isolation that ends none, the tiles of the isolated counter go to the other one. -/
theorem State.tiles_isolate {s : State} {r r2 k k2 n : Nat} {cause : IsoCause} {d : Dispatch} {q q2 : Counter} (hdesk : cause ≠ .desk)
    (hj : s.jobs = []) (hs : s.dispatches = [(n, d)]) (hc : d.cancelling = false) (hcs : d.counters = [(r, k), (r2, k2)]) (hne : r2 ≠ r)
    (hin : s.inService r2 = true) (hq : s.counter? r k = some q) (hq2 : s.counter? r2 k2 = some q2) (hl : d.homeless = [])
    (hb : d.homelessBack = []) (hfit : (q2.adopt q.giveUp.1 q.giveUp.2).fits = true) :
    ∃ q2', (s.isolate r cause).counter? r k = some q.emptied ∧ (s.isolate r cause).counter? r2 k2 = some q2' ∧
      q2'.ranges = (q2.adopt q.giveUp.1 q.giveUp.2).ranges ∧ q2'.returned = (q2.adopt q.giveUp.1 q.giveUp.2).returned := by
  have hregions : (s.halted r cause).regions = (s.mark r cause).regions := by rw [State.halted_regions, State.ended_of_no_jobs hj hdesk]
  have hregion : ∀ p, (s.halted r cause).region p = (s.mark r cause).region p := fun p => by unfold State.region; rw [hregions]
  have hlength : (s.halted r cause).regions.length = s.regions.length := by rw [hregions, State.mark_regions, length_updateAt]
  have hdis : (s.halted r cause).dispatches = [(n, d)] := by
    rw [State.halted_dispatches, State.ended_of_no_jobs hj hdesk, State.mark_dispatches, hs]
  have hd : (s.halted r cause).dispatch? n = some d := by unfold State.dispatch?; rw [hdis]; simp [lookupK]
  have hcounter : ∀ {p j x}, s.counter? p j = some x → (s.halted r cause).counter? p j = some x := fun hx => by
    unfold State.counter?; rw [hregion]; exact s.counter?_mark hx
  have hout : (s.halted r cause).inService r = false := by
    rw [Bool.eq_false_iff, Ne, State.inService_iff, hregion, State.region_mark_self s r cause (State.counter?_lt hq)]
    exact fun h => nomatch h.2
  have hin' : (s.halted r cause).inService r2 = true := by
    rw [State.inService_iff, hlength, hregion, State.region_mark_ne s r cause hne]
    exact (s.inService_iff r2).1 hin
  have hmoved : s.moved r cause = (s.halted r cause).uproot r n := by unfold State.moved; rw [hdis]; exact State.uprootAll_singleton ..
  have hisolate : ∀ p j, (s.isolate r cause).counter? p j = ((s.halted r cause).uproot r n).counter? p j := fun p j => by
    unfold State.counter?; rw [State.region_isolate, hmoved]
  rw [hisolate, hisolate]
  exact State.uproot_two hd hc hcs hne hl hb hout hin' (hcounter hq) (hcounter hq2) hfit

/-! ## The commands and the error (R648, R651) -/

/-- An uncorrectable error of a unit of a region in service isolates the region (R648). -/
theorem exec_regionErrorIsolate {s : State} {r : Nat} {cause : IsoCause} (hr : r < s.regions.length) (hrun : s.running = true)
    (hi : (s.region r).isolated = none) (hc : cause ≠ .command) : exec (.regionErrorIsolate r cause) s = .next (s.isolate r cause) := by
  show execRegionErrorIsolate r cause s = _
  simp [execRegionErrorIsolate, Nat.not_le.2 hr, hrun, (s.inService_iff r).2 ⟨hr, hi⟩, hc]

section
variable {s : State} {src : Src} {p : Packet}

theorem State.consume_regions (s : State) (src : Src) (p : Packet) : (s.consume src p).regions = s.regions := by rw [State.consume_eq]

theorem State.region_consume (s : State) (src : Src) (p : Packet) (r : Nat) : (s.consume src p).region r = s.region r := by
  unfold State.region; rw [State.consume_regions]

theorem State.consume_cores (s : State) (src : Src) (p : Packet) : (s.consume src p).cores = s.cores := by rw [State.consume_eq]

theorem State.core_consume (s : State) (src : Src) (p : Packet) (c : Nat) : (s.consume src p).core c = s.core c := by
  unfold State.core; rw [State.consume_cores]

theorem State.consume_dispatches (s : State) (src : Src) (p : Packet) : (s.consume src p).dispatches = s.dispatches := by rw [State.consume_eq]

theorem State.inService_consume (s : State) (src : Src) (p : Packet) : (s.consume src p).inService = s.inService := by
  funext r; unfold State.inService; rw [State.region_consume, State.consume_regions]

/-- ISOLATE_REGION refuses a region that the part does not have, one that is isolated, and the last in service (R651). -/
theorem exec_isolateRegion (h : Accepted s src p 0x0605) : exec (.isolateRegion src) s = .next (
    let t := s.consume src p
    let r := (pktP p 0).toNat
    if s.regions.length ≤ r then t.answer src p { st := .handle }
    else if (s.region r).isolated.isSome then t.answer src p { st := .busy }
    else if ((List.range s.regions.length).filter s.inService).length ≤ 1 then t.answer src p { st := .nofit }
    else (t.isolate r .command).answer src p {}) := by
  show execIsolateRegion src s = _
  unfold execIsolateRegion
  rw [State.command_accepted h _ rfl]
  simp only [State.region_consume, State.consume_regions, State.inService_consume]
  rfl

/-- A region back in service, with its event (R651). -/
def State.restored (s : State) (r : Nat) (cause : IsoCause) : State :=
  (s.updRegion r (fun g => { g with isolated := none })).plainEvent 0x0017 (low 4 r + 16 + 256 * cause.code)

theorem State.restored_dispatches (s : State) (r : Nat) (cause : IsoCause) : (s.restored r cause).dispatches = s.dispatches := by
  unfold State.restored State.plainEvent
  rw [State.event_eq, State.updRegion_dispatches]

theorem State.restored_cores (s : State) (r : Nat) (cause : IsoCause) : (s.restored r cause).cores = s.cores := by
  unfold State.restored State.plainEvent
  rw [State.event_cores, State.updRegion_cores]

theorem State.isolated_restored {s : State} {r : Nat} (hr : r < s.regions.length) (cause : IsoCause) :
    ((s.restored r cause).region r).isolated = none := by
  have hregions : (s.restored r cause).regions = (s.updRegion r (fun g => { g with isolated := none })).regions := by
    unfold State.restored State.plainEvent
    rw [State.event_eq]
  have hregion : (s.restored r cause).region r = (s.updRegion r (fun g => { g with isolated := none })).region r := by
    unfold State.region; rw [hregions]
  rw [hregion, State.region_updRegion_self s r _ hr]

/-- RESTORE_REGION refuses a region that the part does not have, one in service, and one whose checks fail (R651). -/
theorem exec_restoreRegion (h : Accepted s src p 0x0606) (passes : Bool) : exec (.restoreRegion src passes) s = .next (
    let t := s.consume src p
    let r := (pktP p 0).toNat
    if s.regions.length ≤ r then t.answer src p { st := .handle }
    else match (s.region r).isolated with
    | none => t.answer src p { st := .busy }
    | some cause => if !passes then t.answer src p { st := .faulted } else (t.restored r cause).rehomeAll.answer src p {}) := by
  show execRestoreRegion src passes s = _
  unfold execRestoreRegion State.restored
  rw [State.command_accepted h _ rfl]
  simp only [State.region_consume, State.consume_regions, at_eight]
  rfl

end

/-- Where every other region is isolated, at most one is in service. -/
theorem State.inService_le_one {s : State} {r : Nat} (h : ∀ q, q < s.regions.length → q ≠ r → (s.region q).isolated ≠ none) :
    ((List.range s.regions.length).filter s.inService).length ≤ 1 := by
  have hsub : (List.range s.regions.length).filter s.inService ⊆ [r] := fun q hq => by
    obtain ⟨hlt, hin⟩ := (s.inService_iff q).1 (List.mem_filter.1 hq).2
    by_contra hne
    exact h q hlt (by simpa using hne) hin
  exact (List.subperm_of_subset (List.nodup_range.filter _) hsub).length_le

/-- Two regions in service are more than one. -/
theorem State.inService_two {s : State} {r q : Nat} (hr : s.inService r = true) (hq : s.inService q = true) (h : q ≠ r) :
    ¬ ((List.range s.regions.length).filter s.inService).length ≤ 1 := by
  have hmem : ∀ x, s.inService x = true → x ∈ (List.range s.regions.length).filter s.inService := fun x hx =>
    List.mem_filter.2 ⟨List.mem_range.2 ((s.inService_iff x).1 hx).1, hx⟩
  have hsub : [q, r] ⊆ (List.range s.regions.length).filter s.inService := by simp [hmem q hq, hmem r hr]
  have := (List.subperm_of_subset (by simp [h]) hsub).length_le
  exact Nat.not_le.2 this

/-- Where no tiles wait for a counter, none are placed. -/
theorem State.rehomeAll_nothing {s : State} (h : ∀ e ∈ s.dispatches, e.2.homeless = [] ∧ e.2.homelessBack = []) : s.rehomeAll = s := by
  refine foldl_keeps (P := fun t : State => t = s) (fun t n ht => ?_) _ s rfl
  subst ht
  exact State.rehome_nothing (fun d hd => h _ (lookupK_mem hd))

/-- Placing tiles keeps which regions are isolated, and the cores. -/
theorem State.rehomeAll_keeps (s : State) (r : Nat) : (s.rehomeAll.region r).isolated = (s.region r).isolated ∧ s.rehomeAll.cores = s.cores :=
  foldl_keeps (P := fun t : State => (t.region r).isolated = (s.region r).isolated ∧ t.cores = s.cores)
    (fun t n ht => ⟨((Placed.rehome t n).isolated r).trans ht.1, (Placed.rehome t n).cores.trans ht.2⟩) _ s ⟨rfl, rfl⟩

/-- Settles O42: the error and ISOLATE_REGION by the lemmas on `isolate`, the tiles by `tiles_isolate`, RESTORE_REGION by `rehomeAll_nothing`
and `rehomeAll_keeps`. -/
theorem regionsIsolated : Obligations.RegionsIsolated := by
  unfold Obligations.RegionsIsolated
  refine ⟨?error, ?tiles, fun s src p => ⟨?isolate, ?restore⟩⟩
  case error =>
    intro s r cause hr hrun hi hc
    refine ⟨_, exec_regionErrorIsolate hr hrun hi hc, s.isolated_isolate r cause hr, s.contexts_isolate r cause hr,
      fun c hlt hcr => s.left_isolate r cause hlt hcr, fun c hcr hidle => s.idle_isolate r cause hcr hidle,
      fun q hqr => s.isolated_isolate_ne r cause hqr, ?_, fun _ => s.evq_isolate r cause⟩
    rintro n d k hd - hgo hk rfl
    obtain ⟨d', hd', hcancel, hending⟩ := State.ends_isolate_desk hd hgo hk
    exact ⟨d', hd', hcancel, hending⟩
  case tiles =>
    intro s r r2 k k2 n cause d q q2 hr hrun hi hc hdesk hj hs hgo hcs hne hin hq hq2 hl hb hwin
    have hfit : (q2.adopt q.giveUp.1 q.giveUp.2).fits = true := by
      rw [Counter.fits, Counter.adopt_win]; exact decide_eq_true hwin
    obtain ⟨q2', h1, h2, hranges, hreturned⟩ := State.tiles_isolate (cause := cause) hdesk hj hs hgo hcs hne hin hq hq2 hl hb hfit
    obtain ⟨hu, hret, htak, hsus, hcom⟩ := q.emptied_spec
    refine ⟨_, q.emptied, q2', exec_regionErrorIsolate hr hrun hi hc, h1, h2, hu, hret, htak, hsus, hcom, ?_, ?_, ?_⟩
    · intro x hx hxc
      rw [Counter.owns_iff, hranges]
      exact Counter.adopt_owns ((Counter.giveUp_covers hx hxc).imp_right .inl)
    · intro x hx
      rw [Counter.owns_iff, hranges]
      exact Counter.adopt_owns (.inr (.inr hx))
    · intro x hx hxc
      rw [hreturned, Counter.adopt_returned]
      exact List.mem_append_right _ ((q.mem_giveUp_back x).2 ⟨hx, hxc⟩)
  case isolate =>
    intro h
    rw [exec_isolateRegion h]
    refine ⟨fun hr => ?_, fun hr hi => ?_, fun hr hi hall => ?_, fun q hr hi hq hqr hqi => ?_⟩
    · simp only [if_pos hr]
    · simp only [if_neg (Nat.not_le.2 hr), if_pos (Option.isSome_iff_ne_none.2 hi)]
    · simp only [if_neg (Nat.not_le.2 hr), hi, Option.isSome_none, Bool.false_eq_true, if_false, if_pos (State.inService_le_one hall)]
    · have htwo := State.inService_two ((s.inService_iff _).2 ⟨hr, hi⟩) ((s.inService_iff q).2 ⟨hq, hqi⟩) hqr
      simp only [if_neg (Nat.not_le.2 hr), hi, Option.isSome_none, Bool.false_eq_true, if_false, if_neg htwo]
      have hr' : (pktP p 0).toNat < (s.consume src p).regions.length := by rw [State.consume_regions]; exact hr
      have hframe := (s.consume src p).isolate_within (pktP p 0).toNat .command
      refine ⟨_, rfl, State.isolated_isolate _ _ _ hr', State.contexts_isolate _ _ _ hr', fun c hlt hcr => ?_, fun c hcr hidle => ?_, ?_⟩
      · obtain ⟨hdis, hheld, -⟩ := State.left_isolate (s.consume src p) _ .command (by rw [State.consume_cores]; exact hlt) hcr
        exact ⟨hdis, hheld⟩
      · rw [State.idle_isolate _ _ _ hcr (by rw [State.core_consume]; exact hidle), State.core_consume]
      · rw [hframe, State.consume_eq]
        exact ⟨rfl, rfl, rfl, rfl, rfl, rfl⟩
  case restore =>
    intro b h
    rw [exec_restoreRegion h]
    refine ⟨fun hr => ?_, fun hr hi => ?_, fun cause hr hi => ⟨?_, ?_, ?_⟩⟩
    · simp only [if_pos hr]
    · simp only [if_neg (Nat.not_le.2 hr), hi]
    · rintro rfl
      simp only [if_neg (Nat.not_le.2 hr), hi]
      rfl
    · rintro rfl hnone
      simp only [if_neg (Nat.not_le.2 hr), hi, Bool.not_true, Bool.false_eq_true, if_false]
      rw [State.rehomeAll_nothing (by rw [State.restored_dispatches, State.consume_dispatches]; exact hnone)]
      rfl
    · rintro rfl
      simp only [if_neg (Nat.not_le.2 hr), hi, Bool.not_true, Bool.false_eq_true, if_false]
      obtain ⟨hisolated, hcores⟩ := ((s.consume src p).restored (pktP p 0).toNat cause).rehomeAll_keeps (pktP p 0).toNat
      refine ⟨_, rfl, ?_, ?_⟩
      · rw [hisolated, State.isolated_restored (by rw [State.consume_regions]; exact hr)]
      · rw [hcores, State.restored_cores, State.consume_cores]

end Sys2Proof.Machine
end

section
/-! What issued instructions of a core share: committed runs in the shelves they write, the flags they note, and the step past them. -/
namespace Sys2Proof.Machine

/-! ## Committed runs in shelves about to be written (R236) -/

/-- A run that is spilled changes the memories, the caches, the ledger, the poison, the jobs and the number of free values only. -/
theorem State.spillRun_frame (s : State) (job i : Nat) : s.spillRun job i =
    { s with ledger := (s.spillRun job i).ledger, hostMem := (s.spillRun job i).hostMem, dram := (s.spillRun job i).dram
             poison := (s.spillRun job i).poison, fresh := (s.spillRun job i).fresh, caches := (s.spillRun job i).caches
             jobs := (s.spillRun job i).jobs } := by
  unfold State.spillRun
  split
  next => rfl
  next j hj =>
    simp only [State.takeFresh]
    split
    next a ha => rw [State.writeVA_eq]
    next => rfl

/-- Shelves about to be written: the spilled runs change the memories, the caches, the ledger, the poison, the jobs and the number of free
values only. -/
theorem State.reuse_frame (s : State) (c : Nat) (shs : List Nat) : s.reuse c shs =
    { s with ledger := (s.reuse c shs).ledger, hostMem := (s.reuse c shs).hostMem, dram := (s.reuse c shs).dram
             poison := (s.reuse c shs).poison, fresh := (s.reuse c shs).fresh, caches := (s.reuse c shs).caches
             jobs := (s.reuse c shs).jobs } := by
  refine foldl_keeps (P := fun t : State => t = { s with
    ledger := t.ledger, hostMem := t.hostMem, dram := t.dram, poison := t.poison, fresh := t.fresh, caches := t.caches, jobs := t.jobs })
    (fun t j ht => ?_) s.jobs s rfl
  refine foldl_keeps (P := fun t : State => t = { s with
    ledger := t.ledger, hostMem := t.hostMem, dram := t.dram, poison := t.poison, fresh := t.fresh, caches := t.caches, jobs := t.jobs })
    (fun u r hu => ?_) _ t ht
  split
  next p hp =>
    split
    next => rw [State.spillRun_frame, hu]
    next => exact hu
  next => exact hu

@[simp] theorem State.reuse_cores (s : State) (c : Nat) (shs : List Nat) : (s.reuse c shs).cores = s.cores := by rw [State.reuse_frame]
@[simp] theorem State.core_reuse (s : State) (c e : Nat) (shs : List Nat) : (s.reuse c shs).core e = s.core e := by
  rw [State.reuse_frame]; rfl

/-- A fold whose steps all leave the start alone ends where it starts. -/
theorem foldl_eq_self {α β : Type} {f : β → α → β} {b : β} : ∀ {l : List α}, (∀ a ∈ l, f b a = b) → l.foldl f b = b
  | [], _ => rfl
  | a :: l, h => by rw [List.foldl_cons, h a (List.mem_cons_self ..), foldl_eq_self fun x hx => h x (List.mem_cons_of_mem _ hx)]

/-- Where no committed run lies in the shelves, nothing is spilled. -/
theorem State.reuse_eq_self {s : State} {c : Nat} {shs : List Nat}
    (h : ∀ j ∈ s.jobs, ∀ r ∈ j.2.runs, ∀ p, r.core = some p → (p.1 == c && p.2.any shs.contains) = false) : s.reuse c shs = s := by
  refine foldl_eq_self fun j hj => foldl_eq_self fun r hr => ?_
  have hmem : r.1 ∈ j.2.runs := by
    obtain ⟨-, hlt, he⟩ := List.mem_zipIdx hr
    exact he ▸ List.getElem_mem _
  split
  next p hp => rw [if_neg (by rw [h j hj r.1 hmem p hp]; decide)]
  next => rfl

/-- No shelves, nothing to spill. -/
@[simp] theorem State.reuse_nil (s : State) (c : Nat) : s.reuse c [] = s :=
  State.reuse_eq_self fun j _ r _ p _ => by simp

/-- No committed run in the carrel, nothing to spill. -/
theorem State.reuse_of_noRuns {s : State} {c : Nat} (h : NoRuns s c) (shs : List Nat) : s.reuse c shs = s := by
  refine State.reuse_eq_self fun j hj r hr p hp => ?_
  have : p.1 ≠ c := fun e => h j hj r hr (by rw [hp, Option.map_some, e])
  simp [this]

/-! ## Flags and counts of a tile (R79, R187, R243) -/

/-- A held tile with flags and counts noted. -/
def Held.note (flags skipped audited misses : Nat) (h : Held) : Held :=
  { h with flags := h.flags ||| flags, skipped := h.skipped + skipped, audited := h.audited + audited, misses := h.misses + misses }

/-- Without a held tile there is nothing to note. -/
theorem Core.note_free {k : Core} (h : k.held = none) (f : Held → Held) : { k with held := k.held.map f } = k := by
  cases k; cases h; rfl

section
variable (s : State) (c flags skipped audited misses : Nat)

/-- Flags noted change cores and dispatches only. -/
theorem State.noteFlags_frame : s.noteFlags c flags skipped audited misses =
    { s with cores := (s.noteFlags c flags skipped audited misses).cores
             dispatches := (s.noteFlags c flags skipped audited misses).dispatches } := by
  unfold State.noteFlags
  split
  · rfl
  · split <;> rfl

@[simp] theorem State.noteFlags_cores_length : (s.noteFlags c flags skipped audited misses).cores.length = s.cores.length := by
  unfold State.noteFlags
  split
  · simp
  · split <;> rfl

/-- Of the core, flags noted change the held tile only. -/
theorem State.core_noteFlags (hc : c < s.cores.length) : (s.noteFlags c flags skipped audited misses).core c =
    { s.core c with held := (s.core c).held.map (Held.note flags skipped audited misses) } := by
  unfold State.noteFlags
  split
  next h hh => rw [State.core_updCore_self _ _ _ hc]; rfl
  next hh =>
    rw [Core.note_free hh]
    split <;> rfl

/-- Flags noted with a held tile change no dispatch. -/
theorem State.noteFlags_dispatches (hh : (s.core c).held ≠ none) : (s.noteFlags c flags skipped audited misses).dispatches = s.dispatches := by
  unfold State.noteFlags
  split
  next => rfl
  next h => exact absurd h hh

end

/-! ## The step past an issued instruction -/

/-- Of the core, the step past an issued instruction changes the program counter, the loop stack and the wait only. -/
theorem State.core_carry_go {s t : State} {c : Nat} (hc : c < t.cores.length) :
    (s.carry c (.go t)).core c = { (t.core c).advance (s.core c).pc with wait := none } := by
  rw [State.carry, State.core_updCore_self _ _ _ hc]

end Sys2Proof.Machine
end

section
/-! MMA, SPMA and SPGE in TILE (R366, R370 to R373): what a run without a mismatch leaves in its core and in the state. -/
namespace Sys2Proof.Machine

/-! ## What a run of a tile counts and sums -/

/-- However a dense run goes, the K range is counted once (R155). -/
theorem Job1.run_kcount (j : Job1) (lower : Nat) (start : List (List Nat)) (st : AccSt) :
    (j.run lower start st).st.kcount = (st.count j.k).kcount := by
  have exact_ : (j.runExact lower start st).st.kcount = (st.count j.k).kcount := by
    unfold Job1.runExact
    dsimp only
    split <;> rfl
  unfold Job1.run
  split
  · split
    · exact exact_
    · rfl
  · split
    · rfl
    · split
      · exact exact_
      · split <;> rfl

/-- A tile that starts at ZERO or PRELOAD has counted its own K range after its run (R155). -/
theorem State.runTile_kcount (s : State) (k : Core) (limit : Nat) {w : Work} (h : w.f.start ≠ 2) (reruns outscale : Nat) :
    (s.runTile k limit w reruns outscale).1.st.kcount = Nat.min 0x3FFFFFF w.kl := by
  have counted : ((k.startSt w reruns outscale).count w.kl).kcount = Nat.min 0x3FFFFFF w.kl := by
    simp [Core.startSt, h, AccSt.count, AccSt.zero, satAdd]
  have merged : ∀ (sums : List SSum) (d : Ran), (if sums.isEmpty then d else mergeSums sums d).st = d.st := fun sums d => by
    split <;> rfl
  unfold State.runTile
  dsimp only
  rw [merged]
  split
  · exact counted
  · split
    · exact counted
    · exact (Job1.run_kcount _ _ _ _).trans counted

/-- A run of an MMA that gives the sparse engine nothing has no sparse sums. -/
theorem State.runTile_sums_of_dense (s : State) {k : Core} (limit : Nat) {w : Work} (hk : w.kind = 0) (hu : k.usesSparse w.f = false)
    (reruns outscale : Nat) : (s.runTile k limit w reruns outscale).2.1.sums = [] := by
  simp [State.runTile, hk, hu]

/-- Products counted change the ledger only. -/
theorem State.countMac_frame (s : State) (cls fmt n : Nat) : ∃ ledger, s.countMac cls fmt n = { s with ledger := ledger } := ⟨_, rfl⟩

/-- The products of a run counted change the ledger only. -/
theorem State.countRun_frame (s : State) (w : Work) (r : Ran) (sp : SparseRan) (n : Nat) :
    ∃ ledger, s.countRun w r sp n = { s with ledger := ledger } := by
  obtain ⟨l0, h0⟩ := s.countMac_frame 0 (countFmt w.a.fmt w.b.fmt) (n * r.twin)
  obtain ⟨l1, h1⟩ := State.countMac_frame { s with ledger := l0 } 1 (countFmt w.a.fmt w.b.fmt) (n * r.exact_)
  obtain ⟨l2, h2⟩ := State.countMac_frame { s with ledger := l1 } 2 (countFmt w.a.fmt w.b.fmt) (n * r.fore)
  obtain ⟨l3, h3⟩ := State.countMac_frame { s with ledger := l2 } 3 (countFmt w.a.fmt w.b.fmt) (n * sp.count)
  refine ⟨l3, ?_⟩
  unfold State.countRun
  dsimp only
  rw [h0, h1, h2, h3]

/-! ## The tile record (R372) -/

/-- A tile record of a run: its shape, flow, mode, formats and counts are those of the work, and it starts as the tile does. -/
structure Work.IsRecord (w : Work) (r : TileRec) : Prop where
  m : r.m = tileM w.f
  n : r.n = tileN w.f
  mode : r.mode = w.f.mode
  flow : r.flow = w.f.flow
  fmtA : r.fmtA = w.a.fmt
  fmtB : r.fmtB = w.b.fmt
  vm : r.vm = w.vm
  vn : r.vn = w.vn
  start : w.f.start ≠ 2 → r.start = w.f.start

/-- What of a core the accumulators, the stationary registers, the carrel and the held tile's flags leave alone. -/
structure Core.SameProgram (k t : Core) : Prop where
  x : t.x = k.x
  slots : t.slots = k.slots
  split : t.split = k.split
  pc : t.pc = k.pc
  loops : t.loops = k.loops
  dispatch : t.dispatch = k.dispatch
  nextIdx : t.nextIdx = k.nextIdx
  inflight : t.inflight = k.inflight
  recs : t.recs = k.recs

namespace Core.SameProgram

theorem refl (k : Core) : k.SameProgram k := ⟨rfl, rfl, rfl, rfl, rfl, rfl, rfl, rfl, rfl⟩

theorem trans {k t u : Core} (h : k.SameProgram t) (g : t.SameProgram u) : k.SameProgram u :=
  ⟨g.x.trans h.x, g.slots.trans h.slots, g.split.trans h.split, g.pc.trans h.pc, g.loops.trans h.loops, g.dispatch.trans h.dispatch,
    g.nextIdx.trans h.nextIdx, g.inflight.trans h.inflight, g.recs.trans h.recs⟩

theorem held (k : Core) (h : Option Held) : k.SameProgram { k with held := h } := ⟨rfl, rfl, rfl, rfl, rfl, rfl, rfl, rfl, rfl⟩

theorem carrel (k : Core) (m : Mem) (tags : List (Nat × Tag)) : k.SameProgram { k with carrel := m, tags := tags } :=
  ⟨rfl, rfl, rfl, rfl, rfl, rfl, rfl, rfl, rfl⟩

theorem setTile (k : Core) (w : Work) (rows : List (List Nat)) : k.SameProgram
    (if w.f.mode == 2 then k.setForeTile w.geo (tileM w.f) (tileN w.f) rows else k.setAccTile w.geo (tileN w.f) rows) := by
  split <;> exact ⟨rfl, rfl, rfl, rfl, rfl, rfl, rfl, rfl, rfl⟩

theorem loadStat (k : Core) (w : Work) (n : Nat) : k.SameProgram (k.loadStat w n) := by
  unfold Core.loadStat
  split
  · exact refl k
  · exact ⟨rfl, rfl, rfl, rfl, rfl, rfl, rfl, rfl, rfl⟩

end Core.SameProgram

/-- The record of a run that stands, where `old` is the record before it. -/
def Work.record (w : Work) (st : AccSt) (old : Option TileRec) : TileRec :=
  { start := if w.f.start == 2 then (match old with | some o => o.start | none => 0) else w.f.start, m := tileM w.f, n := tileN w.f
    flow := w.f.flow, mode := w.f.mode, fmtA := w.a.fmt, fmtB := w.b.fmt, vm := w.vm, vn := w.vn, skipped := w.skipped
    audited := w.audited, st := st }

theorem Work.isRecord_record (w : Work) (st : AccSt) (old : Option TileRec) : w.IsRecord (w.record st old) :=
  ⟨rfl, rfl, rfl, rfl, rfl, rfl, rfl, rfl, fun h => by simp [Work.record, h]⟩

/-- The core after a kept run, but for its record: accumulators, stationary registers, and the spill area from shelf `base` on, whose tags go. -/
def Core.storeRun (k : Core) (w : Work) (r : Ran) (base n : Nat) (rows shs : List Nat) : Core :=
  let k2 := (if w.f.mode == 2 then k.setForeTile w.geo (tileM w.f) (tileN w.f) r.rows else k.setAccTile w.geo (tileN w.f) r.rows).loadStat w n
  let line := tileN w.f * 8
  rows.foldl (fun (k : Core) i =>
    { k with carrel := k.carrel.writeBytes (base * shelfBytes + i * line) (freeBytes n (base * shelfBytes + i * line) line) })
    { k2 with tags := k2.tags.filter (fun p => !shs.contains p.1) }

theorem Core.SameProgram.storeRun (k : Core) (w : Work) (r : Ran) (base n : Nat) (rows shs : List Nat) :
    k.SameProgram (k.storeRun w r base n rows shs) := by
  refine foldl_keeps (P := fun t : Core => k.SameProgram t) (fun t i ht => ht.trans (.carrel t _ t.tags)) rows _ ?_
  exact ((Core.SameProgram.setTile k w r.rows).trans (.loadStat _ w n)).trans (.carrel _ _ _)

/-- A tile record set in a core. -/
def Core.putRec (k : Core) (q : Nat) (r : TileRec) : Core := { k with recs := insertK q r k.recs }

/-- A run kept: its flags noted, its tile and spill area stored, and its record set. -/
theorem State.keepRun_eq (s : State) (c : Nat) (w : Work) (r : Ran) (sums : List SSum) : ∃ base rows shs, (sums = [] → shs = []) ∧
    s.keepRun c w r sums = ((s.takeFresh.2.reuse c shs).noteFlags c r.st.flags 0 0 0).updCore c (fun k =>
      (k.storeRun w r base s.fresh rows shs).putRec w.f.qtr (w.record r.st (lookupK w.f.qtr k.recs))) := by
  refine ⟨tcwSpill ((s.core c).tcw w.f), (sums.map SSum.row).dedup, _, ?_, rfl⟩
  rintro rfl
  simp

/-- A kept run leaves its record, and of the rest of the core what `SameProgram` names is as it was. -/
theorem State.core_keepRun {s : State} {c : Nat} (hc : c < s.cores.length) (w : Work) (r : Ran) (sums : List SSum) :
    ∃ k rec, (s.core c).SameProgram k ∧ w.IsRecord rec ∧ rec.st = r.st ∧ (s.keepRun c w r sums).core c = k.putRec w.f.qtr rec := by
  obtain ⟨base, rows, shs, -, heq⟩ := s.keepRun_eq c w r sums
  have hlen : c < (s.takeFresh.2.reuse c shs).cores.length := by rw [State.reuse_cores]; exact hc
  rw [heq, State.core_updCore_self _ _ _ (by rw [State.noteFlags_cores_length]; exact hlen), State.core_noteFlags _ _ _ _ _ _ hlen,
    State.core_reuse]
  exact ⟨_, _, (Core.SameProgram.held (s.core c) _).trans (.storeRun _ w r base s.fresh rows shs), w.isRecord_record _ _, rfl, rfl⟩

@[simp] theorem State.keepRun_cores_length (s : State) (c : Nat) (w : Work) (r : Ran) (sums : List SSum) :
    (s.keepRun c w r sums).cores.length = s.cores.length := by
  obtain ⟨base, rows, shs, -, heq⟩ := s.keepRun_eq c w r sums
  rw [heq, State.updCore_cores_length, State.noteFlags_cores_length, State.reuse_cores]
  rfl

/-- What a kept run may change beside its core, when it has no sparse sums. -/
theorem State.keepRun_frame_dense (s : State) (c : Nat) (w : Work) (r : Ran) : ∃ cores fresh dispatches,
    s.keepRun c w r [] = { s with cores := cores, fresh := fresh, dispatches := dispatches } := by
  obtain ⟨base, rows, shs, hshs, heq⟩ := s.keepRun_eq c w r []
  rw [heq, hshs rfl, State.reuse_nil, State.noteFlags_frame]
  exact ⟨_, _, _, rfl⟩

/-- A kept run changes no region, and with a held tile no dispatch. -/
theorem State.keepRun_others (s : State) (c : Nat) (w : Work) (r : Ran) (sums : List SSum) :
    (s.keepRun c w r sums).regions = s.regions ∧ ((s.core c).held ≠ none → (s.keepRun c w r sums).dispatches = s.dispatches) := by
  obtain ⟨base, rows, shs, -, heq⟩ := s.keepRun_eq c w r sums
  rw [heq]
  constructor
  · rw [State.updCore_regions, State.noteFlags_frame, State.reuse_frame]
    rfl
  · intro hh
    rw [State.updCore_dispatches, State.noteFlags_dispatches _ _ _ _ _ _ (by rw [State.core_reuse]; exact hh), State.reuse_frame]
    rfl

/-! ## A run without a mismatch -/

/-- An issued instruction after a run, with a rerun due. -/
def Inflight.awaitRerun (cyc : Nat) (f : Inflight) : Inflight := { f with rerun := true, cycles := f.cycles + cyc + 4 }

/-- An issued instruction after a run that stands. -/
def Inflight.stood (cyc : Nat) (f : Inflight) : Inflight := { f with rerun := false, redo := false, cycles := f.cycles + cyc }

/-- A core with the registers that an instruction read at issue. -/
def Core.withX (k : Core) (x : List W64) : Core := { k with x := x }

/-- The products counted of a run that an overflow cut short: how far each class came the manual leaves open (R168; log entry 5). -/
def State.countCut (s : State) (w : Work) (r : Ran) (sp : SparseRan) : State :=
  let part := fun (t : Nat) => Config.freeNat (4 * s.fresh) % (t + 1)
  (s.takeFresh.2.countRun w r sp (1 - 1)).countRun w { r with twin := part r.twin, exact_ := part r.exact_, fore := part r.fore }
    { sp with count := part sp.count } 1

/-- The record of a tile whose rerun is due. -/
def Work.dueRecord (w : Work) (st : AccSt) : TileRec :=
  ⟨w.f.start, tileM w.f, tileN w.f, w.f.flow, w.f.mode, w.a.fmt, w.b.fmt, w.vm, w.vn, w.skipped, w.audited, { st with kcount := 0 }⟩

/-- A run's overflow marked in its status word, where no rerun answers it (R169). -/
def Ran.marked (r : Ran) : Ran := if r.ovf then { r with st := { r.st with accOvf := true } } else r

section
variable (s : State) (c limit idx : Nat) (w : Work) (x : List W64) (reruns outscale : Nat)

/-- A run without a mismatch has a rerun due, or is kept. -/
theorem State.settleRun_nil : s.settleRun c limit idx w x reruns outscale [] =
    let ran := s.runTile ((s.core c).withX x) limit w reruns outscale
    if ran.1.ovf && w.reruns ran.1 reruns then
      (s.countCut w ran.1 ran.2.1).updCore c (fun q =>
        (q.updInflight idx (Inflight.awaitRerun (1 * ran.2.2))).putRec w.f.qtr (w.dueRecord (((s.core c).withX x).startSt w reruns outscale)))
    else
      ((((s.countRun w ran.1 ran.2.1 1).updCore c (fun q => q.updInflight idx (Inflight.stood (1 * ran.2.2)))).updCore c
        (fun q => q.withX x)).keepRun c w ran.1.marked ran.2.1.sums).updCore c (fun q => q.withX (s.core c).x) := by
  have hx : ∀ k : Core, { k with x := x } = k.withX x := fun _ => rfl
  unfold State.settleRun
  simp only [State.judge_nil, hx]
  generalize s.runTile ((s.core c).withX x) limit w reruns outscale = ran
  obtain ⟨r, sp, cyc⟩ := ran
  dsimp only
  split
  · unfold State.countCut
    dsimp only
    rfl
  · rfl

theorem State.countCut_frame (r : Ran) (sp : SparseRan) :
    ∃ ledger fresh, s.countCut w r sp = { s with ledger := ledger, fresh := fresh } := by
  unfold State.countCut
  obtain ⟨l0, h0⟩ := s.takeFresh.2.countRun_frame w r sp (1 - 1)
  dsimp only
  rw [h0]
  obtain ⟨l1, h1⟩ := State.countRun_frame { s.takeFresh.2 with ledger := l0 } w
    { r with twin := Config.freeNat (4 * s.fresh) % (r.twin + 1), exact_ := Config.freeNat (4 * s.fresh) % (r.exact_ + 1)
             fore := Config.freeNat (4 * s.fresh) % (r.fore + 1) } { sp with count := Config.freeNat (4 * s.fresh) % (sp.count + 1) } 1
  exact ⟨l1, s.fresh + 1, h1⟩

theorem Ran.marked_kcount (r : Ran) : r.marked.st.kcount = r.st.kcount := by unfold Ran.marked; split <;> rfl

/-- What a run without a mismatch leaves in its core: its issued instruction with a rerun due or not, its record, and the rest of the program's
state as it was. -/
theorem State.core_settleRun_nil (hc : c < s.cores.length) :
    let ran := s.runTile ((s.core c).withX x) limit w reruns outscale
    ∃ f k rec, ((s.core c).updInflight idx f).SameProgram k ∧ w.IsRecord rec ∧
      (s.settleRun c limit idx w x reruns outscale []).core c = k.putRec w.f.qtr rec ∧
      ((w.reruns ran.1 reruns = true ∧ f = Inflight.awaitRerun (1 * ran.2.2)) ∨
        (rec.st.kcount = ran.1.st.kcount ∧ f = Inflight.stood (1 * ran.2.2))) := by
  intro ran
  rw [State.settleRun_nil]
  dsimp only
  split
  next due =>
    obtain ⟨ledger, fresh, hcut⟩ := s.countCut_frame w ran.1 ran.2.1
    rw [hcut, State.core_updCore_self _ c _ (by exact hc)]
    exact ⟨_, _, _, .refl _, ⟨rfl, rfl, rfl, rfl, rfl, rfl, rfl, rfl, fun _ => rfl⟩, rfl, .inl ⟨(Bool.and_eq_true .. ▸ due).2, rfl⟩⟩
  next due =>
    obtain ⟨ledger, hcount⟩ := s.countRun_frame w ran.1 ran.2.1 1
    have hlen : c < ({ s with ledger := ledger } : State).cores.length := hc
    rw [hcount]
    obtain ⟨k, rec, hk, hrec, hst, heq⟩ := State.core_keepRun (s := (({ s with ledger := ledger } : State).updCore c
      (fun q => q.updInflight idx (Inflight.stood (1 * ran.2.2)))).updCore c (fun q => q.withX x)) (by simpa using hlen) w ran.1.marked
      ran.2.1.sums
    rw [State.core_updCore_self _ _ _ (by simpa using hlen), State.core_updCore_self _ _ _ hlen] at hk
    rw [State.core_updCore_self _ _ _ (by simpa using hlen), heq]
    refine ⟨_, k.withX (s.core c).x, rec, ?_, hrec, rfl, .inr ⟨hst ▸ ran.1.marked_kcount, rfl⟩⟩
    exact ⟨rfl, hk.slots, hk.split, hk.pc, hk.loops, hk.dispatch, hk.nextIdx, hk.inflight, hk.recs⟩

theorem State.updCore_twice_frame (t : State) (e : Nat) (f g : Core → Core) :
    ∃ cores, (t.updCore e f).updCore e g = { t with cores := cores } := ⟨_, rfl⟩

/-- A run without a mismatch that has no sparse sums changes cores, the ledger, the dispatches and the number of free values only. -/
theorem State.settleRun_nil_frame_dense (h : (s.runTile ((s.core c).withX x) limit w reruns outscale).2.1.sums = []) :
    ∃ cores ledger fresh dispatches, s.settleRun c limit idx w x reruns outscale [] =
      { s with cores := cores, ledger := ledger, fresh := fresh, dispatches := dispatches } := by
  rw [State.settleRun_nil]
  generalize s.runTile ((s.core c).withX x) limit w reruns outscale = ran at h ⊢
  dsimp only
  split
  next =>
    obtain ⟨ledger, fresh, hcut⟩ := s.countCut_frame w ran.1 ran.2.1
    rw [hcut]
    exact ⟨_, ledger, fresh, s.dispatches, rfl⟩
  next =>
    obtain ⟨ledger, hcount⟩ := s.countRun_frame w ran.1 ran.2.1 1
    obtain ⟨before, hbefore⟩ := State.updCore_twice_frame { s with ledger := ledger } c
      (fun q => q.updInflight idx (Inflight.stood (1 * ran.2.2))) (fun q => q.withX x)
    rw [h, hcount, hbefore]
    obtain ⟨cores, fresh, dispatches, hkeep⟩ := State.keepRun_frame_dense { s with ledger := ledger, cores := before } c w ran.1.marked
    rw [hkeep]
    exact ⟨_, ledger, fresh, dispatches, rfl⟩

/-- A run without a mismatch changes no region, and with a held tile no dispatch. -/
theorem State.settleRun_nil_others (hc : c < s.cores.length) :
    (s.settleRun c limit idx w x reruns outscale []).regions = s.regions ∧
    ((s.core c).held ≠ none → (s.settleRun c limit idx w x reruns outscale []).dispatches = s.dispatches) := by
  rw [State.settleRun_nil]
  generalize s.runTile ((s.core c).withX x) limit w reruns outscale = ran
  dsimp only
  split
  next =>
    obtain ⟨ledger, fresh, hcut⟩ := s.countCut_frame w ran.1 ran.2.1
    rw [hcut]
    exact ⟨rfl, fun _ => rfl⟩
  next =>
    obtain ⟨ledger, hcount⟩ := s.countRun_frame w ran.1 ran.2.1 1
    rw [hcount]
    obtain ⟨hregions, hdispatches⟩ := ((({ s with ledger := ledger } : State).updCore c
      (fun q => q.updInflight idx (Inflight.stood (1 * ran.2.2)))).updCore c (fun q => q.withX x)).keepRun_others c w ran.1.marked ran.2.1.sums
    rw [State.core_updCore_self _ c _ (by rw [State.updCore_cores_length]; exact hc), State.core_updCore_self _ c _ (by exact hc)] at hdispatches
    exact ⟨hregions, hdispatches⟩

end

/-! ## Issue (R370 to R373) -/

theorem Core.onUnit_idle {k : Core} (h : k.inflight = []) (u : Nat) : k.onUnit u = [] := by simp [Core.onUnit, h]

/-- On an idle core no engine is busy. -/
theorem Core.unitBusy_idle {k : Core} (h : k.inflight = []) (i : TileInstr) : k.unitBusy i = false := by
  simp [Core.unitBusy, Core.onUnit_idle h]

theorem Core.arrayBusy_idle {k : Core} (h : k.inflight = []) : k.arrayBusy = false := by simp [Core.arrayBusy, h]

/-- A change of mode changes the accumulators and the records only. -/
theorem Core.enterMode_eq (k : Core) (split : Bool) : ∃ acc recs, k.enterMode split = { k with acc := acc, recs := recs, split := split } := by
  unfold Core.enterMode
  split
  next h => exact ⟨k.acc, k.recs, by rw [← eq_of_beq h]⟩
  next => exact ⟨_, _, rfl⟩

/-- The core at the issue of an instruction tile: in its mode, with the instruction issued and its tile begun. -/
def Core.issueTile (k : Core) (kind : Nat) (f : MF) (i : TileInstr) : Core :=
  let k1 := k.enterMode (f.qtr != 4)
  let k2 := k1.launch (k1.flight i [f.sa, f.sb] [] 0)
  { (if f.start == 2 then k2 else k2.beginTile (if kind == 0 then f.qtr else 5)) with fore := k1.fore || f.mode == 2 }

/-- The issue of an instruction tile changes the accumulators, the records, the mode and the tile's numbers, beside the instruction issued. -/
theorem Core.issueTile_eq (k : Core) (kind : Nat) (f : MF) (i : TileInstr) : ∃ acc recs begun mism fore, k.issueTile kind f i =
    { k with acc := acc, recs := recs, begun := begun, mism := mism, fore := fore, split := f.qtr != 4
             inflight := k.inflight ++ [k.flight i [f.sa, f.sb] [] 0], nextIdx := k.nextIdx + 1 } := by
  obtain ⟨acc, recs, h⟩ := k.enterMode_eq (f.qtr != 4)
  unfold Core.issueTile
  rw [h]
  dsimp only
  split <;> exact ⟨_, _, _, _, _, rfl⟩

theorem Core.issueTile_held (k : Core) (kind : Nat) (f : MF) (i : TileInstr) : (k.issueTile kind f i).held = k.held := by
  obtain ⟨acc, recs, begun, mism, fore, h⟩ := k.issueTile_eq kind f i
  rw [h]

theorem Core.issueTile_usesSparse (k : Core) (kind : Nat) (f : MF) (i : TileInstr) : (k.issueTile kind f i).usesSparse f = k.usesSparse f := by
  obtain ⟨acc, recs, begun, mism, fore, h⟩ := k.issueTile_eq kind f i
  rw [h]
  rfl

/-- The work of an instruction tile does not depend on the mode of the core. -/
theorem Core.workOf_enterMode (k : Core) (split : Bool) (kind : Nat) (f : MF) : (k.enterMode split).workOf kind f = k.workOf kind f := by
  obtain ⟨acc, recs, h⟩ := k.enterMode_eq split
  rw [h]
  rfl

/-- A matrix instruction that fails a check stops at issue. -/
theorem tryMma_fail {s : State} {c kind : Nat} {f : MF} {st : St}
    (h : (s.core c).mmaCheck (s.limitOf c) kind f = some st ∨
      ((s.core c).mmaCheck (s.limitOf c) kind f = none ∧ s.formCheck (s.core c) kind f = some st)) (mis : List Mismatch) (i : TileInstr) :
    tryMma c kind mis s i f = .fail st 0 0 := by
  unfold State.limitOf at h
  unfold tryMma
  dsimp only
  obtain hm | ⟨hm, hf⟩ := h
  · rw [hm]
  · rw [hm, hf]

/-- The state after the run of an instruction tile without a mismatch. -/
def State.tileIssued (s : State) (c kind : Nat) (f : MF) (i : TileInstr) : State :=
  (s.updCore c (fun _ => (s.core c).issueTile kind f i)).settleRun c (s.limitOf c) ((s.core c).enterMode (f.qtr != 4)).nextIdx
    (((s.core c).enterMode (f.qtr != 4)).workOf kind f) ((s.core c).enterMode (f.qtr != 4)).x 0 0 []

/-- What a run works on does not depend on the mode that the core was in. -/
theorem State.tileIssued_eq (s : State) (c kind : Nat) (f : MF) (i : TileInstr) : s.tileIssued c kind f i =
    (s.updCore c (fun _ => (s.core c).issueTile kind f i)).settleRun c (s.limitOf c) (s.core c).nextIdx ((s.core c).workOf kind f)
      (s.core c).x 0 0 [] := by
  obtain ⟨acc, recs, h⟩ := (s.core c).enterMode_eq (f.qtr != 4)
  rw [State.tileIssued, Core.workOf_enterMode, h]

/-- What the issue and the run of an instruction tile leave of an idle core `k`: the issued instruction `g`, the record `r`, and the program's
state as it was. -/
structure TileRan (k : Core) (kind : Nat) (f : MF) (i : TileInstr) (t : Core) (g : Inflight) (r : TileRec) : Prop where
  inflight : t.inflight = [g]
  idx : g.idx = k.nextIdx
  instr : g.instr = i
  readX : g.x = k.x
  stop : g.stop = none
  redo : g.redo = false
  rerun : g.rerun = true → kind = 0 ∧ f.start ≠ 2 ∧ ((k.tag f.sa).sb = 1 ∨ (k.tag f.sb).sb = 1)
  kcount : f.start ≠ 2 → g.rerun = false → r.st.kcount = Nat.min 0x3FFFFFF (k.kLen f)
  recs : lookupK f.qtr t.recs = some r
  isRecord : (k.workOf kind f).IsRecord r
  split : t.split = (f.qtr != 4)
  x : t.x = k.x
  slots : t.slots = k.slots
  pc : t.pc = k.pc
  loops : t.loops = k.loops
  dispatch : t.dispatch = k.dispatch
  nextIdx : t.nextIdx = k.nextIdx + 1

/-- Only an MMA from ZERO or PRELOAD of interleaved scaled blocks is rerun (R166, R168). -/
theorem Work.reruns_imp {k : Core} {kind : Nat} {f : MF} {r : Ran} {n : Nat} (h : (k.workOf kind f).reruns r n = true) :
    kind = 0 ∧ f.start ≠ 2 ∧ ((k.tag f.sa).sb = 1 ∨ (k.tag f.sb).sb = 1) := by
  unfold Work.reruns Core.workOf Tag.inter at h
  simp only [Bool.and_eq_true, Bool.or_eq_true, beq_iff_eq, bne_iff_ne] at h
  obtain ⟨⟨⟨⟨hkind, hstart⟩, hinter⟩, -⟩, -⟩ := h
  exact ⟨hkind, hstart, hinter⟩

/-- What an instruction tile without a mismatch leaves of its idle core. -/
theorem State.tileRan_tileIssued {s : State} {c : Nat} (hc : c < s.cores.length) (hi : (s.core c).inflight = []) (kind : Nat) (f : MF)
    (i : TileInstr) : ∃ g r, TileRan (s.core c) kind f i ((s.tileIssued c kind f i).core c) g r := by
  obtain ⟨step, t, r, ht, hr, heq, hcase⟩ := (s.updCore c (fun _ => (s.core c).issueTile kind f i)).core_settleRun_nil c
    (s.limitOf c) (s.core c).nextIdx ((s.core c).workOf kind f) (s.core c).x 0 0 (by rw [State.updCore_cores_length]; exact hc)
  obtain ⟨acc, recs, begun, mism, fore, hk⟩ := (s.core c).issueTile_eq kind f i
  rw [State.core_updCore_self _ _ _ hc, hk] at ht
  have hflight : t.inflight = [step ((s.core c).flight i [f.sa, f.sb] [] 0)] := by
    rw [ht.inflight]
    simp [Core.updInflight, Core.flight, hi]
  refine ⟨step ((s.core c).flight i [f.sa, f.sb] [] 0), r, ?_⟩
  rw [State.tileIssued_eq, heq]
  refine { inflight := hflight, idx := ?idx, instr := ?instr, readX := ?readX, stop := ?stop, redo := ?redo, rerun := ?rerun, kcount := ?kcount,
           recs := lookupK_insertK_self _ _ _, isRecord := hr, split := ht.split, x := ht.x, slots := ht.slots, pc := ht.pc
           loops := ht.loops, dispatch := ht.dispatch, nextIdx := ht.nextIdx }
  case kcount =>
    intro hstart hrerun
    obtain ⟨-, rfl⟩ | ⟨hcount, -⟩ := hcase
    · cases hrerun
    · exact hcount.trans (State.runTile_kcount _ _ _ hstart _ _)
  case rerun =>
    intro hrerun
    obtain ⟨hdue, -⟩ | ⟨-, rfl⟩ := hcase
    · exact Work.reruns_imp hdue
    · cases hrerun
  all_goals obtain ⟨-, rfl⟩ | ⟨-, rfl⟩ := hcase <;> rfl

/-- A matrix instruction that passes its checks on an idle core is issued, and the core goes on. -/
theorem tryMma_go {s : State} {c kind : Nat} {f : MF} (hc : c < s.cores.length) (hm : (s.core c).mmaCheck (s.limitOf c) kind f = none)
    (hf : s.formCheck (s.core c) kind f = none) (hi : (s.core c).inflight = []) (hp : (s.core c).repair.pending = []) (i : TileInstr) :
    tryMma c kind [] s i f = .go (s.tileIssued c kind f i) := by
  obtain ⟨g, r, ran⟩ := State.tileRan_tileIssued hc hi kind f i
  have idle : ((s.core c).unitBusy i || (kind == 0 && (s.core c).inflight.any (fun g => tileSparse g.instr))
      || (kind != 0 && (s.core c).arrayBusy) || ((s.core c).split != (f.qtr != 4) && (s.core c).arrayBusy)
      || (f.mode == 2 && !(s.core c).fore && (s.core c).arrayBusy)
      || (!(s.core c).repair.pending.isEmpty && (f.start != 2 || (s.core c).boundary))) = false := by
    simp [Core.unitBusy_idle hi, Core.arrayBusy_idle hi, hi, hp]
  have goes : (((s.tileIssued c kind f i).core c).inflight.any (fun g => g.idx == ((s.core c).enterMode (f.qtr != 4)).nextIdx)
      && ((s.tileIssued c kind f i).core c).dispatch == (s.core c).dispatch
      && decide (((s.tileIssued c kind f i).core c).nextIdx > ((s.core c).enterMode (f.qtr != 4)).nextIdx)) = true := by
    obtain ⟨acc, recs, h⟩ := (s.core c).enterMode_eq (f.qtr != 4)
    rw [ran.inflight, ran.dispatch, ran.nextIdx, h]
    simp [ran.idx]
  unfold State.limitOf at hm
  calc tryMma c kind [] s i f
      = if _ then .go (s.tileIssued c kind f i) else .jump (s.tileIssued c kind f i) := by
        unfold tryMma
        dsimp only
        rw [hm, hf]
        dsimp only
        rw [if_neg (by rw [idle]; decide)]
        rfl
    _ = .go (s.tileIssued c kind f i) := if_pos goes

/-- A matrix instruction of a tile that a core can issue is tried for issue as R370 says. -/
theorem exec_matrixRow {s : State} {c kind : Nat} {f : MF} (hk : kind ≤ 2) (hflow : kind = 2 → f.flow = 0)
    (hr : RunsIn s c (matrixInstr kind f)) (mis : List Mismatch) :
    exec (matrixRow kind c mis) s = .next (s.carry c (tryMma c kind mis s (matrixInstr kind f) f)) := by
  obtain rfl | rfl | rfl : kind = 0 ∨ kind = 1 ∨ kind = 2 := by omega
  case inl =>
    show execMma c mis s = _
    exact State.tryIssue_runs hr (fun i => match i with | .mma _ => true | _ => false) rfl (doMma c mis)
  case inr.inl =>
    show execSpma c mis s = _
    exact State.tryIssue_runs hr (fun i => match i with | .spma _ => true | _ => false) rfl (doSpma c mis)
  case inr.inr =>
    show execSpge c mis s = _
    have hspge : doSpge c mis s (matrixInstr 2 f) = tryMma c 2 mis s (matrixInstr 2 f) f := by simp [matrixInstr, doSpge, hflow rfl]
    exact (State.tryIssue_runs hr (fun i => match i with | .spge _ => true | _ => false) rfl (doSpge c mis)).trans (by rw [hspge])

/-- An instruction tile without a mismatch changes no region, and with a held tile no dispatch. -/
theorem State.tileIssued_others {s : State} {c : Nat} (hc : c < s.cores.length) (kind : Nat) (f : MF) (i : TileInstr) :
    (s.tileIssued c kind f i).regions = s.regions ∧ ((s.core c).held ≠ none → (s.tileIssued c kind f i).dispatches = s.dispatches) := by
  obtain ⟨hregions, hdispatches⟩ := (s.updCore c (fun _ => (s.core c).issueTile kind f i)).settleRun_nil_others c (s.limitOf c)
    (s.core c).nextIdx ((s.core c).workOf kind f) (s.core c).x 0 0 (by rw [State.updCore_cores_length]; exact hc)
  rw [State.core_updCore_self _ _ _ hc, Core.issueTile_held] at hdispatches
  rw [State.tileIssued_eq]
  exact ⟨hregions, hdispatches⟩

/-- An MMA that gives the sparse engine nothing changes cores, the ledger, the dispatches and the number of free values only. -/
theorem State.tileIssued_frame_dense {s : State} {c : Nat} (hc : c < s.cores.length) {f : MF} (hu : (s.core c).usesSparse f = false)
    (i : TileInstr) : ∃ cores ledger fresh dispatches, s.tileIssued c 0 f i =
      { s with cores := cores, ledger := ledger, fresh := fresh, dispatches := dispatches } := by
  obtain ⟨cores, ledger, fresh, dispatches, h⟩ := (s.updCore c (fun _ => (s.core c).issueTile 0 f i)).settleRun_nil_frame_dense c
    (s.limitOf c) (s.core c).nextIdx ((s.core c).workOf 0 f) (s.core c).x 0 0
    (State.runTile_sums_of_dense _ _ rfl (by rw [State.core_updCore_self _ _ _ hc]; exact ((s.core c).issueTile_usesSparse 0 f i).trans hu) _ _)
  exact ⟨cores, ledger, fresh, dispatches, by rw [State.tileIssued_eq, h]; rfl⟩

/-- A core with issued instructions is one of the device. -/
theorem State.lt_of_inflight {t : State} {c : Nat} {g : Inflight} (h : (t.core c).inflight = [g]) : c < t.cores.length := by
  by_contra hge
  have hnone : t.cores[c]? = none := List.getElem?_eq_none (Nat.not_lt.1 hge)
  simp [State.core, hnone, Core.fresh] at h

/-- Settles O18: an instruction tile that passes its checks is issued by `tryMma_go` and leaves what `TileRan` lists; one that fails a check
stops at issue by `tryMma_fail`. -/
theorem matrixRuns : Obligations.MatrixRuns := by
  unfold Obligations.MatrixRuns
  intro s c kind f hk hflow hr
  have hc : c < s.cores.length := hr.1.1
  refine ⟨fun hm hf hi hp => ?runs, fun st h => ?stops⟩
  case runs =>
    obtain ⟨g, r, ran⟩ := State.tileRan_tileIssued hc hi kind f (matrixInstr kind f)
    obtain ⟨hregions, hdispatches⟩ := State.tileIssued_others hc kind f (matrixInstr kind f)
    have hexec := exec_matrixRow hk hflow hr []
    rw [tryMma_go hc hm hf hi hp] at hexec
    refine ⟨_, g, r, hexec, ?_⟩
    rw [State.core_carry_go (State.lt_of_inflight ran.inflight)]
    refine ⟨ran.inflight, ran.instr, ran.readX, ran.stop, ran.redo, ?rerun, ran.recs, ?m, ?n, ran.isRecord.mode, ran.isRecord.flow,
      ran.isRecord.fmtA, ran.isRecord.fmtB, ran.isRecord.vm, ran.isRecord.vn, ran.isRecord.start, ran.kcount, ran.split, ran.x, ran.slots,
      ?pc, hdispatches, hregions, ?frame⟩
    case rerun =>
      intro hnot
      by_contra hrerun
      obtain ⟨hkind, hstart, hsb⟩ := ran.rerun (Bool.eq_true_of_not_eq_false hrerun)
      tauto
    case m => simpa only [tileM, beq_iff_eq] using show r.m = tileM f from ran.isRecord.m
    case n => simpa only [tileN, beq_iff_eq] using show r.n = tileN f from ran.isRecord.n
    case pc => simp only [Core.advance, ran.loops]
    case frame =>
      rintro rfl hu
      obtain ⟨cores, ledger, fresh, dispatches, h⟩ := State.tileIssued_frame_dense hc hu (matrixInstr 0 f)
      rw [h]
      rfl
  case stops =>
    have hexec := exec_matrixRow hk hflow hr []
    rw [tryMma_fail h] at hexec
    obtain ⟨hcore, hframe⟩ := State.carry_fail hr.1 st 0 0
    exact ⟨_, hexec, by rw [hcore], by rw [hcore], by rw [hcore], hframe⟩

end Sys2Proof.Machine
end

section
/-! Bytes in rows: fields of packed numbers (R61, R62), slots inside a run of bytes, and runs read back from a memory. -/
namespace Sys2Proof

/-- The bytes of a number from an offset on. -/
theorem take_drop_leBytes {n o k : Nat} (h : o + k ≤ n) (v : Nat) : ((leBytes n v).drop o).take k = leBytes k (v / 2 ^ (8 * o)) := by
  obtain ⟨r, rfl⟩ := Nat.exists_eq_add_of_le h
  rw [Nat.add_assoc, leBytes_add, List.drop_left' (length_leBytes _ _), leBytes_add, List.take_left' (length_leBytes _ _)]

/-- A field of a packed number. -/
theorem packBits_field (w : Nat) : ∀ (l : List Nat) (j : Nat) (h : j < l.length), packBits w l / 2 ^ (w * j) % 2 ^ w = l[j] % 2 ^ w
  | e :: r, 0, _ => by simp [packBits]
  | e :: r, j + 1, h => by
    have hlow : e % 2 ^ w < 2 ^ w := Nat.mod_lt _ (Nat.two_pow_pos w)
    rw [Nat.mul_succ, Nat.add_comm (w * j), Nat.pow_add, ← Nat.div_div_eq_div_mul, packBits, Nat.add_mul_div_left _ _ (Nat.two_pow_pos w),
      Nat.div_eq_of_lt hlow, Nat.zero_add]
    exact packBits_field w r j (by simpa using h)

/-- A field below a number of whole fields is not changed by it. -/
theorem field_add_high (w x p : Nat) {j n : Nat} (h : j < n) : (x * 2 ^ (w * n) + p) / 2 ^ (w * j) % 2 ^ w = p / 2 ^ (w * j) % 2 ^ w := by
  obtain ⟨r, rfl⟩ := Nat.exists_eq_add_of_lt h
  rw [show w * (j + r + 1) = w * j + (w + w * r) by ring, Nat.pow_add, Nat.pow_add,
    show x * (2 ^ (w * j) * (2 ^ w * 2 ^ (w * r))) + p = p + 2 ^ (w * j) * (2 ^ w * (x * 2 ^ (w * r))) by ring,
    Nat.add_mul_div_left _ _ (Nat.two_pow_pos _), Nat.add_mul_mod_self_left]

/-- A run inside a slot of a row of slots of equal size. -/
theorem take_drop_in_slot {α β : Type} {k o n : Nat} (hon : o + n ≤ k) {g : α → List β} (hg : ∀ a, (g a).length = k) (l : List α) (i : Nat)
    (h : i < l.length) : ((l.flatMap g).drop (k * i + o)).take n = ((g l[i]).drop o).take n := by
  have slot := take_drop_flatMap hg [] l i h
  rw [List.append_nil] at slot
  rw [← slot, List.drop_take, List.take_take, Nat.min_eq_left (by omega), List.drop_drop]

/-- A piece of a list that was cut into pieces. -/
theorem getElem?_chunksOf {α : Type} {n : Nat} : ∀ {f i : Nat} {l : List α}, i < f → n * i < l.length →
    (chunksOf n f l)[i]? = some ((l.drop (n * i)).take n)
  | f + 1, 0, l, _, hl => by
    have : l ≠ [] := by rintro rfl; simp at hl
    simp [chunksOf, this]
  | f + 1, i + 1, l, hf, hl => by
    have hne : l ≠ [] := by rintro rfl; simp at hl
    rw [Nat.mul_succ] at hl ⊢
    rw [chunksOf, if_neg (by simpa using hne), List.getElem?_cons_succ, getElem?_chunksOf (by omega) (by rw [List.length_drop]; omega),
      List.drop_drop, Nat.add_comm n]

end Sys2Proof

namespace Sys2Proof.Machine

@[simp] theorem Mem.length_fill : ∀ (n a : Nat) (m : Mem), (Mem.fill n a m).length = n
  | 0, _, _ => rfl
  | n + 1, a, [] => by rw [Mem.fill, List.length_cons, Mem.length_fill]
  | n + 1, a, (k, b) :: r => by
    rw [Mem.fill]
    split <;> rw [List.length_cons, Mem.length_fill]

@[simp] theorem Mem.length_readBytes (m : Mem) (a n : Nat) : (m.readBytes a n).length = n := Mem.length_fill ..

/-- A run inside a run that is read. -/
theorem Mem.take_drop_readBytes {m : Mem} (h : m.wf = true) {o n k : Nat} (hk : o + k ≤ n) (a : Nat) :
    ((m.readBytes a n).drop o).take k = m.readBytes (a + o) k := by
  rw [Mem.readBytes_eq h, Mem.readBytes_eq h]
  refine List.ext_getElem (by simp; omega) fun i h1 h2 => ?_
  simp [Nat.add_assoc]

/-- A run inside a run that was written is read back. -/
theorem Mem.readBytes_writeBytes_within {m : Mem} (h : m.wf = true) {bs : List Byte} {o k : Nat} (hk : o + k ≤ bs.length) (a : Nat) :
    (m.writeBytes a bs).readBytes (a + o) k = (bs.drop o).take k := by
  rw [← Mem.take_drop_readBytes (Mem.wf_writeBytes h a bs) hk, Mem.readBytes_writeBytes h]

/-- The words of a run that is read, cut into words of `w` bytes. -/
theorem Mem.getElem?_words {m : Mem} (h : m.wf = true) {w n f i : Nat} (hf : i < f) (hw : 0 < w) (hn : w * i + w ≤ n) (a : Nat) :
    ((chunksOf w f (m.readBytes a n)).map ofLe)[i]? = some (m.readLe (a + w * i) w) := by
  rw [List.getElem?_map, getElem?_chunksOf hf (by rw [Mem.length_readBytes]; omega), Mem.take_drop_readBytes h hn]
  rfl

/-- A canonical memory cut at an address and moved down is canonical. -/
theorem Mem.wf_rebase {m : Mem} (h : m.wf = true) (lo hi : Nat) :
    Mem.wf ((m.filter (fun c => lo ≤ c.1 && c.1 < hi)).map (fun c => (c.1 - lo, c.2))) = true := by
  have hcut := (Mem.wf_iff _).1 (Mem.wf_filter h (fun c => lo ≤ c.1 && c.1 < hi))
  rw [Mem.wf_iff]
  refine ⟨List.pairwise_map.2 (hcut.1.imp_of_mem fun {a b} ha _ hab => ?_), fun c hc => ?_⟩
  · have hlo := (List.mem_filter.1 ha).2
    simp only [Bool.and_eq_true, decide_eq_true_eq] at hlo
    simp only
    omega
  · obtain ⟨x, hx, rfl⟩ := List.mem_map.1 hc
    exact hcut.2 x hx

end Sys2Proof.Machine
end

section
/-! EWISE CHAIN, REDUCE and REDUCE_SPLITK (R375 to R377): what they leave in their core, and what they leave alone. -/
namespace Sys2Proof.Machine

/-! ## Writes into the carrel -/

/-- A tile written changes the carrel, its tags and the note of how far objects were drained. -/
theorem Core.putTile_frame (k : Core) (sh : Nat) (q : Quant) (vw vr : Nat) :
    ∃ carrel tags drained, k.putTile sh q vw vr = { k with carrel := carrel, tags := tags, drained := drained } := ⟨_, _, _, rfl⟩

/-- So does a flow put into the carrel, with its side outputs. -/
theorem Core.putFlow_frame (k : Core) (dsh : Nat) (st : List Stage) (f : Flow) (scale : Nat) :
    ∃ carrel tags drained, (k.putFlow dsh st f scale).1 = { k with carrel := carrel, tags := tags, drained := drained } := by
  unfold Core.putFlow
  dsimp only
  obtain ⟨carrel, tags, drained, h⟩ : ∃ carrel tags drained, f.sides.foldl
      (fun c p => c.putRecord p.1.shelf p.1.line (bits p.1.op 2 0) p.2) k = { k with carrel := carrel, tags := tags, drained := drained } :=
    foldl_keeps (P := fun t : Core => ∃ carrel tags drained, t = { k with carrel := carrel, tags := tags, drained := drained })
      (by rintro _ p ⟨_, _, _, rfl⟩; exact ⟨_, _, _, rfl⟩) _ k ⟨_, _, _, rfl⟩
  rw [h]
  obtain ⟨carrel, tags, drained, h⟩ := Core.putTile_frame { k with carrel := carrel, tags := tags, drained := drained } dsh
    (f.quantise st scale) (if st.any (fun x => x.cls == 8) then f.vm else f.vn) (if st.any (fun x => x.cls == 8) then f.vn else f.vm)
  exact ⟨carrel, tags, drained, h⟩

/-! ## The step past an instruction that writes shelves -/

/-- An issue that puts core `k` in place, after the committed runs in its shelves, and notes flags. -/
def State.issueCore (s : State) (c : Nat) (shs : List Nat) (k : Core) (flags : Nat) : State :=
  ((s.reuse c shs).updCore c (fun _ => k)).noteFlags c flags 0 0 0

section
variable {s : State} {c : Nat}

/-- What such an issue leaves of its core: `k` with its flags noted and moved on. -/
theorem State.core_carry_issueCore (hc : c < s.cores.length) (shs : List Nat) (k : Core) (flags : Nat) :
    (s.carry c (.go (s.issueCore c shs k flags))).core c =
      { { k with held := k.held.map (Held.note flags 0 0 0) }.advance (s.core c).pc with wait := none } := by
  have hlen : c < (s.reuse c shs).cores.length := by rwa [State.reuse_cores]
  rw [State.core_carry_go (by rw [State.issueCore, State.noteFlags_cores_length, State.updCore_cores_length]; exact hlen), State.issueCore,
    State.core_noteFlags _ _ _ _ _ _ (by rw [State.updCore_cores_length]; exact hlen), State.core_updCore_self _ _ _ hlen]

/-- Where no committed run lies in the carrel, such an issue changes cores and dispatches only. -/
theorem State.carry_issueCore_frame (h : NoRuns s c) (shs : List Nat) (k : Core) (flags : Nat) :
    let u := s.carry c (.go (s.issueCore c shs k flags))
    u = { s with cores := u.cores, dispatches := u.dispatches } := by
  rw [State.issueCore, State.reuse_of_noRuns h, State.noteFlags_frame]
  rfl

end

/-! ## EWISE CHAIN (R375) -/

/-- On an idle core nothing waits for the drain unit. -/
theorem Core.drainWaits_idle {k : Core} (h : k.inflight = []) (shs : List Nat) : k.drainWaits shs = false := by
  simp [Core.drainWaits, Core.drainWrites, h]

/-- The values of a DATA object on their way through a chain without an output scale. -/
def State.chainFlow (s : State) (c src xr : Nat) (st : List Stage) (t : Tag) : Flow :=
  ({ vals := (List.range t.e1).map (fun r => (dataRow ((s.core c).objMem src t) t r).map (fun e => e.toF32 t.fmt)), vm := t.e1, vn := t.e0,
     skipped := [], row0 := bits ((s.core c).xr xr).toNat 31 0, col0 := bits ((s.core c).xr xr).toNat 63 32, unit := 128, flags := 0,
     sides := [] } : Flow).run st 0 (s.polyOf (s.core c)) ((s.core c).vecTable t.e1 t.e0)

/-- The shelves that a chain reads: the object's and those of its stages' operands. -/
def Core.chainReads (k : Core) (src : Nat) (st : List Stage) (t : Tag) : List Nat :=
  k.span src t ++ st.filterMap (fun g => if g.axis == 0 then none else some g.shelf)

/-- What an EWISE CHAIN asks on an idle core, of the DATA object `t` and of the stages `st` of its chain, none of which preloads or sends. -/
structure ChainChecks (s : State) (c src dst chn : Nat) (t : Tag) (st : List Stage) : Prop where
  stages : stagesOf (s.chainOf (s.core c) chn) = st
  object : (s.core c).object (s.limitOf c) src = .inl t
  role : t.role = 0
  fmt : isElemFmt t.fmt = true
  cls : ∀ g ∈ st, g.cls ≠ 2 ∧ g.cls ≠ 9
  operands : (s.core c).chainFault (s.limitOf c) st = none
  bounds : ∀ p ∈ outShelves st t.e1 t.e0 128 dst, p.1 + p.2 ≤ s.limitOf c
  idle : (s.core c).inflight = []

/-- An EWISE CHAIN that passes its checks on an idle core, along a chain without a send stage, is issued. -/
theorem doChain_go {s : State} {c src dst chn xr : Nat} {t : Tag} {st : List Stage}
    (h : ChainChecks s c src dst chn t st) :
    let i := TileInstr.ewiseChain src dst chn xr
    let p := (s.core c).putFlow dst st (s.chainFlow c src xr st t) 0
    let outs := shelfList (outShelves st t.e1 t.e0 128 dst)
    ∃ lfsr, doChain c s i = .go (s.issueCore c outs
      { p.1.launch (p.1.flight i ((s.core c).chainReads src st t) outs (drainCycles st t.e1 t.e0)) with lfsr := lfsr } p.2) := by
  have hsend : st.find? (fun g => g.cls == 9) = none := List.find?_eq_none.2 fun g hg => by simpa using (h.cls g hg).2
  have hload : st.any (fun g => g.cls == 2) = false := List.any_eq_false.2 fun g hg => by simpa using (h.cls g hg).1
  have hbounds : (outShelves st t.e1 t.e0 128 dst).any (fun p => p.1 + p.2 > s.limitOf c) = false :=
    List.any_eq_false.2 fun p hp => by simpa using h.bounds p hp
  have hst := h.stages
  subst hst
  unfold doChain
  dsimp only
  rw [h.object]
  dsimp only
  rw [if_neg (by simp [h.role, roleData]), if_neg (by simp [h.fmt]), if_neg (by simp [hload]), h.operands]
  dsimp only
  rw [if_neg (by simp only [hbounds]; decide), hsend]
  dsimp only [Option.map_none]
  rw [if_neg (by simp [Core.drainWaits_idle h.idle]), if_neg (by simp [Core.unitBusy_idle h.idle])]
  split
  · exact ⟨_, rfl⟩
  · exact ⟨_, rfl⟩

/-- What an EWISE CHAIN without a send stage leaves: what the flow puts into the carrel, the instruction issued, and the rest alone. -/
theorem exec_ewiseChain {s : State} {c src dst chn xr : Nat} {t : Tag} {st : List Stage} (hr : RunsIn s c (.ewiseChain src dst chn xr))
    (h : ChainChecks s c src dst chn t st) (hruns : NoRuns s c) :
    let k1 := ((s.core c).putFlow dst st (s.chainFlow c src xr st t) 0).1
    ∃ u q, exec (.ewiseChain c) s = .next u ∧ (u.core c).carrel = k1.carrel ∧ (u.core c).tags = k1.tags ∧ (u.core c).inflight = [q] ∧
      q.instr = .ewiseChain src dst chn xr ∧ (u.core c).recs = (s.core c).recs ∧ (u.core c).acc = (s.core c).acc ∧
      (u.core c).pc = (advanceFrom (s.core c).pc (s.core c).loops).1 ∧ u = { s with cores := u.cores, dispatches := u.dispatches } := by
  intro k1
  obtain ⟨lfsr, hgo⟩ := doChain_go (xr := xr) h
  obtain ⟨carrel, tags, drained, hk1⟩ := (s.core c).putFlow_frame dst st (s.chainFlow c src xr st t) 0
  have hexec : exec (.ewiseChain c) s = _ := State.tryIssue_runs hr (fun i => match i with | .ewiseChain .. => true | _ => false) rfl (doChain c)
  rw [hgo] at hexec
  refine ⟨_, k1.flight (.ewiseChain src dst chn xr) ((s.core c).chainReads src st t) (shelfList (outShelves st t.e1 t.e0 128 dst))
    (drainCycles st t.e1 t.e0), hexec, ?_⟩
  rw [State.core_carry_issueCore hr.1.1]
  have inflight : k1.inflight = [] := (congrArg Core.inflight hk1).trans h.idle
  have recs : k1.recs = (s.core c).recs := by rw [show k1 = _ from hk1]
  have acc : k1.acc = (s.core c).acc := by rw [show k1 = _ from hk1]
  have loops : k1.loops = (s.core c).loops := by rw [show k1 = _ from hk1]
  exact ⟨rfl, rfl, congrArg (· ++ _) inflight, rfl, recs, acc, congrArg (fun l => (advanceFrom _ l).1) loops,
    State.carry_issueCore_frame hruns ..⟩

end Sys2Proof.Machine
end

section
/-! FP32 values written as rows of a DATA object (R305, R317, R356). -/
namespace Sys2Proof.Machine

/-! ## FP32 encodings -/

/-- The value of an FP32 encoding. -/
theorem fp32_decode (w : Nat) : fp32.decode w =
    if bits w 30 23 = 255 then (if bits w 22 0 = 0 then .inf (bit w 31) else .nan)
    else if bits w 30 23 = 0 then .fin (bit w 31) (bits w 22 0) (-149)
    else .fin (bit w 31) (2 ^ 23 + bits w 22 0) (bits w 30 23 - 150) := by
  have hbias : (bits w 30 23 : Int) - 127 - 23 = bits w 30 23 - 150 := by ring
  simp [FFmt.decode, fp32, hbias]

/-- A finite FP32 value has at most 24 bits of mantissa, and an exponent within the format's. -/
theorem fp32_decode_fin {w m : Nat} {neg : Bool} {e : Int} (h : fp32.decode w = .fin neg m e) : m < 2 ^ 24 ∧ -149 ≤ e ∧ e ≤ 104 := by
  have hfrac : bits w 22 0 < 2 ^ 23 := Nat.mod_lt _ (by decide)
  have hexp : bits w 30 23 < 2 ^ 8 := Nat.mod_lt _ (by decide)
  rw [fp32_decode] at h
  split at h
  next => split at h <;> cases h
  next hmax =>
    split at h
    all_goals
      injection h with _ hm he
      omega

/-- A finite FP32 value is its own rounding to FP32: its mantissa stays within 24 bits, and its unit within the format's. -/
theorem fp32_round_bounds {m r : Nat} {e q : Int} (hm : m < 2 ^ 24) (he : -149 ≤ e) (he' : e ≤ 104) (h : fp32.round .rne m e = some (r, q)) :
    r < 2 ^ 24 ∧ q ≤ 104 := by
  unfold FFmt.round at h
  split at h
  next => injection h with h; cases h; decide
  next hne =>
    have hpos : m ≠ 0 := by simpa using hne
    have hlog : Nat.log2 m ≤ 23 := by have := (Nat.log2_lt hpos).2 hm; omega
    have hunit : fp32.unit m e ≤ e ∧ e - fp32.unit m e ≤ 23 - Nat.log2 m := by
      simp only [FFmt.unit, fp32]
      omega
    dsimp only at h
    split at h
    next => cases h
    next =>
      injection h with h
      injection h with hr hq
      subst hr hq
      refine ⟨?_, by omega⟩
      rw [roundMag, if_pos hunit.1]
      calc m * 2 ^ (e - fp32.unit m e).toNat
          < 2 ^ (Nat.log2 m + 1) * 2 ^ (23 - Nat.log2 m) :=
            Nat.mul_lt_mul_of_lt_of_le Nat.lt_log2_self (Nat.pow_le_pow_right (by decide) (by omega)) (by positivity)
        _ = 2 ^ 24 := by rw [← Nat.pow_add]; congr 1; omega

/-- The encoding of such a magnitude leaves the sign bit free. -/
theorem fp32_encMag_lt {r : Nat} {q : Int} (hr : r < 2 ^ 24) (hq : q ≤ 104) : fp32.encMag r q < 2 ^ 31 := by
  have hlow := Nat.mod_lt r (show 0 < 2 ^ 23 by decide)
  have hexp : (q + (23 : Nat) + (127 : Nat)).toNat ≤ 254 := by omega
  unfold FFmt.encMag
  split
  next => decide
  next =>
    by_cases hsub : r < 2 ^ 23
    · rw [if_pos (show r < 2 ^ fp32.mb from hsub)]
      omega
    · rw [if_neg (show ¬ r < 2 ^ fp32.mb from hsub), if_neg (show ¬ r ≥ 2 ^ (fp32.mb + 1) by simpa [fp32] using hr)]
      show (q + (23 : Nat) + (127 : Nat)).toNat * 2 ^ 23 + r % 2 ^ 23 < 2 ^ 31
      omega

/-- An FP32 value converted to FP32 is an encoding of 32 bits. -/
theorem convert_fp32_lt (w : W32) : (convert 0x0A true .rne (fv w)).1 < 2 ^ 32 := by
  have hsign : ∀ s, fp32.sign s ≤ 2 ^ 31 := by decide
  unfold fv convert
  simp only [show ffmtOf 0x0A = some fp32 from rfl]
  split
  next => decide
  next s _ => exact lt_of_le_of_lt (Nat.add_le_add_right (hsign s) _) (by decide)
  next s m e hv =>
    obtain ⟨hm, he, he'⟩ := fp32_decode_fin hv
    split
    next r q hr =>
      obtain ⟨hr, hq⟩ := fp32_round_bounds hm he he' hr
      refine lt_of_le_of_lt (Nat.add_le_add_right (hsign s) _) ?_
      have := fp32_encMag_lt hr hq
      omega
    next =>
      rw [if_pos (by decide)]
      exact lt_of_le_of_lt (Nat.add_le_add_right (hsign s) _) (by decide)

end Sys2Proof.Machine
end

section
namespace Sys2Proof.Machine

/-! ## Rows of FP32 elements (R317, R356) -/

/-- The line of a row of FP32 elements. -/
theorem dataLine_fp32 (n : Nat) : dataLine 0x0A n false = roundUp (4 * n) 64 := by
  have : ceilDiv (n * 32) 8 = 4 * n := by unfold ceilDiv; omega
  simp [dataLine, rowBytes, packedBytes, isFp6, widthOf, this]

theorem le_roundUp_64 (n : Nat) : n ≤ roundUp n 64 := by
  unfold roundUp ceilDiv
  omega

/-- A row written over its old bytes keeps their number. -/
@[simp] theorem length_mergeRow_fp32 (old : List Byte) (row : List Elem) : (mergeRow 0x0A false old row).length = old.length := by
  unfold mergeRow
  split
  · rfl
  · simp

/-- An element of a row of FP32 elements that was written over a line. -/
theorem ofLe_mergeRow_fp32 {old : List Byte} {row : List Elem} (hlen : 4 * row.length ≤ old.length) {j : Nat} (hj : j < row.length) :
    ofLe (((mergeRow 0x0A false old row).drop (4 * j)).take 4) = row[j].raw % 2 ^ 32 := by
  have hne : row ≠ [] := by rintro rfl; simp at hj
  have hfield : ∀ x : Nat, (x * 2 ^ (32 * row.length) + packBits 32 (row.map Elem.raw)) / 2 ^ (32 * j) % 2 ^ 32 = row[j].raw % 2 ^ 32 := by
    intro x
    rw [field_add_high 32 _ _ hj, packBits_field 32 _ j (by simpa using hj), List.getElem_map]
  simp only [mergeRow, List.isEmpty_iff, hne, widthOf, Bool.false_eq_true, if_false]
  rw [take_drop_leBytes (by omega), ofLe_leBytes, show 8 * (4 * j) = 32 * j by ring]
  exact hfield _

/-- The tag of the first of the shelves that are tagged. -/
theorem lookupK_tagShelves {α : Type} (sh : Nat) (v : α) (l : List (Nat × α)) :
    ∀ n, lookupK sh ((List.range (n + 1)).foldl (fun l i => insertK (sh + i) v l) l) = some v
  | 0 => lookupK_insertK_self sh v l
  | n + 1 => by
    rw [List.range_succ, List.foldl_append, List.foldl_cons, List.foldl_nil, lookupK_insertK_ne _ _ _ _ (by omega)]
    exact lookupK_tagShelves sh v l n

/-- A written object's first shelf has its tag (R339). -/
theorem Core.tag_writeObject (k : Core) (sh : Nat) (t : Tag) (bytes : List Byte) :
    (k.writeObject sh t bytes).tag sh = { t with first := sh } := by
  obtain ⟨n, hn⟩ : ∃ n, shelvesFor bytes.length = n + 1 :=
    Nat.exists_eq_add_of_le' (Nat.le_max_left 1 (ceilDiv bytes.length shelfBytes))
  simp only [Core.tag, lookupD, Core.writeObject, hn, lookupK_tagShelves, Option.getD_some]

/-- The tag of the object that a quantised tile becomes. -/
def Quant.tag (q : Quant) (sh : Nat) : Tag := ⟨q.rows.length, q.e0, sh, 0, 0, roleData, false, q.sb, q.fmt, q.us, 0⟩

/-- A tile's first shelf has the tag of its object (R317, R339). -/
theorem Core.tag_putTile (k : Core) (sh : Nat) (q : Quant) (vw vr : Nat) : (k.putTile sh q vw vr).tag sh = q.tag sh :=
  Core.tag_writeObject k sh (q.tag sh) _

/-- The line that a row of a tile of FP32 elements becomes, over what stood there. -/
def Core.fp32Line (k : Core) (sh : Nat) (q : Quant) (x : List Elem × Nat) : List Byte :=
  mergeRow 0x0A false ((k.objMem sh (q.tag sh)).readBytes (x.2 * roundUp (4 * q.e0) 64) (roundUp (4 * q.e0) 64)) x.1

@[simp] theorem Core.length_fp32Line (k : Core) (sh : Nat) (q : Quant) (x : List Elem × Nat) :
    (k.fp32Line sh q x).length = roundUp (4 * q.e0) 64 := by simp [Core.fp32Line]

/-- A tile of FP32 elements is written line by line (R317). -/
theorem Core.putTile_carrel_fp32 (k : Core) (sh : Nat) {q : Quant} (vw vr : Nat) (hfmt : q.fmt = 0x0A) (hsb : q.sb = 0) :
    (k.putTile sh q vw vr).carrel = k.carrel.writeBytes (sh * 16384) (q.rows.zipIdx.flatMap (k.fp32Line sh q)) := by
  unfold Core.fp32Line
  rw [← dataLine_fp32]
  simp [Core.putTile, Core.writeObject, Quant.tag, hfmt, hsb, shelfBytes]

/-- An element of a tile of FP32 elements, read from the carrel. -/
theorem Core.readLe_putTile_fp32 {k : Core} (hwf : k.carrel.wf = true) (sh : Nat) {q : Quant} (vw vr : Nat) (hfmt : q.fmt = 0x0A) (hsb : q.sb = 0)
    {i j : Nat} (hi : i < q.rows.length) (hlen : q.rows[i].length = q.e0) (hj : j < q.rows[i].length) :
    (k.putTile sh q vw vr).carrel.readLe (sh * 16384 + i * roundUp (4 * q.e0) 64 + 4 * j) 4 = q.rows[i][j].raw % 2 ^ 32 := by
  have hline := le_roundUp_64 (4 * q.e0)
  have htotal : (q.rows.zipIdx.flatMap (k.fp32Line sh q)).length = q.rows.length * roundUp (4 * q.e0) 64 := by
    simp [List.length_flatMap]
  have hin : i * roundUp (4 * q.e0) 64 + roundUp (4 * q.e0) 64 ≤ q.rows.length * roundUp (4 * q.e0) 64 := by
    rw [← Nat.succ_mul]; exact Nat.mul_le_mul_right _ hi
  rw [Core.putTile_carrel_fp32 k sh vw vr hfmt hsb, Mem.readLe, Nat.add_assoc, Mem.readBytes_writeBytes_within hwf (by rw [htotal]; omega),
    Nat.mul_comm i, take_drop_in_slot (by omega) (k.length_fp32Line sh q) _ i (by simpa using hi), List.getElem_zipIdx]
  exact ofLe_mergeRow_fp32 (by rw [Mem.length_readBytes]; omega) hj

/-! ## Tiles quantised without a quantisation stage (R305) -/

/-- A row of FP32 values as elements. -/
def fp32Row (l : List W32) : List Elem := l.map fun v => ⟨(convert 0x0A true .rne (fv v)).1, 127⟩

@[simp] theorem length_fp32Row (l : List W32) : (fp32Row l).length = l.length := List.length_map ..

theorem quantRow_none (n v : Nat) (row : List (W32 × RMode)) :
    (quantRow none n false v row).1 = fp32Row ((row.take v).map Prod.fst) := by simp [quantRow, fp32Row, Function.comp_def]

/-- A tile whose rows are all valid and of one length becomes a tile of FP32 elements, where no stage quantises or transposes it. -/
theorem Flow.quantise_whole {f : Flow} {st : List Stage} (hcls : ∀ g ∈ st, g.cls ≠ 7 ∧ g.cls ≠ 8) (hm : f.vm = f.vals.length)
    (hskip : f.skipped = []) (hrow : ∀ r ∈ f.vals, r.length = f.vn) (s : Nat) :
    let q := f.quantise st s
    q.fmt = 0x0A ∧ q.sb = 0 ∧ q.us = 0 ∧ q.e0 = (f.vals.head?.map List.length).getD 0 ∧ q.rows = f.vals.map fp32Row := by
  have hquant : st.find? (fun x => x.cls == 7) = none := List.find?_eq_none.2 fun g hg => by simpa using (hcls g hg).1
  have htrans : st.any (fun x => x.cls == 8) = false := List.any_eq_false.2 fun g hg => by simpa using (hcls g hg).2
  unfold Flow.quantise
  simp only [hquant, htrans]
  refine ⟨rfl, rfl, rfl, rfl, ?_⟩
  simp only [Bool.false_and, Bool.false_eq_true, if_false]
  refine List.ext_getElem (by simp [drawModes]) fun i h1 h2 => ?_
  have hi : i < f.vals.length := by simpa using h2
  have hn : (f.vals.head?.map List.length).getD 0 = f.vn := by
    cases hv : f.vals with
    | nil => simp [hv] at hi
    | cons r rs => simpa using hrow r (by simp [hv])
  have hlen : f.vals[i].length = f.vn := hrow _ (List.getElem_mem hi)
  have hvals : (f.vals[i].zip (List.replicate f.vn RMode.rne)).map Prod.fst = f.vals[i] := List.map_fst_zip (by simp [hlen])
  simp only [List.getElem_map, List.getElem_zipIdx, List.getElem_zipWith, drawModes, List.getElem_replicate, hn, hskip, Nat.zero_add, hm, if_pos hi,
    List.contains_nil, quantRow_none, List.map_take, hvals]
  rw [← hlen, List.take_length]

end Sys2Proof.Machine
end

section
namespace Sys2Proof.Machine

/-! ## Rows of a DATA object (R356) -/

theorem length_unpackBits (w : Nat) : ∀ n v, (unpackBits w n v).length = n
  | 0, _ => rfl
  | n + 1, v => by rw [unpackBits, List.length_cons, length_unpackBits w n]

theorem length_unpackElems (c n : Nat) (b : List Byte) : (unpackElems c n b).length = n := length_unpackBits ..

/-- A list of whole pieces is cut into them all. -/
theorem length_chunksOf {α : Type} {n : Nat} (hn : 0 < n) : ∀ {f : Nat} {l : List α}, l.length = f * n → (chunksOf n f l).length = f
  | 0, _, _ => rfl
  | f + 1, l, hl => by
    have hne : l ≠ [] := by rintro rfl; simp at hl; omega
    rw [chunksOf, if_neg (by simpa using hne), List.length_cons, length_chunksOf hn (by rw [List.length_drop, hl, Nat.succ_mul]; omega)]

/-- The bytes of a row hold as many elements as the row has. -/
theorem length_bytesToRow {c n : Nat} {inter : Bool} {b : List Byte} (us : Nat) (hb : b.length = rowBytes c n inter) :
    (bytesToRow c inter us n b).length = n := by
  unfold bytesToRow
  cases inter with
  | false => simp [length_unpackElems]
  | true =>
    have hblocks : (chunksOf (blockBytes c) (ceilDiv n 32) b).length = ceilDiv n 32 := length_chunksOf (by unfold blockBytes; omega) hb
    have hcover : n ≤ ceilDiv n 32 * 32 := by unfold ceilDiv; omega
    simp [List.length_flatMap, length_unpackElems, hblocks, hcover]

theorem length_dataRow (m : Mem) (t : Tag) (q : Nat) : (dataRow m t q).length = t.e0 :=
  length_bytesToRow _ (Mem.length_readBytes ..)

/-! ## A chain of one ReLU stage (R309) -/

/-- ReLU of a value. -/
def relu (v : W32) : W32 := if (fv v).isNan then fNan else if fLt f0 v then v else f0

/-- A chain of one ReLU stage turns every value into its ReLU. -/
theorem Flow.run_relu (f : Flow) {g : Stage} (hcls : g.cls = 3) (hop : g.op = 0) (tabs : Nat → List Nat) (vec : Stage → Array (Array W32)) :
    f.run [g] 0 tabs vec = { f with vals := f.vals.map (List.map relu) } := by
  have hval : ∀ w v, stageVal g (tabs g.aux) w v = relu v := fun w v => by simp [stageVal, activate, relu, hcls, hop]
  have hmap : f.vals.zipIdx.map (fun r => r.1.zipIdx.map (fun c => relu c.1)) = f.vals.map (List.map relu) :=
    List.ext_getElem (by simp) fun i _ _ => List.ext_getElem (by simp) fun j _ _ => by simp
  simp [Flow.run, Flow.stage, Flow.applyScale, carries, hcls, hval, hmap]

/-! ## EWISE CHAIN of one ReLU stage (R375) -/

/-- Of what an EWISE CHAIN of one ReLU stage writes: the ReLU of each value as FP32, and the tag of the object. -/
theorem Core.putFlow_relu {k : Core} (hwf : k.carrel.wf = true) (dst : Nat) {g : Stage} (hcls : g.cls = 3) {f : Flow} (hskip : f.skipped = [])
    (hsides : f.sides = []) (hm : f.vm = f.vals.length) (hrow : ∀ r ∈ f.vals, r.length = f.vn) :
    (∀ i j e l, f.vals[i]? = some l → l[j]? = some e →
      (k.putFlow dst [g] f 0).1.carrel.readLe (dst * 16384 + i * roundUp (4 * f.vn) 64 + 4 * j) 4 = (convert 0x0A true .rne (fv e)).1) ∧
    (0 < f.vm → (k.putFlow dst [g] f 0).1.tag dst = ⟨f.vm, f.vn, dst, 0, 0, 0, false, 0, 0x0A, 0, 0⟩) := by
  obtain ⟨hfmt, hsb, hus, he0, hrows⟩ := Flow.quantise_whole (f := f) (st := [g]) (by simp [hcls]) hm hskip hrow 0
  have he : 0 < f.vals.length → (f.quantise [g] 0).e0 = f.vn := by
    intro hpos
    cases hv : f.vals with
    | nil => simp [hv] at hpos
    | cons r rs => rw [he0, hv]; exact hrow r (by simp [hv])
  have hput : (k.putFlow dst [g] f 0).1 = k.putTile dst (f.quantise [g] 0) f.vn f.vm := by
    simp [Core.putFlow, hsides, List.any, hcls]
  rw [hput]
  constructor
  · intro i j e l hl hj
    obtain ⟨hi, rfl⟩ := List.getElem?_eq_some_iff.1 hl
    obtain ⟨hlt, rfl⟩ := List.getElem?_eq_some_iff.1 hj
    have hlen := hrow _ (List.getElem_mem hi)
    have hvn := he (by omega)
    have hread := Core.readLe_putTile_fp32 hwf dst (q := f.quantise [g] 0) f.vn f.vm hfmt hsb (i := i) (j := j) (by simpa [hrows] using hi)
      (by simp [hrows, hvn, hlen]) (by simp only [hrows, List.getElem_map, length_fp32Row, hlt])
    rw [hvn] at hread
    rw [hread]
    simp only [hrows, fp32Row, List.getElem_map]
    exact Nat.mod_eq_of_lt (convert_fp32_lt _)
  · intro hpos
    rw [Core.tag_putTile, Quant.tag, he (by omega), hsb, hfmt, hus, hrows, List.length_map, hm]
    rfl

/-- The values that a chain of one ReLU stage makes of a DATA object. -/
theorem State.chainFlow_relu (s : State) (c src xr : Nat) {g : Stage} (t : Tag) (hcls : g.cls = 3) (hop : g.op = 0) :
    let f := s.chainFlow c src xr [g] t
    f.vals = (List.range t.e1).map (fun r => (dataRow ((s.core c).objMem src t) t r).map (fun e => relu (e.toF32 t.fmt))) ∧
      f.vm = t.e1 ∧ f.vn = t.e0 ∧ f.skipped = [] ∧ f.sides = [] := by
  rw [State.chainFlow, Flow.run_relu _ hcls hop]
  simp [Function.comp_def]

/-- What an EWISE CHAIN of one ReLU stage leaves, by `exec_ewiseChain`, and what it writes. -/
theorem exec_ewiseChain_relu {s : State} {c src dst chn xr : Nat} {t : Tag} {g : Stage} (hr : RunsIn s c (.ewiseChain src dst chn xr))
    (hchain : s.chainOf (s.core c) chn = some ⟨false, [g]⟩) (hcls : g.cls = 3) (hop : g.op = 0)
    (hobj : (s.core c).object (s.limitOf c) src = .inl t) (hrole : t.role = 0) (hfmt : isElemFmt t.fmt = true)
    (hbounds : dst + shelvesFor (t.e1 * roundUp (4 * t.e0) 64) ≤ s.limitOf c) (hidle : (s.core c).inflight = []) (hruns : NoRuns s c)
    (hwf : (s.core c).carrel.wf = true) :
    ∃ u q, exec (.ewiseChain c) s = .next u ∧
      (∀ i j e, i < t.e1 → (dataRow ((s.core c).objMem src t) t i)[j]? = some e →
        (u.core c).carrel.readLe (dst * 16384 + i * roundUp (4 * t.e0) 64 + 4 * j) 4 = (convert 0x0A true .rne (fv (relu (e.toF32 t.fmt)))).1) ∧
      (0 < t.e1 → (u.core c).tag dst = ⟨t.e1, t.e0, dst, 0, 0, 0, false, 0, 0x0A, 0, 0⟩) ∧
      (u.core c).inflight = [q] ∧ q.instr = .ewiseChain src dst chn xr ∧ (u.core c).recs = (s.core c).recs ∧
      (u.core c).acc = (s.core c).acc ∧ (u.core c).pc = (advanceFrom (s.core c).pc (s.core c).loops).1 ∧
      u = { s with cores := u.cores, dispatches := u.dispatches } := by
  have haxis : g.axis = 0 := by simp [Stage.axis, hcls]
  have hout : ∀ p ∈ outShelves [g] t.e1 t.e0 128 dst, p.1 + p.2 ≤ s.limitOf c := by
    simpa [outShelves, sideShelves, outTag, Tag.bytes, roleData, hcls, Tag.none, Tag.inter, dataLine_fp32] using hbounds
  obtain ⟨u, q, hexec, hcarrel, htags, hrest⟩ := exec_ewiseChain hr
    ⟨by rw [hchain]; rfl, hobj, hrole, hfmt, by simp [hcls], by simp [Core.chainFault, haxis], hout, hidle⟩ hruns
  obtain ⟨hvals, hvm, hvn, hskip, hsides⟩ := s.chainFlow_relu c src xr t hcls hop
  obtain ⟨hreads, htag⟩ := Core.putFlow_relu hwf dst hcls hskip hsides (by simp [hvals, hvm]) (by simp [hvals, hvn, length_dataRow])
  rw [hvals, hvn] at hreads
  rw [hvm, hvn] at htag
  refine ⟨u, q, hexec, fun i j e hi he => ?_, fun hpos => ?_, hrest⟩
  · rw [hcarrel]
    exact hreads i j _ _ (by rw [List.getElem?_map, List.getElem?_range hi, Option.map_some]) (by rw [List.getElem?_map, he, Option.map_some])
  · rw [Core.tag, htags]
    exact htag hpos

end Sys2Proof.Machine
end

section
namespace Sys2Proof.Machine

/-! ## REDUCE (R328, R376) -/

/-- Entry `r` of a record from entry `r` of the inputs of a REDUCE of `n` records. -/
def Core.reduceAt (k : Core) (kind src n : Nat) (t : Tag) (r : Nat) : Nat :=
  let w := if kind = 0 then 4 else 8
  let lines := if kind = 0 then 8 else 16
  reduceEntry kind ((List.range n).map (fun i => (k.objMem src t).readLe (i * lines * 64 + r * w) w))

/-- The bytes of an object in a carrel in canonical form are in canonical form. -/
theorem Core.wf_objMem {k : Core} (h : k.carrel.wf = true) (sh : Nat) (t : Tag) : (k.objMem sh t).wf = true := Mem.wf_rebase h _ _

/-- The record that a REDUCE writes, as its inputs are cut into words. -/
theorem Core.reduceAt_eq {k : Core} (h : k.carrel.wf = true) (kind src n : Nat) (t : Tag) :
    let w := if kind == 0 then 4 else 8
    let lines := if kind == 0 then 8 else 16
    let ins := (List.range n).map (fun i => ((chunksOf w 129 ((k.objMem src t).readBytes (i * lines * 64) (128 * w))).map ofLe).toArray)
    (List.range 128).map (fun r => reduceEntry kind (ins.map (fun a => (a[r]?).getD 0))) = (List.range 128).map (k.reduceAt kind src n t) := by
  intro w lines ins
  have hw : 0 < w := by simp only [w]; split <;> decide
  refine List.map_congr_left fun r hr => ?_
  have hr : r < 128 := List.mem_range.1 hr
  have hin : w * r + w ≤ 128 * w := by rw [← Nat.mul_succ, Nat.mul_comm 128]; exact Nat.mul_le_mul_left _ hr
  simp only [ins, Core.reduceAt, List.map_map, Function.comp_def, List.getElem?_toArray,
    Mem.getElem?_words (Core.wf_objMem h src t) (show r < 129 by omega) hw hin, Option.getD_some, Nat.mul_comm r]
  simp only [w, lines, beq_iff_eq]

/-- A side-output record at line 0 is read back entry by entry. -/
theorem Core.readLe_putRecord {k : Core} (hwf : k.carrel.wf = true) (sh kind : Nat) {es : List Nat} {r : Nat} (hr : r < es.length) :
    (k.putRecord sh 0 kind es).carrel.readLe (sh * 16384 + r * sideBytes kind) (sideBytes kind) = es[r] % 2 ^ (8 * sideBytes kind) := by
  have htotal : (es.flatMap (leBytes (sideBytes kind))).length = es.length * sideBytes kind := by simp [List.length_flatMap]
  have hin : r * sideBytes kind + sideBytes kind ≤ es.length * sideBytes kind := by
    rw [← Nat.succ_mul]; exact Nat.mul_le_mul_right _ hr
  have hcarrel : (k.putRecord sh 0 kind es).carrel = k.carrel.writeBytes (sh * 16384) (es.flatMap (leBytes (sideBytes kind))) := by
    simp [Core.putRecord, shelfBytes]
  have hslot := take_drop_in_slot (o := 0) (n := sideBytes kind) (by omega) (fun v => length_leBytes (sideBytes kind) v) es r hr
  rw [hcarrel, Mem.readLe, Mem.readBytes_writeBytes_within hwf (by rw [htotal]; exact hin), Nat.mul_comm r, ← Nat.add_zero (_ * r), hslot,
    List.drop_zero, List.take_of_length_le (by simp), ofLe_leBytes]

/-- The kind of the record that a REDUCE writes: FP32 entries, or entries of 64 bits. -/
def reduceKind (kind : Nat) : Nat := if kind == 0 then 0 else 2

/-- A core with the record of a REDUCE written. -/
def Core.reduced (k : Core) (kind src dst n : Nat) (t : Tag) : Core :=
  k.putRecord dst 0 (reduceKind kind) ((List.range 128).map (k.reduceAt kind src n t))

/-- An entry of the record of a REDUCE. -/
theorem Core.readLe_reduced {k : Core} (hwf : k.carrel.wf = true) (kind src dst n : Nat) (t : Tag) {r : Nat} (hr : r < 128) :
    let w := if kind = 0 then 4 else 8
    (k.reduced kind src dst n t).carrel.readLe (dst * 16384 + r * w) w = k.reduceAt kind src n t r % 2 ^ (8 * w) := by
  have hside : sideBytes (reduceKind kind) = if kind = 0 then 4 else 8 := by
    simp only [reduceKind, beq_iff_eq]
    split <;> rfl
  have hread := Core.readLe_putRecord hwf dst (reduceKind kind) (r := r) (es := (List.range 128).map (k.reduceAt kind src n t)) (by simpa using hr)
  rw [hside, List.getElem_map, List.getElem_range] at hread
  exact hread

/-- What a REDUCE of some records asks on an idle core. -/
structure ReduceChecks (s : State) (c kind src dst xn : Nat) (t : Tag) : Prop where
  records : 0 < ((s.core c).xr xn).toNat
  object : (s.core c).object (s.limitOf c) src = .inl t
  role : t.role = 0
  fmt : t.fmt = if kind = 0 then 0x0A else 0x11
  sources : src + shelvesFor (((s.core c).xr xn).toNat * (if kind = 0 then 8 else 16) * 64) ≤ s.limitOf c
  result : dst + shelvesFor (128 * (if kind = 0 then 4 else 8)) ≤ s.limitOf c
  tags : ∀ x, src ≤ x → x < src + shelvesFor (((s.core c).xr xn).toNat * (if kind = 0 then 8 else 16) * 64) →
    ((s.core c).tag x).fmt ≠ 0 ∧ ((s.core c).tag x).first = src
  idle : (s.core c).inflight = []

/-- A REDUCE that passes its checks on an idle core is issued. -/
theorem doReduce_go {s : State} {c kind src dst xn : Nat} {t : Tag}
    (h : ReduceChecks s c kind src dst xn t) (hwf : (s.core c).carrel.wf = true) :
    let i := TileInstr.reduce kind src dst xn
    let k1 := (s.core c).reduced kind src dst ((s.core c).xr xn).toNat t
    ∃ reads writes cycles, doReduce c s i = .go ((s.reuse c writes).updCore c (fun _ => k1.launch (k1.flight i reads writes cycles))) := by
  have hlayout : ((List.range (shelvesFor (((s.core c).xr xn).toNat * (if kind == 0 then 8 else 16) * 64))).map (· + src)).any
      (fun x => ((s.core c).tag x).fmt == 0 || ((s.core c).tag x).first != src) = false := by
    simp only [List.any_map, List.any_eq_false, List.mem_range, Function.comp_apply, beq_iff_eq]
    intro x hx
    obtain ⟨hf, hfirst⟩ := h.tags (x + src) (by omega) (by omega)
    simp [hf, hfirst]
  intro i k1
  unfold doReduce
  simp only [i]
  rw [h.object]
  dsimp only
  rw [if_neg (by simpa using Nat.ne_of_gt h.records), if_neg (by simp [h.role, roleData]), if_neg (by simp [h.fmt]),
    if_neg (by simp [shelfList, -mul_ite, -ite_mul, h.sources, h.result]), hlayout, if_neg (by decide),
    if_neg (by simp [Core.drainWaits_idle h.idle]), if_neg (by simp [Core.unitBusy_idle h.idle]), Core.reduceAt_eq hwf]
  exact ⟨_, _, _, rfl⟩

/-- What a REDUCE leaves: the record of its combined entries, the instruction issued, and the rest alone. -/
theorem exec_reduce {s : State} {c kind src dst xn : Nat} {t : Tag} (hr : RunsIn s c (.reduce kind src dst xn))
    (h : ReduceChecks s c kind src dst xn t) (hruns : NoRuns s c) (hwf : (s.core c).carrel.wf = true) :
    let w := if kind = 0 then 4 else 8
    ∃ u g, exec (.reduce c) s = .next u ∧
      (∀ r, r < 128 → (u.core c).carrel.readLe (dst * 16384 + r * w) w =
        (s.core c).reduceAt kind src ((s.core c).xr xn).toNat t r % 2 ^ (8 * w)) ∧
      (u.core c).inflight = [g] ∧ g.instr = .reduce kind src dst xn ∧ (u.core c).pc = (advanceFrom (s.core c).pc (s.core c).loops).1 ∧
      u = { s with cores := u.cores } := by
  intro w
  obtain ⟨reads, writes, cycles, hgo⟩ := doReduce_go h hwf
  have hexec : exec (.reduce c) s = _ := State.tryIssue_runs hr (fun i => match i with | .reduce .. => true | _ => false) rfl (doReduce c)
  rw [hgo, State.reuse_of_noRuns hruns] at hexec
  refine ⟨_, ((s.core c).reduced kind src dst ((s.core c).xr xn).toNat t).flight (.reduce kind src dst xn) reads writes cycles, hexec, ?_⟩
  rw [State.core_carry_go (by rw [State.updCore_cores_length]; exact hr.1.1), State.core_updCore_self _ _ _ hr.1.1]
  exact ⟨fun r hlt => Core.readLe_reduced hwf kind src dst _ t hlt, congrArg (· ++ _) h.idle, rfl, rfl, rfl⟩

/-- A REDUCE of no records stops at issue. -/
theorem doReduce_none {s : State} {c kind src dst xn : Nat} {t : Tag} (hn : (s.core c).xr xn = 0)
    (hobj : (s.core c).object (s.limitOf c) src = .inl t) : doReduce c s (.reduce kind src dst xn) = .fail .shape 0 0 := by
  unfold doReduce
  dsimp only
  rw [hobj]
  dsimp only
  rw [if_pos (by simp [hn])]

/-! ## REDUCE_SPLITK (R180 to R184, R377) -/

/-- The quarter or the array that lays out an image of M × N. -/
theorem imageQtr_eq (m n : Nat) : imageQtr m n = if m % 128 = 0 ∧ n % 128 = 0 then 4 else 0 := by simp [imageQtr]

/-- The tile record that a REDUCE_SPLITK makes of the first image's header `h` and the combined status word. -/
def State.splitkRec (s : State) (c : Nat) (h : Nat) (st : AccSt) : TileRec :=
  let k := s.core c
  let r0 : TileRec := { TileRec.ofHeader h with start := 0, skipped := (s.splitRows k).1, audited := (s.splitRows k).2, st := st }
  if (s.splitOf k).isSome then { r0 with vm := bits (k.xr 14).toNat 15 0, vn := bits (k.xr 14).toNat 31 16 } else r0

/-- The quarter or the array that takes the result of a REDUCE_SPLITK of M × N (log entry 187). -/
def State.splitkQtr (s : State) (c m n : Nat) : Nat :=
  match s.splitOf (s.core c) with
  | some x => if x.tiling.split then 0 else 4
  | none => if m % 128 = 0 ∧ n % 128 = 0 then 4 else 0

/-- A core with the result of a REDUCE_SPLITK in its accumulators, as the tile record of a quarter or of the array. -/
def Core.splitkAcc (k : Core) (q : Nat) (exact_ : Bool) (n : Nat) (rows : List (List Nat)) (r : TileRec) : Core :=
  { (k.enterMode (q != 4)).setAccTile (geoOf q exact_) n rows with recs := insertK q r (k.enterMode (q != 4)).recs }

/-- A core with the result of a REDUCE_SPLITK, in the accumulators or as an image in the carrel. -/
def Core.splitkOut (k : Core) (dst : Nat) (toacc : Bool) (q : Nat) (exact_ : Bool) (t0 : Tag) (rows : List (List Nat)) (r : TileRec) : Core :=
  if toacc then k.splitkAcc q exact_ t0.e0 rows r else k.writeObject dst (imageTag t0.e1 t0.e0) (imageBytesOf r rows)

/-- The result leaves the program's state and what is issued alone. -/
theorem Core.splitkOut_frame (k : Core) (dst : Nat) (toacc : Bool) (q : Nat) (exact_ : Bool) (t0 : Tag) (rows : List (List Nat)) (r : TileRec) :
    ∃ acc recs split carrel tags drained, k.splitkOut dst toacc q exact_ t0 rows r =
      { k with acc := acc, recs := recs, split := split, carrel := carrel, tags := tags, drained := drained } := by
  unfold Core.splitkOut
  split
  · obtain ⟨acc, recs, h⟩ := k.enterMode_eq (q != 4)
    rw [Core.splitkAcc, h]
    exact ⟨_, _, _, _, _, _, rfl⟩
  · exact ⟨_, _, _, _, _, _, rfl⟩

/-- A result in the carrel is an ACC image (R380), and the accumulators and their records stay. -/
theorem Core.splitkOut_image (k : Core) (dst q : Nat) (exact_ : Bool) (t0 : Tag) (rows : List (List Nat)) (r : TileRec) :
    let t := k.splitkOut dst false q exact_ t0 rows r
    t.carrel = k.carrel.writeBytes (dst * 16384) (imageBytesOf r rows) ∧ t.recs = k.recs ∧ t.acc = k.acc := by
  simp [Core.splitkOut, Core.writeObject, shelfBytes]

/-- A result in the accumulators is in the mode of its quarter or of the array. -/
theorem Core.splitkAcc_split (k : Core) (q : Nat) (exact_ : Bool) (n : Nat) (rows : List (List Nat)) (r : TileRec) :
    (k.splitkAcc q exact_ n rows r).split = (q != 4) := by
  obtain ⟨acc, recs, h⟩ := k.enterMode_eq (q != 4)
  rw [Core.splitkAcc, h]
  rfl

theorem Core.splitkAcc_carrel (k : Core) (q : Nat) (exact_ : Bool) (n : Nat) (rows : List (List Nat)) (r : TileRec) :
    (k.splitkAcc q exact_ n rows r).carrel = k.carrel := by
  obtain ⟨acc, recs, h⟩ := k.enterMode_eq (q != 4)
  rw [Core.splitkAcc, h]
  rfl

/-- What a REDUCE_SPLITK of some images asks on an idle core, where `h` is the header of the first, image `t0` at shelf `sh0`. -/
structure SplitkChecks (s : State) (c src dst xn sh0 : Nat) (toacc : Bool) (imgs : List (Nat × Tag)) (t0 : Tag) (h : Nat) : Prop where
  count : 0 < ((s.core c).xr xn).toNat
  images : (s.core c).imagesAt (s.limitOf c) (Nat.min ((s.core c).xr xn).toNat (s.limitOf c + 1)) src = .inl ((sh0, t0) :: imgs)
  header : ((s.core c).objMem sh0 t0).readLe 0 64 = h
  same : ∀ p ∈ imgs, p.2.e0 = t0.e0 ∧ p.2.e1 = t0.e1 ∧ (s.core c).imageMode p.1 = bits h 85 84
  mode : (s.core c).imageMode sh0 = bits h 85 84
  free : toacc = true → (s.core c).recs = []
  bounds : dst + shelvesFor (accImageBytes t0.e1 t0.e0 (bits h 85 84)) ≤ s.limitOf c
  idle : (s.core c).inflight = []

/-- A REDUCE_SPLITK that passes its checks on an idle core is issued. -/
theorem doSplitk_go {s : State} {c src dst xn sh0 : Nat} {toacc : Bool} {imgs : List (Nat × Tag)} {t0 : Tag} {h : Nat}
    (ok : SplitkChecks s c src dst xn sh0 toacc imgs t0 h) :
    let i := TileInstr.reduceSplitk src dst xn toacc
    let exact_ := bits h 85 84 == 1
    let out := combinePartials (bits h 95 88) (bits h 103 96) exact_ (((sh0, t0) :: imgs).map (fun p => (s.core c).partialAt p.1 p.2))
    let k1 := (s.core c).splitkOut dst toacc (s.splitkQtr c t0.e1 t0.e0) exact_ t0 (chunksOf t0.e0 (t0.e1 + 1) out.1) (s.splitkRec c h out.2)
    ∃ reads writes cycles, doSplitk c s i = .go (s.issueCore c writes (k1.launch (k1.flight i reads writes cycles)) out.2.flags) := by
  have hshape : ((sh0, t0) :: imgs).any (fun p => p.2.e0 != t0.e0 || p.2.e1 != t0.e1 || (s.core c).imageMode p.1 != bits h 85 84) = false := by
    rw [List.any_cons, ok.mode]
    simpa [and_assoc] using ok.same
  have hbounds : (if toacc then [] else shelfList [(dst, shelvesFor (accImageBytes t0.e1 t0.e0 (bits h 85 84)))]).any
      (· ≥ s.limitOf c) = false := by
    cases toacc with
    | true => rfl
    | false =>
      simp only [Bool.false_eq_true, if_false, shelfList, List.any_eq_false, List.mem_flatMap, List.mem_singleton, List.mem_map, List.mem_range]
      rintro _ ⟨p, rfl, x, hx, rfl⟩
      have := ok.bounds
      simp only [decide_eq_true_eq]
      omega
  have hfree : ¬ (toacc && !(s.core c).recs.isEmpty) = true := by
    rw [Bool.and_eq_true]
    rintro ⟨hacc, hrecs⟩
    simp [ok.free hacc] at hrecs
  intro i exact_ out k1
  unfold doSplitk
  simp only [i]
  rw [ok.images]
  dsimp only
  rw [if_neg (by simpa using Nat.ne_of_gt ok.count), ok.header, hshape, if_neg (by decide), if_neg hfree, hbounds, if_neg (by decide),
    if_neg (by simp [Core.drainWaits_idle ok.idle]), if_neg (by simp [Core.unitBusy_idle ok.idle])]
  simp only [imageQtr_eq]
  exact ⟨_, _, _, rfl⟩

/-- What a REDUCE_SPLITK leaves: its result, the instruction issued, and the rest alone. -/
theorem exec_reduceSplitk {s : State} {c src dst xn sh0 : Nat} {toacc : Bool} {imgs : List (Nat × Tag)} {t0 : Tag}
    (hr : RunsIn s c (.reduceSplitk src dst xn toacc)) {h : Nat}
    (ok : SplitkChecks s c src dst xn sh0 toacc imgs t0 h) (hruns : NoRuns s c) :
    let k := s.core c
    let exact_ := bits h 85 84 == 1
    let out := combinePartials (bits h 95 88) (bits h 103 96) exact_ (((sh0, t0) :: imgs).map (fun p => k.partialAt p.1 p.2))
    let k1 := k.splitkOut dst toacc (s.splitkQtr c t0.e1 t0.e0) exact_ t0 (chunksOf t0.e0 (t0.e1 + 1) out.1) (s.splitkRec c h out.2)
    ∃ u g, exec (.reduceSplitk c) s = .next u ∧ (u.core c).inflight = [g] ∧ g.instr = .reduceSplitk src dst xn toacc ∧
      (u.core c).recs = k1.recs ∧ (u.core c).split = k1.split ∧ (u.core c).acc = k1.acc ∧ (u.core c).carrel = k1.carrel ∧
      (u.core c).pc = (advanceFrom k.pc k.loops).1 ∧ u = { s with cores := u.cores, dispatches := u.dispatches } := by
  intro k exact_ out k1
  obtain ⟨reads, writes, cycles, hgo⟩ := doSplitk_go ok
  obtain ⟨acc, recs, split, carrel, tags, drained, hk1⟩ := k.splitkOut_frame dst toacc (s.splitkQtr c t0.e1 t0.e0) exact_ t0
    (chunksOf t0.e0 (t0.e1 + 1) out.1) (s.splitkRec c h out.2)
  have hexec : exec (.reduceSplitk c) s = _ :=
    State.tryIssue_runs hr (fun i => match i with | .reduceSplitk .. => true | _ => false) rfl (doSplitk c)
  rw [hgo] at hexec
  refine ⟨_, k1.flight (.reduceSplitk src dst xn toacc) reads writes cycles, hexec, ?_⟩
  rw [State.core_carry_issueCore hr.1.1]
  have inflight : k1.inflight = [] := (congrArg Core.inflight hk1).trans ok.idle
  have loops : k1.loops = k.loops := by rw [show k1 = _ from hk1]
  exact ⟨congrArg (· ++ _) inflight, rfl, rfl, rfl, rfl, rfl, congrArg (fun l => (advanceFrom _ l).1) loops,
    State.carry_issueCore_frame hruns ..⟩

/-- A REDUCE_SPLITK into the accumulators stops at issue while a tile record is held (log entry 125). -/
theorem doSplitk_held {s : State} {c src dst xn sh0 : Nat} {imgs : List (Nat × Tag)} {t0 : Tag} (hn : 0 < ((s.core c).xr xn).toNat)
    (himgs : (s.core c).imagesAt (s.limitOf c) (Nat.min ((s.core c).xr xn).toNat (s.limitOf c + 1)) src = .inl ((sh0, t0) :: imgs))
    (hsame : ∀ p ∈ imgs, p.2.e0 = t0.e0 ∧ p.2.e1 = t0.e1 ∧ (s.core c).imageMode p.1 = (s.core c).imageMode sh0)
    (hmode : (s.core c).imageMode sh0 = bits (((s.core c).objMem sh0 t0).readLe 0 64) 85 84) (hrecs : (s.core c).recs ≠ []) :
    doSplitk c s (.reduceSplitk src dst xn true) = .fail .held 0 0 := by
  have hshape : ((sh0, t0) :: imgs).any (fun p => p.2.e0 != t0.e0 || p.2.e1 != t0.e1 ||
      (s.core c).imageMode p.1 != bits (((s.core c).objMem sh0 t0).readLe 0 64) 85 84) = false := by
    rw [List.any_cons, ← hmode]
    simpa [and_assoc] using hsame
  unfold doSplitk
  dsimp only
  rw [himgs]
  dsimp only
  rw [if_neg (by simpa using Nat.ne_of_gt hn), hshape, if_neg (by decide), if_pos (by simpa using hrecs)]

/-- Settles O23: EWISE CHAIN by `exec_ewiseChain` and `exec_ewiseChain_relu`, REDUCE by `exec_reduce`, REDUCE_SPLITK by `exec_reduceSplitk`,
and the two faults by what each instruction answers at issue. -/
theorem chainReduce : Obligations.ChainReduce := by
  unfold Obligations.ChainReduce
  refine ⟨⟨?relu, ?chain⟩, ?reduce, ?splitk, ?noRecords, ?recordHeld⟩
  case relu =>
    intro s c src dst chn xr t g hr k hchain hcls hop hobj hrole hfmt hbounds hidle hruns hwf
    obtain ⟨u, q, hexec, hvals, htag, hrest⟩ := exec_ewiseChain_relu hr hchain hcls hop hobj hrole hfmt hbounds hidle hruns hwf
    exact ⟨u, q, hexec, fun i j e hi he _ => hvals i j e hi he, fun hrows _ => htag hrows, hrest⟩
  case chain =>
    intro s c src dst chn xr t hr k st x hobj hrole hfmt hcls hfault hout hidle hruns
    exact exec_ewiseChain hr ⟨rfl, hobj, hrole, hfmt, hcls, hfault, hout, hidle⟩ hruns
  case reduce =>
    intro s c kind src dst xn t hr _ k n w lines hn hobj hrole hfmt hsrc hdst htags hidle hruns hwf
    exact exec_reduce hr ⟨hn, hobj, hrole, hfmt, hsrc, hdst, htags, hidle⟩ hruns hwf
  case splitk =>
    intro s c src dst xn sh0 toacc imgs t0 hr k n h exact_ hn himgs hsame hmode hidle hruns hfree hdst out rows own r0 r q
    obtain ⟨u, g, hexec, hinflight, hinstr, hrecs, hsplit, hacc, hcarrel, hrest⟩ :=
      exec_reduceSplitk hr ⟨hn, himgs, rfl, hsame, hmode, hfree, hdst, hidle⟩ hruns
    refine ⟨u, g, hexec, hinflight, hinstr, ?_, ?_, hrest⟩
    · rintro rfl
      exact ⟨(congrArg (lookupK q) hrecs).trans (lookupK_insertK_self q r _), hsplit.trans (Core.splitkAcc_split ..), hacc,
        hcarrel.trans (Core.splitkAcc_carrel ..)⟩
    · rintro rfl
      obtain ⟨himage, hrecs', hacc'⟩ := k.splitkOut_image dst q exact_ t0 rows r
      exact ⟨hcarrel.trans himage, hrecs.trans hrecs', hacc.trans hacc'⟩
  case noRecords =>
    intro s c kind src dst xn t hr hn hobj
    have hexec : exec (.reduce c) s = _ := State.tryIssue_runs hr (fun i => match i with | .reduce .. => true | _ => false) rfl (doReduce c)
    rw [doReduce_none hn hobj] at hexec
    obtain ⟨hcore, hframe⟩ := State.carry_fail hr.1 .shape 0 0
    exact ⟨_, hexec, by rw [hcore], hframe⟩
  case recordHeld =>
    intro s c src dst xn sh0 imgs t0 hr k n hn himgs hsame hmode hrecs
    have hexec : exec (.reduceSplitk c) s = _ :=
      State.tryIssue_runs hr (fun i => match i with | .reduceSplitk .. => true | _ => false) rfl (doSplitk c)
    rw [doSplitk_held hn himgs hsame hmode hrecs] at hexec
    obtain ⟨hcore, hframe⟩ := State.carry_fail hr.1 .held 0 0
    exact ⟨_, hexec, by rw [hcore], hframe⟩

end Sys2Proof.Machine
end

section

namespace Sys2Proof.Machine

/-! ## O22: a send of no bytes over a main memory out of canonical form

`State.afterWrite` rebuilds the memory around the range it writes, also around an empty one, while the model's own write of no bytes leaves
the list of cells as it stands. The two agree on a memory in canonical form (`Mem.wf`), which the send clause of O22 does not ask for. -/

namespace EmptySend

/-- A dispatch of one tile, of program 1. -/
def dispatch : Dispatch :=
  { number := 1, order := 0, rerunStep := 8, wd := 16, ws := 16, fixed := 16, polyVers := List.replicate 64 0, routeVer := 0, deps := [],
    ready := true, counters := [(0, 0)], internal := [], homeless := [], homelessBack := [], ending := none, cancelling := false,
    dropped := [], committed := 0, replayed := 0, superseded := 0, abandoned := 0, skipped := 0, audited := 0, misses := 0, flags := 0,
    readsOut := [], acksOut := [],
    req := { ring := 1, tag := 7, opcode := 0x0402, irq := false, prio := 0, tallyWait := none, deps := [], program := 1,
             slots := List.replicate 8 0, params := List.replicate 15 0, ext := [128, 128, 1], step := [128, 128, 1], inner := false,
             restart := false, debug := true, stagger := 0, target := 0, costTensor := 0, costs := none, marked := none, affinity := 0,
             regions := 0, scratch := 0, contract := none } }

/-- The held tile, tile 0 of the dispatch. -/
def held : Held :=
  { accession := 2 ^ 32, tile := 0, dispatch := 1, region := 0, counter := 0, runs := [], cards := [], nofit := false, sends := [],
    flags := 0, skipped := 0, audited := 0, misses := 0 }

/-- A tile record of no rows. -/
def record : TileRec :=
  { start := 0, m := 0, n := 64, flow := 0, mode := 0, fmtA := 6, fmtB := 6, vm := 0, vn := 64, skipped := [], audited := [],
    st := AccSt.zero }

/-- The send stage of chain 1, along send route 3. -/
def stage : Stage := ⟨9, 0, 0, 0, false, false, 0, 0, 3, 0, 0⟩

/-- The DRAIN of quarter 0 along chain 1 to shelf 4. -/
def instr : TileInstr := .drain 1 4 0 0

/-- A core in its DRAIN phase, with the record in quarter 0. -/
def core : Core :=
  { Core.fresh (.ofWord 0) false true with
    dispatch := some 1, held := some held, phase := .drain, recs := [(0, record)], split := true }

/-- Socket 5's own page 1, at which send route 3 has its slots. -/
def page : Page := ⟨false, true, true, false, 5, none, none, false, [], []⟩

/-- A running device of one core, whose main memory holds two bytes in descending order. -/
def state : State :=
  { State.reset with
    mode := .running, hif := { Hif.reset with ready := true }, cores := [core], regions := [Region.fresh true],
    dispatches := [(1, dispatch)], programs := [(1, ⟨1, 0, 200, false, 512, [instr], [(1, ⟨false, [stage]⟩)]⟩)], pages := [(1, page)],
    routes := [(5, 2 ^ 63 + 2 ^ 62)],
    sendRoutes := [(3, 2 ^ 255 + 5 * 2 ^ 240 + 256 * 2 ^ 200 + 1024 * 2 ^ 152 + 65536 * 2 ^ 64)],
    dram := [(327680, 1), (0, 1)] }


/-- The DRAIN runs in its phase. -/
theorem runsIn : RunsIn state 0 instr := by unfold RunsIn Runs; decide +kernel

/-- The state meets what the DRAIN clause asks of a chain: the record, its checks and the shelves that it writes. -/
theorem meets_drain :
    lookupK 0 (state.core 0).recs = some record ∧
    (state.core 0).chainFault (state.limitOf 0) (stagesOf (state.chainOf (state.core 0) 1)) = none ∧
    (∀ p ∈ outShelves (stagesOf (state.chainOf (state.core 0) 1)) record.m record.n 64 4, p.1 + p.2 ≤ state.limitOf 0) ∧
    (state.core 0).inflight = [] := by decide +kernel

/-- The state meets what the send part asks: route 3 is the device's own, and the landing of the tile's 0 bytes is page 1. -/
theorem meets_send :
    let e := state.routeEntry (state.core 0) stage.aux
    (stagesOf (state.chainOf (state.core 0) 1)).find? (fun g => g.cls == 9) = some stage ∧ (state.core 0).held = some held ∧
    state.self? = some 5 ∧ srValid e = true ∧ srSocket e = 5 ∧ srBase e + held.tile * srSlot e = 65536 ∧
    (outTag (stagesOf (state.chainOf (state.core 0) 1)) record.m record.n).bytes 0 = 0 := by decide +kernel

/-- The landing is mapped and may be written. -/
theorem meets_landing : InPage state 65536 0 page ∧ state.checkWrite false 65536 0 = .ok := by unfold InPage; decide +kernel

/-- A write of no bytes, as the statement has it, turns the two bytes of main memory round. -/
theorem afterWrite_reorders : (state.afterWrite page 65536 []).1 = [(0, 1), (327680, 1)] := by decide +kernel

/-- The main memory that an outcome leaves. -/
def nextDram (o : Host.Outcome State Fault Refusal) : Option Mem :=
  match o with
  | .next u => some u.dram
  | _ => none

/-- The DRAIN itself leaves main memory as it stands. -/
theorem nextDram_exec : nextDram (exec (.drain 0) state) = some [(327680, 1), (0, 1)] := by decide +kernel

end EmptySend

open EmptySend in
/-- Refutes O22: the send part of its chain clause. A tile record of no rows drains along a chain of one send stage of the device's own
socket, so 0 bytes are sent, over a main memory whose two cells stand in descending order. The DRAIN leaves that memory as it stands, and
`State.afterWrite` of no bytes at the landing turns the cells round. -/
theorem not_drainWrites : ¬ Obligations.DrainWrites := by
  unfold Obligations.DrainWrites
  rintro ⟨-, hchain, -⟩
  obtain ⟨hrec, hfault, hshelves, hidle⟩ := meets_drain
  obtain ⟨hstage, hheld, hself, hvalid, hsocket, hplace, hlen⟩ := meets_send
  obtain ⟨hpage, hcheck⟩ := meets_landing
  have noRuns : NoRuns state 0 := fun j hj => absurd hj List.not_mem_nil
  have sends := (hchain state 0 1 4 0 0 record runsIn hrec (by decide) (by decide) hfault hshelves hidle noRuns).2
    stage held 5 page hstage hheld hself hvalid hsocket
  rw [hplace, hlen] at sends
  obtain ⟨u, _, hexec, -, hmem, -⟩ := sends (Nat.zero_le _) (Nat.zero_le _) hpage hcheck
  rw [Core.tileBytes, hlen] at hmem
  have kept : some u.dram = _ := (congrArg nextDram hexec).symm.trans nextDram_exec
  have moved : u.dram = _ := (congrArg Prod.fst hmem).trans afterWrite_reorders
  rw [moved] at kept
  exact absurd kept (by decide)

end Sys2Proof.Machine
end

section
/-! Blocks that a command reads: what stands in the way of a read, and the bytes read, follow from the memories and the page tables alone. -/
namespace Sys2Proof.Machine

section
variable (s : State) (src : Src) (p : Packet) (a b : W64) (n m word : Nat)

/-- Reading a packet puts nothing in the way of a block, and takes nothing away. -/
@[simp] theorem State.blockFault_consume : (s.consume src p).blockFault a n word = s.blockFault a n word := by
  rw [State.consume_eq]; rfl

@[simp] theorem State.sysBytes_consume : (s.consume src p).sysBytes a n = s.sysBytes a n := by
  rw [State.consume_eq]; rfl

/-- A block read puts nothing in the way of another, and takes nothing away. -/
@[simp] theorem State.blockFault_sysTouch : (s.sysTouch b m).blockFault a n word = s.blockFault a n word := by
  rw [State.sysTouch_eq]; rfl

@[simp] theorem State.sysBytes_sysTouch : (s.sysTouch b m).sysBytes a n = s.sysBytes a n := by
  rw [State.sysTouch_eq]; rfl

@[simp] theorem State.sysTouch_programs : (s.sysTouch b m).programs = s.programs := by rw [State.sysTouch_eq]

@[simp] theorem State.consume_programs : (s.consume src p).programs = s.programs := by rw [State.consume_eq]

@[simp] theorem State.consume_jobs : (s.consume src p).jobs = s.jobs := by rw [State.consume_eq]

@[simp] theorem State.consume_allocs : (s.consume src p).allocs = s.allocs := by rw [State.consume_eq]

end

/-- A block that can be read is read and handed on. -/
theorem State.withBlock_ok {s : State} {p : Packet} {word n : Nat} (h : s.blockFault (pktP p word) n word = none) (src : Src)
    (k : State → List Byte → State) :
    s.withBlock src p word n k = k (s.sysTouch (pktP p word) n) (s.sysBytes (pktP p word) n) := by
  unfold State.withBlock; simp only [h]

/-! ## Merge jobs and programs (R237, R400, R550, R551) -/

section
variable {s : State} {src : Src} {p : Packet}

/-- A merge job without runs whose output are runs in memory, with its region (FFFFh for none). -/
def Job.ofRuns (handle region out spill : Nat) : Job :=
  { handle := handle, region := if region = 0xFFFF then none else some region, form := 0, out := out, spill := spill, dispatch := none
    runs := [], merging := false, flags := 0, finished := false }

/-- CREATE_JOB with RUNS output refuses a spill allocation that is not live, and makes the job otherwise (R237, R550). -/
theorem exec_createJob_runs {k : Nat} (hk : newHandle k s.jobs = true) (h : Accepted s src p 0x0307)
    (hform : bits (pktP p 0).toNat 17 16 = 0)
    (hregion : bits (pktP p 0).toNat 15 0 = 0xFFFF ∨ bits (pktP p 0).toNat 15 0 < s.regions.length) (hout : (pktP p 1).toNat % 64 = 0) :
    exec (.createJob src k) s = .next (
      let t := s.consume src p
      if (lookupK (pktP p 2).toNat s.allocs).isNone then t.answer src p { st := .handle }
      else ({ t with jobs := insertK k (.ofRuns k (bits (pktP p 0).toNat 15 0) (pktP p 1).toNat (pktP p 2).toNat) s.jobs } : State).answer
        src p { r0 := k }) := by
  have hin : (bits (pktP p 0).toNat 15 0 != 0xFFFF && decide (s.regions.length ≤ bits (pktP p 0).toNat 15 0)) = false := by
    rw [Bool.and_eq_false_iff, bne_eq_false_iff_eq, decide_eq_false_iff_not, Nat.not_le]; exact hregion
  show execCreateJob src k s = _
  unfold execCreateJob
  rw [hk, State.command_accepted h _ rfl]
  simp [hform, hin, hout, State.consume_regions, State.refuse, State.done, Job.ofRuns]

/-- LOAD_PROGRAM of an image whose header can be read. -/
theorem exec_loadProgram {k : Nat} (hk : newHandle k s.programs = true) (h : Accepted s src p 0x0400)
    (hblock : s.blockFault (pktP p 0) 64 0 = none) :
    exec (.loadProgram src k) s = .next (
      let hd := ofLe (s.sysBytes (pktP p 0) 64)
      let u := (s.consume src p).sysTouch (pktP p 0) 64
      match imageHeader hd with
      | some e => u.answer src p { st := e.st, detail := e.detail, r1 := e.result1 }
      | none => u.withBlock src p 0 (bits hd 95 64) (fun v img =>
        match readImage k img with
        | .inr e => v.answer src p { st := e.st, detail := e.detail, r1 := e.result1 }
        | .inl g => ({ v with programs := insertK k g v.programs } : State).answer src p { r0 := k })) := by
  show execLoadProgram src k s = _
  unfold execLoadProgram
  rw [hk, State.command_accepted h _ rfl]
  simp only [Bool.not_true, Bool.false_eq_true, if_false]
  rw [State.withBlock_ok (by rw [State.blockFault_consume]; exact hblock), State.sysBytes_consume]
  rfl

/-- UNLOAD_PROGRAM refuses an unknown handle and a program in use (R551). -/
theorem exec_unloadProgram (h : Accepted s src p 0x0401) :
    exec (.unloadProgram src) s = .next (
      let t := s.consume src p
      let n := (pktP p 0).toNat
      if (lookupK n s.programs).isNone then t.answer src p { st := .handle }
      else if s.dispatches.any (fun d => d.2.req.contract.isNone && d.2.req.program == n) then t.answer src p { st := .inuse }
      else ({ t with programs := eraseK n s.programs } : State).answer src p {}) := by
  show execUnloadProgram src s = _
  unfold execUnloadProgram
  rw [State.command_accepted h _ rfl]
  simp only [State.consume_programs, State.consume_dispatches]
  rfl

end

/-- Settles O35: CREATE_JOB by `exec_createJob_runs`, LOAD_PROGRAM by `exec_loadProgram`, whose image is read by `withBlock_ok`, and
UNLOAD_PROGRAM by `exec_unloadProgram`. -/
theorem jobsAndPrograms : Obligations.JobsAndPrograms := by
  unfold Obligations.JobsAndPrograms
  refine fun s src p => ⟨fun k hk h hform hregion hout => ?job, fun k hk h hblock => ?load, fun h => ?unload⟩
  case job =>
    rw [exec_createJob_runs hk h hform hregion hout]
    refine ⟨fun hspill => ?_, fun hspill => ?_⟩
    · simp only [hspill, Option.isNone_none, if_true]
    · simp only [Option.isNone_iff_eq_none, if_neg hspill, Job.ofRuns]
  case load =>
    rw [exec_loadProgram hk h hblock]
    refine ⟨fun e he => ?_, fun hheader himage => ?_⟩
    · simp only [he]
    · have hread := State.withBlock_ok (s := (s.consume src p).sysTouch (pktP p 0) 64) (word := 0)
        (by rw [State.blockFault_sysTouch, State.blockFault_consume]; exact himage) src
      simp only [hheader, hread, State.sysBytes_sysTouch, State.sysBytes_consume]
      refine ⟨fun e he => ?_, fun g hg => ?_⟩
      · simp only [he]
      · simp only [hg, State.sysTouch_programs, State.consume_programs]
  case unload =>
    rw [exec_unloadProgram h]
    refine ⟨fun hnone => ?_, fun hsome ⟨d, hd, hcontract, hprogram⟩ => ?_, fun hsome hfree => ?_⟩
    · simp only [hnone, Option.isNone_none, if_true]
    · have hused : s.dispatches.any (fun d => d.2.req.contract.isNone && d.2.req.program == (pktP p 0).toNat) = true :=
        List.any_eq_true.2 ⟨d, hd, by simp [hcontract, hprogram]⟩
      simp only [Option.isNone_iff_eq_none, if_neg hsome, hused, if_true]
    · have hunused : s.dispatches.any (fun d => d.2.req.contract.isNone && d.2.req.program == (pktP p 0).toNat) = false :=
        List.any_eq_false.2 fun d hd => by
          rw [Bool.and_eq_true, Option.isNone_iff_eq_none, beq_iff_eq, not_and_or]; exact hfree d hd
      simp only [Option.isNone_iff_eq_none, if_neg hsome, hunused, Bool.false_eq_true, if_false]

end Sys2Proof.Machine
end

section
/-! Acceptance of a dispatch (R408, R417 to R422, R536, R538): the request as it is completed, its counters loaded, its entry in the table of
dispatches, and the order of its tiles. -/
namespace Sys2Proof.Machine

/-! ## The marked tiles of a dispatch (R240) -/

/-- A dispatch with the tiles that its row mask marks. -/
def Dispatch.mark (l : Option (List Nat)) (d : Dispatch) : Dispatch := { d with req := { d.req with marked := l } }

/-- A dispatch whose tiles no row mask puts in order. -/
def Dispatch.Unmasked (d : Dispatch) : Prop := ∀ c, d.req.contract = some c → c.pskip ≠ 1

theorem Dispatch.mark_marked (d : Dispatch) : d.mark d.req.marked = d := rfl

/-- The order of the tiles is fixed by marking the dispatch, and only where a row mask gives one. -/
theorem State.orderTiles_cases (s : State) (far : List (RemoteNeed × List Byte)) {n : Nat} {d : Dispatch} (hd : s.dispatch? n = some d) :
    s.orderTiles far n = s ∨ ¬ d.Unmasked ∧ ∃ l, s.orderTiles far n = s.updDispatch n (Dispatch.mark l) := by
  unfold State.orderTiles
  rw [hd]
  dsimp only
  split
  next c m hmask =>
    split
    next => exact .inl rfl
    next hgo =>
      simp only [Bool.or_eq_true, bne_iff_ne, not_or, not_not] at hgo
      obtain ⟨⟨hskip, -⟩, -⟩ := hgo
      obtain ⟨c', hc, hm⟩ := Option.bind_eq_some_iff.1 hmask
      obtain ⟨m', -, hpair⟩ := Option.map_eq_some_iff.1 hm
      obtain ⟨rfl, -⟩ := Prod.mk.inj hpair
      exact .inr ⟨fun h => h c' hc hskip, _, rfl⟩
  next => exact .inl rfl

/-- A dispatch without a row mask has no order to fix. -/
theorem State.orderTiles_unmasked {s : State} {n : Nat} {d : Dispatch} (hd : s.dispatch? n = some d) (h : d.Unmasked)
    (far : List (RemoteNeed × List Byte)) : s.orderTiles far n = s :=
  (s.orderTiles_cases far hd).resolve_right fun hmasked => hmasked.1 h

/-- Fixing the order of a dispatch's tiles changes the table of dispatches only. -/
theorem State.orderTiles_frame (s : State) (far : List (RemoteNeed × List Byte)) (n : Nat) :
    s.orderTiles far n = { s with dispatches := (s.orderTiles far n).dispatches } := by
  cases hd : s.dispatch? n with
  | none => simp only [State.orderTiles, hd]
  | some d =>
    obtain h | ⟨-, l, h⟩ := s.orderTiles_cases far hd
    · rw [h]
    · rw [h]; rfl

/-- The dispatch itself gets marks, which stay as they are without a row mask. -/
theorem State.dispatch?_orderTiles_self {s : State} {n : Nat} {d : Dispatch} (hd : s.dispatch? n = some d) (far : List (RemoteNeed × List Byte)) :
    ∃ l, (s.orderTiles far n).dispatch? n = some (d.mark l) ∧ (d.Unmasked → l = d.req.marked) := by
  obtain h | ⟨hmasked, l, h⟩ := s.orderTiles_cases far hd
  · exact ⟨_, by rw [h, d.mark_marked]; exact hd, fun _ => rfl⟩
  · exact ⟨l, by rw [h, State.dispatch?_updDispatch_self, hd]; rfl, fun hun => absurd hun hmasked⟩

/-- Every other dispatch stays as it is. -/
theorem State.dispatch?_orderTiles_ne (s : State) (far : List (RemoteNeed × List Byte)) {n m : Nat} (h : m ≠ n) :
    (s.orderTiles far n).dispatch? m = s.dispatch? m := by
  cases hd : s.dispatch? n with
  | none => simp only [State.orderTiles, hd]
  | some d =>
    obtain heq | ⟨-, l, heq⟩ := s.orderTiles_cases far hd
    · rw [heq]
    · rw [heq, State.dispatch?_updDispatch_ne s h]

/-! ## The request completed (R411, R439, R443) -/

/-- Runs counted change the ledger, the caches and the number of free values only. -/
theorem State.touchAll_eq (s : State) (l : List (Nat × Nat)) (r : Option Nat) :
    s.touchAll l r = { s with ledger := (s.touchAll l r).ledger, fresh := (s.touchAll l r).fresh, caches := (s.touchAll l r).caches } :=
  foldl_keeps (P := fun t : State => t = { s with ledger := t.ledger, fresh := t.fresh, caches := t.caches })
    (fun t p ht => by rw [State.touch_eq, ht]) l s rfl

/-- A request completed has its costs and its stagger, and reads were counted for them. -/
theorem State.settleRequest_eq (s : State) (far : List (RemoteNeed × List Byte)) (q : Request) :
    ∃ reads costs stagger, s.settleRequest far q = (s.touchAll reads, { q with costs := costs, stagger := stagger }) := by
  unfold State.settleRequest
  dsimp only
  cases s.costsOf far q with
  | ok l t => exact ⟨t, l, _, rfl⟩
  | stop c v i => exact ⟨[], q.costs, _, rfl⟩
  | fault st d w => exact ⟨[], q.costs, _, rfl⟩
  | need n => exact ⟨[], q.costs, _, rfl⟩

/-- The costs of a dispatch are settled where its grid is empty, where they were read with its packet, and where it names no cost tensor. -/
def State.CostsKnown (s : State) (q : Request) : Prop := q.tiles = 0 ∨ q.costs ≠ none ∨ lookupK q.costTensor s.tensors = none

/-- A dispatch with settled costs is complete. -/
theorem State.settleRequest_known {s : State} {q : Request} (hq : q.contract = none) (h : s.CostsKnown q) (far : List (RemoteNeed × List Byte)) :
    s.settleRequest far q = (s, q) := by
  have hcosts : s.costsOf far q = .pure q.costs := by
    simp only [State.costsOf, hq]
    split
    next d hc ht =>
      obtain h | h | h := h
      · simp [h, hc]
      · exact absurd hc h
      · rw [ht] at h; cases h
    next => rfl
  simp only [State.settleRequest, hcosts, hq]
  show (s, ({ q with contract := none } : Request)) = (s, q)
  rw [← hq]

/-! ## The choice of places (R417, R420, R538) -/

/-- Ranges that follow each other are none of them empty. -/
theorem first_lt_last_of_coverFrom : ∀ {l : List CounterPick} {lo hi : Nat}, coverFrom lo hi l = true → ∀ c ∈ l, c.first < c.last
  | p :: l, lo, hi, h, c, hc => by
    simp only [coverFrom, Bool.and_eq_true, decide_eq_true_eq] at h
    obtain ⟨⟨-, hlt⟩, hrest⟩ := h
    obtain rfl | hc := List.mem_cons.1 hc
    · exact hlt
    · exact first_lt_last_of_coverFrom hrest c hc

/-- A place is in a region that the part has. -/
theorem State.region_lt_of_placeOk {s : State} {c : CounterPick} (h : s.placeOk c = true) : c.region < s.regions.length := by
  simp only [State.placeOk, State.hasCounter, Bool.and_eq_true] at h
  obtain ⟨⟨⟨⟨⟨hin, -⟩, -⟩, -⟩, -⟩, -⟩ := h
  exact ((s.inService_iff c.region).1 hin).1

theorem State.tiles_settleRequest (s : State) (far : List (RemoteNeed × List Byte)) (q : Request) : (s.settleRequest far q).2.tiles = q.tiles := by
  obtain ⟨reads, costs, stagger, h⟩ := s.settleRequest_eq far q
  rw [h]; rfl

/-- An empty grid is given no counters. -/
theorem State.counters_of_pickOk_empty {s : State} {q : Request} {pick : PlacePick} (h : s.pickOk q pick = true) (ht : q.tiles = 0) :
    pick.counters = [] := by
  simp only [State.pickOk, State.tiles_settleRequest, ht, Bool.and_eq_true, beq_self_eq_true, if_true, List.isEmpty_iff] at h
  exact h.2

/-- Places for tiles: counters in different regions that the part has, none of them for no tile. -/
structure State.Places (s : State) (l : List CounterPick) : Prop where
  distinct : (l.map CounterPick.region).Nodup
  region : ∀ c ∈ l, c.region < s.regions.length
  tiles : ∀ c ∈ l, c.first < c.last

theorem State.places_of_pickOk {s : State} {q : Request} {pick : PlacePick} (h : s.pickOk q pick = true) (ht : q.tiles ≠ 0) :
    s.Places pick.counters := by
  simp only [State.pickOk, State.tiles_settleRequest, beq_iff_eq, if_neg ht, Bool.and_eq_true] at h
  obtain ⟨-, ⟨⟨⟨⟨⟨⟨-, hcount⟩, hplace⟩, hcover⟩, -⟩, -⟩, -⟩, -⟩ := h
  refine ⟨List.nodup_iff_count_eq_one.2 fun r hr => ?_, fun c hc => State.region_lt_of_placeOk (List.all_eq_true.1 hplace c hc),
    first_lt_last_of_coverFrom hcover⟩
  exact beq_iff_eq.1 (List.all_eq_true.1 hcount r hr)

/-! ## Counters loaded (R418) -/

theorem Counter.settle_eq (k : Counter) : k.settle = { k with state := k.settle.state } := by unfold Counter.settle; split <;> rfl

/-- A counter is loaded with its dispatch, window and tiles, none of which is taken, returned or committed. -/
theorem loadCounter_spec {c : CounterPick} (hc : c.first < c.last) (n : Nat) (q : Request) (target : Nat) :
    let k := loadCounter c n q target
    k.dispatch = n ∧ k.prio = q.prio ∧ k.win = c.win ∧ (∀ x, k.owns x = true ↔ c.first ≤ x ∧ x < c.last) ∧ k.taken = [] ∧ k.committed = [] ∧
      k.returned = [] := by
  simp only [loadCounter, if_pos hc]
  rw [Counter.settle_eq]
  exact ⟨rfl, rfl, rfl, fun x => by simp [Counter.owns], rfl, rfl, rfl⟩

/-- One counter of a desk loaded. -/
def State.load (s : State) (make : CounterPick → Counter) (c : CounterPick) : State :=
  s.updRegion c.region (fun g => { g with counters := insertK c.counter (make c) g.counters })

/-- The counters of a placement loaded. -/
def State.loadAll (s : State) (make : CounterPick → Counter) (l : List CounterPick) : State := l.foldl (fun t c => t.load make c) s

section
variable (make : CounterPick → Counter)

theorem State.counter?_load_self {s : State} {c : CounterPick} (h : c.region < s.regions.length) :
    (s.load make c).counter? c.region c.counter = some (make c) := by
  unfold State.counter? State.load
  rw [State.region_updRegion_self s _ _ h]
  exact lookupK_insertK_self ..

theorem State.counter?_load_ne (s : State) {c : CounterPick} {r k : Nat} (h : ¬ (c.region = r ∧ c.counter = k)) :
    (s.load make c).counter? r k = s.counter? r k := by
  by_cases hr : r = c.region
  · subst hr
    have hk : k ≠ c.counter := fun hk => h ⟨rfl, hk.symm⟩
    by_cases hlt : c.region < s.regions.length
    · unfold State.counter? State.load
      rw [State.region_updRegion_self s _ _ hlt]
      exact lookupK_insertK_ne _ _ _ _ hk
    · simp [State.counter?, State.load, State.region, State.updRegion, getElem?_updateAt, List.getElem?_eq_none (Nat.not_lt.1 hlt)]
  · unfold State.counter? State.load
    rw [State.region_updRegion_ne s _ _ _ hr]

theorem State.loadAll_frame (s : State) (l : List CounterPick) : s.loadAll make l = { s with regions := (s.loadAll make l).regions } :=
  foldl_keeps (P := fun t : State => t = { s with regions := t.regions }) (fun t c ht => by rw [State.load, State.updRegion, ht]) l s rfl

/-- Counters that a placement does not name stay as they are. -/
theorem State.counter?_loadAll_ne {r k : Nat} {l : List CounterPick} (h : ∀ c ∈ l, ¬ (c.region = r ∧ c.counter = k)) (s : State) :
    (s.loadAll make l).counter? r k = s.counter? r k := by
  induction l generalizing s with
  | nil => rfl
  | cons c l ih =>
    obtain ⟨hc, hl⟩ := List.forall_mem_cons.1 h
    exact (ih hl _).trans (s.counter?_load_ne make hc)

/-- Each counter of a placement is loaded. -/
theorem State.counter?_loadAll_self {l : List CounterPick} (hd : (l.map CounterPick.region).Nodup) {s : State}
    (hr : ∀ c ∈ l, c.region < s.regions.length) {c : CounterPick} (hc : c ∈ l) :
    (s.loadAll make l).counter? c.region c.counter = some (make c) := by
  induction l generalizing s with
  | nil => cases hc
  | cons e l ih =>
    obtain ⟨he, hd⟩ := List.nodup_cons.1 hd
    obtain ⟨hlt, hr⟩ := List.forall_mem_cons.1 hr
    obtain rfl | hc := List.mem_cons.1 hc
    · have hother : ∀ x ∈ l, ¬ (x.region = c.region ∧ x.counter = c.counter) := fun x hx hsame =>
        he (hsame.1 ▸ List.mem_map_of_mem hx)
      exact (State.counter?_loadAll_ne make hother _).trans (State.counter?_load_self make hlt)
    · exact ih hd (fun x hx => by simpa [State.load, State.updRegion] using hr x hx) hc

end

/-! ## The dispatch accepted (R422, R536) -/

/-- A ring freed of the packet at its head, with the ACCEPT reply. -/
def State.acceptReply (s : State) (ring : Nat) (q : Request) (pick : PlacePick) : State :=
  (s.updRing ring (fun g => { g with waiting := none })).replyRing ring q.opcode q.tag q.irq (q.acceptRep pick)

theorem State.sameButIo_acceptReply (s : State) (ring : Nat) (q : Request) (pick : PlacePick) : SameButIo s (s.acceptReply ring q pick) :=
  (s.sameButIo_updRing ring _).trans (State.sameButIo_replyRing ..)

/-- The ACCEPT reply of a dispatch names the regions of its counters (R552). -/
theorem Request.acceptRep_dispatch {q : Request} (hq : q.contract = none) (pick : PlacePick) :
    q.acceptRep pick = { kind := .accept, dispatch := pick.number, r0 := 0, r1 := sumNat (pick.counters.map (fun c => 2 ^ c.region)) } := by
  simp only [Request.acceptRep, hq, List.map_map]
  rfl

/-- A dispatch that state `s` accepts, put among those of `w`: its counters loaded, its entry made, the next place in the order taken. -/
def State.enrol (s w : State) (q : Request) (pick : PlacePick) : State :=
  let t := w.loadAll (fun c => loadCounter c pick.number q (s.targetOf q pick c)) pick.counters
  { t with dispatches := insertK pick.number (s.newDispatch q pick) t.dispatches, nextOrder := t.nextOrder + 1 }

section
variable (s w : State) (q : Request) (pick : PlacePick)

theorem State.enrol_frame : s.enrol w q pick =
    { w with dispatches := (s.enrol w q pick).dispatches, regions := (s.enrol w q pick).regions, nextOrder := w.nextOrder + 1 } := by
  unfold State.enrol
  rw [State.loadAll_frame]

theorem State.dispatch?_enrol_self : (s.enrol w q pick).dispatch? pick.number = some (s.newDispatch q pick) := lookupK_insertK_self ..

theorem State.dispatch?_enrol_ne {m : Nat} (h : m ≠ pick.number) : (s.enrol w q pick).dispatch? m = w.dispatch? m := by
  unfold State.enrol State.dispatch?
  rw [State.loadAll_frame]
  exact lookupK_insertK_ne _ _ _ _ h

end

theorem State.counter?_enrol_self (s : State) {w : State} (q : Request) {pick : PlacePick} (h : w.Places pick.counters) {c : CounterPick}
    (hc : c ∈ pick.counters) :
    (s.enrol w q pick).counter? c.region c.counter = some (loadCounter c pick.number q (s.targetOf q pick c)) :=
  State.counter?_loadAll_self _ h.distinct h.region hc

theorem State.counter?_enrol_ne (s w : State) (q : Request) {pick : PlacePick} {r k : Nat}
    (h : ∀ c ∈ pick.counters, ¬ (c.region = r ∧ c.counter = k)) : (s.enrol w q pick).counter? r k = w.counter? r k :=
  State.counter?_loadAll_ne _ h w

/-- A request for tiles is completed, answered, put among the dispatches, and its tiles put in order. -/
theorem State.accept_tiles {s t : State} {q r : Request} {pick : PlacePick} (hset : s.settleRequest pick.far q = (t, r)) (ht : r.tiles ≠ 0)
    (ring : Nat) : s.accept ring q pick = (t.enrol (t.acceptReply ring r pick) r pick).orderTiles pick.far pick.number := by
  unfold State.accept
  simp only [hset, beq_iff_eq, if_neg ht]
  rfl

/-- A request for no tile gets its FINAL reply after the ACCEPT reply (R408). -/
theorem State.accept_empty {s t : State} {q r : Request} {pick : PlacePick} (hset : s.settleRequest pick.far q = (t, r)) (ht : r.tiles = 0)
    (ring : Nat) : s.accept ring q pick = (t.acceptReply ring r pick).replyRing ring r.opcode r.tag r.irq { dispatch := pick.number } := by
  unfold State.accept
  simp only [hset, ht, beq_self_eq_true, if_true]
  rfl

/-- DISPATCH_ACCEPT of the request at a ring's head: refused, accepted, or left waiting (R538). -/
theorem exec_dispatchAccept {s : State} {n : Nat} {g : Ring} {q : Request} (hn : n < 64) (hg : lookupK n s.rings = some g)
    (hw : g.waiting = some (.dispatch q)) (hrun : s.running = true) (hpaused : s.ringsPaused = false) (pick : PlacePick) :
    exec (.dispatchAccept n pick) s = .next (match s.requestFault q with
      | some f => (s.updRing n (fun g => { g with waiting := none })).replyRing n q.opcode q.tag q.irq { st := f.st, detail := f.detail }
      | none => if s.pickOk q pick then s.accept n q pick else s) := by
  show execDispatchAccept n pick s = _
  unfold execDispatchAccept
  simp only [if_neg (Nat.not_le.2 hn), hg, Option.bind_some, hw, hrun, hpaused, Bool.not_true, Bool.or_self, Bool.false_eq_true, if_false]
  cases s.requestFault q with
  | some f => rfl
  | none => dsimp only; split <;> rfl

/-- Settles O37: what happens by `exec_dispatchAccept`; an empty grid by `accept_empty`; tiles by `accept_tiles` and the lemmas on `enrol` and
`orderTiles`. -/
theorem dispatchAccepted : Obligations.DispatchAccepted := by
  unfold Obligations.DispatchAccepted
  intro s n g q pick hn hg hw hrun hpaused
  rw [exec_dispatchAccept hn hg hw hrun hpaused]
  refine ⟨fun f hf => ?refused, fun hf hp => ?waits, fun hf hp hq ht => ?empty, fun hf hp ht => ?kept, fun hf hp hq ht hcosts => ?loaded⟩
  case refused => simp only [hf]
  case waits => simp only [hf, hp, Bool.false_eq_true, if_false]
  case empty =>
    simp only [hf, hp, if_true]
    rw [State.accept_empty (State.settleRequest_known hq (.inl ht) _) ht, State.acceptReply, Request.acceptRep_dispatch hq,
      State.counters_of_pickOk_empty hp ht]
    rfl
  case kept =>
    simp only [hf, hp, if_true]
    obtain ⟨reads, costs, stagger, hset⟩ := s.settleRequest_eq pick.far q
    obtain ⟨l, hl, -⟩ := State.dispatch?_orderTiles_self (State.dispatch?_enrol_self (s.touchAll reads) ((s.touchAll reads).acceptReply n
      { q with costs := costs, stagger := stagger } pick) { q with costs := costs, stagger := stagger } pick) pick.far
    refine ⟨_, _, congrArg _ (State.accept_tiles hset ht n), hl, rfl, rfl, ?_, rfl, rfl, rfl⟩
    show (s.touchAll reads).nextOrder = s.nextOrder
    rw [State.touchAll_eq]
  case loaded =>
    simp only [hf, hp, if_true]
    have hplaces := State.places_of_pickOk hp ht
    have hio := s.sameButIo_acceptReply n q pick
    have hnew : (s.enrol (s.acceptReply n q pick) q pick).dispatch? pick.number = some (s.newDispatch q pick) := State.dispatch?_enrol_self ..
    rw [State.accept_tiles (State.settleRequest_known hq (.inr hcosts) _) ht,
      State.orderTiles_unmasked hnew (fun c hc => by cases hq.symm.trans hc)]
    rw [← Request.acceptRep_dispatch hq]
    refine ⟨_, _, rfl, hnew, rfl, rfl, rfl, rfl, rfl, rfl, rfl, rfl, rfl, rfl, rfl, rfl, fun m hm => ?_, fun c hc => ?_, fun r k hrk => ?_, ?_⟩
    · rw [← State.dispatch?, State.dispatch?_enrol_ne _ _ _ _ hm, hio]; rfl
    · have hplaces' : (s.acceptReply n q pick).Places pick.counters :=
        ⟨hplaces.distinct, by rw [hio]; exact hplaces.region, hplaces.tiles⟩
      exact ⟨_, State.counter?_enrol_self s q hplaces' hc, loadCounter_spec (hplaces.tiles c hc) ..⟩
    · rw [State.counter?_enrol_ne _ _ _ hrk, hio]; rfl
    · have horder : (s.acceptReply n q pick).nextOrder = s.nextOrder := by rw [hio]
      rw [← horder]
      exact State.enrol_frame ..

end Sys2Proof.Machine
end

section
/-! What a dispatch waits for, and its end (R240, R532, R533, R540, R542, R550): dependencies and tally waits met, and what the FINAL reply frees. -/
namespace Sys2Proof.Machine

/-! ## The tally wait (R542) -/

/-- A dispatch whose tally wait has been met. -/
def Dispatch.madeReady (d : Dispatch) : Dispatch := { d with ready := true }

/-- DISPATCH_TALLY_WAIT_MET lets a dispatch go whose tally condition holds, and fixes the order of its tiles. -/
theorem exec_dispatchTallyWaitMet {s : State} {n no : Nat} {v : W64} {d : Dispatch} (hrun : s.running = true) (hd : s.dispatch? n = some d)
    (hv : d.req.tallyWait = some (no, v)) :
    exec (.dispatchTallyWaitMet n) s =
      .next (if s.tallyMet no v then (s.updDispatch n Dispatch.madeReady).orderTiles [] n else s) := by
  show execDispatchTallyWaitMet n s = _
  unfold execDispatchTallyWaitMet
  simp only [hd, Option.bind_some, hv, hrun, Bool.true_and]
  split <;> rfl

/-! ## Dependencies (R540) -/

/-- Whether a dependency is on the dispatch with a number, and has learnt of its end. -/
def Dep.hit (n : Nat) (x : Dep) : Bool := x.number == n && x.ended.isSome

/-- A dispatch that no longer waits for the end of another. -/
def Dispatch.resolve (n : Nat) (d : Dispatch) : Dispatch := { d with deps := d.deps.filter (fun x => !x.hit n) }

theorem Dispatch.resolve_mark (n : Nat) (l : Option (List Nat)) (d : Dispatch) : (d.mark l).resolve n = (d.resolve n).mark l := rfl

theorem Dispatch.mark_mark (l m : Option (List Nat)) (d : Dispatch) : (d.mark l).mark m = d.mark m := rfl

theorem Dispatch.resolve_resolve (n : Nat) (d : Dispatch) : (d.resolve n).resolve n = d.resolve n := by
  simp [Dispatch.resolve, List.filter_filter]

/-- A dispatch without a dependency on the one that ended has none to lose. -/
theorem Dispatch.resolve_eq_self {n : Nat} {d : Dispatch} (h : d.deps.any (Dep.hit n) = false) : d.resolve n = d := by
  have hkeep : d.deps.filter (fun x => !x.hit n) = d.deps :=
    List.filter_eq_self.2 fun x hx => by simpa using List.any_eq_false.1 h x hx
  rw [Dispatch.resolve, hkeep]

/-- A dispatch goes on past a dependency, and the order of its tiles is fixed. -/
def State.resolve (s : State) (n m : Nat) : State := (s.updDispatch m (Dispatch.resolve n)).orderTiles [] m

/-- The dispatches that a dependency's end lets go on or cancels. -/
def State.dependents (s : State) (n : Nat) : List (Nat × Dispatch) :=
  s.dispatches.filter (fun p => p.2.deps.any (Dep.hit n) && !p.2.cancelling)

/-- DEPENDENCY_RESOLVED goes through the dispatches that name the one that ended. -/
theorem exec_dependencyResolved {s : State} (hrun : s.running = true) (n : Nat) :
    exec (.dependencyResolved n) s = .next ((s.dependents n).foldl (fun t p =>
      match p.2.deps.find? (fun x => x.hit n && x.ended != some .ok) with
      | some x => t.finish p.1 .cancelled x.place
      | none => t.resolve n p.1) s) := by
  show execDependencyResolved n s = _
  unfold execDependencyResolved
  simp only [hrun, Bool.not_true, Bool.false_eq_true, if_false]
  rfl

/-- Where the dispatch ended with ST_OK, those that name it go on. -/
theorem exec_dependencyResolved_ok {s : State} {n : Nat} (hrun : s.running = true)
    (hok : ∀ e ∈ s.dispatches, ∀ x ∈ e.2.deps, x.number = n → x.ended = none ∨ x.ended = some .ok) :
    exec (.dependencyResolved n) s = .next (((s.dependents n).map Prod.fst).foldl (fun t m => t.resolve n m) s) := by
  rw [exec_dependencyResolved hrun, List.foldl_map]
  congr 1
  refine List.foldl_ext _ _ _ fun t p hp => ?_
  have hnone : p.2.deps.find? (fun x => x.hit n && x.ended != some .ok) = none := List.find?_eq_none.2 fun x hx hbad => by
    simp only [Dep.hit, Bool.and_eq_true, beq_iff_eq, bne_iff_ne] at hbad
    obtain ⟨⟨hnum, hended⟩, hne⟩ := hbad
    obtain h | h := hok p (List.mem_filter.1 hp).1 x hx hnum
    · rw [h] at hended; cases hended
    · exact hne h
  rw [hnone]

/-- Dispatches that go on change the table of dispatches only. -/
theorem State.resolveAll_frame (s : State) (n : Nat) (l : List Nat) :
    l.foldl (fun t m => t.resolve n m) s = { s with dispatches := (l.foldl (fun t m => t.resolve n m) s).dispatches } :=
  foldl_keeps (P := fun t : State => t = { s with dispatches := t.dispatches })
    (fun t m ht => by rw [State.resolve, State.orderTiles_frame, State.updDispatch, ht]) l s rfl

theorem State.dispatch?_resolve_self {s : State} {m : Nat} {d : Dispatch} (hd : s.dispatch? m = some d) (n : Nat) :
    ∃ l, (s.resolve n m).dispatch? m = some ((d.resolve n).mark l) ∧ (d.Unmasked → l = d.req.marked) :=
  State.dispatch?_orderTiles_self (by rw [State.dispatch?_updDispatch_self, hd]; rfl) []

theorem State.dispatch?_resolve_ne (s : State) {m k : Nat} (h : k ≠ m) (n : Nat) : (s.resolve n m).dispatch? k = s.dispatch? k :=
  (State.dispatch?_orderTiles_ne _ [] h).trans (s.dispatch?_updDispatch_ne h _)

/-- Each dispatch of a list goes on, whatever stands in the list beside it; the others stay. -/
theorem State.dispatch?_resolveAll {m : Nat} (n : Nat) {ms : List Nat} : ∀ {s : State} {d : Dispatch}, s.dispatch? m = some d →
    ∃ l, (ms.foldl (fun t k => t.resolve n k) s).dispatch? m = some ((if m ∈ ms then d.resolve n else d).mark l) ∧
      (d.Unmasked → l = d.req.marked) := by
  induction ms with
  | nil => exact fun {s d} hd => ⟨d.req.marked, by rw [if_neg List.not_mem_nil]; exact hd, fun _ => rfl⟩
  | cons k ms ih =>
    intro s d hd
    by_cases hk : m = k
    · subst hk
      obtain ⟨l, hl, hmarks⟩ := State.dispatch?_resolve_self hd n
      obtain ⟨l', hl', hmarks'⟩ := ih hl
      refine ⟨l', ?_, fun hun => (hmarks' hun).trans (hmarks hun)⟩
      rw [List.foldl_cons, hl']
      simp only [Dispatch.resolve_mark, Dispatch.resolve_resolve, ite_self, Dispatch.mark_mark, List.mem_cons, true_or, if_true]
    · obtain ⟨l, hl, hmarks⟩ := ih ((s.dispatch?_resolve_ne hk n).trans hd)
      exact ⟨l, by simpa [hk] using hl, hmarks⟩

/-- A dependency that ended with ST_OK, or has not ended, is met just when it learnt of its end. -/
theorem Dispatch.resolve_ok {n : Nat} {d : Dispatch} (hok : ∀ x ∈ d.deps, x.number = n → x.ended = none ∨ x.ended = some .ok) :
    d.resolve n = { d with deps := d.deps.filter (fun x => ¬ (x.number = n ∧ x.ended = some .ok)) } := by
  have hsame : d.deps.filter (fun x => !x.hit n) = d.deps.filter (fun x => ¬ (x.number = n ∧ x.ended = some .ok)) :=
    List.filter_congr fun x hx => by
      by_cases hn : x.number = n
      · obtain h | h := hok x hx hn <;> simp [Dep.hit, hn, h]
      · simp [Dep.hit, hn]
  rw [Dispatch.resolve, hsame]

/-! ## The end of a dispatch (R532, R533, R550) -/

theorem at_eq_mul (k v : Nat) : at_ k v = 2 ^ k * v := by rw [at_, Nat.shiftLeft_eq, Nat.mul_comm]

/-- A lookup in a table whose values were changed. -/
theorem lookupK_mapValues {α β : Type} (k : Nat) (f : α → β) (l : List (Nat × α)) :
    lookupK k (l.map (fun x => (x.1, f x.2))) = (lookupK k l).map f := by
  induction l with
  | nil => rfl
  | cons p l ih => by_cases h : p.1 = k <;> simp [lookupK, h, ih]

/-- A value that a filter keeps is found as before. -/
theorem lookupK_filter {α : Type} {k : Nat} {v : α} {p : Nat × α → Bool} {l : List (Nat × α)} (h : lookupK k l = some v)
    (hp : p (k, v) = true) : lookupK k (l.filter p) = some v := by
  induction l with
  | nil => cases h
  | cons e l ih =>
    obtain ⟨j, u⟩ := e
    by_cases hj : j = k
    · subst hj
      obtain rfl : u = v := by simpa [lookupK] using h
      simp [hp, lookupK]
    · have hrest : lookupK k (l.filter p) = some v := ih (by simpa [lookupK, hj] using h)
      by_cases hkeep : p (j, u) = true
      · simp [hkeep, lookupK, hj, hrest]
      · simp [hkeep, hrest]

/-- A dependency that learns how a dispatch ended. -/
def Dep.learn (n : Nat) (st : St) (x : Dep) : Dep := if x.number == n && x.ended.isNone then { x with ended := some st } else x

/-- A dispatch whose dependencies learn how another ended. -/
def Dispatch.tell (n : Nat) (st : St) (d : Dispatch) : Dispatch := { d with deps := d.deps.map (Dep.learn n st) }

/-- A region without the counters and contexts of a dispatch. -/
def Region.free (n : Nat) (g : Region) : Region :=
  { g with counters := g.counters.filter (fun k => k.2.dispatch != n), contexts := g.contexts.filter (fun x => x.dispatch != n) }

/-- The state without a dispatch: its counters and contexts free, its jobs gone, and those that depend on it told how it ended. -/
def State.without (s : State) (n : Nat) (st : St) : State :=
  { s with regions := s.regions.map (Region.free n), jobs := s.jobs.filter (fun j => j.2.dispatch != some n)
           dispatches := (eraseK n s.dispatches).map (fun x => (x.1, x.2.tell n st)) }

/-- The FINAL reply of a dispatch (R532, R533): the flags of its tiles and jobs, and its counts. -/
def State.finalRep (s : State) (n : Nat) (st : St) (detail : Nat) (d : Dispatch) : Rep :=
  { st := st, detail := detail, dispatch := n, flags := (s.jobsOf n).foldl (fun a j => a ||| runReplyFlags j.2.flags) d.flags, cont := some d.cont }

theorem State.finish_eq {s : State} {n : Nat} {d : Dispatch} (hd : s.dispatch? n = some d) (st : St) (detail : Nat) :
    s.finish n st detail = ((s.without n st).replyRing d.req.ring d.req.opcode d.req.tag d.req.irq (s.finalRep n st detail d)).rehomeAll := by
  unfold State.finish
  rw [hd]
  rfl

/-- Where no tiles wait for a counter, a dispatch's end is its reply and what that frees. -/
theorem State.finish_of_homes {s : State} {n : Nat} {d : Dispatch} (hd : s.dispatch? n = some d)
    (hhome : ∀ e ∈ s.dispatches, e.2.homeless = [] ∧ e.2.homelessBack = []) (st : St) (detail : Nat) :
    s.finish n st detail = (s.without n st).replyRing d.req.ring d.req.opcode d.req.tag d.req.irq (s.finalRep n st detail d) := by
  rw [State.finish_eq hd]
  refine State.rehomeAll_nothing fun e he => ?_
  rw [State.sameButIo_replyRing (s.without n st)] at he
  obtain ⟨x, hx, rfl⟩ := List.mem_map.1 he
  exact hhome x (List.mem_filter.1 hx).1

section
variable (s : State) (n : Nat) (st : St)

theorem State.dispatch?_without_self : (s.without n st).dispatch? n = none := by
  unfold State.dispatch? State.without
  rw [lookupK_mapValues, lookupK_eraseK_self]
  rfl

theorem State.dispatch?_without_ne {m : Nat} (h : m ≠ n) :
    (s.without n st).dispatch? m = (s.dispatch? m).map (Dispatch.tell n st) := by
  unfold State.dispatch? State.without
  rw [lookupK_mapValues, lookupK_eraseK_ne n m _ h]

theorem State.counter?_without (r k : Nat) :
    (s.without n st).counter? r k = lookupK k ((s.region r).counters.filter (fun k => k.2.dispatch != n)) := by
  show lookupK k (((s.regions.map (Region.free n))[r]?).getD (.fresh false)).counters = _
  rw [List.getElem?_map, State.region]
  cases s.regions[r]? <;> rfl

theorem State.counter?_without_foreign {r k : Nat} {q : Counter} (h : (s.without n st).counter? r k = some q) : q.dispatch ≠ n := by
  rw [State.counter?_without] at h
  simpa using (List.mem_filter.1 (lookupK_mem h)).2

theorem State.counter?_without_keeps {r k : Nat} {q : Counter} (h : s.counter? r k = some q) (hq : q.dispatch ≠ n) :
    (s.without n st).counter? r k = some q := by
  rw [State.counter?_without]
  exact lookupK_filter h (by simpa using hq)

theorem State.jobs_without {j : Nat × Job} (h : j ∈ (s.without n st).jobs) : j ∈ s.jobs ∧ j.2.dispatch ≠ some n := by
  obtain ⟨hj, hd⟩ := List.mem_filter.1 h
  exact ⟨hj, by simpa using hd⟩

end

/-- The counts of a dispatch, each saturated (R532). -/
theorem Dispatch.cont_eq (d : Dispatch) : d.cont =
    Nat.min 0xFFFFFFFF d.committed + 2 ^ 32 * Nat.min 0xFFFFFFFF d.replayed + 2 ^ 64 * Nat.min 0xFFFFFFFF d.superseded
      + 2 ^ 96 * Nat.min 0xFFFFFFFF d.abandoned + 2 ^ 128 * Nat.min 0xFFFFFFFF d.skipped + 2 ^ 160 * Nat.min 0xFFFFFFFF d.audited
      + 2 ^ 192 * Nat.min 0xFFFFFFFF d.misses := by
  simp only [Dispatch.cont, at_eq_mul, Nat.pow_zero, Nat.one_mul]

theorem State.jobsOf_eq (s : State) (n : Nat) : s.jobsOf n = s.jobs.filter (fun j => j.2.dispatch = some n) :=
  List.filter_congr fun j _ => by rw [beq_eq_decide]

/-- DISPATCH_COMPLETE waits for a dispatch's work and for the copy of its staging tensor (R510, R532). -/
theorem exec_dispatchComplete {s : State} {n : Nat} {d : Dispatch} (hrun : s.running = true) (hd : s.dispatch? n = some d)
    (hgo : d.cancelling = false) : exec (.dispatchComplete n) s = .next (
      if !s.workDone d || s.stagingWaits d then s
      else (s.copyStaging d).finish n (d.ending.getD (.ok, 0)).1 (d.ending.getD (.ok, 0)).2) := by
  show execDispatchComplete n s = _
  unfold execDispatchComplete
  simp only [hd, hrun, hgo, Bool.not_true, Bool.false_or]
  split <;> rfl

/-- A dispatch of a program has no staging tensor. -/
theorem State.stagingOf_program (s : State) {d : Dispatch} (h : d.req.contract = none) : s.stagingOf d = none := by
  unfold State.stagingOf; rw [h]; rfl

/-- Settles O38: the tally wait by `exec_dispatchTallyWaitMet`, dependencies by `exec_dependencyResolved_ok` and `dispatch?_resolveAll`, the
FINAL reply by `finish_of_homes` and the lemmas on `without`. -/
theorem dispatchEnds : Obligations.DispatchEnds := by
  unfold Obligations.DispatchEnds
  refine ⟨⟨fun s n no v d hrun hd hv => ?tally, fun s n hrun hok => ?resolved, fun s n m d x st hrun hs hgo hdeps hx hst hbad => ?cancelled⟩,
    fun s n d hrun hd hgo => ⟨fun hw => ?working, fun hw hq hhome => ?done⟩⟩
  case tally =>
    rw [exec_dispatchTallyWaitMet hrun hd hv]
    have hready : (s.updDispatch n Dispatch.madeReady).dispatch? n = some d.madeReady := by
      rw [State.dispatch?_updDispatch_self, State.dispatch?, hd]; rfl
    refine ⟨fun hmet => ⟨?_, fun hun => ?_⟩, fun hnot => ?_⟩
    · obtain ⟨l, hl, -⟩ := State.dispatch?_orderTiles_self hready []
      refine ⟨_, _, by rw [if_pos (by simpa [State.tallyMet] using hmet)], hl, rfl, ?_⟩
      exact State.orderTiles_frame ..
    · rw [if_pos (by simpa [State.tallyMet] using hmet), State.orderTiles_unmasked hready hun]
      rfl
    · rw [if_neg (by simpa [State.tallyMet] using hnot)]
  case resolved =>
    refine ⟨_, exec_dependencyResolved_ok hrun hok, fun m d hd hgo => ?_, State.resolveAll_frame ..⟩
    obtain ⟨l, hl, hmarks⟩ := State.dispatch?_resolveAll (ms := (s.dependents n).map Prod.fst) n hd
    have hresolved : (if m ∈ (s.dependents n).map Prod.fst then d.resolve n else d) = d.resolve n := by
      split
      next => rfl
      next hnot =>
        refine (Dispatch.resolve_eq_self (Bool.eq_false_iff.2 fun hany => hnot ?_)).symm
        exact List.mem_map.2 ⟨(m, d), List.mem_filter.2 ⟨lookupK_mem hd, by simp [hany, hgo]⟩, rfl⟩
    rw [hresolved, Dispatch.resolve_ok (hok _ (lookupK_mem hd))] at hl
    exact ⟨l, hl, hmarks⟩
  case cancelled =>
    have hhit : x.hit n = true := by simp [Dep.hit, hx, hst]
    have hone : s.dependents n = [(m, d)] := by simp [State.dependents, hs, hdeps, hhit, hgo]
    have hfind : d.deps.find? (fun x => x.hit n && x.ended != some .ok) = some x := by simp [hdeps, hhit, hst, hbad]
    rw [exec_dependencyResolved hrun, hone]
    simp only [List.foldl_cons, List.foldl_nil, hfind]
  case working => rw [exec_dispatchComplete hrun hd hgo, hw]; rfl
  case done =>
    have hstaging := s.stagingOf_program hq
    rw [exec_dispatchComplete hrun hd hgo, hw]
    simp only [State.stagingWaits, State.copyStaging, hstaging, Bool.not_true, Bool.or_self, Bool.false_eq_true, if_false]
    rw [State.finish_of_homes hd hhome]
    refine ⟨s.without n (d.ending.getD (.ok, 0)).1, ?_, s.dispatch?_without_self n _, fun m hm => ?_,
      fun r k q hk => s.counter?_without_foreign n _ hk, fun r k q hk hne => s.counter?_without_keeps n _ hk hne,
      fun j hj => s.jobs_without n _ hj, rfl⟩
    · rw [State.finalRep, State.jobsOf_eq, Dispatch.cont_eq]
    · rw [← State.dispatch?, State.dispatch?_without_ne s n _ hm, Option.map_map]
      rfl

end Sys2Proof.Machine
end

section
/-! Descriptors and owner tables (R247 to R249, R290, R296, R548, R549): what their commands refuse, what they make and take away, and how a
switch of an owner table begins and ends. -/
namespace Sys2Proof.Machine

section
variable (s : State) (src : Src) (p : Packet) (a : W64) (n : Nat)

@[simp] theorem State.consume_tensors : (s.consume src p).tensors = s.tensors := by rw [State.consume_eq]

@[simp] theorem State.consume_owners : (s.consume src p).owners = s.owners := by rw [State.consume_eq]

@[simp] theorem State.consume_txn : (s.consume src p).txn = s.txn := by rw [State.consume_eq]

@[simp] theorem State.sysTouch_tensors : (s.sysTouch a n).tensors = s.tensors := by rw [State.sysTouch_eq]

@[simp] theorem State.sysTouch_txn : (s.sysTouch a n).txn = s.txn := by rw [State.sysTouch_eq]

/-- What R259 says of an image does not depend on how it was read. -/
@[simp] theorem State.validate_consume (w : Nat) (d : Desc) : (s.consume src p).validate w d = s.validate w d := by
  rw [State.consume_eq]; rfl

@[simp] theorem State.validate_sysTouch (w : Nat) (d : Desc) : (s.sysTouch a n).validate w d = s.validate w d := by
  rw [State.sysTouch_eq]; rfl

@[simp] theorem State.rangeFree_consume (b len : Nat) : (s.consume src p).rangeFree b len = s.rangeFree b len := by
  rw [State.consume_eq]; rfl

@[simp] theorem State.hold_owners : (s.hold src p).owners = s.owners := by cases src <;> rfl

end

/-! ## Descriptors (R247 to R249) -/

section
variable {s : State} {src : Src} {p : Packet}

/-- The bytes of the image that a CREATE_TENSOR names: a forerunner's descriptor or the device's own (R248, R298). -/
def imageBytes (p : Packet) : Nat := if (pktP p 1).toNat == 1 then 32 else 128

/-- The descriptor that an image describes, under a handle: it lies in the allocation that holds its BASE, where it has entries and no owner
table (R248). -/
def State.describe (s : State) (p : Packet) (k w : Nat) : Desc :=
  let d := if (pktP p 1).toNat == 1 then Desc.ofForerunner w else Desc.ofImage w
  { d with handle := k, alloc := if d.empty || d.owner != 0 then 0 else ((s.allocAt d.base).map Alloc.handle).getD 0 }

@[simp] theorem State.describe_consume (k w : Nat) : (s.consume src p).describe p k w = s.describe p k w := by
  rw [State.consume_eq]; rfl

@[simp] theorem State.describe_sysTouch (a : W64) (n k w : Nat) : (s.sysTouch a n).describe p k w = s.describe p k w := by
  rw [State.sysTouch_eq]; rfl

/-- CREATE_TENSOR of an image that can be read: what R259 finds, or the new descriptor. -/
theorem exec_createTensor {k : Nat} (hk : newHandle k s.tensors = true) (h : Accepted s src p 0x0300)
    (hblock : s.blockFault (pktP p 0) (imageBytes p) 0 = none) :
    exec (.createTensor src k) s = .next (
      let w := ofLe (s.sysBytes (pktP p 0) (imageBytes p))
      let q := (s.consume src p).sysTouch (pktP p 0) (imageBytes p)
      (s.validate w (s.describe p k w)).elim
        (({ q with tensors := insertK k (s.describe p k w) s.tensors } : State).answer src p { r0 := k })
        (fun e => q.answer src p { st := e.st, detail := e.detail })) := by
  show execCreateTensor src k s = _
  unfold execCreateTensor
  rw [hk, State.command_accepted h _ rfl, if_neg (by decide)]
  refine congrArg _ ((State.withBlock_ok (n := imageBytes p) (by rw [State.blockFault_consume]; exact hblock) src _).trans ?_)
  rw [State.sysBytes_consume]
  generalize ofLe (s.sysBytes (pktP p 0) (imageBytes p)) = w
  generalize hq : (s.consume src p).sysTouch (pktP p 0) (imageBytes p) = q
  have hvalid : q.validate w (q.describe p k w) = s.validate w (s.describe p k w) := by simp [← hq]
  have hnew : insertK k (q.describe p k w) q.tensors = insertK k (s.describe p k w) s.tensors := by simp [← hq]
  show _ = (s.validate w (s.describe p k w)).elim
    (({ q with tensors := insertK k (s.describe p k w) s.tensors } : State).answer src p { r0 := k }) _
  rw [← hvalid, ← hnew]
  show (match q.validate w (q.describe p k w) with | some e => _ | none => _) = _
  cases q.validate w (q.describe p k w) <;> rfl

/-- DESTROY_TENSOR refuses an unknown handle and a descriptor that an accepted dispatch names (R247). -/
theorem exec_destroyTensor (h : Accepted s src p 0x0301) :
    exec (.destroyTensor src) s = .next (
      let t := s.consume src p
      let k := (pktP p 0).toNat
      if (lookupK k s.tensors).isNone then t.answer src p { st := .handle }
      else if s.dispatches.any (fun d => d.2.req.names k) then t.answer src p { st := .inuse }
      else ({ t with tensors := eraseK k s.tensors } : State).answer src p {}) := by
  show execDestroyTensor src s = _
  unfold execDestroyTensor
  rw [State.command_accepted h _ rfl]
  simp only [State.consume_tensors, State.consume_dispatches]
  rfl

end

/-- Settles O33: CREATE_TENSOR by `exec_createTensor`, DESTROY_TENSOR by `exec_destroyTensor`. -/
theorem tensors : Obligations.Tensors := by
  unfold Obligations.Tensors
  refine fun s src p => ⟨fun k hk h hblock => ?create, fun h => ?destroy⟩
  case create =>
    have hbytes : imageBytes p = if (pktP p 1).toNat = 1 then 32 else 128 := by simp only [imageBytes, beq_iff_eq]
    have hcreate := exec_createTensor hk h (by rw [hbytes]; exact hblock)
    simp only [hbytes, State.describe, beq_iff_eq, Bool.or_eq_true, bne_iff_ne] at hcreate
    rw [hcreate]
    exact ⟨fun hok => by rw [hok]; rfl, fun e he => by rw [he]; rfl⟩
  case destroy =>
    rw [exec_destroyTensor h]
    refine ⟨fun hnone => ?_, fun hsome hnamed => ?_, fun hsome hfree => ?_⟩
    · simp only [hnone, Option.isNone_none, if_true]
    · simp only [Option.isNone_iff_eq_none, if_neg hsome, List.any_eq_true.2 hnamed, if_true]
    · simp only [Option.isNone_iff_eq_none, if_neg hsome, List.any_eq_false.2 fun d hd => Bool.eq_false_iff.1 (hfree d hd),
        Bool.false_eq_true, if_false]


/-! ## Owner tables made and taken away (R290, R549) -/

section
variable {s : State} {src : Src} {p : Packet}

/-- An owner table without entries, of generation 0 (R290). -/
def Owner.empty (handle vbase count : Nat) (copy : Bool) : Owner :=
  { handle := handle, vbase := vbase, count := count, copy := copy, gen := 0, active := [], standby := [], sealed_ := false, moves := []
    moved := 0, asked := none, acks := [], heldWrites := [] }

/-- CREATE_OWNER refuses a misaligned window, a count out of range, a window that passes the end of the address space, one that is taken,
and one table too many, in this order (R290, R548; log entry 186). -/
theorem exec_createOwner {k : Nat} (hk : newHandle k s.owners = true) (h : Accepted s src p 0x0302) :
    exec (.createOwner src k) s = .next (
      let t := s.consume src p
      let base := (pktP p 0).toNat
      let n := (pktP p 1).toNat
      if base % 2 ^ 21 ≠ 0 then t.answer src p { st := .align }
      else if n = 0 ∨ 2 ^ 26 < n then t.answer src p { st := .field, detail := 1 }
      else if 2 ^ 52 < base + n * 2 ^ 21 then t.answer src p { st := .field }
      else if s.rangeFree base (n * 2 ^ 21) = false then t.answer src p { st := .inuse }
      else if 1024 ≤ s.owners.length then t.answer src p { st := .nofit }
      else ({ t with owners := insertK k (.empty k base n (bit (pktP p 2).toNat 0)) s.owners } : State).answer src p { r0 := k }) := by
  show execCreateOwner src k s = _
  unfold execCreateOwner
  rw [hk, State.command_accepted h _ rfl, if_neg (by decide)]
  simp only [State.rangeFree_consume, State.consume_owners, bne_iff_ne, Bool.or_eq_true, beq_iff_eq, decide_eq_true_eq, Bool.not_eq_true']
  rfl

theorem exec_destroyOwner_unknown (h : Accepted s src p 0x0305) (ho : lookupK (pktP p 0).toNat s.owners = none) :
    exec (.destroyOwner src) s = .next ((s.consume src p).answer src p { st := .handle }) := by
  show execDestroyOwner src s = _
  unfold execDestroyOwner
  rw [State.command_accepted h _ rfl]
  simp only [State.consume_owners, ho]
  rfl

/-- DESTROY_OWNER refuses a table that a descriptor names, and one that switches (R549; log entry 78). -/
theorem exec_destroyOwner {o : Owner} (h : Accepted s src p 0x0305) (ho : lookupK (pktP p 0).toNat s.owners = some o) :
    exec (.destroyOwner src) s = .next (
      let t := s.consume src p
      let k := (pktP p 0).toNat
      if s.tensors.any (fun d => d.2.owner == k) then t.answer src p { st := .inuse }
      else if o.sealed_ then t.answer src p { st := .busy }
      else ({ t with owners := eraseK k s.owners } : State).answer src p {}) := by
  show execDestroyOwner src s = _
  unfold execDestroyOwner
  rw [State.command_accepted h _ rfl]
  simp only [State.consume_owners, State.consume_tensors, ho]
  rfl

/-! ## Entries staged (R296, R548, R569) -/

/-- A packet of the transaction's own ring is inside it, and stays so when it is read. -/
theorem State.inTxn_consume {x : Txn} (hx : s.txn = some x) (hring : src = .ring x.ring) : (s.consume src p).inTxn src = true := by
  unfold State.inTxn; rw [State.consume_txn, hx, hring]; exact beq_self_eq_true _

/-- WRITE_OWNER in its ring's transaction refuses a sealed table and entries past its end, and then reads its entries (R548). -/
theorem exec_writeOwner {x : Txn} {o : Owner} (h : Accepted s src p 0x0303) (hx : s.txn = some x) (hring : src = .ring x.ring)
    (ho : lookupK (pktP p 0).toNat s.owners = some o) :
    exec (.writeOwner src) s = .next (
      let t := s.consume src p
      let first := (pktP p 1).toNat
      let n := (pktP p 2).toNat
      if o.sealed_ then t.answer src p { st := .busy }
      else if o.count < first + n then t.answer src p { st := .bounds }
      else if !t.txnRoom (8 * n) then t.answer src p { st := .nofit }
      else t.withBlock src p 3 (8 * n) (fun u bs =>
        let es := entriesOf 8 n bs
        if es.any ownReserved then u.refuse src p .field 3
        else u.stageOr src p (.owner (pktP p 0).toNat first es) (8 * n) id)) := by
  show execWriteOwner src s = _
  unfold execWriteOwner
  rw [State.command_accepted h _ rfl]
  simp only [State.inTxn_consume hx hring, State.consume_owners, ho, Bool.not_true, Bool.false_eq_true, if_false]
  rfl

/-- The open transaction has room for one more change within the limits of R569. -/
theorem State.txnRoom_of_txn {x : Txn} (hx : s.txn = some x) {n : Nat} (hcount : x.staged.length < 4096) (hbytes : x.bytes + n ≤ 2 ^ 20) :
    s.txnRoom n = true := by
  simpa [State.txnRoom, hx, hcount] using hbytes

/-- A change staged in the ring's transaction. -/
theorem State.stageOr_txn {x : Txn} (hx : s.txn = some x) (hring : src = .ring x.ring) (g : Staged) {n : Nat}
    (hcount : x.staged.length < 4096) (hbytes : x.bytes + n ≤ 2 ^ 20) (apply : State → State) :
    s.stageOr src p g n apply = ({ s with txn := some (x.add g n) } : State).answer src p {} := by
  have hin : s.inTxn src = true := by unfold State.inTxn; rw [hx, hring]; exact beq_self_eq_true _
  unfold State.stageOr
  rw [if_pos hin, if_pos (State.txnRoom_of_txn hx hcount hbytes), hx]
  rfl

end

/-! ## The switch (R296) -/

section
variable {s : State} {src : Src} {p : Packet}

/-- SWITCH_OWNER of an unknown handle is refused (R548). -/
theorem exec_switchOwner_unknown (h : Accepted s src p 0x0304) (ho : lookupK (pktP p 0).toNat s.owners = none) :
    exec (.switchOwner src) s = .next ((s.consume src p).answer src p { st := .handle }) := by
  show execSwitchOwner src s = _
  unfold execSwitchOwner
  rw [State.command_accepted h _ rfl]
  simp only [State.consume_owners, ho]
  rfl

/-- SWITCH_OWNER with no transaction open: a sealed table is busy, and any other begins its switch (R296). -/
theorem exec_switchOwner {o : Owner} (h : Accepted s src p 0x0304) (htxn : s.txn = none) (ho : lookupK (pktP p 0).toNat s.owners = some o) :
    exec (.switchOwner src) s = .next (
      if o.sealed_ then (s.consume src p).answer src p { st := .busy }
      else ((s.consume src p).hold src p).beginSwitch (pktP p 0).toNat) := by
  show execSwitchOwner src s = _
  unfold execSwitchOwner
  rw [State.command_accepted h _ rfl]
  simp only [State.consume_owners, State.consume_txn, ho, htxn, Option.any_none, Bool.false_eq_true, if_false]
  rfl

/-- A table whose standby is sealed for a switch that copies nothing. -/
def Owner.sealStandby (o : Owner) : Owner := { o with sealed_ := true, moves := [], moved := 0, asked := none, acks := [] }

/-- A switch without copies goes no further than the seal. -/
theorem State.goOnSwitch_of_no_moves {k : Nat} {o : Owner} (ho : lookupK k s.owners = some o) (hmoves : o.moves = []) :
    s.goOnSwitch k = s := by
  unfold State.goOnSwitch
  simp only [ho, hmoves, State.moveBlocks]

/-- Without the copy option a switch begins with the seal alone (R296, steps 1 and 2). -/
theorem State.beginSwitch_of_no_copy {k : Nat} {o : Owner} (ho : lookupK k s.owners = some o) (hcopy : o.copy = false) :
    ∃ l, s.beginSwitch k = { s with owners := l } ∧ lookupK k l = some o.sealStandby ∧
      ∀ j, j ≠ k → lookupK j l = lookupK j s.owners := by
  unfold State.beginSwitch
  refine ⟨_, State.goOnSwitch_of_no_moves (o := o.sealStandby) ?_ rfl, ?_, fun j hj => lookupK_updK_ne k j _ _ hj⟩ <;>
    simp [lookupK_updK_self, ho, hcopy, Owner.sealStandby]

end

/-! ## The end of a switch (R296, steps 4 to 6) -/

/-- The packet that a ring carries out, where the ring exists. -/
def State.busyAt (s : State) (n : Nat) : Option (Option Packet) := (lookupK n s.rings).map Ring.busy

section
variable (s : State) {n k : Nat}

/-- A change of rings that leaves what they carry out. -/
theorem State.busyAt_updRing_keeps (n k : Nat) {f : Ring → Ring} (hf : ∀ g, (f g).busy = g.busy) :
    (s.updRing n f).busyAt k = s.busyAt k := by
  unfold State.busyAt State.updRing
  by_cases h : k = n
  · subst h; rw [lookupK_updK_self, Option.map_map]; congr 1; funext g; exact hf g
  · rw [lookupK_updK_ne n k _ _ h]

/-- Writing and raising a vector touch no ring. -/
@[simp] theorem State.busyAt_cqStore (g : Ring) (back v k : Nat) : (s.cqStore g back v).busyAt k = s.busyAt k := by
  unfold State.busyAt State.cqStore; rw [State.sysWrite_eq]

@[simp] theorem State.busyAt_raise (v k : Nat) : (s.raise v).busyAt k = s.busyAt k := by
  unfold State.busyAt; rw [State.raise_eq]

/-- A reply changes no packet that a ring carries out. -/
@[simp] theorem State.busyAt_replyRing (n op tag : Nat) (irq : Bool) (r : Rep) (k : Nat) :
    (s.replyRing n op tag irq r).busyAt k = s.busyAt k := by
  unfold State.replyRing
  split
  · rfl
  · split
    · rfl
    · simp only [apply_ite (fun x => State.busyAt x k), State.busyAt_raise, ite_self]
      rw [State.busyAt_updRing_keeps _ n k (by exact fun _ => rfl), State.busyAt_cqStore]
      split
      · rfl
      · exact State.busyAt_cqStore ..

/-- A ring that is released carries nothing out. -/
theorem State.busyAt_release_self (n : Nat) (r : Rep) : (s.release n r).busyAt n = (s.busyAt n).map (fun _ => none) := by
  unfold State.release
  split
  next g hg =>
    split
    next p hp =>
      rw [State.busyAt_replyRing]
      unfold State.busyAt State.updRing
      rw [lookupK_updK_self, hg]; rfl
    next hp => simp [State.busyAt, hg, hp]
  next hg => simp [State.busyAt, hg]

theorem State.busyAt_release_ne (h : k ≠ n) (r : Rep) : (s.release n r).busyAt k = s.busyAt k := by
  unfold State.release
  split
  · split
    · rw [State.busyAt_replyRing]
      unfold State.busyAt State.updRing
      rw [lookupK_updK_ne n k _ _ h]
    · rfl
  · rfl

/-- Releasing a list of rings frees each of them and no other. -/
theorem State.busyAt_releaseAll (r : Rep) (l : List Nat) (k : Nat) :
    (l.foldl (fun t n => t.release n r) s).busyAt k = if k ∈ l then (s.busyAt k).map (fun _ => none) else s.busyAt k := by
  induction l generalizing s with
  | nil => rfl
  | cons n l ih =>
    rw [List.foldl_cons, ih]
    by_cases h : k = n
    · subst h; simp [State.busyAt_release_self, Function.comp_def]
    · simp [State.busyAt_release_ne s h, h]

theorem State.sameButIo_release (n : Nat) (r : Rep) : SameButIo s (s.release n r) := by
  unfold State.release
  split
  · split
    · exact (State.sameButIo_updRing s n _).trans (State.sameButIo_replyRing ..)
    · exact .refl s
  · exact .refl s

theorem State.sameButIo_releaseAll (r : Rep) (l : List Nat) : SameButIo s (l.foldl (fun t n => t.release n r) s) :=
  foldl_keeps (P := SameButIo s) (fun b n hb => hb.trans (b.sameButIo_release n r)) l s (.refl s)

/-- A ring that carries out a packet is among those that are asked for. -/
theorem State.mem_ringsBusy {s : State} {g : Ring} {q : Packet} (hg : lookupK n s.rings = some g) (hq : g.busy = some q) {op : Nat}
    (hop : pktOp q = op) {sel : Packet → Bool} (hsel : sel q = true) : n ∈ s.ringsBusy op sel :=
  List.mem_filterMap.2 ⟨(n, g), lookupK_mem hg, by simp [hq, hop, hsel]⟩

end

/-- A table after its switch: the standby is active under the next generation number, and the old generation is the standby (R296, step 4). -/
def Owner.switched (o : Owner) : Owner :=
  { o with gen := (o.gen + 1) % 2 ^ 32, active := o.standby, standby := o.active, sealed_ := false, acks := [] }

/-- The table switched, and the rings that wait for it released (R296, steps 4 and 6). -/
def State.finishSwitch (s : State) (k : Nat) (o : Owner) : State :=
  let u : State := { s with owners := insertK k o.switched s.owners }
  (u.ringsBusy 0x0304 (fun p => (pktP p 0).toNat == k)).foldl (fun t r => t.release r { r0 := o.switched.gen }) u

theorem State.sameButIo_finishSwitch (s : State) (k : Nat) (o : Owner) :
    SameButIo { s with owners := insertK k o.switched s.owners } (s.finishSwitch k o) := State.sameButIo_releaseAll ..

theorem State.finishSwitch_owners (s : State) (k : Nat) (o : Owner) : (s.finishSwitch k o).owners = insertK k o.switched s.owners := by
  rw [s.sameButIo_finishSwitch k o]

/-- A ring that carries out the SWITCH_OWNER of the table is free again (R296, step 6). -/
theorem State.busyAt_finishSwitch {s : State} {k r : Nat} {g : Ring} {q : Packet} (hg : lookupK r s.rings = some g) (hq : g.busy = some q)
    (hop : pktOp q = 0x0304) (hk : (pktP q 0).toNat = k) (o : Owner) : (s.finishSwitch k o).busyAt r = some none := by
  have hmem : r ∈ ({ s with owners := insertK k o.switched s.owners } : State).ringsBusy 0x0304 (fun p => (pktP p 0).toNat == k) :=
    State.mem_ringsBusy hg hq hop (by rw [hk]; exact beq_self_eq_true _)
  rw [State.finishSwitch, State.busyAt_releaseAll, if_pos hmem]
  simp [State.busyAt, hg]

/-- OWNER_SWITCH_FINISH waits for the accesses sampled before. -/
theorem exec_ownerSwitchFinish_early {s : State} {k : Nat} {o : Owner} (ho : lookupK k s.owners = some o)
    (hready : s.switchReady k o = false) : exec (.ownerSwitchFinish k) s = .next s := by
  show execOwnerSwitchFinish k s = _
  unfold execOwnerSwitchFinish
  simp only [ho, hready, Bool.not_false, Bool.or_true, if_true]

/-- OWNER_SWITCH_FINISH of a switch that holds no write back, with no transaction open (R296, steps 4 to 6). -/
theorem exec_ownerSwitchFinish {s : State} {k : Nat} {o : Owner} (ho : lookupK k s.owners = some o) (hrun : s.running = true)
    (htxn : s.txn = none) (hready : s.switchReady k o = true) (hheld : o.heldWrites = []) :
    exec (.ownerSwitchFinish k) s = .next (s.finishSwitch k o) := by
  have hsettle : (s.finishSwitch k o).settleTxn = s.finishSwitch k o := by
    have hnone : (s.finishSwitch k o).txn = none := by rw [s.sameButIo_finishSwitch k o]; exact htxn
    unfold State.settleTxn; rw [hnone]
  have hnew : ({ o with gen := (o.gen + 1) % 2 ^ 32, active := o.standby, standby := o.active, sealed_ := false, acks := [],
                        heldWrites := [] } : Owner) = o.switched := by rw [Owner.switched, hheld]
  show execOwnerSwitchFinish k s = _
  unfold execOwnerSwitchFinish
  simp only [ho, hrun, hready, hheld, hnew, Bool.not_true, Bool.or_self, Bool.false_eq_true, if_false, State.performHeld, List.foldl_nil]
  exact congrArg _ hsettle

/-- Settles O34: CREATE_OWNER, WRITE_OWNER and DESTROY_OWNER by their equations, a switch's begin by `beginSwitch_of_no_copy`, its end by
`exec_ownerSwitchFinish` and the lemmas on `finishSwitch`. -/
theorem ownerTables : Obligations.OwnerTables := by
  unfold Obligations.OwnerTables
  refine fun s src p => ⟨fun k hk h => ?create, fun x o h hx hring ho => ?write,
    fun h => ⟨fun hnone => exec_switchOwner_unknown h hnone, fun o ho htxn => ?switch⟩,
    fun k o ho hrun htxn => ⟨fun hearly => exec_ownerSwitchFinish_early ho hearly, fun hready hheld => ?finish⟩, fun h => ?destroy⟩
  case create =>
    rw [exec_createOwner hk h]
    dsimp only
    have hcount : ∀ {n : Nat}, 1 ≤ n → n ≤ 2 ^ 26 → ¬ (n = 0 ∨ 2 ^ 26 < n) := by omega
    refine ⟨fun ha => by rw [if_pos ha], fun ha hn => by rw [if_neg (not_not.2 ha), if_pos hn],
      fun ha h1 h2 hend => ?_, fun ha h1 h2 hend hfree => ?_, fun ha h1 h2 hend hfree hlen => ?_, fun ha h1 h2 hend hfree hlen => ?_⟩
    all_goals rw [if_neg (not_not.2 ha), if_neg (hcount h1 h2)]
    · rw [if_pos hend]
    all_goals rw [if_neg (Nat.not_lt.2 hend)]
    · rw [if_pos hfree]
    all_goals rw [hfree, if_neg Bool.true_eq_false_eq_False]
    · rw [if_pos hlen]
    · rw [if_neg (Nat.not_le.2 hlen)]; rfl
  case write =>
    rw [exec_writeOwner h hx hring ho]
    refine ⟨fun hsealed => by rw [if_pos hsealed], fun hopen hend => by rw [hopen, if_neg Bool.false_ne_true, if_pos hend],
      fun hopen hend hstaged hbytes hblock hlegal => ?_⟩
    have hroom : (s.consume src p).txnRoom (8 * (pktP p 2).toNat) = true := State.txnRoom_of_txn (by simpa using hx) hstaged hbytes
    have hread := State.withBlock_ok (s := s.consume src p) (n := 8 * (pktP p 2).toNat) (word := 3)
      (by rw [State.blockFault_consume]; exact hblock) src
    dsimp only
    rw [hopen, if_neg Bool.false_ne_true, if_neg (Nat.not_lt.2 hend), hroom, Bool.not_true, if_neg Bool.false_ne_true, hread,
      State.sysBytes_consume, hlegal, if_neg Bool.false_ne_true, State.stageOr_txn (by simpa using hx) hring _ hstaged hbytes]
    rfl
  case switch =>
    rw [exec_switchOwner h htxn ho]
    refine ⟨fun hsealed => by rw [if_pos hsealed], fun hfree hcopy => ?_⟩
    obtain ⟨l, hl, hself, hother⟩ := State.beginSwitch_of_no_copy (s := (s.consume src p).hold src p) (by simpa using ho) hcopy
    rw [hfree, if_neg Bool.false_ne_true, hl]
    exact ⟨_, rfl, hself, by simpa using hother, rfl⟩
  case finish =>
    refine ⟨_, exec_ownerSwitchFinish ho hrun htxn hready hheld, ?_, fun i hi => ?_, fun r g q hg hq hop hk => ?_, ?_⟩
    · rw [State.finishSwitch_owners, lookupK_insertK_self]; rfl
    · rw [State.finishSwitch_owners, lookupK_insertK_ne _ _ _ _ hi]
    · exact Option.map_eq_some_iff.1 (State.busyAt_finishSwitch hg hq hop hk o)
    · rw [State.finishSwitch_owners]; exact s.sameButIo_finishSwitch k o
  case destroy =>
    refine ⟨exec_destroyOwner_unknown h, fun o ho => ?_⟩
    rw [exec_destroyOwner h ho]
    refine ⟨fun ⟨d, hd, hown⟩ => ?_, fun hnone hsealed => ?_, fun hnone hopen => ?_⟩
    · have hused : s.tensors.any (fun d => d.2.owner == (pktP p 0).toNat) = true :=
        List.any_eq_true.2 ⟨d, hd, by rw [hown]; exact beq_self_eq_true _⟩
      simp only [hused, if_true]
    all_goals
      have hunused : s.tensors.any (fun d => d.2.owner == (pktP p 0).toNat) = false :=
        List.any_eq_false.2 fun d hd => by rw [beq_iff_eq]; exact hnone d hd
    · simp only [hunused, hsealed, Bool.false_eq_true, if_false, if_true]
    · simp only [hunused, hopen, Bool.false_eq_true, if_false]

end Sys2Proof.Machine
end

section
/-! Memory commands (R455 to R457, R464, R479, R487, R503, R545, R546, R615): tables changed at a run of pages, allocations made and freed,
host-backed pages, and TRANSLATE. -/
namespace Sys2Proof.Machine

/-! ## Tables changed at several keys -/

section
variable {α β : Type} {key : β → Nat} {k : Nat}

/-- A key that a run of changes does not name. -/
theorem lookupK_foldl_updK_ne {f : β → α → α} {l : List β} (h : ∀ b ∈ l, key b ≠ k) (t : List (Nat × α)) :
    lookupK k (l.foldl (fun t b => updK (key b) (f b) t) t) = lookupK k t := by
  induction l generalizing t with
  | nil => rfl
  | cons b l ih =>
    rw [List.foldl_cons, ih fun x hx => h x (List.mem_cons_of_mem _ hx), lookupK_updK_ne _ k _ _ (h b (List.mem_cons_self ..)).symm]

/-- A key that a run of changes at different keys names. -/
theorem lookupK_foldl_updK_mem {f : β → α → α} {l : List β} (hl : (l.map key).Nodup) {b : β} (hb : b ∈ l) (t : List (Nat × α)) :
    lookupK (key b) (l.foldl (fun t b => updK (key b) (f b) t) t) = (lookupK (key b) t).map (f b) := by
  induction l generalizing t with
  | nil => cases hb
  | cons c l ih =>
    obtain ⟨hc, hl⟩ := List.nodup_cons.1 hl
    have hne : ∀ x ∈ l, key x ≠ key c := fun x hx e => hc (e ▸ List.mem_map_of_mem hx)
    rw [List.foldl_cons]
    rcases List.mem_cons.1 hb with rfl | hb
    · rw [lookupK_foldl_updK_ne hne, lookupK_updK_self]
    · rw [ih hl hb, lookupK_updK_ne _ _ _ _ (hne b hb)]

/-- A key that a run of new values does not name. -/
theorem lookupK_foldl_insertK_ne {v : β → α} {l : List β} (h : ∀ b ∈ l, key b ≠ k) (t : List (Nat × α)) :
    lookupK k (l.foldl (fun t b => insertK (key b) (v b) t) t) = lookupK k t := by
  induction l generalizing t with
  | nil => rfl
  | cons b l ih =>
    rw [List.foldl_cons, ih fun x hx => h x (List.mem_cons_of_mem _ hx), lookupK_insertK_ne _ k _ _ (h b (List.mem_cons_self ..)).symm]

/-- A key that a run of new values at different keys names. -/
theorem lookupK_foldl_insertK_mem {v : β → α} {l : List β} (hl : (l.map key).Nodup) {b : β} (hb : b ∈ l) (t : List (Nat × α)) :
    lookupK (key b) (l.foldl (fun t b => insertK (key b) (v b) t) t) = some (v b) := by
  induction l generalizing t with
  | nil => cases hb
  | cons c l ih =>
    obtain ⟨hc, hl⟩ := List.nodup_cons.1 hl
    have hne : ∀ x ∈ l, key x ≠ key c := fun x hx e => hc (e ▸ List.mem_map_of_mem hx)
    rw [List.foldl_cons]
    rcases List.mem_cons.1 hb with rfl | hb
    · rw [lookupK_foldl_insertK_ne hne, lookupK_insertK_self]
    · exact ih hl hb _

/-- A table whose keys were filtered. -/
theorem lookupK_filter_key (keep : Nat → Bool) (t : List (Nat × α)) :
    lookupK k (t.filter (fun p => keep p.1)) = if keep k then lookupK k t else none := by
  induction t with
  | nil => simp [lookupK]
  | cons p t ih =>
    obtain ⟨j, v⟩ := p
    by_cases hj : j = k
    · subst hj
      cases h : keep j <;> simp [h, ih, lookupK]
    · cases h : keep j <;> simp [h, ih, lookupK, hj]

end

/-- The pages of a run, by number. -/
def pageRun (first n : Nat) : List Nat := (List.range n).map (· + first)

theorem mem_pageRun {first n v : Nat} : v ∈ pageRun first n ↔ first ≤ v ∧ v < first + n := by
  simp only [pageRun, List.mem_map, List.mem_range]
  exact ⟨by rintro ⟨i, hi, rfl⟩; omega, fun h => ⟨v - first, by omega, by omega⟩⟩

theorem nodup_pageRun (first n : Nat) : (pageRun first n).Nodup := List.nodup_range.map (add_left_injective first)

@[simp] theorem length_pageRun (first n : Nat) : (pageRun first n).length = n := by simp [pageRun]

theorem getElem?_pageRun {first n i : Nat} (h : i < n) : (pageRun first n)[i]? = some (first + i) := by
  simp [pageRun, h, Nat.add_comm]

/-- The pages of a run are not found when it is taken out of the table. -/
theorem lookupK_filter_pageRun (first n : Nat) {v : Nat} (pages : List (Nat × Page)) :
    lookupK v (pages.filter (fun g => !(pageRun first n).contains g.1)) = if v ∈ pageRun first n then none else lookupK v pages := by
  rw [lookupK_filter_key (fun v => !(pageRun first n).contains v)]
  by_cases h : v ∈ pageRun first n <;> simp [h]

/-- The first components of a zip are some of the first list, each as often. -/
theorem sublist_map_fst_zip {α β : Type} : ∀ (l : List α) (m : List β), ((l.zip m).map Prod.fst).Sublist l
  | [], _ => by simp
  | _ :: _, [] => List.nil_sublist _
  | a :: l, _ :: m => (sublist_map_fst_zip l m).cons_cons a

section
variable (s : State) (src : Src) (p : Packet) (a : W64) (n : Nat)

@[simp] theorem State.consume_pages : (s.consume src p).pages = s.pages := by rw [State.consume_eq]

@[simp] theorem State.consume_cleared : (s.consume src p).cleared = s.cleared := by rw [State.consume_eq]

@[simp] theorem State.consume_ownerHolds : (s.consume src p).ownerHolds = s.ownerHolds := by rw [State.consume_eq]

@[simp] theorem State.sysTouch_ownerHolds : (s.sysTouch a n).ownerHolds = s.ownerHolds := by rw [State.sysTouch_eq]

@[simp] theorem State.sysTouch_owners : (s.sysTouch a n).owners = s.owners := by rw [State.sysTouch_eq]

@[simp] theorem State.sysTouch_pages : (s.sysTouch a n).pages = s.pages := by rw [State.sysTouch_eq]

@[simp] theorem State.allocFault_consume (q : Packet) : (s.consume src p).allocFault q = s.allocFault q := by rw [State.consume_eq]; rfl

@[simp] theorem State.hostPages_consume (q : Packet) : (s.consume src p).hostPages q = s.hostPages q := by rw [State.consume_eq]; rfl

@[simp] theorem State.waysOf_consume (l : List Nat) : (s.consume src p).waysOf l = s.waysOf l := by rw [State.consume_eq]; rfl

@[simp] theorem State.page?_consume (v : Nat) : (s.consume src p).page? v = s.page? v := by rw [State.consume_eq]; rfl

@[simp] theorem State.walkLevel_consume (v : Nat) : (s.consume src p).walkLevel v = s.walkLevel v := by rw [State.consume_eq]; rfl

end

/-! ## ALLOC (R455 to R457, R545, R615) -/

section
variable {s : State} {src : Src} {p : Packet} {k : AllocPick}

/-- ALLOC is carried out where its parameters are refused, or the pick can be picked. -/
theorem exec_alloc (h : Accepted s src p 0x0200) (hpick : s.allocFault p = none → s.allocPickOk p k = true) :
    exec (.alloc src k) s = .next ((s.consume src p).alloc src p k) := by
  have hwaits : ((s.gate src p).isNone && (s.allocFault p).isNone && !s.allocPickOk p k) = false := by
    cases hf : s.allocFault p with
    | none => simp [hpick hf]
    | some e => simp
  obtain ⟨hoffered, -, -⟩ := id h
  show execAlloc src k s = _
  unfold execAlloc
  rw [State.command_accepted h _ rfl, hoffered]
  simp only [hwaits, Bool.false_eq_true, if_false]

theorem exec_alloc_refused (h : Accepted s src p 0x0200) {e : Stat} (he : s.allocFault p = some e) :
    exec (.alloc src k) s = .next ((s.consume src p).answer src p { st := e.st, detail := e.detail }) := by
  rw [exec_alloc h (fun hnone => by rw [he] at hnone; cases hnone), State.alloc, State.allocFault_consume, he]
  rfl

/-- A size of 0 or no multiple of 64 KiB is out of range (R545; log entry 65). -/
theorem State.allocFault_size (hsize : (pktP p 0).toNat = 0 ∨ (pktP p 0).toNat % 65536 ≠ 0) : s.allocFault p = some ⟨.field, 0⟩ := by
  unfold State.allocFault
  dsimp only
  rw [if_pos (by simpa using hsize)]

/-- Local memory beyond what can be allocated (R464). -/
theorem State.allocFault_nofit (h0 : (pktP p 0).toNat ≠ 0) (hsize : (pktP p 0).toNat % 65536 = 0)
    (h2 : bits (pktP p 1).toNat 3 0 ≠ 2) (h3 : bits (pktP p 1).toNat 3 0 ≤ 3) (hn : bits (pktP p 1).toNat 12 8 = 0) (hp2 : pktP p 2 = 0)
    (hp3 : pktP p 3 = 0) (hfull : s.allocatable < s.usedFrames + (pktP p 0).toNat / 65536) : s.allocFault p = some ⟨.nofit, 0⟩ := by
  have h4 : bits (pktP p 1).toNat 3 0 ≠ 4 := by omega
  unfold State.allocFault
  dsimp only
  rw [if_neg (by simp [h0, hsize]), if_neg (by simp [h2, hn]; omega), if_pos (by simp [h4]), if_neg (by simp [hp2]), if_neg (by simp [hp3]),
    if_pos hfull]

/-- What Hokuec picks for local memory is one frame for each page (R455). -/
theorem State.length_frames_of_pickOk (hhint : bits (pktP p 1).toNat 3 0 ≠ 4) (h : s.allocPickOk p k = true) :
    k.frames.length = (pktP p 0).toNat / 65536 := by
  simp only [State.allocPickOk, Bool.and_eq_true, beq_iff_eq, hhint, if_false] at h
  obtain ⟨⟨-, ⟨hlength, -⟩, -⟩, -⟩ := h
  exact hlength

/-- The pages of a new allocation of local memory, each with its frame (R457, R477). -/
def localPages (first n : Nat) (frames ways : List Nat) : List (Nat × Page) :=
  frames.zipIdx.map fun f =>
    (first + f.2, ⟨false, true, true, bigSpan first n (first + f.2), f.1, none, none, false, pageWays ways (first + f.2), []⟩)

theorem keys_localPages (first n : Nat) (frames ways : List Nat) :
    (localPages first n frames ways).map Prod.fst = (List.range' 0 frames.length).map (first + ·) := by
  rw [localPages, List.map_map, ← List.zipIdx_map_snd, List.map_map]; rfl

theorem nodup_keys_localPages (first n : Nat) (frames ways : List Nat) : ((localPages first n frames ways).map Prod.fst).Nodup := by
  rw [keys_localPages]; exact List.Nodup.map (add_right_injective first) List.nodup_range'

/-- The table of pages with those of a new allocation in it. -/
def mapPages (es pages : List (Nat × Page)) : List (Nat × Page) := es.foldl (fun l e => insertK e.1 e.2 l) pages

/-- Each frame of a new allocation is mapped by its page. -/
theorem lookupK_mapPages_localPages (first n : Nat) {frames : List Nat} {ways : List Nat} (pages : List (Nat × Page)) {i f : Nat}
    (hf : frames[i]? = some f) :
    lookupK (first + i) (mapPages (localPages first n frames ways) pages) =
      some ⟨false, true, true, bigSpan first n (first + i), f, none, none, false, pageWays ways (first + i), []⟩ := by
  have hmem : (f, i) ∈ frames.zipIdx := List.mem_zipIdx_iff_getElem?.2 hf
  exact lookupK_foldl_insertK_mem (nodup_keys_localPages first n frames ways) (List.mem_map_of_mem hmem) pages

/-- Pages outside a new allocation stay as they were. -/
theorem lookupK_mapPages_outside (first n : Nat) {frames : List Nat} (ways : List Nat) (pages : List (Nat × Page)) {v : Nat}
    (hv : v < first ∨ first + frames.length ≤ v) : lookupK v (mapPages (localPages first n frames ways) pages) = lookupK v pages := by
  refine lookupK_foldl_insertK_ne (fun b hb e => ?_) pages
  have hkey := List.mem_map_of_mem (f := Prod.fst) hb
  rw [keys_localPages, List.mem_map] at hkey
  obtain ⟨i, hi, hi'⟩ := hkey
  rw [List.mem_range'_1] at hi
  omega

/-- Local memory allocated as picked: its entry, its pages, and its frames cleared no more. -/
def State.allocLocal (s : State) (p : Packet) (k : AllocPick) : State :=
  let hint := bits (pktP p 1).toNat 3 0
  let pages := (pktP p 0).toNat / 65536
  { s with
    allocs := insertK k.handle ⟨k.handle, k.vbase, pages, if hint = 2 ∧ k.channels = [] then 0 else hint, k.channels, false⟩ s.allocs
    cleared := s.cleared.filter (fun f => !k.frames.contains f)
    pages := mapPages (localPages (k.vbase / 65536) pages k.frames (s.waysOf k.channels)) s.pages }

theorem State.alloc_local (hhint : bits (pktP p 1).toNat 3 0 ≠ 4) (hfault : s.allocFault p = none) :
    s.alloc src p k = (s.allocLocal p k).answer src p
      { r0 := k.handle, r1 := k.vbase + 2 ^ 56 * k.channels.length,
        detail := if bits (pktP p 1).toNat 3 0 = 2 ∧ k.channels = [] then 0 else bits (pktP p 1).toNat 3 0 } := by
  have hbeq : (bits (pktP p 1).toNat 3 0 == 4) = false := beq_eq_false_iff_ne.2 hhint
  unfold State.alloc allocPages
  simp only [hfault, hbeq, Bool.false_eq_true, if_false, State.done, at_eq_mul, Bool.and_eq_true, beq_iff_eq, List.isEmpty_iff]
  rfl

end

/-! ## FREE (R247, R546, R615) -/

section
variable (s : State)

theorem State.retireFrame_frame (ch f : Nat) : s.retireFrame ch f =
    { s with retired := (s.retireFrame ch f).retired, cleared := (s.retireFrame ch f).cleared, channels := (s.retireFrame ch f).channels
             evq := (s.retireFrame ch f).evq } := by
  unfold State.retireFrame State.plainEvent; rw [State.event_eq]; rfl

theorem State.channelEvent_frame (ch : Nat) : s.channelEvent ch = { s with evq := (s.channelEvent ch).evq } := by
  unfold State.channelEvent
  split
  · unfold State.plainEvent; rw [State.event_eq]
  · rfl

theorem State.settleChannels_frame :
    s.settleChannels = { s with channels := s.settleChannels.channels, evq := s.settleChannels.evq } := by
  refine foldl_keeps (P := fun t : State => t = { s with channels := t.channels, evq := t.evq }) (fun t ch ht => ?_) _ s rfl
  split
  · split
    · rw [State.channelEvent_frame, State.updChannel, ht]
    · exact ht
  · exact ht

theorem State.pagesGone_frame (vs : List Nat) : s.pagesGone vs =
    { s with channels := (s.pagesGone vs).channels, restoring := (s.pagesGone vs).restoring, evq := (s.pagesGone vs).evq } := by
  unfold State.pagesGone; rw [State.settleChannels_frame]

theorem State.retireFrames_frame (l : List (Nat × Nat)) : l.foldl (fun t r => t.retireFrame r.2 r.1) s =
    let t := l.foldl (fun t r => t.retireFrame r.2 r.1) s
    { s with retired := t.retired, cleared := t.cleared, channels := t.channels, evq := t.evq } := by
  refine foldl_keeps (P := fun t : State => t = { s with retired := t.retired, cleared := t.cleared, channels := t.channels, evq := t.evq })
    (fun t r ht => ?_) l s rfl
  rw [State.retireFrame_frame, ht]

/-- FREE takes the allocation and its pages away; beside them it touches what retires their frames and settles evacuations. -/
theorem State.freeAlloc_eq (a : Alloc) : s.freeAlloc a =
    let t := s.freeAlloc a
    { s with
      pages := s.pages.filter (fun p => !(pageRun (a.base / 65536) a.pages).contains p.1), allocs := eraseK a.handle s.allocs
      caches := t.caches, retireDue := t.retireDue, retired := t.retired, cleared := t.cleared, channels := t.channels
      restoring := t.restoring, evq := t.evq } := by
  unfold State.freeAlloc
  dsimp only
  rw [State.pagesGone_frame, State.retireFrames_frame]
  rfl

theorem State.freeAlloc_allocs (a : Alloc) : (s.freeAlloc a).allocs = eraseK a.handle s.allocs := by rw [State.freeAlloc_eq]

theorem State.lookupK_freeAlloc_pages (a : Alloc) (v : Nat) : lookupK v (s.freeAlloc a).pages =
    if v ∈ pageRun (a.base / 65536) a.pages then none else lookupK v s.pages := by
  rw [State.freeAlloc_eq]; exact lookupK_filter_pageRun ..

theorem State.freeAlloc_frame (a : Alloc) : s.freeAlloc a =
    let t := s.freeAlloc a
    { s with
      pages := t.pages, allocs := t.allocs, caches := t.caches, retireDue := t.retireDue, retired := t.retired, cleared := t.cleared
      channels := t.channels, restoring := t.restoring, evq := t.evq } := by
  rw [State.freeAlloc_eq]

end

section
variable {s : State} {src : Src} {p : Packet}

theorem exec_free_unknown (h : Accepted s src p 0x0201) (ha : lookupK (pktP p 0).toNat s.allocs = none) :
    exec (.free src) s = .next ((s.consume src p).answer src p { st := .handle }) := by
  show execFree src s = _
  unfold execFree
  rw [State.command_accepted h _ rfl]
  simp only [State.consume_allocs, ha]
  rfl

/-- FREE refuses an allocation with a live descriptor in it (R247). -/
theorem exec_free {a : Alloc} (h : Accepted s src p 0x0201) (ha : lookupK (pktP p 0).toNat s.allocs = some a) :
    exec (.free src) s = .next (
      if (s.tensors.any (fun d => d.2.liesIn a) || s.dispatches.any (fun d => d.2.internal.any (fun x => x.2.liesIn a))) = true then
        (s.consume src p).answer src p { st := .inuse }
      else ((s.consume src p).freeAlloc a).answer src p {}) := by
  show execFree src s = _
  unfold execFree
  rw [State.command_accepted h _ rfl]
  simp only [State.consume_allocs, State.consume_tensors, State.consume_dispatches, ha]
  rfl

/-! ## Host-backed pages (R487, R503, R546) -/

/-- The pages that a command names are host-backed. -/
def State.HostRun (s : State) (p : Packet) : Prop :=
  (pktP p 0).toNat % 65536 = 0 ∧ (pktP p 1).toNat ≤ s.pages.length ∧
    ∀ i, i < (pktP p 1).toNat → ∃ g, lookupK ((pktP p 0).toNat / 65536 + i) s.pages = some g ∧ g.host = true

/-- The pages that a command names. -/
def hostRun (p : Packet) : List Nat := pageRun ((pktP p 0).toNat / 65536) (pktP p 1).toNat

/-- Whether a table maps a page to the host. -/
def hostBacked (pages : List (Nat × Page)) (v : Nat) : Bool := match lookupK v pages with | some g => g.host | none => false

theorem State.hostPages_eq : s.hostPages p =
    if (pktP p 0).toNat % 65536 ≠ 0 then .inr ⟨.align, 0⟩
    else if s.pages.length < (pktP p 1).toNat then .inr ⟨.handle, 0⟩
    else if (hostRun p).all (hostBacked s.pages) then .inl (hostRun p) else .inr ⟨.handle, 0⟩ := by
  unfold State.hostPages
  simp only [bne_iff_ne]
  rfl

theorem State.hostPages_align (ha : (pktP p 0).toNat % 65536 ≠ 0) : s.hostPages p = .inr ⟨.align, 0⟩ := by
  rw [State.hostPages_eq, if_pos ha]

theorem State.hostPages_handle (ha : (pktP p 0).toNat % 65536 = 0) (hn : (pktP p 1).toNat ≤ s.pages.length)
    (hv : ∃ i, i < (pktP p 1).toNat ∧ ∀ g, lookupK ((pktP p 0).toNat / 65536 + i) s.pages = some g → g.host = false) :
    s.hostPages p = .inr ⟨.handle, 0⟩ := by
  obtain ⟨i, hi, hg⟩ := hv
  have hmem : (pktP p 0).toNat / 65536 + i ∈ hostRun p := mem_pageRun.2 (by omega)
  have hnot : hostBacked s.pages ((pktP p 0).toNat / 65536 + i) = false := by
    unfold hostBacked; split
    next g h => exact hg g h
    next => rfl
  have hall : ¬ (hostRun p).all (hostBacked s.pages) = true := fun h => by
    rw [List.all_eq_true.1 h _ hmem] at hnot; cases hnot
  rw [State.hostPages_eq, if_neg (not_not.2 ha), if_neg (Nat.not_lt.2 hn), if_neg hall]

theorem State.hostPages_of_hostRun (h : s.HostRun p) : s.hostPages p = .inl (hostRun p) := by
  obtain ⟨ha, hn, hv⟩ := h
  have hall : (hostRun p).all (hostBacked s.pages) = true := List.all_eq_true.2 fun v hmem => by
    obtain ⟨hlo, hhi⟩ := mem_pageRun.1 hmem
    obtain ⟨g, hg, hhost⟩ := hv (v - (pktP p 0).toNat / 65536) (by omega)
    rw [Nat.add_sub_cancel' hlo] at hg
    simp only [hostBacked, hg, hhost]
  rw [State.hostPages_eq, if_neg (not_not.2 ha), if_neg (Nat.not_lt.2 hn), if_pos hall]

/-- A command on host pages refused before it does anything. -/
def State.refuseHost (s : State) (src : Src) (p : Packet) (e : Stat) : State := s.answer src p { st := e.st, detail := e.detail }

/-- A host page that is not resident (R487). -/
def Page.leave (g : Page) : Page := { g with resident := false }

/-- Pages made not resident (R487). -/
def State.evict (s : State) (vs : List Nat) : State :=
  ({ s with pages := vs.foldl (fun l v => updK v Page.leave l) s.pages } : State).forget vs

/-- Pages taken away (R487). -/
def State.unmap (s : State) (vs : List Nat) : State := ({ s with pages := s.pages.filter (fun g => !vs.contains g.1) } : State).forget vs

/-- A host page that is resident again, at the bus address of its entry (R503, R545). -/
def Page.returned (e : Nat) (g : Page) : Page := { g with resident := true, write := bit e 1, at_ := bits e 51 16, episode := false }

/-- The table of pages with those of a run back, each with its entry. -/
def returnPages (vs es : List Nat) (pages : List (Nat × Page)) : List (Nat × Page) :=
  (vs.zip es).foldl (fun l q => updK q.1 (Page.returned q.2) l) pages

/-- Pages made resident again (R487). -/
def State.pagesBack (s : State) (vs es : List Nat) : State := ({ s with pages := returnPages vs es s.pages } : State).forget vs

/-- Pages made resident again, with what waits for them carried on (R296, R487). -/
def State.makeResident (s : State) (vs es : List Nat) : State := ((s.pagesBack vs es).performHolds vs).switchesOnward

theorem exec_hostEvict (h : Accepted s src p 0x0203) : exec (.hostEvict src) s = .next
    ((s.hostPages p).elim (fun vs => ((s.consume src p).evict vs).answer src p {}) ((s.consume src p).refuseHost src p)) := by
  show execHostEvict src s = _
  unfold execHostEvict
  rw [State.command_accepted h _ rfl, State.hostPages_consume]
  cases s.hostPages p <;> rfl

theorem exec_hostUnmap (h : Accepted s src p 0x0205) : exec (.hostUnmap src) s = .next
    ((s.hostPages p).elim (fun vs => ((s.consume src p).unmap vs).answer src p {}) ((s.consume src p).refuseHost src p)) := by
  show execHostUnmap src s = _
  unfold execHostUnmap
  rw [State.command_accepted h _ rfl, State.hostPages_consume]
  cases s.hostPages p <;> rfl

theorem exec_hostResident (h : Accepted s src p 0x0204) : exec (.hostResident src) s = .next
    ((s.hostPages p).elim
      (fun vs => (s.consume src p).withBlock src p 2 (8 * vs.length) (fun u bs =>
        let es := entriesOf 8 vs.length bs
        if es.any (fun e => hostEntryBad e || !bit e 0) then u.refuse src p .field 2 else (u.makeResident vs es).answer src p {}))
      ((s.consume src p).refuseHost src p)) := by
  show execHostResident src s = _
  unfold execHostResident
  rw [State.command_accepted h _ rfl, State.hostPages_consume]
  cases s.hostPages p <;> rfl

/-- The three commands on host pages, with their opcodes. -/
def HostRow (s : State) (src : Src) (p : Packet) (row : Src → Instr) : Prop :=
  (Accepted s src p 0x0203 ∧ row = .hostEvict) ∨ (Accepted s src p 0x0204 ∧ row = .hostResident) ∨
    (Accepted s src p 0x0205 ∧ row = .hostUnmap)

/-- Each of them is refused for the same pages (R546). -/
theorem exec_hostRow_refused {row : Src → Instr} (h : HostRow s src p row) {e : Stat} (he : s.hostPages p = .inr e) :
    exec (row src) s = .next ((s.consume src p).answer src p { st := e.st, detail := e.detail }) := by
  obtain ⟨h, rfl⟩ | ⟨h, rfl⟩ | ⟨h, rfl⟩ := h
  · rw [exec_hostEvict h, he]; rfl
  · rw [exec_hostResident h, he]; rfl
  · rw [exec_hostUnmap h, he]; rfl

section
variable (s : State) (first n : Nat) {v : Nat}

theorem State.lookupK_evict_inside (h : v ∈ pageRun first n) :
    lookupK v (s.evict (pageRun first n)).pages = (lookupK v s.pages).map Page.leave :=
  lookupK_foldl_updK_mem (key := id) (f := fun _ => Page.leave) (by rw [List.map_id]; exact nodup_pageRun first n) h s.pages

theorem State.lookupK_evict_outside (h : v ∉ pageRun first n) :
    lookupK v (s.evict (pageRun first n)).pages = lookupK v s.pages :=
  lookupK_foldl_updK_ne (key := id) (f := fun _ => Page.leave) (fun b hb (e : b = v) => h (e ▸ hb)) s.pages

end

/-- Where no write of a switch of the device's own is held, none is performed (R296). -/
theorem State.performHolds_of_foreign (h : ∀ x ∈ s.ownerHolds, x.src ≠ localSock) (vs : List Nat) : s.performHolds vs = s := by
  have hforeign : ∀ x ∈ s.ownerHolds, (x.src == localSock && vs.contains (x.va / 65536)) = false := fun x hx => by
    rw [beq_eq_false_iff_ne.2 (h x hx), Bool.false_and]
  have hnone : s.ownerHolds.filter (fun x => x.src == localSock && vs.contains (x.va / 65536)) = [] :=
    List.filter_eq_nil_iff.2 fun x hx => by rw [hforeign x hx]; exact Bool.false_ne_true
  have hall : s.ownerHolds.filter (fun x => !(x.src == localSock && vs.contains (x.va / 65536))) = s.ownerHolds :=
    List.filter_eq_self.2 fun x hx => by rw [hforeign x hx]; rfl
  unfold State.performHolds
  rw [hnone, hall]
  rfl

/-- Where no switch copies, none goes on (R296). -/
theorem State.switchesOnward_of_no_moves (h : ∀ o ∈ s.owners, o.2.moves = []) : s.switchesOnward = s := by
  have hnone : s.owners.filter (fun o => o.2.asked.isNone && !o.2.moves.isEmpty) = [] :=
    List.filter_eq_nil_iff.2 fun o ho => by simp [h o ho]
  unfold State.switchesOnward
  rw [hnone]
  rfl

/-- Where nothing waits for the pages, nothing but the pages comes back. -/
theorem State.makeResident_quiet (hholds : ∀ x ∈ s.ownerHolds, x.src ≠ localSock) (hmoves : ∀ o ∈ s.owners, o.2.moves = [])
    (vs es : List Nat) : s.makeResident vs es = s.pagesBack vs es := by
  rw [State.makeResident, State.performHolds_of_foreign (s := s.pagesBack vs es) hholds,
    State.switchesOnward_of_no_moves (s := s.pagesBack vs es) hmoves]

section
variable {first n : Nat}

/-- A page that returns with its entry. -/
theorem lookupK_returnPages_inside {i e : Nat} {es : List Nat} (hi : i < n) (he : es[i]? = some e) (pages : List (Nat × Page)) :
    lookupK (first + i) (returnPages (pageRun first n) es pages) = (lookupK (first + i) pages).map (Page.returned e) := by
  have hmem : (first + i, e) ∈ (pageRun first n).zip es := List.mem_of_getElem? (List.getElem?_zip_eq_some.2 ⟨getElem?_pageRun hi, he⟩)
  exact lookupK_foldl_updK_mem (key := Prod.fst) (f := fun q : Nat × Nat => Page.returned q.2)
    ((sublist_map_fst_zip ..).nodup (nodup_pageRun first n)) hmem pages

theorem lookupK_returnPages_outside {v : Nat} (h : v ∉ pageRun first n) (es : List Nat) (pages : List (Nat × Page)) :
    lookupK v (returnPages (pageRun first n) es pages) = lookupK v pages :=
  lookupK_foldl_updK_ne (key := Prod.fst) (f := fun q : Nat × Nat => Page.returned q.2)
    (fun q hq (e : q.1 = v) => h (e ▸ (sublist_map_fst_zip ..).subset (List.mem_map_of_mem hq))) pages

end

/-- HOST_RESIDENT of pages whose entries can be read: an entry that is not one of R545 is refused. -/
theorem exec_hostResident_read (h : Accepted s src p 0x0204) (hrun : s.HostRun p)
    (hblock : s.blockFault (pktP p 2) (8 * (pktP p 1).toNat) 2 = none) :
    exec (.hostResident src) s = .next (
      let es := entriesOf 8 (pktP p 1).toNat (s.sysBytes (pktP p 2) (8 * (pktP p 1).toNat))
      let q := (s.consume src p).sysTouch (pktP p 2) (8 * (pktP p 1).toNat)
      if es.any (fun e => hostEntryBad e || !bit e 0) then q.answer src p { st := .field, detail := 2 }
      else (q.makeResident (hostRun p) es).answer src p {}) := by
  have hread := State.withBlock_ok (s := s.consume src p) (n := 8 * (pktP p 1).toNat) (word := 2)
    (by rw [State.blockFault_consume]; exact hblock) src
  rw [exec_hostResident h, State.hostPages_of_hostRun hrun, Sum.elim_inl, hostRun, length_pageRun, hread, State.sysBytes_consume]
  rfl

/-- Whether an entry cannot make a page resident: a bit is set that R545 reserves, or it is not resident itself. -/
theorem hostEntry_refused_iff (e : Nat) : (hostEntryBad e || !bit e 0) = true ↔ hostEntryBad e = true ∨ bits e 0 0 = 0 := by
  simp [bit, bits]

/-! ## TRANSLATE (R479) -/

theorem exec_translate_mapped (h : Accepted s src p 0x0206) {g : Page} (hg : s.page? (pktP p 0).toNat = some g) :
    exec (.translate src) s = .next ((s.consume src p).answer src p { r0 := pteWord g, r1 := if g.big then 1 else 0 }) := by
  show execTranslate src s = _
  unfold execTranslate
  rw [State.command_accepted h _ rfl]
  simp only [State.page?_consume, hg]
  rfl

theorem exec_translate_unmapped (h : Accepted s src p 0x0206) (hg : s.page? (pktP p 0).toNat = none) :
    exec (.translate src) s = .next ((s.consume src p).answer src p { r0 := 0, r1 := s.walkLevel (pktP p 0).toNat }) := by
  show execTranslate src s = _
  unfold execTranslate
  rw [State.command_accepted h _ rfl]
  simp only [State.page?_consume, State.walkLevel_consume, hg]
  rfl

/-- The leaf entry as a sum of its fields (R479). -/
theorem pteWord_eq (g : Page) : pteWord g = 2 ^ 63 + 2 ^ 62 + 2 ^ 60 * b2n g.host + 2 ^ 59 * b2n g.write + 2 ^ 58 * b2n g.moving.isSome
    + 2 ^ 57 * b2n (!g.host || g.resident) + (if g.host then 2 ^ 16 * (g.at_ % 2 ^ 36) else 0) := by
  simp only [pteWord, at_eq_mul, low, Nat.mul_one]

end

/-- Settles O31: ALLOC by `exec_alloc` and the lemmas on `mapPages`, FREE by `exec_free` and the lemmas on `freeAlloc`, the commands on host
pages by `hostPages_eq` and the lemmas on runs of pages, TRANSLATE by its two equations. -/
theorem allocationsPages : Obligations.AllocationsPages := by
  unfold Obligations.AllocationsPages
  refine ⟨fun s src p =>
      ⟨fun k h => ⟨fun hsize => ?size, fun h0 hsize h2 h3 hn hp2 hp3 hfull => ?nofit, fun hhint hfault hpick => ?alloc⟩,
        fun h => ⟨fun hnone => exec_free_unknown h hnone, fun a ha => ⟨fun hused => ?inuse, fun hhandle hfree hown => ?free⟩⟩⟩,
    fun s src p => ⟨fun h hrun => ?evict, fun h hrun hblock => ⟨fun hbad => ?entry, fun hgood => ?resident⟩, fun h hrun => ?unmap,
      fun row h => ⟨fun ha => ?align, fun ha hn hv => ?handle⟩, fun h => ⟨fun g hg => ?mapped, fun hg => ?unmapped⟩⟩⟩
  case size => exact exec_alloc_refused (e := ⟨.field, 0⟩) h (State.allocFault_size hsize)
  case nofit => exact exec_alloc_refused (e := ⟨.nofit, 0⟩) h (State.allocFault_nofit h0 hsize h2 h3 hn hp2 hp3 hfull)
  case alloc =>
    have hlength : k.frames.length = (pktP p 0).toNat / 65536 := State.length_frames_of_pickOk hhint hpick
    refine ⟨(s.consume src p).allocLocal p k, ?_, ?_, fun i f hf => ?_, fun v hv => ?_, fun f => ?_, rfl⟩
    · rw [exec_alloc h fun _ => hpick, State.alloc_local hhint (by rw [State.allocFault_consume]; exact hfault)]
    · exact lookupK_insertK_self _ _ _
    · rw [State.allocLocal, State.waysOf_consume]
      exact lookupK_mapPages_localPages _ _ _ hf
    · rw [State.allocLocal, State.consume_pages]
      exact lookupK_mapPages_outside _ _ _ _ (by rw [hlength]; exact hv)
    · simp [State.allocLocal]
  case inuse =>
    rw [exec_free h ha, if_pos (by rw [List.any_eq_true.2 hused]; rfl)]
  case free =>
    have htensors : s.tensors.any (fun d => d.2.liesIn a) = false := List.any_eq_false.2 fun d hd => Bool.eq_false_iff.1 (hfree d hd)
    have hinternal : s.dispatches.any (fun d => d.2.internal.any (fun x => x.2.liesIn a)) = false :=
      List.any_eq_false.2 fun d hd => Bool.eq_false_iff.1 (List.any_eq_false.2 fun x hx => Bool.eq_false_iff.1 (hown d hd x hx))
    rw [exec_free h ha, htensors, hinternal]
    refine ⟨_, rfl, ?_, fun j hj => ?_, fun v hlo hhi => ?_, fun v hv => ?_, ?_⟩
    · rw [State.freeAlloc_allocs, hhandle, lookupK_eraseK_self]
    · rw [State.freeAlloc_allocs, hhandle, State.consume_allocs, lookupK_eraseK_ne _ _ _ hj]
    · rw [State.lookupK_freeAlloc_pages, if_pos (mem_pageRun.2 ⟨hlo, hhi⟩)]
    · rw [State.lookupK_freeAlloc_pages, State.consume_pages, if_neg (by rw [mem_pageRun]; omega)]
    · exact State.freeAlloc_frame _ a
  case evict =>
    rw [exec_hostEvict h, State.hostPages_of_hostRun hrun]
    refine ⟨_, rfl, fun v g hg hv => ?_, fun v hv => ?_, rfl⟩
    · rw [hostRun, State.lookupK_evict_inside _ _ _ (mem_pageRun.2 hv), State.consume_pages, hg]; rfl
    · rw [hostRun, State.lookupK_evict_outside _ _ _ (fun hmem => hv (mem_pageRun.1 hmem)), State.consume_pages]
  case entry =>
    obtain ⟨e, he, hrefused⟩ := hbad
    rw [exec_hostResident_read h hrun hblock]
    exact congrArg _ (if_pos (List.any_eq_true.2 ⟨e, he, (hostEntry_refused_iff e).2 hrefused⟩))
  case resident =>
    have hlegal : ¬ ((entriesOf 8 (pktP p 1).toNat (s.sysBytes (pktP p 2) (8 * (pktP p 1).toNat))).any
        (fun e => hostEntryBad e || !bit e 0)) = true := fun hany => by
      obtain ⟨e, he, hrefused⟩ := List.any_eq_true.1 hany
      obtain ⟨hok, hset⟩ := hgood e he
      rcases (hostEntry_refused_iff e).1 hrefused with hbad | hzero
      · exact Bool.false_ne_true (hok.symm.trans hbad)
      · exact zero_ne_one (hzero.symm.trans hset)
    rw [exec_hostResident_read h hrun hblock]
    dsimp only
    rw [if_neg hlegal]
    refine ⟨_, rfl, fun hholds hmoves => ?_⟩
    rw [State.makeResident_quiet (by simpa using hholds) (by simpa using hmoves)]
    refine ⟨fun i g e hi hg he => ?_, fun v hv => ?_, rfl⟩
    · refine (lookupK_returnPages_inside hi he _).trans ?_
      rw [State.sysTouch_pages, State.consume_pages, hg]; rfl
    · refine (lookupK_returnPages_outside (fun hmem => hv (mem_pageRun.1 hmem)) _ _).trans ?_
      rw [State.sysTouch_pages, State.consume_pages]
  case unmap =>
    rw [exec_hostUnmap h, State.hostPages_of_hostRun hrun]
    refine ⟨_, rfl, fun v hv => ?_, fun v hv => ?_, rfl⟩
    · exact (lookupK_filter_pageRun ..).trans (if_pos (mem_pageRun.2 hv))
    · refine (lookupK_filter_pageRun ..).trans ((if_neg fun hmem => hv (mem_pageRun.1 hmem)).trans ?_)
      rw [State.consume_pages]
  case align => exact exec_hostRow_refused (e := ⟨.align, 0⟩) h (State.hostPages_align ha)
  case handle => exact exec_hostRow_refused (e := ⟨.handle, 0⟩) h (State.hostPages_handle ha hn hv)
  case mapped => rw [exec_translate_mapped h hg, pteWord_eq]
  case unmapped => exact exec_translate_unmapped h hg

end Sys2Proof.Machine
end

section
/-! Transactions (R567 to R574), route tables (R582, R583, R590, R598, R599) and polynomial tables (R311, R312): what their commands refuse,
what they stage, and what they put in force. -/
namespace Sys2Proof.Machine

section
variable (s : State) (src : Src) (p : Packet) (a : W64) (n : Nat)

@[simp] theorem State.consume_settings : (s.consume src p).settings = s.settings := by rw [State.consume_eq]

@[simp] theorem State.consume_fuses : (s.consume src p).fuses = s.fuses := by rw [State.consume_eq]

@[simp] theorem State.consume_routes : (s.consume src p).routes = s.routes := by rw [State.consume_eq]

@[simp] theorem State.consume_streams : (s.consume src p).streams = s.streams := by rw [State.consume_eq]

@[simp] theorem State.consume_sendVer : (s.consume src p).sendVer = s.sendVer := by rw [State.consume_eq]

@[simp] theorem State.consume_sendRoutes : (s.consume src p).sendRoutes = s.sendRoutes := by rw [State.consume_eq]

@[simp] theorem State.consume_polys : (s.consume src p).polys = s.polys := by rw [State.consume_eq]

@[simp] theorem State.sysTouch_routes : (s.sysTouch a n).routes = s.routes := by rw [State.sysTouch_eq]

@[simp] theorem State.sysTouch_streams : (s.sysTouch a n).streams = s.streams := by rw [State.sysTouch_eq]

@[simp] theorem State.sysTouch_sendVer : (s.sysTouch a n).sendVer = s.sendVer := by rw [State.sysTouch_eq]

@[simp] theorem State.sysTouch_sendRoutes : (s.sysTouch a n).sendRoutes = s.sendRoutes := by rw [State.sysTouch_eq]

@[simp] theorem State.sysTouch_polys : (s.sysTouch a n).polys = s.polys := by rw [State.sysTouch_eq]

/-- Whose transaction is open does not depend on what was read. -/
@[simp] theorem State.inTxn_afterConsume (c : Src) : (s.consume src p).inTxn c = s.inTxn c := by rw [State.consume_eq]; rfl

@[simp] theorem State.inTxn_sysTouch (c : Src) : (s.sysTouch a n).inTxn c = s.inTxn c := by rw [State.sysTouch_eq]; rfl

@[simp] theorem State.polyBusy_consume (k : Nat) : (s.consume src p).polyBusy k = s.polyBusy k := by rw [State.consume_eq]; rfl

@[simp] theorem State.polyBusy_sysTouch (k : Nat) : (s.sysTouch a n).polyBusy k = s.polyBusy k := by rw [State.sysTouch_eq]; rfl

@[simp] theorem State.sendRoutesBusy_consume : (s.consume src p).sendRoutesBusy = s.sendRoutesBusy := by rw [State.consume_eq]; rfl

@[simp] theorem State.sendRoutesBusy_sysTouch : (s.sysTouch a n).sendRoutesBusy = s.sendRoutesBusy := by rw [State.sysTouch_eq]; rfl

@[simp] theorem State.routeFault_consume (k : Nat) (es : List Nat) : (s.consume src p).routeFault k es = s.routeFault k es := by
  rw [State.consume_eq]; rfl

@[simp] theorem State.routeFault_sysTouch (k : Nat) (es : List Nat) : (s.sysTouch a n).routeFault k es = s.routeFault k es := by
  rw [State.sysTouch_eq]; rfl

end

/-! ## Whose transaction is open (R567) -/

section
variable {s : State} {src : Src} {p : Packet} {n : Nat} {x : Txn}

/-- A ring is in a transaction where the open one is its own. -/
theorem State.inTxn_ring_iff : s.inTxn (.ring n) = true ↔ ∃ x, s.txn = some x ∧ x.ring = n := by
  simp only [State.inTxn, Option.any_eq_true, beq_iff_eq, Src.ring.injEq, @eq_comm _ n]

theorem State.inTxn_ring_eq_false (h : ∀ x, s.txn = some x → x.ring ≠ n) : s.inTxn (.ring n) = false :=
  Bool.eq_false_iff.2 fun hin => by
    obtain ⟨x, hx, hring⟩ := State.inTxn_ring_iff.1 hin
    exact h x hx hring

/-- TXN_BEGIN opens a transaction where none is open (R567). -/
theorem exec_txnBegin (h : Accepted s (.ring n) p 0x0110) :
    exec (.txnBegin (.ring n)) s = .next (
      let t := s.consume (.ring n) p
      if s.txn.isSome then t.answer (.ring n) p { st := .busy }
      else ({ t with txn := some ⟨n, [], 0⟩ } : State).answer (.ring n) p {}) := by
  show execTxnBegin (.ring n) s = _
  unfold execTxnBegin
  rw [State.command_accepted h _ rfl]
  simp only [State.consume_txn]
  rfl

/-! ## Staging (R544, R569) -/

/-- A change that the ring's transaction has no room for is not staged (R569). -/
theorem State.stageOr_full (hx : s.txn = some x) (hring : src = .ring x.ring) (g : Staged) {m : Nat}
    (hfull : 4096 ≤ x.staged.length ∨ 2 ^ 20 < x.bytes + m) (apply : State → State) :
    s.stageOr src p g m apply = s.answer src p { st := .nofit } := by
  have hin : s.inTxn src = true := by rw [hring]; exact State.inTxn_ring_iff.2 ⟨x, hx, rfl⟩
  have hroom : ¬ s.txnRoom m = true := by
    simp only [State.txnRoom, hx, Bool.and_eq_true, decide_eq_true_eq]
    omega
  unfold State.stageOr
  rw [if_pos hin, if_neg hroom]
  rfl

/-- Outside a transaction a change is applied at once. -/
theorem State.stageOr_live (hin : s.inTxn src = false) (g : Staged) (m : Nat) (apply : State → State) :
    s.stageOr src p g m apply = (apply s).answer src p {} := by
  unfold State.stageOr
  rw [if_neg (Bool.eq_false_iff.1 hin)]
  rfl

/-- SET_SETTING of a value in its setting's range (R544). -/
theorem exec_setSetting (h : Accepted s src p 0x0104) (hget : s.settings.get (pktP p 0).toNat ≠ none)
    (hlow : (s.fuses.settingRange (pktP p 0).toNat).1 ≤ (pktP p 1).toNat)
    (hhigh : (pktP p 1).toNat ≤ (s.fuses.settingRange (pktP p 0).toNat).2) :
    exec (.setSetting src) s = .next ((s.consume src p).stageOr src p (.setting (pktP p 0).toNat (pktP p 1).toNat) 8
      (fun u => u.setSetting (pktP p 0).toNat (pktP p 1).toNat)) := by
  have hrange : ¬ ((pktP p 1).toNat < (s.fuses.settingRange (pktP p 0).toNat).1 ∨
      (pktP p 1).toNat > (s.fuses.settingRange (pktP p 0).toNat).2) := by omega
  show execSetSetting src s = _
  unfold execSetSetting
  rw [State.command_accepted h _ rfl]
  simp only [State.consume_settings, State.consume_fuses, Option.isNone_iff_eq_none, if_neg hget, Bool.or_eq_true, decide_eq_true_eq,
    if_neg hrange]

/-! ## Rollback (R574) -/

/-- What a rollback makes of an owner table: the standby of one that the transaction touched is the active generation again (R297). -/
def Txn.returned (x : Txn) (k : Nat) (o : Owner) : Owner := if k ∈ x.owners ∧ o.sealed_ = false then { o with standby := o.active } else o

/-- A rollback ends the transaction and returns the standbys that it touched. -/
theorem State.rollback_eq (hx : s.txn = some x) :
    s.rollback x.ring = { s with txn := none, owners := s.owners.map (fun q => (q.1, x.returned q.1 q.2)) } := by
  have hret : (fun q : Nat × Owner => if x.owners.contains q.1 && !q.2.sealed_ then (q.1, { q.2 with standby := q.2.active }) else q) =
      fun q => (q.1, x.returned q.1 q.2) := funext fun q => by
    simp only [Txn.returned, Bool.and_eq_true, List.contains_iff_mem, Bool.not_eq_true']
    split <;> rfl
  unfold State.rollback
  simp only [hx, beq_self_eq_true, if_true, hret]

/-- A lookup in a table whose values were changed, each by its key. -/
theorem lookupK_mapKeyed {α β : Type} (k : Nat) (f : Nat → α → β) (l : List (Nat × α)) :
    lookupK k (l.map (fun q => (q.1, f q.1 q.2))) = (lookupK k l).map (f k) := by
  induction l with
  | nil => rfl
  | cons q l ih =>
    obtain ⟨j, v⟩ := q
    by_cases h : j = k
    · subst h; simp [lookupK]
    · simp [lookupK, h, ih]

/-- A rollback of a transaction that touched no owner table only ends it. -/
theorem State.rollback_of_no_owners (hx : s.txn = some x) (howners : x.owners = []) : s.rollback x.ring = { s with txn := none } := by
  have hret : (fun q : Nat × Owner => (q.1, x.returned q.1 q.2)) = id := funext fun q => by simp [Txn.returned, howners]
  rw [State.rollback_eq hx, hret, List.map_id]

/-- TXN_ROLLBACK rolls its ring's transaction back, and is refused without one (R567, R574). -/
theorem exec_txnRollback (h : Accepted s (.ring n) p 0x0112) :
    exec (.txnRollback (.ring n)) s = .next (
      let t := s.consume (.ring n) p
      if s.inTxn (.ring n) then (t.rollback n).answer (.ring n) p {} else t.answer (.ring n) p { st := .txn }) := by
  show execTxnRollback (.ring n) s = _
  unfold execTxnRollback
  rw [State.command_accepted h _ rfl]
  simp only [State.inTxn_afterConsume]
  rfl

/-! ## Commit (R571, R572) -/

/-- TXN_COMMIT without its ring's transaction is refused (R567). -/
theorem exec_txnCommit_outside (h : Accepted s (.ring n) p 0x0111) (hout : ∀ x, s.txn = some x → x.ring ≠ n) :
    exec (.txnCommit (.ring n)) s = .next ((s.consume (.ring n) p).answer (.ring n) p { st := .txn }) := by
  show execTxnCommit (.ring n) s = _
  unfold execTxnCommit
  rw [State.command_accepted h _ rfl]
  cases hx : s.txn with
  | none => simp only [State.consume_txn, hx]; rfl
  | some x => simp only [State.consume_txn, hx, bne_iff_ne, ne_eq, if_pos (hout x hx)]; rfl

/-- TXN_COMMIT with a change that can no longer be applied rolls the transaction back whole (R571). -/
theorem exec_txnCommit_refused (hx : s.txn = some x) (h : Accepted s (.ring x.ring) p 0x0111) {st : St} {i : Nat}
    (hfault : (s.consume (.ring x.ring) p).commitFault (s.consume (.ring x.ring) p) 0 x.staged = some (st, i)) :
    exec (.txnCommit (.ring x.ring)) s =
      .next (((s.consume (.ring x.ring) p).rollback x.ring).answer (.ring x.ring) p { st := st, r1 := i }) := by
  show execTxnCommit (.ring x.ring) s = _
  unfold execTxnCommit
  rw [State.command_accepted h _ rfl]
  simp only [State.consume_txn, hx, bne_self_eq_false, Bool.false_eq_true, if_false, hfault]
  rfl

/-- TXN_COMMIT of changes that can all be applied, none of them of an owner table, applies them and ends the transaction (R572). -/
theorem exec_txnCommit_applied (hx : s.txn = some x) (h : Accepted s (.ring x.ring) p 0x0111)
    (hfault : (s.consume (.ring x.ring) p).commitFault (s.consume (.ring x.ring) p) 0 x.staged = none) (howners : x.owners = []) :
    exec (.txnCommit (.ring x.ring)) s = .next (
      (({ s.consume (.ring x.ring) p with txn := none } : State).applyTxn x).answer (.ring x.ring) p { r0 := x.staged.length }) := by
  show execTxnCommit (.ring x.ring) s = _
  unfold execTxnCommit
  rw [State.command_accepted h _ rfl]
  simp only [State.consume_txn, hx, bne_self_eq_false, Bool.false_eq_true, if_false, hfault, howners, List.isEmpty_nil, if_true]
  rfl

end

/-- A staged change of a setting or of the event mask. -/
def Staged.OfSettings (g : Staged) : Prop := (∃ no v, g = .setting no v) ∨ ∃ m, g = .events m

/-- The settings with a staged change of them made. -/
def Settings.stage (w : Settings) : Staged → Settings
  | .setting no v => w.set no v
  | .events m => { w with eventMask := m }
  | _ => w

section
variable {l : List Staged} (hl : ∀ g ∈ l, g.OfSettings)
include hl

/-- Changes of settings can always be applied (R571). -/
theorem State.commitFault_settings (s base : State) (i : Nat) : s.commitFault base i l = none := by
  induction l generalizing i base with
  | nil => rfl
  | cons g l ih =>
    obtain ⟨hg, hrest⟩ := List.forall_mem_cons.1 hl
    obtain ⟨no, v, rfl⟩ | ⟨m, rfl⟩ := hg <;> exact ih hrest _ _

/-- Changes of settings are made in their order (R572). -/
theorem State.foldl_applySimple_settings (s : State) :
    l.foldl State.applySimple s = { s with settings := l.foldl Settings.stage s.settings } := by
  induction l generalizing s with
  | nil => rfl
  | cons g l ih =>
    obtain ⟨hg, hrest⟩ := List.forall_mem_cons.1 hl
    obtain ⟨no, v, rfl⟩ | ⟨m, rfl⟩ := hg <;> exact ih hrest _

/-- Changes of settings stage no table. -/
theorem Txn.tables_of_settings (ring bytes : Nat) :
    (Txn.mk ring l bytes).owners = [] ∧ (Txn.mk ring l bytes).sendWrites = [] ∧ (Txn.mk ring l bytes).polys = [] := by
  induction l with
  | nil => exact ⟨rfl, rfl, rfl⟩
  | cons g l ih =>
    obtain ⟨hg, hrest⟩ := List.forall_mem_cons.1 hl
    obtain ⟨no, v, rfl⟩ | ⟨m, rfl⟩ := hg <;> exact ih hrest

end

/-- A transaction of settings and event masks changes the settings alone (R572). -/
theorem State.applyTxn_settings (s : State) {x : Txn} (hx : ∀ g ∈ x.staged, g.OfSettings) :
    s.applyTxn x = { s with settings := x.staged.foldl Settings.stage s.settings } := by
  obtain ⟨howners, hsends, hpolys⟩ := Txn.tables_of_settings hx x.ring x.bytes
  unfold State.applyTxn
  simp only [howners, hsends, hpolys, List.isEmpty_nil, if_true, List.dedup_nil, List.foldl_nil]
  exact State.foldl_applySimple_settings hx s

/-! ## ROUTE_WRITE (R583, R590, R604) -/

section
variable {s : State} {src : Src} {p : Packet}

theorem exec_routeWrite_bounds (h : Accepted s src p 0x0108) (hfar : 4096 < (pktP p 0).toNat + (pktP p 1).toNat) :
    exec (.routeWrite src) s = .next ((s.consume src p).answer src p { st := .bounds }) := by
  show execRouteWrite src s = _
  unfold execRouteWrite
  rw [State.command_accepted h _ rfl]
  exact congrArg _ (if_pos hfar)

/-- Outside a transaction, entries are checked against the live routes. -/
theorem State.stagedRoutes_live (hin : s.inTxn src = false) : s.stagedRoutes src = s := by
  unfold State.stagedRoutes
  simp only [hin, Bool.false_eq_true, if_false]
  split <;> rfl

/-- ROUTE_WRITE outside a transaction of entries that can be read: what R583 finds, or the routes written. -/
theorem exec_routeWrite (h : Accepted s src p 0x0108) (hin : s.inTxn src = false)
    (hfit : (pktP p 0).toNat + (pktP p 1).toNat ≤ 4096) (hblock : s.blockFault (pktP p 2) (8 * (pktP p 1).toNat) 2 = none) :
    exec (.routeWrite src) s = .next (
      let es := entriesOf 8 (pktP p 1).toNat (s.sysBytes (pktP p 2) (8 * (pktP p 1).toNat))
      let q := (s.consume src p).sysTouch (pktP p 2) (8 * (pktP p 1).toNat)
      (s.routeFault (pktP p 0).toNat es).elim ((q.applyRoutes (pktP p 0).toNat es).answer src p {})
        (fun e => q.answer src p { st := e.st, detail := e.detail })) := by
  have hread := State.withBlock_ok (s := s.consume src p) (n := 8 * (pktP p 1).toNat) (word := 2)
    (by rw [State.blockFault_consume]; exact hblock) src
  have hlive : ((s.consume src p).sysTouch (pktP p 2) (8 * (pktP p 1).toNat)).inTxn src = false := by simpa using hin
  show execRouteWrite src s = _
  unfold execRouteWrite
  rw [State.command_accepted h _ rfl]
  simp only [gt_iff_lt, if_neg (Nat.not_lt.2 hfit), hread, State.stagedRoutes_live hlive, State.stageOr_live hlive, State.sysBytes_consume,
    State.routeFault_sysTouch, State.routeFault_consume]
  cases s.routeFault (pktP p 0).toNat (entriesOf 8 (pktP p 1).toNat (s.sysBytes (pktP p 2) (8 * (pktP p 1).toNat))) <;> rfl

/-- An entry with a reserved bit set is refused first (R582, R583). -/
theorem State.routeFault_reserved {es : List Nat} (hbad : ∃ e ∈ es, bits e 41 0 ≠ 0) (first : Nat) :
    s.routeFault first es = some ⟨.field, 2⟩ := by
  have hany : es.any (fun e => bits e 41 0 != 0) = true := by simpa using hbad
  unfold State.routeFault
  simp only [firstFail, hany, if_true]

/-- Two streams that number and hold their packets alike. -/
def Stream.SameOrder (a b : Stream) : Prop := a.nextSeq = b.nextSeq ∧ a.unacked = b.unacked ∧ a.expect = b.expect

/-- A stream no longer marked unreachable (R604). -/
def State.clearUnreachable (s : State) (sock : Nat) : State :=
  if (s.stream sock).unreachable then s.updStream sock (fun q => { q with unreachable := false }) else s

theorem State.clearUnreachable_frame (s : State) (sock : Nat) :
    s.clearUnreachable sock = { s with streams := (s.clearUnreachable sock).streams } := by
  unfold State.clearUnreachable; split <;> rfl

theorem State.stream_updStream (s : State) (sock : Nat) (f : Stream → Stream) (k : Nat) :
    (s.updStream sock f).stream k = if k = sock then f (s.stream k) else s.stream k := by
  unfold State.updStream State.stream lookupD
  split
  next h => subst h; rw [lookupK_insertK_self, Option.getD_some]
  next h => rw [lookupK_insertK_ne _ _ _ _ h]

theorem State.clearUnreachable_order (s : State) (sock k : Nat) : ((s.clearUnreachable sock).stream k).SameOrder (s.stream k) := by
  unfold State.clearUnreachable
  split
  · rw [State.stream_updStream]
    split <;> exact ⟨rfl, rfl, rfl⟩
  · exact ⟨rfl, rfl, rfl⟩

/-- Routes written that start no stream again leave every stream's packets as they are, and change nothing else but the routes (R590). -/
theorem State.applyRoutes_of_no_restart {first : Nat} {es : List Nat}
    (h : ∀ i e, es[i]? = some e → routeRestarts (s.routeOf (first + i)) e = false) :
    (∀ k, ((s.applyRoutes first es).stream k).SameOrder (s.stream k)) ∧
      s.applyRoutes first es =
        { s with routes := placeEntries first es s.routes, streams := (s.applyRoutes first es).streams } := by
  have hclear : s.applyRoutes first es = es.zipIdx.foldl (fun t q => t.clearUnreachable (first + q.2))
      { s with routes := placeEntries first es s.routes } :=
    List.foldl_ext _ _ _ fun t q hq => by
      simp only [h q.2 q.1 (List.mem_zipIdx_iff_getElem?.1 hq), Bool.false_eq_true, if_false]
      rfl
  rw [hclear]
  refine foldl_keeps (P := fun t : State => (∀ k, (t.stream k).SameOrder (s.stream k)) ∧
    t = { s with routes := placeEntries first es s.routes, streams := t.streams }) (fun t q ht => ?_) _ _
    ⟨fun k => ⟨rfl, rfl, rfl⟩, rfl⟩
  obtain ⟨horder, hframe⟩ := ht
  refine ⟨fun k => ?_, ?_⟩
  · obtain ⟨hseq, hunacked, hexpect⟩ := State.clearUnreachable_order t (first + q.2) k
    obtain ⟨hseq', hunacked', hexpect'⟩ := horder k
    exact ⟨hseq.trans hseq', hunacked.trans hunacked', hexpect.trans hexpect'⟩
  · rw [State.clearUnreachable_frame, hframe]

/-! ## SENDROUTE_WRITE (R598, R599) -/

theorem exec_sendrouteWrite_bounds (h : Accepted s src p 0x0109) (hfar : 256 < (pktP p 0).toNat + (pktP p 1).toNat) :
    exec (.sendrouteWrite src) s = .next ((s.consume src p).answer src p { st := .bounds }) := by
  show execSendrouteWrite src s = _
  unfold execSendrouteWrite
  rw [State.command_accepted h _ rfl]
  exact congrArg _ (if_pos hfar)

/-- SENDROUTE_WRITE outside a transaction of entries that can be read. -/
theorem exec_sendrouteWrite (h : Accepted s src p 0x0109) (hin : s.inTxn src = false)
    (hfit : (pktP p 0).toNat + (pktP p 1).toNat ≤ 256) (hblock : s.blockFault (pktP p 2) (32 * (pktP p 1).toNat) 2 = none) :
    exec (.sendrouteWrite src) s = .next (
      let es := entriesOf 32 (pktP p 1).toNat (s.sysBytes (pktP p 2) (32 * (pktP p 1).toNat))
      let q := (s.consume src p).sysTouch (pktP p 2) (32 * (pktP p 1).toNat)
      if es.any srReserved then q.answer src p { st := .field, detail := 2 }
      else if s.sendRoutesBusy then q.answer src p { st := .busy }
      else ({ q with sendVer := s.sendVer + 1, sendPrev := s.sendRoutes
                     sendRoutes := placeEntries (pktP p 0).toNat es s.sendRoutes } : State).answer src p {}) := by
  have hread := State.withBlock_ok (s := s.consume src p) (n := 32 * (pktP p 1).toNat) (word := 2)
    (by rw [State.blockFault_consume]; exact hblock) src
  have hlive : ((s.consume src p).sysTouch (pktP p 2) (32 * (pktP p 1).toNat)).inTxn src = false := by simpa using hin
  show execSendrouteWrite src s = _
  unfold execSendrouteWrite
  rw [State.command_accepted h _ rfl]
  simp only [gt_iff_lt, if_neg (Nat.not_lt.2 hfit), hread, State.stageOr_live hlive, State.sysBytes_consume, State.sendRoutesBusy_sysTouch,
    State.sendRoutesBusy_consume, State.applySendRoutes, List.foldl_cons, List.foldl_nil, State.sysTouch_sendVer, State.consume_sendVer,
    State.sysTouch_sendRoutes, State.consume_sendRoutes]
  rfl

/-! ## LOAD_POLY (R311, R312) -/

/-- LOAD_POLY outside a transaction of a table that can be read. -/
theorem exec_loadPoly (h : Accepted s src p 0x0306) (hin : s.inTxn src = false) (hno : (pktP p 0).toNat < 64)
    (hblock : s.blockFault (pktP p 1) 512 1 = none) :
    exec (.loadPoly src) s = .next (
      let es := entriesOf 32 16 (s.sysBytes (pktP p 1) 512)
      let q := (s.consume src p).sysTouch (pktP p 1) 512
      if polyBad es then q.answer src p { st := .field, detail := 1 }
      else if s.polyBusy (pktP p 0).toNat then q.answer src p { st := .busy }
      else ({ q with polys := updateAt s.polys (pktP p 0).toNat (fun t => ⟨t.ver + 1, es, t.cur⟩) } : State).answer src p {}) := by
  have hread := State.withBlock_ok (s := s.consume src p) (n := 512) (word := 1)
    (by rw [State.blockFault_consume]; exact hblock) src
  have hlive : ((s.consume src p).sysTouch (pktP p 1) 512).inTxn src = false := by simpa using hin
  show execLoadPoly src s = _
  unfold execLoadPoly
  rw [State.command_accepted h _ rfl]
  simp only [ge_iff_le, if_neg (Nat.not_le.2 hno), hread, State.stageOr_live hlive, hlive, Bool.not_false, Bool.true_and,
    State.sysBytes_consume, State.polyBusy_sysTouch, State.polyBusy_consume, State.applyPoly, State.sysTouch_polys, State.consume_polys]
  rfl

end

/-- Settles O30: transactions by the equations of TXN_BEGIN, SET_SETTING, TXN_COMMIT and TXN_ROLLBACK, with what a commit of settings
applies (`applyTxn_settings`) and what a rollback returns (`rollback_eq`); the tables by the equations of their commands, with
`applyRoutes_of_no_restart` for the streams. That a staged setting counts 8 bytes is the model's choice (log entry 67). -/
theorem transactionsRoutes : Obligations.TransactionsRoutes := by
  unfold Obligations.TransactionsRoutes
  refine ⟨fun s n p => ⟨fun h => ⟨fun hnone => ?begun, fun x hx => ?begunBusy⟩, fun x hx hring h hget hlow hhigh =>
      ⟨fun hcount hbytes => ?staged, fun hfull => ?full⟩, fun x hx hring h => ⟨fun hsettings => ?commit, fun k es hstaged hbusy => ?held⟩,
      fun x hx hring h => ?rollback, fun hout => ⟨fun h => exec_txnCommit_outside h hout, fun h => ?rollbackOutside⟩⟩,
    fun s src p hin => ⟨fun h => ⟨fun hfar => exec_routeWrite_bounds h hfar, fun hfit hblock =>
        ⟨fun hbad => ?routeReserved, fun hfault hkeep => ?route⟩⟩,
      fun h => ⟨fun hfar => exec_sendrouteWrite_bounds h hfar, fun hfit hblock =>
        ⟨fun hbad => ?sendReserved, fun hok hbusy => ?sendBusy, fun hok hfree => ?send⟩⟩,
      fun h hno hblock => ⟨fun hbad => ?polyBad, fun hok hbusy => ?polyBusy, fun hok hfree => ?poly⟩⟩⟩
  case begun => rw [exec_txnBegin h, hnone]; rfl
  case begunBusy => rw [exec_txnBegin h, hx]; rfl
  case staged =>
    subst hring
    rw [exec_setSetting h hget hlow hhigh, State.stageOr_txn (by simpa using hx) rfl _ hcount hbytes]
    rfl
  case full =>
    subst hring
    rw [exec_setSetting h hget hlow hhigh, State.stageOr_full (by simpa using hx) rfl _ hfull]
  case commit =>
    subst hring
    rw [exec_txnCommit_applied hx h (State.commitFault_settings hsettings _ _ _) (Txn.tables_of_settings hsettings x.ring x.bytes).1,
      State.applyTxn_settings _ hsettings]
    simp only [State.consume_settings]
    rfl
  case held =>
    subst hring
    have hfault : (s.consume (.ring x.ring) p).commitFault (s.consume (.ring x.ring) p) 0 x.staged = some (.busy, 0) := by
      simp only [hstaged, State.commitFault, State.stagedFault, State.polyBusy_consume, hbusy, if_true]
    have howners : x.owners = [] := by simp only [Txn.owners, hstaged, List.filterMap_cons, List.filterMap_nil]
    rw [exec_txnCommit_refused hx h hfault, State.rollback_of_no_owners (by simpa using hx) howners]
  case rollback =>
    subst hring
    refine ⟨(s.consume (.ring x.ring) p).rollback x.ring, ?_, ?_⟩
    · rw [exec_txnRollback h]
      exact congrArg _ (if_pos (State.inTxn_ring_iff.2 ⟨x, hx, rfl⟩))
    · rw [State.rollback_eq (by simpa using hx)]
      refine ⟨rfl, fun k o ho => ?_, rfl⟩
      rw [State.consume_owners, lookupK_mapKeyed, ho]
      rfl
  case rollbackOutside =>
    rw [exec_txnRollback h, State.inTxn_ring_eq_false hout]
    rfl
  case routeReserved =>
    rw [exec_routeWrite h hin hfit hblock]
    simp only [State.routeFault_reserved hbad, Option.elim_some]
  case route =>
    rw [exec_routeWrite h hin hfit hblock]
    simp only [hfault, Option.elim_none]
    generalize entriesOf 8 (pktP p 1).toNat (s.sysBytes (pktP p 2) (8 * (pktP p 1).toNat)) = es at hkeep ⊢
    obtain ⟨horder, hframe⟩ := State.applyRoutes_of_no_restart
      (s := (s.consume src p).sysTouch (pktP p 2) (8 * (pktP p 1).toNat)) (by simpa [State.routeOf] using hkeep)
    refine ⟨_, rfl, ?_, fun k => ?_, ?_⟩
    · rw [hframe, State.sysTouch_routes, State.consume_routes]
    · simpa only [Stream.SameOrder, State.stream, State.sysTouch_streams, State.consume_streams] using horder k
    · rw [hframe]
  case sendReserved => rw [exec_sendrouteWrite h hin hfit hblock]; exact congrArg _ (if_pos hbad)
  case sendBusy => rw [exec_sendrouteWrite h hin hfit hblock]; simp only [hok, hbusy, Bool.false_eq_true, if_false, if_true]
  case send => rw [exec_sendrouteWrite h hin hfit hblock]; simp only [hok, hfree, Bool.false_eq_true, if_false]
  case polyBad => rw [exec_loadPoly h hin hno hblock]; exact congrArg _ (if_pos hbad)
  case polyBusy => rw [exec_loadPoly h hin hno hblock]; simp only [hok, hbusy, Bool.false_eq_true, if_false, if_true]
  case poly => rw [exec_loadPoly h hin hno hblock]; simp only [hok, hfree, Bool.false_eq_true, if_false]

end Sys2Proof.Machine
end

section
/-! Words of tile programs (R346, R348, R355): an instruction's word as a stack of its fields, and the fields read back. -/
namespace Sys2Proof
open Machine

theorem bits_lt (w hi lo : Nat) : bits w hi lo < 2 ^ (hi + 1 - lo) := Nat.mod_lt _ (Nat.two_pow_pos _)

theorem b2n_lt (b : Bool) : b2n b < 2 ^ 1 := by cases b <;> decide

/-! ## The fields of an instruction's word -/

/-- The fields below the opcode of a transfer instruction. -/
def TF.fields (f : TF) : List Field :=
  [⟨53, 3, f.slot⟩, ⟨45, 8, f.sh⟩, ⟨43, 2, f.ps⟩, ⟨38, 5, f.xo⟩, ⟨33, 5, f.xe⟩, ⟨30, 3, f.role⟩, ⟨29, 1, b2n f.gw⟩, ⟨23, 6, f.chn⟩,
   ⟨20, 3, f.slot2⟩, ⟨19, 1, b2n f.bl⟩, ⟨16, 3, f.gdim⟩, ⟨8, 8, f.ss⟩, ⟨7, 1, b2n f.choice⟩, ⟨6, 1, b2n f.exact_⟩]

/-- The fields below the opcode of MMA, SPMA and SPGE. -/
def MF.fields (f : MF) : List Field :=
  [⟨48, 8, f.sa⟩, ⟨40, 8, f.sb⟩, ⟨32, 8, f.sp⟩, ⟨27, 5, f.xk⟩, ⟨22, 5, f.xv⟩, ⟨20, 2, f.mc⟩, ⟨18, 2, f.nc⟩, ⟨16, 2, f.flow⟩,
   ⟨14, 2, f.start⟩, ⟨12, 2, f.pkind⟩, ⟨10, 2, f.mode⟩, ⟨8, 2, f.eng⟩, ⟨5, 3, f.qtr⟩, ⟨4, 1, b2n f.noskip⟩, ⟨2, 2, f.pskip⟩,
   ⟨1, 1, b2n f.cardA⟩, ⟨0, 1, b2n f.cardB⟩]

/-- The fields below the opcode, from the highest down; the bit that tells two forms of one opcode apart stands among them. -/
def TileInstr.operands : TileInstr → List Field
  | .setx xd imm => [⟨51, 5, xd⟩, ⟨0, 48, imm⟩]
  | .addx xd xs xt sh imm => [⟨51, 5, xd⟩, ⟨46, 5, xs⟩, ⟨41, 5, xt⟩, ⟨35, 6, sh⟩, ⟨0, 32, imm⟩]
  | .loop xc imm len => [⟨51, 5, xc⟩, ⟨35, 16, imm⟩, ⟨22, 13, len⟩]
  | .br xs xt cond off => [⟨51, 5, xs⟩, ⟨46, 5, xt⟩, ⟨43, 3, cond⟩, ⟨0, 16, off⟩]
  | .load f | .store f | .gather f | .scatter f | .loadcard f => f.fields
  | .mma f | .spma f | .spge f => f.fields
  | .ewiseDiag f => [⟨55, 1, b2n false⟩, ⟨54, 1, b2n f.mad⟩, ⟨53, 1, b2n f.xsel⟩, ⟨45, 8, f.wsh⟩, ⟨44, 1, b2n f.all⟩, ⟨40, 4, f.slotno⟩,
      ⟨37, 3, f.qtr⟩, ⟨36, 1, b2n f.loads⟩, ⟨28, 8, f.ssh⟩]
  | .ewiseChain src dst chn xr => [⟨55, 1, b2n true⟩, ⟨45, 8, src⟩, ⟨37, 8, dst⟩, ⟨31, 6, chn⟩, ⟨26, 5, xr⟩]
  | .reduce kind src dst xn => [⟨53, 3, kind⟩, ⟨45, 8, src⟩, ⟨37, 8, dst⟩, ⟨32, 5, xn⟩]
  | .reduceSplitk src dst xn toacc => [⟨53, 3, 3⟩, ⟨45, 8, src⟩, ⟨37, 8, dst⟩, ⟨32, 5, xn⟩, ⟨31, 1, b2n toacc⟩]
  | .drain chn dsh xr qtr => [⟨50, 6, chn⟩, ⟨42, 8, dsh⟩, ⟨37, 5, xr⟩, ⟨34, 3, qtr⟩, ⟨33, 1, b2n false⟩]
  | .drainPartial dsh xr qtr => [⟨42, 8, dsh⟩, ⟨37, 5, xr⟩, ⟨34, 3, qtr⟩, ⟨33, 1, b2n true⟩]
  | .take xd ctr => [⟨51, 5, xd⟩, ⟨45, 6, ctr⟩]
  | .commit xd => [⟨51, 5, xd⟩]
  | .send sh xn route xa => [⟨48, 8, sh⟩, ⟨43, 5, xn⟩, ⟨35, 8, route⟩, ⟨30, 5, xa⟩]
  | .tally no xs xr => [⟨44, 12, no⟩, ⟨39, 5, xs⟩, ⟨34, 5, xr⟩]
  | .wait no xs => [⟨44, 12, no⟩, ⟨39, 5, xs⟩]
  | .dbg xs code => [⟨51, 5, xs⟩, ⟨35, 16, code⟩]
  | .yield | .fence | .halt => []

/-- The fields of an instruction's word. -/
def TileInstr.fields (i : TileInstr) : List Field := ⟨56, 8, i.opcode⟩ :: i.operands

theorem stackOk_fields (i : TileInstr) : stackOk i.fields = true := by cases i <;> rfl

/-- Every field of a list holds its value within its width. -/
def fieldsFit (l : List Field) : Bool := l.all (fun f => f.value < 2 ^ f.width)

theorem fieldsFit_tf {f : TF} (h : f.wf = true) : fieldsFit f.fields = true := by
  simp only [TF.wf, Bool.and_eq_true, decide_eq_true_eq] at h
  simp only [TF.fields, fieldsFit, List.all_cons, List.all_nil, Bool.and_eq_true, decide_eq_true_eq, b2n_lt, and_true, true_and]
  omega

theorem fieldsFit_mf {f : MF} (h : f.wf = true) : fieldsFit f.fields = true := by
  simp only [MF.wf, Bool.and_eq_true, decide_eq_true_eq] at h
  simp only [MF.fields, fieldsFit, List.all_cons, List.all_nil, Bool.and_eq_true, decide_eq_true_eq, b2n_lt, and_true, true_and]
  omega

theorem fieldsFit_operands {i : TileInstr} (h : i.wf = true) : fieldsFit i.operands = true := by
  cases i
  case load f | store f | gather f | scatter f | loadcard f => exact fieldsFit_tf h
  case mma f | spma f | spge f => exact fieldsFit_mf h
  case yield | fence | halt => rfl
  all_goals
    simp only [TileInstr.wf, DiagF.wf, Bool.and_eq_true, decide_eq_true_eq] at h
    simp only [TileInstr.operands, fieldsFit, List.all_cons, List.all_nil, Bool.and_eq_true, decide_eq_true_eq, b2n_lt, and_true, true_and]
    omega

theorem fieldsFit_fields {i : TileInstr} (h : i.wf = true) : fieldsFit i.fields = true := by
  have hop : i.opcode < 2 ^ 8 := by cases i <;> simp [TileInstr.opcode]
  simp only [TileInstr.fields, fieldsFit, List.all_cons, hop, decide_true, Bool.true_and]
  exact fieldsFit_operands h

/-- The fields of a list added up as they stand. -/
def sumFields : List Field → Nat
  | [] => 0
  | f :: r => at_ f.lo f.value + sumFields r

theorem sumFields_nil : sumFields [] = 0 := rfl

theorem sumFields_cons (lo n v : Nat) (r : List Field) : sumFields (⟨lo, n, v⟩ :: r) = at_ lo v + sumFields r := by rw [sumFields]

theorem stack_of_fit : ∀ {l : List Field}, fieldsFit l = true → stack l = sumFields l
  | [], _ => rfl
  | f :: r, h => by
    simp only [fieldsFit, List.all_cons, Bool.and_eq_true, decide_eq_true_eq] at h
    rw [stack, sumFields, low, Nat.mod_eq_of_lt h.1, stack_of_fit h.2]

/-- The word of an instruction is the stack of its fields. -/
theorem encodeTile_eq_stack {i : TileInstr} (h : i.wf = true) : encodeTile i = stack i.fields := by
  have at_none : ∀ k, at_ k (b2n false) = 0 := fun k => Nat.zero_shiftLeft k
  have at_bottom : ∀ v, at_ 0 v = v := fun v => Nat.shiftLeft_zero
  have b2n_true : b2n true = 1 := rfl
  rw [stack_of_fit (fieldsFit_fields h)]
  cases i <;>
    simp only [TileInstr.fields, TileInstr.operands, TF.fields, MF.fields, TileInstr.opcode, encodeTile, encTF, encMF, sumFields_cons,
      sumFields_nil, add_assoc, add_zero, zero_add, at_none, at_bottom, b2n_true]

theorem encodeTile_lt {i : TileInstr} (h : i.wf = true) : encodeTile i < 2 ^ 64 := by
  rw [encodeTile_eq_stack h]; exact stack_lt _ (stackOk_fields i)

/-! ## Fields read back -/

/-- A field that fits, read where it stands. -/
theorem bits_stack_of_find {l : List Field} (hl : stackOk l = true) (hv : fieldsFit l = true) {hi lo n v : Nat}
    (hf : l.find? (fun f => f.lo == lo) = some ⟨lo, n, v⟩) (hhi : hi + 1 = lo + n) : bits (stack l) hi lo = v := by
  have hm := List.mem_of_find?_eq_some hf
  have hlt : v < 2 ^ n := by simpa using List.all_eq_true.1 hv _ hm
  have h := bits_stack hl _ hm
  rw [show lo + n - 1 = hi by omega] at h
  rw [h]; exact Nat.mod_eq_of_lt hlt

/-- A field of one bit, read where it stands. -/
theorem bit_stack_of_find {l : List Field} (hl : stackOk l = true) (hv : fieldsFit l = true) {lo : Nat} {b : Bool}
    (hf : l.find? (fun f => f.lo == lo) = some ⟨lo, 1, b2n b⟩) : bit (stack l) lo = b := by
  have h := bits_stack_of_find hl hv hf rfl
  rw [bits, show lo + 1 - lo = 1 by omega] at h
  rw [bit, show (2 : Nat) = 2 ^ 1 from rfl, h]; cases b <;> rfl

section
variable {i : TileInstr} (h : i.wf = true)
include h

/-- A field of an instruction's word, read where it stands. -/
theorem bits_encodeTile {hi lo n v : Nat} (hf : i.fields.find? (fun f => f.lo == lo) = some ⟨lo, n, v⟩) (hhi : hi + 1 = lo + n) :
    bits (encodeTile i) hi lo = v := by
  rw [encodeTile_eq_stack h]; exact bits_stack_of_find (stackOk_fields i) (fieldsFit_fields h) hf hhi

/-- A field of one bit of an instruction's word, read where it stands. -/
theorem bit_encodeTile {lo : Nat} {b : Bool} (hf : i.fields.find? (fun f => f.lo == lo) = some ⟨lo, 1, b2n b⟩) :
    bit (encodeTile i) lo = b := by
  rw [encodeTile_eq_stack h]; exact bit_stack_of_find (stackOk_fields i) (fieldsFit_fields h) hf

theorem opcode_encodeTile : bits (encodeTile i) 63 56 = i.opcode := bits_encodeTile h rfl rfl

/-- The transfer fields of a word whose operands are those fields. -/
theorem decTF_encodeTile {f : TF} (hf : i.operands = f.fields) : decTF (encodeTile i) = f := by
  have num : ∀ {hi lo n v}, (⟨56, 8, i.opcode⟩ :: f.fields).find? (fun g => g.lo == lo) = some ⟨lo, n, v⟩ → hi + 1 = lo + n →
      bits (encodeTile i) hi lo = v := fun h1 h2 => bits_encodeTile h (by rw [TileInstr.fields, hf]; exact h1) h2
  have flag : ∀ {lo b}, (⟨56, 8, i.opcode⟩ :: f.fields).find? (fun g => g.lo == lo) = some ⟨lo, 1, b2n b⟩ →
      bit (encodeTile i) lo = b := fun h1 => bit_encodeTile h (by rw [TileInstr.fields, hf]; exact h1)
  cases f
  simp only [decTF, TF.mk.injEq]
  exact ⟨num rfl rfl, num rfl rfl, num rfl rfl, num rfl rfl, num rfl rfl, num rfl rfl, flag rfl, num rfl rfl, num rfl rfl, flag rfl,
    num rfl rfl, num rfl rfl, flag rfl, flag rfl⟩

/-- The MMA fields of a word whose operands are those fields. -/
theorem decMF_encodeTile {f : MF} (hf : i.operands = f.fields) : decMF (encodeTile i) = f := by
  have num : ∀ {hi lo n v}, (⟨56, 8, i.opcode⟩ :: f.fields).find? (fun g => g.lo == lo) = some ⟨lo, n, v⟩ → hi + 1 = lo + n →
      bits (encodeTile i) hi lo = v := fun h1 h2 => bits_encodeTile h (by rw [TileInstr.fields, hf]; exact h1) h2
  have flag : ∀ {lo b}, (⟨56, 8, i.opcode⟩ :: f.fields).find? (fun g => g.lo == lo) = some ⟨lo, 1, b2n b⟩ →
      bit (encodeTile i) lo = b := fun h1 => bit_encodeTile h (by rw [TileInstr.fields, hf]; exact h1)
  cases f
  simp only [decMF, MF.mk.injEq]
  exact ⟨num rfl rfl, num rfl rfl, num rfl rfl, num rfl rfl, num rfl rfl, num rfl rfl, num rfl rfl, num rfl rfl, num rfl rfl, num rfl rfl,
    num rfl rfl, num rfl rfl, num rfl rfl, flag rfl, num rfl rfl, flag rfl, flag rfl⟩

/-- The fields of an instruction's word are the instruction's. -/
theorem fieldsOf_encodeTile (hl : tileLegal i = true) : fieldsOf (encodeTile i) = some i := by
  have hop := opcode_encodeTile h
  have num : ∀ {hi lo n v}, i.fields.find? (fun g => g.lo == lo) = some ⟨lo, n, v⟩ → hi + 1 = lo + n → bits (encodeTile i) hi lo = v :=
    bits_encodeTile h
  have flag : ∀ {lo b}, i.fields.find? (fun g => g.lo == lo) = some ⟨lo, 1, b2n b⟩ → bit (encodeTile i) lo = b := bit_encodeTile h
  have tf := fun f => decTF_encodeTile h (f := f)
  have mf := fun f => decMF_encodeTile h (f := f)
  unfold fieldsOf
  rw [hop]
  cases i <;> simp only [TileInstr.opcode, Option.some.injEq]
  case load | store | gather | scatter | loadcard => rw [tf _ rfl]
  case mma | spma | spge => rw [mf _ rfl]
  case setx => exact TileInstr.setx.injEq .. ▸ ⟨num rfl rfl, num rfl rfl⟩
  case addx => exact TileInstr.addx.injEq .. ▸ ⟨num rfl rfl, num rfl rfl, num rfl rfl, num rfl rfl, num rfl rfl⟩
  case loop => exact TileInstr.loop.injEq .. ▸ ⟨num rfl rfl, num rfl rfl, num rfl rfl⟩
  case br => exact TileInstr.br.injEq .. ▸ ⟨num rfl rfl, num rfl rfl, num rfl rfl, num rfl rfl⟩
  case take => exact TileInstr.take.injEq .. ▸ ⟨num rfl rfl, num rfl rfl⟩
  case send => exact TileInstr.send.injEq .. ▸ ⟨num rfl rfl, num rfl rfl, num rfl rfl, num rfl rfl⟩
  case tally => exact TileInstr.tally.injEq .. ▸ ⟨num rfl rfl, num rfl rfl, num rfl rfl⟩
  case wait => exact TileInstr.wait.injEq .. ▸ ⟨num rfl rfl, num rfl rfl⟩
  case dbg => exact TileInstr.dbg.injEq .. ▸ ⟨num rfl rfl, num rfl rfl⟩
  case commit => rw [num rfl (hi := 55) (lo := 51) rfl]
  case ewiseChain =>
    rw [if_pos (flag rfl)]
    exact congrArg some (TileInstr.ewiseChain.injEq .. ▸ ⟨num rfl rfl, num rfl rfl, num rfl rfl, num rfl rfl⟩)
  case ewiseDiag f =>
    rw [if_neg (Bool.eq_false_iff.1 (flag rfl))]
    cases f
    exact congrArg some (congrArg TileInstr.ewiseDiag (DiagF.mk.injEq .. ▸
      ⟨flag rfl, flag rfl, num rfl rfl, flag rfl, num rfl rfl, num rfl rfl, flag rfl, num rfl rfl⟩))
  case reduceSplitk =>
    rw [if_pos (num (hi := 55) (lo := 53) rfl rfl)]
    exact congrArg some (TileInstr.reduceSplitk.injEq .. ▸ ⟨num rfl rfl, num rfl rfl, num rfl rfl, flag rfl⟩)
  case reduce kind src dst xn =>
    have hk : bits (encodeTile (.reduce kind src dst xn)) 55 53 = kind := num rfl rfl
    have h3 : kind ≠ 3 := by simp [tileLegal] at hl; omega
    rw [hk, if_neg h3]
    exact congrArg some (TileInstr.reduce.injEq .. ▸ ⟨rfl, num rfl rfl, num rfl rfl, num rfl rfl⟩)
  case drainPartial =>
    rw [if_pos (flag rfl)]
    exact congrArg some (TileInstr.drainPartial.injEq .. ▸ ⟨num rfl rfl, num rfl rfl, num rfl rfl⟩)
  case drain =>
    rw [if_neg (Bool.eq_false_iff.1 (flag rfl))]
    exact congrArg some (TileInstr.drain.injEq .. ▸ ⟨num rfl rfl, num rfl rfl, num rfl rfl, num rfl rfl⟩)
end

/-- What an instruction's word decodes to. -/
theorem decodeTile_encodeTile {i : TileInstr} (h : i.wf = true) (hl : tileLegal i = true) : decodeTile (encodeTile i) = some i := by
  simp [decodeTile, fieldsOf_encodeTile h hl, hl]

/-! ## Words that decode -/

theorem decide_bits_lt {w hi lo : Nat} : decide (bits w hi lo < 2 ^ (hi + 1 - lo)) = true := decide_eq_true (bits_lt w hi lo)

theorem wf_decTF (w : Nat) : (decTF w).wf = true := by
  simp only [TF.wf, decTF, Bool.and_eq_true]
  repeat' apply And.intro
  all_goals exact decide_bits_lt

theorem wf_decMF (w : Nat) : (decMF w).wf = true := by
  simp only [MF.wf, decMF, Bool.and_eq_true]
  repeat' apply And.intro
  all_goals exact decide_bits_lt

/-- The instruction that a word's fields make has its fields in their ranges, and its opcode is the word's. -/
theorem fieldsOf_some {w : Nat} {i : TileInstr} (h : fieldsOf w = some i) : i.wf = true ∧ bits w 63 56 = i.opcode := by
  have split_or {p : Prop} [Decidable p] {a b : TileInstr} (h : (if p then some a else some b) = some i) : a = i ∨ b = i := by
    split at h
    · exact .inl (Option.some.inj h)
    · exact .inr (Option.some.inj h)
  unfold fieldsOf at h
  split at h <;> rename_i hop
  case h_25 => cases h
  case h_13 | h_14 | h_15 =>
    rcases split_or h with rfl | rfl <;>
    · refine ⟨?_, hop⟩
      simp only [TileInstr.wf, DiagF.wf, Bool.and_eq_true]
      repeat' apply And.intro
      all_goals exact decide_bits_lt
  all_goals
    cases h
    refine ⟨?_, hop⟩
    simp only [TileInstr.wf, wf_decTF, wf_decMF, Bool.and_eq_true]
    repeat' apply And.intro
    all_goals exact decide_bits_lt

/-- A word that decodes is the word of its instruction, bit for bit. -/
theorem decodeTile_some {w : Nat} {i : TileInstr} (h : decodeTile w = some i) (hw : w < 2 ^ 64) :
    encodeTile i = w ∧ i.wf = true ∧ tileLegal i = true ∧ w / 2 ^ 56 = i.opcode := by
  unfold decodeTile at h
  split at h
  · rename_i j hj
    split at h
    · rename_i hc
      cases h
      obtain ⟨he, hl⟩ := by simpa using hc
      obtain ⟨hwf, hop⟩ := fieldsOf_some hj
      refine ⟨he, hwf, hl, ?_⟩
      rw [← hop, bits, Nat.shiftRight_eq_div_pow, Nat.mod_eq_of_lt (by omega)]
    · cases h
  · cases h

/-- Only YIELD, FENCE and HALT have the opcodes 42h, 60h and 61h, and their words hold nothing else. -/
theorem encodeTile_mod_of_bare {i : TileInstr} (h : i.opcode = 0x42 ∨ i.opcode = 0x60 ∨ i.opcode = 0x61) :
    encodeTile i % 2 ^ 56 = 0 := by
  cases i
  case yield | fence | halt => rfl
  all_goals simp [TileInstr.opcode] at h

/-- Settles O59: decoding by `decodeTile_encodeTile`; refusals by `decodeTile_some`, which says what a word is that decodes. -/
theorem tileWords : Obligations.TileWords := by
  refine ⟨fun i hwf hl => ⟨encodeTile_lt hwf, decodeTile_encodeTile hwf hl⟩, fun w i h hw => decodeTile_some h hw, ?_, ?_⟩
  · intro w hw hop
    refine Option.eq_none_iff_forall_ne_some.2 fun i h => hop ?_
    rw [(decodeTile_some h hw).2.2.2]
    cases i <;> simp [TileInstr.opcode]
  · intro w hw hop hres
    refine Option.eq_none_iff_forall_ne_some.2 fun i h => hres ?_
    obtain ⟨he, -, -, h56⟩ := decodeTile_some h hw
    rw [← he]; exact encodeTile_mod_of_bare (h56 ▸ hop)

end Sys2Proof
end

section
/-! Control instructions of a program (R349 to R351, R389 to R391): issue of an instruction of no phase, and what each leaves in its core. -/
namespace Sys2Proof.Machine

/-! ## Signed fields and conditions -/

/-- A field read as a signed number, as the signed value of a word of its width. -/
theorem sint_eq_toInt {n v : Nat} (hn : 0 < n) (hv : v < 2 ^ n) : sint n v = (BitVec.ofNat n v).toInt := by
  have hp : 2 ^ n = 2 * 2 ^ (n - 1) := by rw [← Nat.pow_succ']; congr 1; omega
  simp only [sint, BitVec.toInt, BitVec.toNat_ofNat, Nat.mod_eq_of_lt hv]
  have hc : ((2 : Int) ^ n) = ((2 ^ n : Nat) : Int) := by push_cast; rfl
  by_cases h : v < 2 ^ (n - 1)
  · rw [if_pos h, if_pos (by omega)]
  · rw [if_neg h, if_neg (by omega), hc]

theorem ofInt_sint {n v : Nat} (hn : 0 < n) (hv : v < 2 ^ n) : BitVec.ofInt 64 (sint n v) = (BitVec.ofNat n v).signExtend 64 := by
  rw [sint_eq_toInt hn hv]; rfl

/-- A condition of BR in the words of R350. -/
theorem brHolds_iff {cond : Nat} (hc : cond ≤ 6) (a b : W64) : brHolds cond a b = true ↔
    (cond = 0 ∨ (cond = 1 ∧ a = b) ∨ (cond = 2 ∧ a ≠ b) ∨ (cond = 3 ∧ a.toInt < b.toInt) ∨ (cond = 4 ∧ b.toInt ≤ a.toInt) ∨
      (cond = 5 ∧ a.toNat < b.toNat) ∨ (cond = 6 ∧ b.toNat ≤ a.toNat)) := by
  interval_cases cond <;> simp [brHolds, BitVec.slt, BitVec.ult]

/-! ## Issue -/

/-- An instruction of no phase is put through its own rules. -/
theorem exec_control {s : State} {c : Nat} {i : TileInstr} (h : Runs s c i) (hp : i.phase = none) {row : TileInstr → Bool} (hr : row i = true)
    (body : State → TileInstr → Issue) : s.tryIssue c row body = .next (s.carry c (body s i)) :=
  State.tryIssue_runs (h.runsIn hp) row hr body

/-- An instruction that sets the program counter, carried out. -/
theorem State.carry_jump_updCore (s : State) (c : Nat) (f : Core → Core) :
    s.carry c (.jump (s.updCore c f)) = s.updCore c (fun k => { f k with wait := none }) := by
  simp only [State.carry, State.updCore_updCore]; rfl

/-- An instruction that changes its core's registers only, carried out. -/
theorem State.carry_go_setX (s : State) (c n : Nat) (v : Core → W64) :
    s.carry c (.go (s.updCore c (fun k => k.setX n (v k)))) = s.updCore c (fun k =>
      { k with x := if n = 0 then k.x else k.x.set n (v k),
               pc := (advanceFrom k.pc k.loops).1, loops := (advanceFrom k.pc k.loops).2, wait := none }) := by
  rw [State.carry_go_updCore]
  refine State.updCore_congr _ _ _ _ ?_
  by_cases hn : n = 0 <;> simp [Core.setX, hn]

/-! ## Loops (R351) -/

theorem advanceFrom_last_again {i n first : Nat} {r : List LoopLevel} (h : 1 < n) :
    advanceFrom i (⟨n, first, i⟩ :: r) = (first, ⟨n - 1, first, i⟩ :: r) := by simp [advanceFrom, h]

theorem advanceFrom_last_done {i n first : Nat} {r : List LoopLevel} (h : n ≤ 1) :
    advanceFrom i (⟨n, first, i⟩ :: r) = advanceFrom i r := by simp [advanceFrom, Nat.not_lt.2 h]

theorem advanceFrom_inside {i n first last : Nat} {r : List LoopLevel} (h : last ≠ i) :
    advanceFrom i (⟨n, first, last⟩ :: r) = (i + 1, ⟨n, first, last⟩ :: r) := by simp [advanceFrom, h]

/-! ## SETX, ADDX, LOOP and BR -/

section
variable {s : State} {c : Nat}

theorem exec_setx {xd imm : Nat} (h : Runs s c (.setx xd imm)) (hi : imm < 2 ^ 48) :
    exec (.setx c) s = .next (s.updCore c (fun k =>
      { k with x := if xd = 0 then k.x else k.x.set xd ((BitVec.ofNat 48 imm).signExtend 64),
               pc := (advanceFrom k.pc k.loops).1, loops := (advanceFrom k.pc k.loops).2, wait := none })) := by
  rw [← ofInt_sint (by decide) hi, ← State.carry_go_setX]
  exact exec_control h rfl (row := fun i => match i with | .setx .. => true | _ => false) rfl (doSetx c)

theorem exec_addx {xd xs xt sh imm : Nat} (h : Runs s c (.addx xd xs xt sh imm)) (hi : imm < 2 ^ 32) :
    exec (.addx c) s = .next (s.updCore c (fun k =>
      { k with x := if xd = 0 then k.x else k.x.set xd (BitVec.ofNat 64 ((k.xr xs).toNat + (k.xr xt).toNat * 2 ^ sh
                 + ((BitVec.ofNat 32 imm).signExtend 64).toNat)),
               pc := (advanceFrom k.pc k.loops).1, loops := (advanceFrom k.pc k.loops).2, wait := none })) := by
  have value : ∀ k : Core, k.xr xs + (k.xr xt <<< sh) + BitVec.ofInt 64 (sint 32 imm) =
      BitVec.ofNat 64 ((k.xr xs).toNat + (k.xr xt).toNat * 2 ^ sh + ((BitVec.ofNat 32 imm).signExtend 64).toNat) := by
    intro k
    rw [ofInt_sint (by decide) hi]
    apply BitVec.eq_of_toNat_eq
    simp [Nat.shiftLeft_eq]
  simp only [← value, ← State.carry_go_setX]
  exact exec_control h rfl (row := fun i => match i with | .addx .. => true | _ => false) rfl (doAddx c)

theorem exec_loop {xc imm len : Nat} (h : Runs s c (.loop xc imm len)) :
    exec (.loop c) s = .next (s.updCore c (fun k =>
      let outer := k.loops.map (fun l => if l.last = k.pc then { l with last := k.pc + len } else l)
      if (if xc = 0 then imm else ((s.core c).xr xc).toNat) = 0 then
        { k with pc := (advanceFrom (k.pc + len) outer).1, loops := (advanceFrom (k.pc + len) outer).2, wait := none }
      else { k with pc := k.pc + 1,
                    loops := ⟨if xc = 0 then imm else ((s.core c).xr xc).toNat, k.pc + 1, k.pc + len⟩ :: outer, wait := none })) := by
  refine (exec_control h rfl (row := fun i => match i with | .loop .. => true | _ => false) rfl (doLoop c)).trans (congrArg _ ?_)
  refine (State.carry_jump_updCore s c _).trans (State.updCore_congr _ _ _ _ ?_)
  simp only [endBehind, Core.advance]
  generalize (if xc = 0 then imm else ((s.core c).xr xc).toNat) = n
  split <;> rfl

/-- BR goes to its target where its condition holds, and on in sequence otherwise. -/
theorem exec_br {xs xt cond off : Nat} (h : Runs s c (.br xs xt cond off)) (ho : off < 2 ^ 16) :
    exec (.br c) s = .next (s.updCore c (fun k =>
      if brHolds cond ((s.core c).xr xs) ((s.core c).xr xt) then
        { k with pc := (((s.core c).pc : Int) + (BitVec.ofNat 16 off).toInt).toNat, wait := none }
      else { k with pc := (advanceFrom (s.core c).pc (s.core c).loops).1, loops := (advanceFrom (s.core c).pc (s.core c).loops).2,
                    wait := none })) := by
  refine (exec_control h rfl (row := fun i => match i with | .br .. => true | _ => false) rfl (doBr c)).trans (congrArg _ ?_)
  refine (State.carry_jump_updCore s c _).trans (State.updCore_congr _ _ _ _ ?_)
  simp only [brTarget, sint_eq_toInt (by decide : 0 < 16) ho, Core.advance]
  split <;> rfl

end

/-- Settles O2: each instruction by its equation, the ends of loop bodies by the lemmas on `advanceFrom`. -/
theorem controlFlow : Obligations.ControlFlow := by
  refine ⟨⟨fun s c xd imm h hi => exec_setx h hi, fun s c xd xs xt sh imm h hi => exec_addx h hi⟩,
    ⟨fun s c xc imm len h => exec_loop h, fun _ _ _ _ h => advanceFrom_last_again h, fun _ _ _ _ h => advanceFrom_last_done h,
      fun _ _ _ _ _ h => advanceFrom_inside h, fun _ => rfl⟩, ?_⟩
  intro s c xs xt cond off h hc ho
  constructor
  · intro hb
    rw [exec_br h ho]; simp only [(brHolds_iff hc _ _).2 hb, if_true]
  · intro hb
    have hb' : brHolds cond ((s.core c).xr xs) ((s.core c).xr xt) = false := by
      rw [← Bool.not_eq_true, brHolds_iff hc]; exact hb
    rw [exec_br h ho]; simp only [hb', Bool.false_eq_true, if_false]

/-! ## FENCE, HALT and DBG -/

section
variable {s : State} {c : Nat}

theorem exec_fence (h : Runs s c .fence) : exec (.fence c) s = .next (s.carry c (doFence c s .fence)) :=
  exec_control h rfl (row := fun i => match i with | .fence => true | _ => false) rfl (doFence c)

theorem exec_halt (h : Runs s c .halt) : exec (.halt c) s = .next (s.carry c (doHalt c s .halt)) :=
  exec_control h rfl (row := fun i => match i with | .halt => true | _ => false) rfl (doHalt c)

theorem exec_dbg {xs code : Nat} (h : Runs s c (.dbg xs code)) : exec (.dbg c) s = .next (s.carry c (doDbg c s (.dbg xs code))) :=
  exec_control h rfl (row := fun i => match i with | .dbg .. => true | _ => false) rfl (doDbg c)

/-- FENCE behind completed instructions lets the core go on. -/
theorem doFence_done (h : (s.core c).inflight = []) : doFence c s .fence = .go s := by simp [doFence, h]

/-- FENCE behind an issued instruction holds the core. -/
theorem doFence_waits (h : (s.core c).inflight ≠ []) : doFence c s .fence = .hold .fence := by simp [doFence, h]

theorem doHalt_done (hh : (s.core c).held = none) (hi : (s.core c).inflight = []) :
    doHalt c s .halt = .jump (s.updCore c Core.leave) := by simp [doHalt, hh, hi]

theorem doHalt_held {h : Held} (hh : (s.core c).held = some h) : doHalt c s .halt = .fail .held 0 0 := by simp [doHalt, hh]

/-- DBG sends its event where the dispatch enables debug events, and does nothing otherwise. -/
theorem doDbg_eq {n xs code : Nat} {d : Dispatch} (hn : (s.core c).dispatch = some n) (hd : lookupK n s.dispatches = some d) :
    doDbg c s (.dbg xs code) = .go (if d.req.debug then s.event
      { code := 0x0003, st := .ok, detail := 0, core := c, dispatch := n,
        body := low 16 (s.core c).pc + at_ 16 (low 16 code) + at_ 64 ((s.core c).xr xs).toNat, cont := none } else s) := by
  simp only [doDbg, hn, Option.bind_some, hd, Option.getD_some]
  split <;> rfl

end

/-- Settles O3: each instruction by its equation, HALT with a held tile by `State.carry_fail`. -/
theorem fenceHaltDbg : Obligations.FenceHaltDbg := by
  refine ⟨⟨?fenceDone, ?fenceWaits, ?haltDone, ?haltHeld⟩, ?dbg⟩
  case fenceDone =>
    intro s c h hi
    rw [exec_fence h, doFence_done hi, State.carry_go s s c rfl]
  case fenceWaits =>
    intro s c h hi
    rw [exec_fence h, doFence_waits hi]; rfl
  case haltDone =>
    intro s c h hh hi
    rw [exec_halt h, doHalt_done hh hi, State.carry_jump_updCore]; rfl
  case haltHeld =>
    intro s c h hr hh
    obtain ⟨hcore, hframe⟩ := State.carry_fail hr .held 0 0
    exact ⟨_, by rw [exec_halt hr, doHalt_held hh], by rw [hcore], by rw [hcore]; exact hh, by rw [hcore], hframe⟩
  case dbg =>
    intro s c xs code n d h hn hd
    constructor <;> intro hdebug <;> rw [exec_dbg h, doDbg_eq hn hd]
    · rw [if_pos hdebug, State.carry_go _ _ _ (State.core_event ..)]
      exact congrArg _ (State.updCore_congr _ _ _ _ (by rw [State.core_event]))
    · rw [hdebug, if_neg Bool.false_ne_true, State.carry_go s s c rfl]
      exact congrArg _ (State.updCore_congr _ _ _ _ rfl)

end Sys2Proof.Machine
end

section
/-! TALLY and WAIT (R387, R388, R596): what holds them, and the addition to a local tally or by a packet. -/
namespace Sys2Proof.Machine

/-! ## WAIT (R388) -/

section
variable {s : State} {c no xs : Nat}

theorem exec_wait (h : Runs s c (.wait no xs)) : exec (.wait c) s = .next (s.carry c (doWait c s (.wait no xs))) :=
  exec_control h rfl (row := fun i => match i with | .wait .. => true | _ => false) rfl (doWait c)

theorem State.tallyMet_iff (s : State) (no : Nat) (v : W64) : s.tallyMet no v = true ↔ (s.tally no - v).toNat < 2 ^ 63 := by
  simp [State.tallyMet]

theorem doWait_met (h : s.tallyMet no ((s.core c).xr xs) = true) : doWait c s (.wait no xs) = .go s := by simp [doWait, h]

theorem doWait_unmet (h : ¬ s.tallyMet no ((s.core c).xr xs) = true) : doWait c s (.wait no xs) = .hold .cond := by simp [doWait, h]

/-- A WAIT that waited goes on where the tally meets its condition, and stands where it does not. -/
theorem exec_waitRelease (h : Waits s c (.wait no xs) .cond) :
    exec (.waitRelease c) s = .next (if s.tallyMet no ((s.core c).xr xs) then s.carry c (.go s) else s) := by
  obtain ⟨hc, hready, hwait, hi⟩ := h
  change execWaitRelease c s = _
  simp only [execWaitRelease, if_neg (Nat.not_le.2 hc), hi, hready, hwait, beq_self_eq_true, Bool.true_and]
  split <;> rfl

end

/-! ## TALLY (R387, R596) -/

section
variable {s : State} {c no xs xr : Nat}

theorem exec_tally (h : Runs s c (.tally no xs xr)) : exec (.tally c) s = .next (s.carry c (doTally c s (.tally no xs xr))) :=
  exec_control h rfl (row := fun i => match i with | .tally .. => true | _ => false) rfl (doTally c)

/-- A TALLY waits for the stores and sends issued before it. -/
theorem Core.sendsLeft_iff (k : Core) : k.sendsLeft = true ↔
    ∃ f ∈ k.inflight, f.instr.opcode = 0x11 ∨ f.instr.opcode = 0x13 ∨ f.instr.opcode = 0x50 := by
  simp only [Core.sendsLeft, List.any_eq_true]
  refine exists_congr fun f => and_congr_right fun _ => ?_
  cases f.instr <;> simp [TileInstr.opcode]

theorem exec_tallyIncrement (h : Waits s c (.tally no xs xr) .tally) (hs : (s.core c).sendsLeft = false) :
    exec (.tallyIncrement c) s = .next (s.carry c (doTally c s (.tally no xs xr))) := by
  obtain ⟨hc, hready, hwait, hi⟩ := h
  change execTallyIncrement c s = _
  simp [execTallyIncrement, Nat.not_le.2 hc, hi, hready, hwait, hs]

/-- A TALLY of the local socket adds to its own tally. -/
theorem doTally_local (hs : (s.core c).sendsLeft = false) (hx : xr = 0 ∨ s.self? = some ((s.core c).xr xr).toNat) :
    doTally c s (.tally no xs xr) = .go (s.addTally no ((s.core c).tallyAmount xs)) := by
  simp only [doTally, hs, Bool.false_eq_true, if_false]
  by_cases h0 : xr = 0
  · simp [Core.tallySocket, State.doIncrement, h0]
  · simp [Core.tallySocket, State.doIncrement, h0, hx.resolve_left h0]

theorem doTally_waits (hs : (s.core c).sendsLeft = true) : doTally c s (.tally no xs xr) = .hold .tally := by simp [doTally, hs]

/-- A TALLY of the local socket, carried out. -/
theorem carry_tally_local (hs : (s.core c).sendsLeft = false) (hx : xr = 0 ∨ s.self? = some ((s.core c).xr xr).toNat) :
    s.carry c (doTally c s (.tally no xs xr)) =
      ({ s with tallies := insertK no (s.tally no + (if xs = 0 then 1 else (s.core c).xr xs)) s.tallies } : State).updCore c (fun q =>
        { q with pc := (advanceFrom (s.core c).pc (s.core c).loops).1, loops := (advanceFrom (s.core c).pc (s.core c).loops).2,
                 wait := none }) := by
  rw [doTally_local hs hx]
  refine (State.carry_go s (s.addTally no ((s.core c).tallyAmount xs)) c rfl).trans ?_
  exact State.updCore_congr _ _ _ _ rfl

/-! ### A TALLY of another socket -/

theorem State.stream_updStream_self (s : State) (sock : Nat) (f : Stream → Stream) : (s.updStream sock f).stream sock = f (s.stream sock) := by
  simp [State.stream, State.updStream, lookupD, lookupK_insertK_self]

@[simp] theorem State.stream_emit (s : State) (port sock : Nat) (p : FPacket) : (s.emit port p).stream sock = s.stream sock := rfl

@[simp] theorem State.stream_count (s : State) (i n sock : Nat) : (s.count i n).stream sock = s.stream sock := rfl

/-- A packet posted to a socket that can be reached: what is sent, and what its stream keeps. -/
theorem State.post_reachable {sock me port : Nat} {dl : Bool} {body : FBody} (hme : s.self? = some me)
    (hp : s.exitPort sock = some (port, dl)) :
    let p : FPacket := ⟨sock, me, routeEpoch (s.routeOf sock), (s.stream sock).nextSeq, b2n dl, body⟩
    let t := s.post sock body
    t.fabricOut = s.fabricOut ++ [(port, p)] ∧
    t.stream sock = { s.stream sock with nextSeq := (s.stream sock).nextSeq + 1, unacked := (s.stream sock).unacked ++ [p] } ∧
    t = { s with fabricOut := t.fabricOut, streams := t.streams, ledger := t.ledger } := by
  simp only [State.post, hp, hme, Option.getD_some]
  exact ⟨rfl, by rw [State.stream_count, State.stream_emit, State.stream_updStream_self], rfl⟩

theorem remoteFault_of_ne {sock me : Nat} (hme : s.self? = some me) (hne : sock ≠ me) :
    s.remoteFault sock = if (s.stream sock).unreachable || (s.exitPort sock).isNone then some 2 else none := by
  simp [State.remoteFault, hme, hne]


/-- The packets put on a stream by one post. -/
theorem State.sentSince_one {t : State} {sock : Nat} (h : (t.stream sock).nextSeq = (s.stream sock).nextSeq + 1) :
    t.sentSince s sock = [(sock, (s.stream sock).nextSeq)] := by simp [State.sentSince, h]

theorem State.stream_congr {t u : State} {sock : Nat} (h : u.streams = t.streams) : u.stream sock = t.stream sock := by
  rw [State.stream, State.stream, h]

/-- The step past an instruction that posted packets and changed its core. -/
theorem State.carry_go_posted {t : State} (hc : c < s.cores.length)
    (ht : t = { s with fabricOut := t.fabricOut, streams := t.streams, ledger := t.ledger }) (f : Core → Core) :
    let w := s.carry c (.go (t.updCore c f))
    w.core c = { (f (s.core c)).advance (s.core c).pc with wait := none } ∧ w.fabricOut = t.fabricOut ∧ w.streams = t.streams ∧
    w = { s with cores := w.cores, fabricOut := w.fabricOut, streams := w.streams, ledger := w.ledger } := by
  have hlen : c < t.cores.length := by rw [ht]; exact hc
  have hcore : t.core c = s.core c := by rw [ht]; rfl
  refine ⟨?_, rfl, rfl, congrArg (fun x : State => { x with cores := (s.carry c (.go (t.updCore c f))).cores }) ht⟩
  rw [State.core_carry_go (by rw [State.updCore_cores_length]; exact hlen), State.core_updCore_self _ _ _ hlen, hcore]

/-- A packet posted for an instruction of a core, which is added to those issued and waits for its acknowledgement. -/
def State.postFor (s : State) (c : Nat) (i : TileInstr) (sock : Nat) (body : FBody) : State :=
  (s.post sock body).updCore c (fun q => q.launch { (s.core c).flight i [] [] 0 with acks := (s.post sock body).sentSince s sock })

/-- The step past an instruction that posted a packet. -/
theorem State.carry_postFor {sock me port : Nat} {dl : Bool} {body : FBody} {i : TileInstr} (hc : c < s.cores.length)
    (hme : s.self? = some me) (hp : s.exitPort sock = some (port, dl)) :
    let p : FPacket := ⟨sock, me, routeEpoch (s.routeOf sock), (s.stream sock).nextSeq, b2n dl, body⟩
    let w := s.carry c (.go (s.postFor c i sock body))
    w.core c = { ((s.core c).launch { (s.core c).flight i [] [] 0 with acks := [(sock, (s.stream sock).nextSeq)] }).advance (s.core c).pc with
      wait := none } ∧
    w.fabricOut = s.fabricOut ++ [(port, p)] ∧
    w.stream sock = { s.stream sock with nextSeq := (s.stream sock).nextSeq + 1, unacked := (s.stream sock).unacked ++ [p] } ∧
    w = { s with cores := w.cores, fabricOut := w.fabricOut, streams := w.streams, ledger := w.ledger } := by
  intro p w
  obtain ⟨hout, hstream, hframe⟩ := State.post_reachable (body := body) hme hp
  obtain ⟨hcore, hports, hstreams, hw⟩ := State.carry_go_posted hc hframe (fun q =>
    q.launch { (s.core c).flight i [] [] 0 with acks := (s.post sock body).sentSince s sock })
  refine ⟨?_, hports.trans hout, (State.stream_congr hstreams).trans hstream, hw⟩
  rw [← State.sentSince_one (congrArg Stream.nextSeq hstream)]; exact hcore

/-- A TALLY of another socket does what its socket asks, the core having issued nothing. -/
theorem doTally_remote {me : Nat} (hme : s.self? = some me) (h0 : xr ≠ 0) (hne : ((s.core c).xr xr).toNat ≠ me)
    (hi : (s.core c).inflight = []) :
    let sock := ((s.core c).xr xr).toNat
    doTally c s (.tally no xs xr) =
      if (s.stream sock).unreachable || (s.exitPort sock).isNone then .fail .noowner 2 0
      else .go (s.postFor c (.tally no xs xr) sock (.tallyInc no (if xs = 0 then 1 else (s.core c).xr xs))) := by
  have hs : (s.core c).sendsLeft = false := by simp [Core.sendsLeft, hi]
  have hself : (s.self? == some ((s.core c).xr xr).toNat) = false := by
    rw [hme]; simpa using fun h => hne h.symm
  simp only [doTally, hs, Bool.false_eq_true, if_false, Core.tallySocket, h0, State.doIncrement, hself, remoteFault_of_ne hme hne]
  by_cases hbad : ((s.stream ((s.core c).xr xr).toNat).unreachable || (s.exitPort ((s.core c).xr xr).toNat).isNone) = true
  · simp only [hbad, if_true]
  · simp only [hbad]; rfl

end

/-- Settles O4: WAIT by `exec_wait` and `exec_waitRelease`, a local TALLY by `carry_tally_local`, a remote one by `doTally_remote` and what
`State.post_reachable` says of its packet. -/
theorem tallies : Obligations.Tallies := by
  refine ⟨?wait, ?localTally, ?remote⟩
  case wait =>
    intro s c no xs met go
    have hgo : s.carry c (.go s) = go := State.carry_go s s c rfl
    have hmet : met ↔ s.tallyMet no ((s.core c).xr xs) = true := (s.tallyMet_iff no _).symm
    refine ⟨fun h hm => ?_, fun h hm => ?_, fun h hm => ?_, fun h hm => ?_⟩ <;> rw [hmet] at hm
    · rw [exec_wait h, doWait_met hm, hgo]
    · rw [exec_wait h, doWait_unmet hm]; rfl
    · rw [exec_waitRelease h, if_pos hm, hgo]
    · rw [exec_waitRelease h, if_neg hm]
  case localTally =>
    intro s c no xs xr k waits v go
    have hwaits : waits ↔ k.sendsLeft = true := k.sendsLeft_iff.symm
    refine ⟨fun h hw => ?_, fun h hw hx => ?_, fun h hw hx => ?_⟩ <;> rw [hwaits] at hw
    · rw [exec_tally h, doTally_waits hw]; rfl
    · rw [exec_tally h, carry_tally_local (by simpa using hw) hx]
    · rw [exec_tallyIncrement h (by simpa using hw), carry_tally_local (by simpa using hw) hx]
  case remote =>
    intro s c no xs xr me h0 hme hne h hi sock v
    have hdo := doTally_remote (no := no) (xs := xs) hme h0 hne hi
    constructor
    · intro port dl hun hport
      have hfree : ((s.stream sock).unreachable || (s.exitPort sock).isNone) = false := by rw [hun, hport]; rfl
      obtain ⟨hcore, hout, hstream, hw⟩ := State.carry_postFor (i := .tally no xs xr) (body := .tallyInc no v) h.1 hme hport
      refine ⟨_, _, by rw [exec_tally h, hdo, hfree, if_neg Bool.false_ne_true], rfl, hout, congrArg Stream.unacked hstream,
        congrArg Stream.nextSeq hstream, ?_, ?_, (congrArg State.tallies hw :), hw⟩
      · rw [hcore]; simp [Core.advance, Core.launch, hi, Core.flight]
      · rw [hcore]; rfl
    · intro hun
      have hbad : ((s.stream sock).unreachable || (s.exitPort sock).isNone) = true := by simpa using hun
      obtain ⟨hcore, hfr⟩ := State.carry_fail h .noowner 2 0
      exact ⟨_, by rw [exec_tally h, hdo, if_pos hbad], by rw [hcore], hfr⟩

end Sys2Proof.Machine
end

section
/-! The start of a program on an idle core (R334, R441, R442). -/
namespace Sys2Proof.Machine

/-- The index registers at the start of a program (R334). -/
theorem Core.xr_start (k : Core) (d : Dispatch) (slots : List Nat) (entry : Nat) (own : List TileInstr) (i : Nat) :
    (k.start d slots entry own).xr i = if 1 ≤ i ∧ i ≤ 15 then (d.req.params[i - 1]?).getD 0 else 0 := by
  by_cases hi : i < 32
  · by_cases h0 : i = 0
    · simp [Core.xr, h0]
    · simp [Core.xr, Core.start, h0, hi]
  · have h0 : i ≠ 0 := by omega
    have hout : ¬ (1 ≤ i ∧ i ≤ 15) := by omega
    simp [Core.xr, Core.start, h0, hi, hout]

/-- Recording a start changes the desk only. -/
theorem State.recordStart_eq (s : State) (c : Nat) (d : Dispatch) : s.recordStart c d = { s with regions := (s.recordStart c d).regions } := by
  unfold State.recordStart
  split <;> rfl

/-- What starts on an idle core whose desk serves a dispatch with a program. -/
theorem exec_coreProgramStart {s : State} {c : Nat} {d : Dispatch} {p : Program} (hc : c < s.cores.length) (hst : s.startable c = true)
    (hnext : s.nextWork c = some (.inr d)) (hown : d.req.contract = none) (hp : lookupK d.req.program s.programs = some p) :
    exec (.coreProgramStart c) s =
      .next (((s.count 0 (lineBytes 0 p.size)).updCore c (fun k => k.start d d.req.slots p.entry [])).recordStart c d) := by
  change execCoreProgramStart c s = _
  simp only [execCoreProgramStart, if_neg (Nat.not_le.2 hc), hst, Bool.not_true, Bool.false_eq_true, if_false, hnext, State.startProgram,
    hown, hp]

/-- Settles O9: `exec_coreProgramStart` gives the state, `Core.xr_start` its index registers. -/
theorem programStarts : Obligations.ProgramStarts := by
  intro s c d p hc hst hnext hown hp
  have hframe := State.recordStart_eq ((s.count 0 (lineBytes 0 p.size)).updCore c (fun k => k.start d d.req.slots p.entry [])) c d
  have hcore : (((s.count 0 (lineBytes 0 p.size)).updCore c (fun k => k.start d d.req.slots p.entry [])).recordStart c d).core c =
      (s.core c).start d d.req.slots p.entry [] := by
    rw [hframe]; exact State.core_updCore_self _ _ _ hc
  refine ⟨_, exec_coreProgramStart hc hst hnext hown hp, ?_⟩
  rw [hcore]
  refine ⟨rfl, rfl, rfl, rfl, rfl, rfl, rfl, rfl, rfl, rfl, rfl, rfl, rfl, fun i h1 h15 => ?_, fun i hi => ?_, rfl, ?_⟩
  · rw [Core.xr_start, if_pos ⟨h1, h15⟩]
  · rw [Core.xr_start, if_neg (by omega)]
  · rw [hframe]; rfl

end Sys2Proof.Machine
end

section
/-! TAKE (R381, R419, R443): the registers it writes, and the state after the desk has answered. -/
namespace Sys2Proof.Machine

/-! ## The registers that TAKE writes (R381) -/

theorem Core.xr_setX (k : Core) (n i : Nat) (v : W64) :
    (k.setX n v).xr i = if i = n ∧ n ≠ 0 ∧ n < k.x.length then v else k.xr i := by
  by_cases hn : n = 0
  · simp [Core.setX, hn]
  · by_cases hi : i = n
    · subst hi
      by_cases hl : i < k.x.length <;> simp [Core.setX, Core.xr, hn, hl]
    · simp only [Core.setX, Core.xr, hn, hi, if_false, false_and, List.getElem?_set]
      simp [Ne.symm hi]

theorem Core.setX_eq (k : Core) (n : Nat) (v : W64) : k.setX n v = { k with x := (k.setX n v).x } := by
  unfold Core.setX; split <;> rfl

@[simp] theorem Core.length_setX (k : Core) (n : Nat) (v : W64) : (k.setX n v).x.length = k.x.length := by
  unfold Core.setX; split <;> simp

/-- Registers written in a row: the ones in the row hold its values, the others stay. -/
theorem Core.xr_setRow (xd : Nat) : ∀ (vs : List W64) (n : Nat) (k : Core) (i : Nat),
    ((vs.zipIdx n).foldl (fun q p => q.setX (xd + p.2) p.1) k).xr i =
      if xd + n ≤ i ∧ i < xd + n + vs.length ∧ i ≠ 0 ∧ i < k.x.length then (vs[i - (xd + n)]?).getD 0 else k.xr i
  | [], n, k, i => by simp; omega
  | v :: r, n, k, i => by
    rw [List.zipIdx_cons, List.foldl_cons, Core.xr_setRow xd r (n + 1), Core.xr_setX, Core.length_setX]
    by_cases hi : i = xd + n
    · subst hi
      have hout : ¬ xd + (n + 1) ≤ xd + n := by omega
      simp [hout]
    · by_cases hin : xd + n ≤ i ∧ i < xd + n + (v :: r).length ∧ i ≠ 0 ∧ i < k.x.length
      · obtain ⟨hlo, hhi, h0, hl⟩ := hin
        have hidx : i - (xd + n) = (i - (xd + (n + 1))) + 1 := by omega
        simp only [List.length_cons] at hhi
        rw [if_pos ⟨by omega, by omega, h0, hl⟩, if_pos ⟨hlo, by simpa using hhi, h0, hl⟩, hidx]
        rfl
      · rw [if_neg hin, if_neg (by simp only [List.length_cons] at hin; omega), if_neg (by omega)]

/-- What TAKE's write of its registers leaves in each register. -/
theorem Core.xr_takeRegs (k : Core) (xd i : Nat) (vs : List W64) : (k.takeRegs xd vs).xr i =
    if xd ≤ i ∧ i < xd + vs.length ∧ i ≠ 0 ∧ i < k.x.length then (vs[i - xd]?).getD 0 else k.xr i :=
  Core.xr_setRow xd vs 0 k i

/-- TAKE's write of its registers changes the index registers only. -/
theorem Core.takeRegs_eq (k : Core) (xd : Nat) (vs : List W64) : k.takeRegs xd vs = { k with x := (k.takeRegs xd vs).x } := by
  refine foldl_keeps (P := fun q : Core => q = { k with x := q.x }) (fun q p hq => ?_) _ k rfl
  rw [Core.setX_eq, hq]

/-! ## The state after an answer -/

/-- A core told that the counter is exhausted: its registers written, its own tile program, where it has one, at its end. -/
def Core.refused (k : Core) (xd : Nat) (vs : List W64) : Core :=
  { k.takeRegs xd vs with own := if k.own.isEmpty then [] else ownProgram none }

/-- A core that the desk gave a tile: its registers written, the tile held, nothing of an earlier tile left. -/
def Core.given (k : Core) (xd : Nat) (h : Held) (regs : List W64) : Core :=
  { k.takeRegs xd regs with held := some h, runSeq := 0, mism := [], begun := 0, own := k.own, ownChain := none }

section
variable {s : State} {c : Nat}

/-- Marking a first TAKE as answered changes the desk only. -/
theorem State.answered_eq (s : State) (c : Nat) (d : Dispatch) : ∃ rs, s.answered c d = { s with regions := rs } := by
  unfold State.answered
  split
  · exact ⟨_, rfl⟩
  · exact ⟨s.regions, rfl⟩

/-- A tile of a program's dispatch given to a core, as a change of that core, the desks and the dispatches. -/
theorem State.giveTile_eq {d : Dispatch} (hown : d.req.contract = none) (xd t : Nat) (k' : Counter) :
    ∃ rs ds, s.giveTile c xd d t k' = { s.updCore c (fun k =>
      k.given xd (heldOf d (regionOf c) ((d.counterIn (regionOf c)).getD 0) t) (d.req.registers t)) with regions := rs, dispatches := ds } := by
  simp only [State.giveTile, hown]
  exact ⟨_, _, rfl⟩

/-- The step past a TAKE: the core as the answer left it, every other core as it was. -/
theorem State.carry_go_desk (hc : c < s.cores.length) (F : Core → Core) (rs : List Region) (ds : List (Nat × Dispatch)) :
    let u := s.carry c (.go { s.updCore c F with regions := rs, dispatches := ds })
    u.core c = { (F (s.core c)).advance (s.core c).pc with wait := none } ∧ (∀ e, e ≠ c → u.core e = s.core e) ∧
    u = { s with cores := u.cores, regions := u.regions, dispatches := u.dispatches } := by
  have hcore : ({ s.updCore c F with regions := rs, dispatches := ds } : State).core = (s.updCore c F).core := rfl
  refine ⟨?_, fun e he => ?_, rfl⟩
  · rw [State.core_carry_go (by rw [State.updCore_cores_length]; exact hc), hcore, State.core_updCore_self _ _ _ hc]
  · rw [State.carry, State.core_updCore_ne _ _ _ _ he, hcore, State.core_updCore_ne _ _ _ _ he]

/-- What the core and the device hold after a TAKE that the desk served. -/
theorem carry_tile {d : Dispatch} (hc : c < s.cores.length) (hown : d.req.contract = none) (xd t : Nat) (k' : Counter) :
    let u := s.carry c (.go ((s.giveTile c xd d t k').answered c d))
    u.core c = { ((s.core c).given xd (heldOf d (regionOf c) ((d.counterIn (regionOf c)).getD 0) t) (d.req.registers t)).advance
      (s.core c).pc with wait := none } ∧
    (∀ e, e ≠ c → u.core e = s.core e) ∧ u = { s with cores := u.cores, regions := u.regions, dispatches := u.dispatches } := by
  obtain ⟨rs, ds, hg⟩ := State.giveTile_eq (s := s) (c := c) hown xd t k'
  obtain ⟨rs', ha⟩ := State.answered_eq (s.giveTile c xd d t k') c d
  rw [ha, hg]
  exact State.carry_go_desk hc (fun k => k.given xd (heldOf d (regionOf c) ((d.counterIn (regionOf c)).getD 0) t) (d.req.registers t)) rs' ds

/-- What the core and the device hold after a TAKE of an exhausted counter. -/
theorem carry_exhausted (hc : c < s.cores.length) (xd : Nat) (d : Dispatch) :
    let u := s.carry c (.go ((s.giveNone c xd).answered c d))
    u.core c = { ((s.core c).refused xd exhaustedRegs).advance (s.core c).pc with wait := none } ∧ u = { s with cores := u.cores, regions := u.regions } := by
  obtain ⟨rs, ha⟩ := State.answered_eq (s.giveNone c xd) c d
  obtain ⟨hcore, -, hframe⟩ := State.carry_go_desk hc (fun k => k.refused xd exhaustedRegs) rs s.dispatches
  rw [ha]
  exact ⟨hcore, hframe⟩

/-! ## What TAKE does (R381, R419, R443) -/

theorem exec_take {xd ctr : Nat} (h : Runs s c (.take xd ctr)) : exec (.take c) s = .next (s.carry c (doTake c s (.take xd ctr))) :=
  exec_control h rfl (row := fun i => match i with | .take .. => true | _ => false) rfl (doTake c)

section
variable {xd n : Nat} {d : Dispatch} (hheld : (s.core c).held = none) (hn : (s.core c).dispatch = some n)
  (hd : lookupK n s.dispatches = some d) (hpre : s.boundaryPreempt c = false) (hlow : s.lowerWaits c d = false)
include hn hd hpre hlow

include hheld in
/-- A TAKE that nothing holds back and that the desk answers. -/
theorem doTake_answer (hstag : s.staggered c d = false) {t : State} (ht : s.answerTake c xd d = .inl t) :
    doTake c s (.take xd 0) = .go t := by
  simp only [doTake, hn, Option.bind_some, State.dispatch?, hd, hheld, Option.isSome_none, bne_self_eq_false, hpre, hstag, hlow,
    Bool.false_and, Bool.false_eq_true, if_false, ht]

/-- A TAKE that waited, that nothing holds back any more, and that the desk answers. -/
theorem serveWaiting_answer {w : Wait} {ok : Dispatch → Bool} (hw : Waits s c (.take xd 0) w) (hok : ok d = true) {t : State}
    (ht : s.answerTake c xd d = .inl t) : s.serveWaiting c w ok = .next (s.carry c (.go t)) := by
  obtain ⟨hc, hready, hwait, hi⟩ := hw
  simp only [State.serveWaiting, if_neg (Nat.not_le.2 hc), hi, hn, Option.bind_some, State.dispatch?, hd, hready, hwait, hok, hpre, hlow,
    Bool.not_true, bne_self_eq_false, Bool.or_self, Bool.false_and, Bool.false_eq_true, if_false, ht]

end

/-- The spacing of a first TAKE has passed once the first core's TAKE was answered (R443). -/
theorem exec_firstTakeStaggerElapsed (c : Nat) (s : State) : exec (.firstTakeStaggerElapsed c) s = s.serveWaiting c .stagger (fun d =>
    match (d.counterIn (regionOf c)).bind (s.counter? (regionOf c)) with
    | some k => (match k.starts with | p :: _ => p.2 | [] => true)
    | none => true) := rfl

theorem answerTake_tile {xd t : Nat} {d : Dispatch} {k' : Counter} (h : s.serveTake c d = .tile t k') :
    s.answerTake c xd d = .inl ((s.giveTile c xd d t k').answered c d) := by simp only [State.answerTake, h]

theorem answerTake_exhausted {xd : Nat} {d : Dispatch} (h : s.serveTake c d = .exhausted) :
    s.answerTake c xd d = .inl ((s.giveNone c xd).answered c d) := by simp only [State.answerTake, h]

end

theorem Core.xr_congr {k q : Core} (h : k.x = q.x) (i : Nat) : k.xr i = q.xr i := by rw [Core.xr, Core.xr, h]

section
variable (k : Core) (xd i pc : Nat) (h : Held) (vs : List W64)

/-- The registers of a core given a tile: those of its row hold the tile's values, the others stay. -/
theorem Core.xr_given : Core.xr { (k.given xd h vs).advance pc with wait := none } i =
    if xd ≤ i ∧ i < xd + vs.length ∧ i ≠ 0 ∧ i < k.x.length then (vs[i - xd]?).getD 0 else k.xr i := by
  rw [← Core.xr_takeRegs]; exact Core.xr_congr rfl i

/-- The program counter of a core given a tile. -/
theorem Core.pc_given : Core.pc { (k.given xd h vs).advance pc with wait := none } = (advanceFrom pc k.loops).1 := by
  have hl : (k.given xd h vs).loops = k.loops := by rw [Core.given, Core.takeRegs_eq]
  simp only [Core.advance, hl]

theorem Core.xr_refused : Core.xr { (k.refused xd vs).advance pc with wait := none } i =
    if xd ≤ i ∧ i < xd + vs.length ∧ i ≠ 0 ∧ i < k.x.length then (vs[i - xd]?).getD 0 else k.xr i := by
  rw [← Core.xr_takeRegs]; exact Core.xr_congr rfl i

theorem Core.pc_refused : Core.pc { (k.refused xd vs).advance pc with wait := none } = (advanceFrom pc k.loops).1 := by
  have hl : (k.refused xd vs).loops = k.loops := by rw [Core.refused, Core.takeRegs_eq]
  simp only [Core.advance, hl]

theorem Core.held_refused : Core.held { (k.refused xd vs).advance pc with wait := none } = k.held := by
  have hl : (k.refused xd vs).held = k.held := by rw [Core.refused, Core.takeRegs_eq]
  simp only [Core.advance, hl]

end

/-- Register `j` of those that report an exhausted counter (R381). -/
theorem getD_exhaustedRegs {j : Nat} (h : j < 8) : (exhaustedRegs[j]?).getD 0 = if j = 3 then BitVec.allOnes 64 else 0 := by
  interval_cases j <;> rfl

/-- What a served TAKE leaves, read off the core and the state. -/
theorem carry_tile_reads {s : State} {c : Nat} {d : Dispatch} (hc : c < s.cores.length) (hown : d.req.contract = none) (xd t : Nat)
    (k' : Counter) :
    let u := s.carry c (.go ((s.giveTile c xd d t k').answered c d))
    (∃ h, (u.core c).held = some h ∧ h.accession = d.number % 2 ^ 24 * 2 ^ 32 + t % 2 ^ 32 ∧ h.tile = t ∧ h.dispatch = d.number) ∧
    (∀ i, (u.core c).xr i = if xd ≤ i ∧ i < xd + (d.req.registers t).length ∧ i ≠ 0 ∧ i < (s.core c).x.length then
      ((d.req.registers t)[i - xd]?).getD 0 else (s.core c).xr i) ∧
    (u.core c).pc = (advanceFrom (s.core c).pc (s.core c).loops).1 ∧ (u.core c).wait = none ∧ (∀ e, e ≠ c → u.core e = s.core e) ∧
    u = { s with cores := u.cores, regions := u.regions, dispatches := u.dispatches } := by
  intro u
  obtain ⟨hcore, hne, hframe⟩ := carry_tile (d := d) hc hown xd t k'
  refine ⟨⟨heldOf d (regionOf c) ((d.counterIn (regionOf c)).getD 0) t, by rw [hcore]; rfl, rfl, rfl, rfl⟩, fun i => ?_, ?_,
    by rw [hcore], hne, hframe⟩
  · rw [hcore]; exact Core.xr_given (s.core c) xd i (s.core c).pc _ _
  · rw [hcore]; exact Core.pc_given (s.core c) xd (s.core c).pc _ _

/-- What a TAKE of an exhausted counter leaves, read off the core and the state. -/
theorem carry_exhausted_reads {s : State} {c : Nat} (hc : c < s.cores.length) (xd : Nat) (d : Dispatch) :
    let u := s.carry c (.go ((s.giveNone c xd).answered c d))
    (u.core c).held = (s.core c).held ∧
    (∀ i, (u.core c).xr i = if xd ≤ i ∧ i < xd + exhaustedRegs.length ∧ i ≠ 0 ∧ i < (s.core c).x.length then
      (exhaustedRegs[i - xd]?).getD 0 else (s.core c).xr i) ∧
    (u.core c).pc = (advanceFrom (s.core c).pc (s.core c).loops).1 ∧ u = { s with cores := u.cores, regions := u.regions } := by
  intro u
  obtain ⟨hcore, hframe⟩ := carry_exhausted hc xd d
  generalize exhaustedRegs = vs at hcore ⊢
  refine ⟨?_, fun i => ?_, ?_, hframe⟩
  · rw [hcore]; exact Core.held_refused (s.core c) xd (s.core c).pc vs
  · rw [hcore]; exact Core.xr_refused (s.core c) xd i (s.core c).pc vs
  · rw [hcore]; exact Core.pc_refused (s.core c) xd (s.core c).pc vs

/-- Settles O5: the three ways of answering by `doTake_answer` and `serveWaiting_answer`, what the answer leaves by `carry_tile_reads` and
`carry_exhausted_reads`. -/
theorem takeGivesTile : Obligations.TakeGivesTile := by
  constructor
  · intro s c xd n t d k' hheld hn hd hown hpre hlow hserve
    split
    rename_i p0 p1 p2 hpos
    intro col row vn vm regs gives
    have hans := answerTake_tile (xd := xd) hserve
    have hregs : d.req.registers t = regs.map (BitVec.ofNat 64) := by simp only [Request.registers, hpos]; rfl
    have hlen : (d.req.registers t).length = 8 := by rw [hregs]; rfl
    have key : c < s.cores.length → ∀ o, o = .next (s.carry c (.go ((s.giveTile c xd d t k').answered c d))) → gives o := by
      intro hc o ho
      obtain ⟨hheld', hxr, hpc, hwait, hne, hframe⟩ := carry_tile_reads (d := d) hc hown xd t k'
      refine ⟨_, ho, hheld', fun j v hj h0 hl => ?_, fun i hi => ?_, hpc, hwait, hne, hframe⟩
      · have hj8 : j < 8 := (List.getElem?_eq_some_iff.1 hj).1
        rw [hxr, if_pos ⟨by omega, by omega, h0, hl⟩, Nat.add_sub_cancel_left, hregs, List.getElem?_map, hj]
        rfl
      · rw [hxr, if_neg (by omega)]
    refine ⟨fun hr hstag => ?_, fun hw => ?_, fun r q hw hr hq hs => ?_⟩
    · exact key hr.1 (exec (.take c) s) ((exec_take hr).trans (by rw [doTake_answer hheld hn hd hpre hlow hstag hans]))
    · exact key hw.1 (exec (.takeServed c) s) (serveWaiting_answer hn hd hpre hlow hw rfl hans)
    · obtain ⟨e, l, hstarts⟩ := hs
      refine key hw.1 (exec (.firstTakeStaggerElapsed c) s)
        ((exec_firstTakeStaggerElapsed c s).trans (serveWaiting_answer hn hd hpre hlow hw ?_ hans))
      simp only [hr, Option.bind_some, hq, hstarts]
  · intro s c xd n d hr hheld hn hd hpre hstag hlow hserve
    obtain ⟨hheld', hxr, hpc, hframe⟩ := carry_exhausted_reads hr.1 xd d
    have hans := answerTake_exhausted (xd := xd) hserve
    have hlen : exhaustedRegs.length = 8 := rfl
    refine ⟨_, (exec_take hr).trans (by rw [doTake_answer hheld hn hd hpre hlow hstag hans]), hheld'.trans hheld, fun j hj h0 hl => ?_,
      fun i hi => ?_, hpc, hframe⟩
    · rw [hxr, if_pos ⟨by omega, by omega, h0, hl⟩, Nat.add_sub_cancel_left, getD_exhaustedRegs hj]
    · rw [hxr, if_neg (by omega)]

end Sys2Proof.Machine
end

section
/-! COMMIT, COMMIT_OFFER and YIELD (R383, R384, R424 to R426, R444). -/
namespace Sys2Proof.Machine

/-! ## Rows -/

section
variable {s : State} {c xd : Nat}

theorem exec_commit (h : Runs s c (.commit xd)) : exec (.commit c) s = .next (s.carry c (doCommit c s (.commit xd))) :=
  exec_control h rfl (row := fun i => match i with | .commit .. => true | _ => false) rfl (doCommit c)

theorem exec_yield (h : Runs s c .yield) : exec (.yield c) s = .next (s.carry c (doYield c s .yield)) :=
  exec_control h rfl (row := fun i => match i with | .yield => true | _ => false) rfl (doYield c)

/-- COMMIT of a held tile holds the core for its issued instructions, and then for the desk. -/
theorem doCommit_held {h : Held} (hh : (s.core c).held = some h) :
    doCommit c s (.commit xd) = .hold (if (s.core c).inflight.isEmpty then .offer else .commit) := by
  cases hi : (s.core c).inflight <;> simp [doCommit, hh, hi]

theorem doCommit_none (hh : (s.core c).held = none) : doCommit c s (.commit xd) = .fail .held 0 0 := by simp [doCommit, hh]

/-- YIELD of a held tile returns it to the desk. -/
theorem doYield_held {h : Held} (hh : (s.core c).held = some h) : doYield c s .yield = .go (s.returnTile c) := by simp [doYield, hh]

/-- YIELD without a held tile, and with no pre-emption pending, only goes on. -/
theorem doYield_none (hh : (s.core c).held = none) (hp : s.boundaryPreempt c = false) : doYield c s .yield = .go s := by
  simp only [doYield, hh, hp]
  split <;> rfl

end

/-! ## Tiles of a counter (R424 to R426) -/

theorem mem_insertSet (t x : Nat) : ∀ l : List Nat, x ∈ State.offer.insertSet t l ↔ x = t ∨ x ∈ l
  | [] => by simp [State.offer.insertSet]
  | y :: r => by
    rw [State.offer.insertSet]
    split
    · simp
    · split
      · rename_i _ h; subst h; simp
      · rw [List.mem_cons, mem_insertSet t x r, List.mem_cons]; tauto

/-- The counter of a tile is a loaded counter. -/
theorem State.counter?_of_homeOf {s : State} {d : Dispatch} {t r n : Nat} {k : Counter} (h : s.homeOf d t = some (r, n, k)) :
    s.counter? r n = some k := by
  obtain ⟨p, -, hp⟩ := List.mem_filterMap.1 (List.mem_of_find?_eq_some h)
  obtain ⟨q, hq, heq⟩ := Option.map_eq_some_iff.1 hp
  cases heq; exact hq

/-- A counter that gets the first commit of a tile from a core (R424). -/
def Counter.land (q : Counter) (t c : Nat) : Counter :=
  { q.drop t c with committed := State.offer.insertSet t q.committed, suspended := q.suspended.filter (· != t),
                    returned := q.returned.filter (· != t) }.settle

/-- A counter that discards a later commit of a tile from a core (R424). -/
def Counter.supersede (q : Counter) (t c : Nat) : Counter := { q.drop t c with superseded := q.superseded + 1 }

theorem Counter.drop_taken (q : Counter) (t c : Nat) : (t, c) ∉ (q.drop t c).taken := by simp [Counter.drop]

theorem Counter.land_taken (q : Counter) (t c : Nat) : (t, c) ∉ (q.land t c).taken := by
  rw [Counter.land, Counter.settle_eq]; exact q.drop_taken t c

theorem Counter.mem_land_committed (q : Counter) (t c : Nat) : t ∈ (q.land t c).committed := by
  rw [Counter.land, Counter.settle_eq]; exact (mem_insertSet t t _).2 (.inl rfl)

theorem Counter.land_superseded (q : Counter) (t c : Nat) : (q.land t c).superseded = q.superseded := by
  rw [Counter.land, Counter.settle_eq]; rfl

theorem Counter.land_returned (q : Counter) (t c : Nat) : t ∉ (q.land t c).returned := by
  rw [Counter.land, Counter.settle_eq]; simp

theorem Counter.land_suspended (q : Counter) (t c : Nat) : t ∉ (q.land t c).suspended := by
  rw [Counter.land, Counter.settle_eq]; simp

theorem State.updCore_id (s : State) (c : Nat) : s.updCore c id = s := by
  have h : updateAt s.cores c id = s.cores := updateAt_id s.cores c
  rw [State.updCore, h]

/-! ## COMMIT_OFFER (R383, R424) -/

section
variable {s : State} {c : Nat} {h : Held} {d : Dispatch} {r n : Nat} {k : Counter}
  (hd : lookupK h.dispatch s.dispatches = some d) (hhome : s.homeOf d h.tile = some (r, n, k)) (hk : k.state ≠ .cancelling)
  (hcan : d.cancelling = false)
include hd hhome hk hcan

/-- A later commit of a tile is discarded and counted. -/
theorem State.offer_later (ht : h.tile ∈ k.committed) :
    s.offer c h = ((s.updCounter r n (fun q => q.supersede h.tile c)).updDispatch d.number (fun e =>
      { e with superseded := e.superseded + 1 }), false) := by
  simp [State.offer, State.dispatch?, hd, hhome, hk, hcan, ht]
  rfl

/-- The first commit of a tile without cards, runs and sends lands and is counted. -/
theorem State.offer_first (ht : h.tile ∉ k.committed) (hcards : h.cards = []) (hruns : h.runs = []) (hsends : h.sends = []) :
    s.offer c h = ((s.updCounter r n (fun q => q.land h.tile c)).updDispatch d.number (fun e =>
      { e with committed := e.committed + 1, flags := e.flags ||| h.flags, skipped := e.skipped + h.skipped,
               audited := e.audited + h.audited, misses := e.misses + h.misses }), true) := by
  simp [State.offer, State.dispatch?, hd, hhome, hk, hcan, ht, State.landCards, State.admitRuns, State.arrivals, hcards, hruns, hsends,
    State.updCore_id]
  rfl

end

/-- A core whose commit the desk has answered with a value: it holds no tile. -/
def Core.offered (k : Core) (xd : Nat) (v : W64) : Core := { k.setX xd v with held := none, mism := [] }

theorem Core.loops_offered (k : Core) (xd : Nat) (v : W64) : (k.offered xd v).loops = k.loops := by rw [Core.offered, Core.setX_eq]

theorem Core.x_offered (k : Core) (xd : Nat) (v : W64) : (k.offered xd v).x = if xd = 0 then k.x else k.x.set xd v := by
  simp only [Core.offered, Core.setX]; split <;> rfl

section
variable {s : State} {c xd : Nat} {h : Held}

/-- The desk accepts the commit of a tile without runs. -/
theorem exec_commitOffer (hw : Waits s c (.commit xd) .offer ∨ Waits s c (.commit xd) .commit) (hh : (s.core c).held = some h)
    (hi : (s.core c).inflight = []) (hruns : h.runs = []) :
    exec (.commitOffer c) s = .next ((s.offer c h).1.carry c (.go ((s.offer c h).1.updCore c (fun q =>
      q.offered xd (if !(s.offer c h).2 then 1 else if h.nofit then 2 else 0))))) := by
  change execCommitOffer c s = _
  have hstrange : s.strangeJob h = false := by simp [State.strangeJob, hruns]
  have hwait : ((s.core c).wait == some .commit || (s.core c).wait == some .offer) = true := by
    rcases hw with ⟨-, -, hw, -⟩ | ⟨-, -, hw, -⟩ <;> rw [hw] <;> rfl
  obtain ⟨hc, hready, hat⟩ : c < s.cores.length ∧ s.ready c = true ∧ s.instrAt (s.core c) = .commit xd := by
    rcases hw with ⟨h1, h2, -, h4⟩ | ⟨h1, h2, -, h4⟩ <;> exact ⟨h1, h2, h4⟩
  simp only [execCommitOffer, if_neg (Nat.not_le.2 hc), hat, hh, hready, hwait, hi, hstrange, List.isEmpty_nil, Bool.not_true,
    Bool.or_self, Bool.false_eq_true, if_false, Core.offered]

theorem State.counter?_congr {t u : State} {r n : Nat} (h : u.regions = t.regions) : u.counter? r n = t.counter? r n := by
  rw [State.counter?, State.counter?, State.region, State.region, h]

/-- The step past an answered commit, on a state in which the desks and the dispatches have changed. -/
theorem State.carry_go_offered {t : State} (hc : c < s.cores.length) (ht : t = { s with regions := t.regions, dispatches := t.dispatches })
    (v : W64) :
    let u := t.carry c (.go (t.updCore c (fun q => q.offered xd v)))
    u.core c = { ((s.core c).offered xd v).advance (s.core c).pc with wait := none } ∧ u.regions = t.regions ∧ u.dispatches = t.dispatches ∧
    u = { s with cores := u.cores, regions := u.regions, dispatches := u.dispatches } := by
  intro u
  have hcore : t.core c = s.core c := by rw [ht]; rfl
  have hlen : c < t.cores.length := by rw [ht]; exact hc
  refine ⟨?_, rfl, rfl, congrArg (fun x : State => { x with cores := u.cores }) ht⟩
  rw [State.core_carry_go (by rw [State.updCore_cores_length]; exact hlen), State.core_updCore_self _ _ _ hlen, hcore]

/-- What the core and the device hold after a commit that changed a counter and a dispatch only. -/
theorem carry_committed {r n m : Nat} {k : Counter} {d : Dispatch} (hc : c < s.cores.length) (hr : r < s.regions.length)
    (hk : s.counter? r n = some k) (hd : lookupK m s.dispatches = some d) (v : W64) (f : Counter → Counter) (g : Dispatch → Dispatch) :
    let t := (s.updCounter r n f).updDispatch m g
    let u := t.carry c (.go (t.updCore c (fun q => q.offered xd v)))
    u.counter? r n = some (f k) ∧ lookupK m u.dispatches = some (g d) ∧ (u.core c).held = none ∧
    (u.core c).pc = (advanceFrom (s.core c).pc (s.core c).loops).1 ∧
    (u.core c).x = (if xd = 0 then (s.core c).x else (s.core c).x.set xd v) ∧
    u = { s with cores := u.cores, regions := u.regions, dispatches := u.dispatches } := by
  intro t u
  have hcounter : t.counter? r n = some (f k) :=
    (State.counter?_congr rfl).trans ((State.counter?_updCounter_self hr n f).trans (by rw [hk]; rfl))
  have hdispatch : lookupK m t.dispatches = some (g d) := (lookupK_updK_self m g s.dispatches).trans (by rw [hd]; rfl)
  have ht : t = { s with regions := t.regions, dispatches := t.dispatches } := rfl
  clear_value t
  obtain ⟨hcore, hregions, hds, hframe⟩ := State.carry_go_offered (xd := xd) hc ht v
  refine ⟨(State.counter?_congr hregions).trans hcounter, by rw [hds]; exact hdispatch, by rw [hcore]; rfl, ?_, ?_, hframe⟩
  · rw [hcore]; simp only [Core.advance, Core.loops_offered]
  · rw [hcore]; exact Core.x_offered ..

end

/-! ## YIELD (R384, R426) -/

/-- A tile that is not committed, returned to a counter that is not being cancelled. -/
theorem Counter.giveBack_spec {k : Counter} {t : Nat} (hk : k.state ≠ .cancelling) (ht : t ∉ k.committed) (c : Nat) :
    t ∈ (k.giveBack t c).returned ∧ (t, c) ∉ (k.giveBack t c).taken ∧ (k.giveBack t c).committed = k.committed := by
  have hcond : (k.state == .cancelling || k.committed.contains t) = false := by simp [hk, ht]
  simp only [Counter.giveBack, hcond, Bool.false_eq_true, if_false]
  rw [Counter.settle_eq]
  refine ⟨?_, k.drop_taken t c, rfl⟩
  change t ∈ if (k.drop t c).returned.contains t then (k.drop t c).returned else (k.drop t c).returned ++ [t]
  split
  · rename_i h; simpa using h
  · simp

/-- A tile returned to its counter by a core. -/
theorem State.returnTile_eq {s : State} {c r n : Nat} {h : Held} {d : Dispatch} {k : Counter} (hh : (s.core c).held = some h)
    (hd : lookupK h.dispatch s.dispatches = some d) (hhome : s.homeOf d h.tile = some (r, n, k)) :
    s.returnTile c = (s.updCore c (fun q => { q with held := none })).updCounter r n (fun q => q.giveBack h.tile c) := by
  have hd' : (s.updCore c (fun q => { q with held := none })).dispatch? h.dispatch = some d := hd
  have hhome' : (s.updCore c (fun q => { q with held := none })).homeOf d h.tile = some (r, n, k) := hhome
  simp only [State.returnTile, hh, hd', hhome']

/-- The step past the return of a tile. -/
theorem State.carry_go_returned {s : State} {c r n : Nat} {h : Held} {d : Dispatch} {k : Counter} (hc : c < s.cores.length)
    (hh : (s.core c).held = some h) (hd : lookupK h.dispatch s.dispatches = some d) (hhome : s.homeOf d h.tile = some (r, n, k)) :
    let u := s.carry c (.go (s.returnTile c))
    u.core c = { ({ s.core c with held := none } : Core).advance (s.core c).pc with wait := none } ∧
    u.regions = (s.returnTile c).regions ∧ u = { s with cores := u.cores, regions := u.regions } := by
  have hcore : (s.returnTile c).core c = { s.core c with held := none } := by
    rw [State.returnTile_eq hh hd hhome, State.core_updCounter, State.core_updCore_self _ _ _ hc]
  have hlen : c < (s.returnTile c).cores.length := by
    rw [State.returnTile_eq hh hd hhome]; exact (State.updCore_cores_length ..).symm ▸ hc
  have ht : s.returnTile c = { s with cores := (s.returnTile c).cores, regions := (s.returnTile c).regions } := by
    rw [State.returnTile_eq hh hd hhome]; rfl
  generalize s.returnTile c = t at hcore hlen ht ⊢
  refine ⟨by rw [State.core_carry_go hlen, hcore], rfl, congrArg (fun x : State => { x with cores := (s.carry c (.go t)).cores }) ht⟩

/-- Settles O7: COMMIT by `doCommit_held`, COMMIT_OFFER by `exec_commitOffer` with `State.offer_first` and `State.offer_later`, YIELD by
`State.returnTile_eq` and `Counter.giveBack_spec`. -/
theorem commitYield : Obligations.CommitYield := by
  refine ⟨⟨?commit, ?commitNone, ?offer⟩, ?yield, ?yieldNone⟩
  case commit =>
    intro s c xd h hr hh
    rw [exec_commit hr, doCommit_held hh]
    exact congrArg _ (State.updCore_congr _ _ _ _ rfl)
  case commitNone =>
    intro s c xd hr hh
    obtain ⟨hcore, hframe⟩ := State.carry_fail hr .held 0 0
    exact ⟨_, by rw [exec_commit hr, doCommit_none hh], by rw [hcore], hframe⟩
  case offer =>
    intro s c xd r n h d k hw hh hi hcards hruns hsends hd hnum hhome hk hcan hr
    have hc : c < s.cores.length := by rcases hw with h | h <;> exact h.1
    have hexec := exec_commitOffer hw hh hi hruns
    have hcounter := State.counter?_of_homeOf hhome
    by_cases ht : h.tile ∈ k.committed
    · rw [State.offer_later hd hhome hk hcan ht, hnum] at hexec
      obtain ⟨hk', hd', hheld, hpc, hx, hframe⟩ := carry_committed (xd := xd) hc hr hcounter hd 1 (fun q => q.supersede h.tile c)
        (fun e => { e with superseded := e.superseded + 1 })
      refine ⟨_, _, _, hexec, hk', hd', hheld, hpc, ?_, ht, k.drop_taken _ _, fun hn => absurd ht hn, fun _ => ⟨rfl, rfl, rfl⟩, hframe⟩
      rw [if_pos ht]; exact hx
    · rw [State.offer_first hd hhome hk hcan ht hcards hruns hsends, hnum] at hexec
      obtain ⟨hk', hd', hheld, hpc, hx, hframe⟩ := carry_committed (xd := xd) hc hr hcounter hd (if h.nofit then 2 else 0)
        (fun q => q.land h.tile c) (fun e =>
          { e with committed := e.committed + 1, flags := e.flags ||| h.flags, skipped := e.skipped + h.skipped,
                   audited := e.audited + h.audited, misses := e.misses + h.misses })
      refine ⟨_, _, _, hexec, hk', hd', hheld, hpc, ?_, k.mem_land_committed _ _, k.land_taken _ _,
        fun _ => ⟨k.land_superseded _ _, rfl, k.land_returned _ _, k.land_suspended _ _⟩, fun hn => absurd hn ht, hframe⟩
      rw [if_neg ht]; exact hx
  case yield =>
    intro s c r n h d k hr hh hd hhome hlt hk ht
    obtain ⟨hret, htaken, hcom⟩ := k.giveBack_spec hk ht c
    obtain ⟨hcore, hregions, hframe⟩ := State.carry_go_returned hr.1 hh hd hhome
    refine ⟨_, k.giveBack h.tile c, by rw [exec_yield hr, doYield_held hh], by rw [hcore]; rfl, ?_, hret, htaken, hcom, by rw [hcore]; rfl,
      by rw [hcore]; rfl, hframe⟩
    rw [State.counter?_congr hregions, State.returnTile_eq hh hd hhome]
    refine (State.counter?_updCounter_self (s := s.updCore c _) hlt n _).trans ?_
    exact congrArg (Option.map _) (State.counter?_of_homeOf hhome)
  case yieldNone =>
    intro s c hr hh hp
    rw [exec_yield hr, doYield_none hh hp, State.carry_go s s c rfl]

end Sys2Proof.Machine
end

section
/-! Phases and completion (R341 to R343, R389, R390, R485, R498, R603). -/
namespace Sys2Proof.Machine

/-! ## Phases (R341, R342) -/

/-- PHASE_ENTER with nothing of the current phase left issues the waiting instruction in its own phase. -/
theorem exec_phaseEnter {s : State} {c : Nat} {i : TileInstr} {p : Phase} (h : Waits s c i .phase) (hp : i.phase = some p)
    (hi : ∀ f ∈ (s.core c).inflight, f.instr.phase ≠ some (s.core c).phase) (errs : List MemErr) (mis : List Mismatch) :
    let s1 := s.updCore c (fun q => { q with phase := p })
    exec (.phaseEnter c errs mis) s = .next (s1.carry c (issueBody c errs mis s1 i)) := by
  obtain ⟨hc, hready, hwait, hat⟩ := h
  have hnone : ((s.core c).inflight.any fun f => f.instr.phase == some (s.core c).phase) = false := by simpa using hi
  change execPhaseEnter c errs mis s = _
  simp only [execPhaseEnter, if_neg (Nat.not_le.2 hc), hready, hwait, hat, hnone, hp, Bool.not_true, bne_self_eq_false, Bool.or_self,
    Bool.false_eq_true, if_false]

/-- PHASE_ENTER before that does nothing. -/
theorem exec_phaseEnter_early {s : State} {c : Nat} {i : TileInstr} (h : Waits s c i .phase)
    (hi : ∃ f ∈ (s.core c).inflight, f.instr.phase = some (s.core c).phase) (errs : List MemErr) (mis : List Mismatch) :
    exec (.phaseEnter c errs mis) s = .next s := by
  obtain ⟨hc, hready, hwait, hat⟩ := h
  have hsome : ((s.core c).inflight.any fun f => f.instr.phase == some (s.core c).phase) = true := by simpa using hi
  change execPhaseEnter c errs mis s = _
  simp only [execPhaseEnter, if_neg (Nat.not_le.2 hc), hsome, Bool.or_true, if_true]

/-! ## Completion (R343) -/

section
variable {s : State} {c idx : Nat} {f : Inflight}

/-- When an issued instruction has reached its completion event. -/
theorem State.finished_iff (s : State) (k : Core) (f : Inflight) : s.finished k f = true ↔
    f.trail = false ∧ f.stop = none ∧ f.asked = [] ∧ f.rerun = false ∧ f.redo = false ∧ s.writesHeld k f = false ∧
    (∀ a ∈ f.acks, ∀ p ∈ (s.stream a.1).unacked, p.seq ≠ a.2) ∧
    (∀ u ∈ k.unitsOf f.instr, ∀ g, (k.onUnit u).head? = some g → g.idx = f.idx) := by
  have head : ∀ o : Option Inflight, o.all (fun g => g.idx == f.idx) = true ↔ ∀ g, o = some g → g.idx = f.idx := by
    intro o; cases o <;> simp
  simp only [State.finished, State.acked, Bool.and_eq_true, Option.isNone_iff_eq_none, List.isEmpty_iff, Bool.not_eq_true', List.all_eq_true,
    bne_iff_ne, head]
  tauto

/-- An issued instruction is found by its number. -/
theorem State.idx_of_flightOf (h : s.flightOf c idx = some f) : f.idx = idx := by simpa using List.find?_some h

/-- An instruction that has reached its completion event leaves the list of those issued, and what it reports goes on. -/
def State.complete (s : State) (c idx : Nat) (f : Inflight) : State :=
  let s1 := s.updCore c (fun q => { q with inflight := q.inflight.filter (fun g => g.idx != idx) })
  match f.sendRoute with
  | none => s1
  | some r =>
    let e := s.routeEntry (s.core c) r
    if srNoTally e then s1 else s1.tallyAt (srSocket e) (srTally e) 1#64 c ((s.core c).dispatch.getD 0) 0

variable (hc : c < s.cores.length) (hf : s.flightOf c idx = some f)
include hc hf

/-- Completion of an instruction that has reached its completion event. -/
theorem exec_instructionComplete (ha : s.unitAlive c = true) (hdone : s.finished (s.core c) f = true) :
    exec (.instructionComplete c idx) s = .next ((s.complete c idx f).settleFence c) := by
  have htrail : f.trail = false := ((s.finished_iff _ f).1 hdone).1
  change execInstructionComplete c idx s = _
  simp only [execInstructionComplete, if_neg (Nat.not_le.2 hc), hf, ha, hdone, htrail, Bool.not_true, Bool.false_and, Bool.false_eq_true,
    if_false]
  cases hr : f.sendRoute with
  | none => simp only [State.complete, hr]
  | some r => simp only [State.complete, hr]; rfl

/-- Completion of an instruction that has not reached its completion event, a trailing read apart, does nothing. -/
theorem exec_instructionComplete_early (h1 : s.finished (s.core c) f = false)
    (h2 : s.finished (s.core c) { f with trail := false } = false) : exec (.instructionComplete c idx) s = .next s := by
  change execInstructionComplete c idx s = _
  simp only [execInstructionComplete, if_neg (Nat.not_le.2 hc), hf, h1, h2, Bool.and_false, Bool.false_eq_true, if_false, Bool.not_false,
    if_true, ite_self]

/-- Behind writes to host-backed pages the trailing read is issued first. -/
theorem exec_instructionComplete_trail (ha : s.unitAlive c = true) (htrail : f.trail = true)
    (hdone : s.finished (s.core c) { f with trail := false } = true) :
    exec (.instructionComplete c idx) s = .next (s.trailingRead c idx) := by
  change execInstructionComplete c idx s = _
  simp only [execInstructionComplete, if_neg (Nat.not_le.2 hc), hf, ha, htrail, hdone, Bool.not_true, Bool.and_self, Bool.false_eq_true,
    if_false, if_true]

end

/-! ## Fences that wait (R389, R390) -/

/-- A core that no fence holds goes on. -/
theorem State.settleFence_of_ne {s : State} {c : Nat} (h : (s.core c).wait ≠ some .fence) : s.settleFence c = s := by
  have hw : ((s.core c).wait == some .fence) = false := by simpa using h
  simp only [State.settleFence, hw, Bool.and_false, Bool.false_and, Bool.false_eq_true, if_false]

/-- A FENCE that waited goes on once nothing issued is left. -/
theorem State.settleFence_fence {s : State} {c : Nat} (h : Waits s c .fence .fence) (hi : (s.core c).inflight = []) :
    s.settleFence c = s.carry c (.go s) := by
  obtain ⟨-, hready, hwait, hat⟩ := h
  simp only [State.settleFence, hready, hwait, hi, hat, beq_self_eq_true, List.isEmpty_nil, Bool.and_self, if_true]

/-- A HALT that waited ends the program once nothing issued is left. -/
theorem State.settleFence_halt {s : State} {c : Nat} (h : Waits s c .halt .fence) (hi : (s.core c).inflight = []) :
    s.settleFence c = s.updCore c Core.leave := by
  obtain ⟨-, hready, hwait, hat⟩ := h
  simp only [State.settleFence, hready, hwait, hi, hat, beq_self_eq_true, List.isEmpty_nil, Bool.and_self, if_true]

/-- What stands at a core does not depend on what it has issued. -/
theorem Waits.updInflight {s : State} {c : Nat} {i : TileInstr} {w : Wait} (h : Waits s c i w) (l : List Inflight) :
    Waits (s.updCore c (fun q => { q with inflight := l })) c i w := by
  obtain ⟨hc, hready, hwait, hat⟩ := h
  have hcore := State.core_updCore_self s c (fun q => { q with inflight := l }) hc
  refine ⟨by rw [State.updCore_cores_length]; exact hc, ?_, by rw [hcore]; exact hwait, by rw [hcore]; exact hat⟩
  rw [State.ready, hcore]; exact hready

/-! ## What completion leaves -/

section
variable {s : State} {c idx : Nat} {f : Inflight}

theorem State.complete_none (h : f.sendRoute = none) :
    s.complete c idx f = s.updCore c (fun q => { q with inflight := q.inflight.filter (fun g => g.idx != idx) }) := by
  simp only [State.complete, h]

/-- A send of no tile along a route without a tally reports nothing. -/
theorem State.complete_noTally {r : Nat} (h : f.sendRoute = some r) (hr : srNoTally (s.routeEntry (s.core c) r) = true) :
    s.complete c idx f = s.updCore c (fun q => { q with inflight := q.inflight.filter (fun g => g.idx != idx) }) := by
  simp only [State.complete, h, hr, if_true]

/-- A send of no tile adds 1 to the tally that its route names, here of the device's own socket (R603). -/
theorem State.complete_tally {r : Nat} (h : f.sendRoute = some r) (hr : srNoTally (s.routeEntry (s.core c) r) = false)
    (hself : s.self? = some (srSocket (s.routeEntry (s.core c) r))) :
    let t := srTally (s.routeEntry (s.core c) r)
    s.complete c idx f = ({ s with tallies := insertK t (s.tally t + 1) s.tallies } : State).updCore c
      (fun q => { q with inflight := q.inflight.filter (fun g => g.idx != idx) }) := by
  have hself' : ∀ u, (s.updCore c u).self? = s.self? := fun _ => rfl
  simp only [State.complete, h, hr, Bool.false_eq_true, if_false, State.tallyAt, hself', hself, beq_self_eq_true, if_true]
  rfl

/-- An issued instruction found by its number after a change of it. -/
theorem State.flightOf_updFlight {g : Inflight → Inflight} (hg : ∀ x, (g x).idx = x.idx) (hc : c < s.cores.length)
    (hf : s.flightOf c idx = some f) : (s.updFlight c idx g).flightOf c idx = some (g f) := by
  have hkeeps : (fun x : Inflight => x.idx == idx) ∘ (fun x => if x.idx = idx then g x else x) = fun x => x.idx == idx := by
    funext x; by_cases hx : x.idx = idx <;> simp [hx, hg]
  rw [State.flightOf, State.updFlight, State.core_updCore_self _ _ _ hc, Core.updInflight, List.find?_map, hkeeps]
  change Option.map _ (s.flightOf c idx) = _
  rw [hf, Option.map_some, if_pos (State.idx_of_flightOf hf)]

/-- What the trailing read leaves (R485). -/
theorem State.trailingRead_spec (hc : c < s.cores.length) (hf : s.flightOf c idx = some f) :
    let u := s.trailingRead c idx
    u.flightOf c idx = some { f with trail := false } ∧ (u.core c).wait = (s.core c).wait ∧ (u.core c).pc = (s.core c).pc ∧
    u = { s with cores := u.cores, ledger := u.ledger, fresh := u.fresh } := by
  let t : State := ({ s with fresh := s.fresh + 1 } : State).count 2 (Config.freeNat s.fresh)
  have ht : s.trailingRead c idx = t.updFlight c idx (fun x => { x with trail := false }) := rfl
  have hcore : (t.updFlight c idx (fun x => { x with trail := false })).core c = (s.core c).updInflight idx (fun x => { x with trail := false }) :=
    State.core_updCore_self t c _ hc
  refine ⟨?_, ?_, ?_, rfl⟩
  · rw [ht]; exact State.flightOf_updFlight (s := t) (g := fun x => { x with trail := false }) (fun _ => rfl) hc hf
  · rw [ht, hcore]; rfl
  · rw [ht, hcore]; rfl

end

/-- Settles O11: phases by `State.tryIssue_phase` and `exec_phaseEnter`, completion by `exec_instructionComplete` with `State.finished_iff`,
the fences by `State.settleFence_fence` and `State.settleFence_halt`, the trailing read by `State.trailingRead_spec`. -/
theorem issueCompletes : Obligations.IssueCompletes := by
  refine ⟨?phases, ?completion⟩
  case phases =>
    intro s c p errs mis
    refine ⟨fun f h hp => ?_, fun f h hp => ?_, fun f h hp => ?_, fun i h hp hi => ⟨exec_phaseEnter h hp hi errs mis, ?_⟩,
      fun i h hi => exec_phaseEnter_early h hi errs mis⟩
    · exact State.tryIssue_phase h .load rfl hp.symm (fun i => match i with | .load _ => true | _ => false) rfl (doLoad c errs)
    · exact State.tryIssue_phase h .drain rfl hp.symm (fun i => match i with | .store _ => true | _ => false) rfl (doStore c errs)
    · exact State.tryIssue_phase h .compute rfl hp.symm (fun i => match i with | .mma _ => true | _ => false) rfl (doMma c mis)
    · rw [State.core_updCore_self _ _ _ h.1]
  case completion =>
    intro s c idx f hc hf k left done
    have hidx := State.idx_of_flightOf hf
    have hfin : done → f.trail = false → s.finished k f = true := fun hd ht => (s.finished_iff k f).2 (by rw [hidx]; exact ⟨ht, hd⟩)
    have hfin' : done → s.finished k { f with trail := false } = true :=
      fun hd => (s.finished_iff k { f with trail := false }).2 (by rw [hidx]; exact ⟨rfl, hd⟩)
    have hleft : s.updCore c (fun q => { q with inflight := q.inflight.filter (fun g => g.idx != idx) }) =
        s.updCore c (fun q => { q with inflight := left }) := State.updCore_congr _ _ _ _ rfl
    refine ⟨fun ha hd ht hw => ⟨fun hr => ?_, fun r hr hn => ?_, fun r hr hn hself => ?_⟩, fun ha hd ht hr hl => ⟨fun h => ?_, fun h => ?_⟩,
      fun hbad => ?_, fun ha ht hd => ?_⟩
    · rw [exec_instructionComplete hc hf ha (hfin hd ht), State.complete_none hr, hleft, State.settleFence_of_ne]
      rw [State.core_updCore_self _ _ _ hc]; exact hw
    · rw [exec_instructionComplete hc hf ha (hfin hd ht), State.complete_noTally hr hn, hleft, State.settleFence_of_ne]
      rw [State.core_updCore_self _ _ _ hc]; exact hw
    · rw [exec_instructionComplete hc hf ha (hfin hd ht), State.complete_tally hr hn hself, State.settleFence_of_ne]
      · exact congrArg _ (State.updCore_congr _ _ _ _ rfl)
      · rw [State.core_updCore_self _ _ _ (by exact hc)]; exact hw
    · rw [exec_instructionComplete hc hf ha (hfin hd ht), State.complete_none hr, hleft, hl,
        State.settleFence_fence (h.updInflight []) (by rw [State.core_updCore_self _ _ _ hc]), State.carry_go _ _ _ rfl,
        State.updCore_updCore]
      rfl
    · rw [exec_instructionComplete hc hf ha (hfin hd ht), State.complete_none hr, hleft, hl,
        State.settleFence_halt (h.updInflight []) (by rw [State.core_updCore_self _ _ _ hc]), State.updCore_updCore]
      rfl
    · refine exec_instructionComplete_early hc hf ?_ ?_ <;> rw [Bool.eq_false_iff, ne_eq, State.finished_iff] <;>
        rintro ⟨-, h1, h2, h3, h4, -, h5, -⟩
      all_goals
        rcases hbad with hb | hb | hb | hb | ⟨a, ha, p, hp, he⟩
        · exact hb h1
        · exact hb h2
        · simp_all
        · simp_all
        · exact h5 a ha p hp he
    · exact ⟨_, exec_instructionComplete_trail hc hf ha ht (hfin' hd), State.trailingRead_spec hc hf⟩

end Sys2Proof.Machine
end

section
/-! SEND along a route of the device's own socket (R386, R600, R601, R603). -/
namespace Sys2Proof.Machine

/-! ## A write inside one page -/

/-- A run of addresses that ends inside its page is one piece (R477). -/
theorem pagePieces_one {a n : Nat} (hn : 0 < n) (h : a % 65536 + n ≤ 65536) : pagePieces a n = [(a, n)] := by
  have hmin : min n (65536 - a % 65536) = n := by omega
  simp [pagePieces, pieces, hn.ne', hmin]

/-- A piece written in a page leaves the memories as `State.afterWrite` says. -/
theorem State.writePiece_mems {s : State} {a : Nat} {p : Page} (h : s.page? a = some p) (bs : List Byte) :
    ((s.writePiece a bs).dram, (s.writePiece a bs).hostMem) = s.afterWrite p a bs := by
  unfold State.writePiece State.afterWrite
  rw [h]
  dsimp only
  split <;> rfl

/-- A run of bytes written inside one page leaves the memories as `State.afterWrite` says. -/
theorem State.writeVA_mems {s : State} {a : Nat} {p : Page} {bs : List Byte} (hn : 0 < bs.length) (h : InPage s a bs.length p)
    (r : Option Nat) : ((s.writeVA a bs r).dram, (s.writeVA a bs r).hostMem) = s.afterWrite p a bs := by
  obtain ⟨hp, hin⟩ := h
  have hone : s.writeVA a bs r = (s.translate r a).writePiece a bs := by
    simp [State.writeVA, pagePieces_one hn hin]
  have ht := s.translate_eq r a
  rw [hone, State.writePiece_mems (p := p) (by rw [ht]; exact hp), ht]
  rfl

/-! ## The landing of a send (R584, R600, R604) -/

/-- A send along a valid route of the own socket lands there, inside its range and on a boundary of 64 bytes. -/
theorem State.landing_own {s : State} {k : Core} {route off len me : Nat} (hme : s.self? = some me) (hv : srValid (s.routeEntry k route) = true)
    (hs : srSocket (s.routeEntry k route) = me) (hoff : off % 64 = 0) (hlen : off + len ≤ srSize (s.routeEntry k route)) :
    s.landing k route off len false = .inl ⟨me, srBase (s.routeEntry k route) + off⟩ := by
  have hreach : s.remoteFault me = none := by simp [State.remoteFault, hme]
  simp [State.landing, hme, hv, hs, hoff, Nat.not_lt.2 hlen, hreach]

/-! ## A send carried to its landing -/

/-- An issued send whose bytes were written. -/
def Inflight.wrote (put : Undo) (host : Bool) (f : Inflight) : Inflight :=
  { f with stop := none, rows := [], trail := f.trail || host, undo := put :: f.undo }

/-- A send counted for the tile of its core, or for its completion without one (R603). -/
def Core.countSend (idx route : Nat) (k : Core) : Core :=
  match k.held with
  | some h => { k with held := some { h with sends := insertK route (lookupD 0 route h.sends + 1) h.sends } }
  | none => k.updInflight idx (fun f => { f with sendRoute := some route })

theorem State.countSend_eq (s : State) (c idx route : Nat) : s.countSend c idx route = s.updCore c (Core.countSend idx route) := rfl

section
variable {s : State} {c idx route : Nat} {l : Landing} {bs : List Byte}

/-- A send that may write on its own socket writes there and is counted. -/
theorem State.sendTo_own (hs : s.self? = some l.sock) (hw : s.checkWrite false l.addr bs.length = .ok) : ∃ put host,
    s.sendTo c idx route l bs = ((s.writeVA l.addr bs (some (regionOf c))).updCore c
      fun k => (k.updInflight idx (Inflight.wrote put host)).countSend idx route) := by
  let put : Undo := ⟨l.addr, s.bytesAt l.addr bs.length, (s.writeVA l.addr bs (some (regionOf c))).bytesAt l.addr bs.length⟩
  refine ⟨put, s.reachesHost [put], ?_⟩
  unfold State.sendTo
  rw [hs, if_pos (beq_self_eq_true _), hw]
  exact State.updCore_updCore ..

end

/-- A core that issued a send of its own socket, with nothing else issued. -/
def Core.sent (k : Core) (fl : Inflight) (put : Undo) (host : Bool) (route : Nat) : Core :=
  ((k.launch fl).updInflight fl.idx (Inflight.wrote put host)).countSend fl.idx route

/-- What a send leaves of its core: the instruction issued, counted for the tile or for its completion. -/
theorem Core.sent_spec {k : Core} (hi : k.inflight = []) (fl : Inflight) (hr : fl.sendRoute = none) (put : Undo) (host : Bool) (route : Nat) :
    let q := k.sent fl put host route
    ∃ g, q.inflight = [g] ∧ g.instr = fl.instr ∧ g.stop = none ∧ q.carrel = k.carrel ∧ q.loops = k.loops ∧
      (∀ h, k.held = some h → q.held = some { h with sends := insertK route (lookupD 0 route h.sends + 1) h.sends } ∧ g.sendRoute = none) ∧
      (k.held = none → q.held = none ∧ g.sendRoute = some route) := by
  have hone : ((k.launch fl).updInflight fl.idx (Inflight.wrote put host)).inflight = [fl.wrote put host] := by
    simp [Core.launch, Core.updInflight, hi]
  have hheld : ((k.launch fl).updInflight fl.idx (Inflight.wrote put host)).held = k.held := rfl
  intro q
  cases hk : k.held with
  | some h =>
    have hq : q = { (k.launch fl).updInflight fl.idx (Inflight.wrote put host) with
        held := some { h with sends := insertK route (lookupD 0 route h.sends + 1) h.sends } } := by
      simp only [q, Core.sent, Core.countSend, hheld, hk]
    rw [hq]
    exact ⟨_, hone, rfl, rfl, rfl, rfl, fun _ e => by cases e; exact ⟨rfl, hr⟩, nofun⟩
  | none =>
    have hq : q = ((k.launch fl).updInflight fl.idx (Inflight.wrote put host)).updInflight fl.idx
        fun f => { f with sendRoute := some route } := by
      simp only [q, Core.sent, Core.countSend, hheld, hk]
    rw [hq]
    refine ⟨{ fl.wrote put host with sendRoute := some route }, ?_, rfl, rfl, rfl, rfl, nofun, fun _ => ⟨hk, rfl⟩⟩
    rw [Core.updInflight, hone]
    simp [Inflight.wrote]

/-- A SEND of an idle core along a valid route of the own socket writes its bytes and is issued. -/
theorem doSend_own {s : State} {c sh xn route xa me : Nat} {t : Tag} (hme : s.self? = some me)
    (hobj : (s.core c).object (s.limitOf c) sh = .inl t) (hi : (s.core c).inflight = []) {n : Nat} (hn : ((s.core c).xr xn).toNat = n)
    (hlim : sh * 16384 + n ≤ s.limitOf c * 16384) {a : Nat} (hland : s.landing (s.core c) route ((s.core c).xr xa).toNat n false = .inl ⟨me, a⟩)
    (hw : s.checkWrite false a n = .ok) : ∃ fl put host,
      fl.instr = .send sh xn route xa ∧ fl.sendRoute = none ∧
      doSend c s (.send sh xn route xa) =
        .go (((s.updCore c fun k => k.launch fl).writeVA a ((s.core c).carrel.readBytes (sh * 16384) n) (some (regionOf c))).updCore c
          fun k => (k.updInflight fl.idx (Inflight.wrote put host)).countSend fl.idx route) := by
  obtain ⟨put, host, hsend⟩ := State.sendTo_own
    (s := s.updCore c fun k => k.launch ((s.core c).flight (.send sh xn route xa) ((s.core c).span sh t) [] 0)) (c := c)
    (idx := (s.core c).nextIdx) (route := route) (l := ⟨me, a⟩) (bs := (s.core c).carrel.readBytes (sh * 16384) n) hme
    (by rw [Mem.length_readBytes]; exact hw)
  refine ⟨(s.core c).flight (.send sh xn route xa) ((s.core c).span sh t) [] 0, put, host, rfl, rfl, ?_⟩
  unfold doSend
  dsimp only
  rw [hme, Option.isNone_some, if_neg (by decide), hobj]
  dsimp only
  rw [Core.drainWaits_idle hi, if_neg (by decide), hn, if_neg (by unfold shelfBytes; omega), hland]
  exact congrArg Issue.go hsend

/-- Settles O16: the bytes lie in one page, so that one write carries them there, and the send is issued and counted on its idle core. -/
theorem sendLands : Obligations.SendLands := by
  unfold Obligations.SendLands
  intro s c sh xn route xa me t p hr hme hobj hi n off e a hn hlim hv hs hoff hsize hin hw
  obtain ⟨fl, put, host, hinstr, hroute, hgo⟩ := doSend_own hme hobj hi (n := n) rfl hlim (State.landing_own hme hv hs hoff hsize) hw
  have hexec : exec (.send c) s = _ := State.tryIssue_runs hr (fun i => match i with | .send .. => true | _ => false) rfl (doSend c)
  rw [hgo] at hexec
  obtain ⟨g, hone, hg, hstop, hcarrel, hloops, hheld, hfree⟩ := Core.sent_spec hi fl hroute put host route
  generalize hwrite : (s.updCore c fun k => k.launch fl).writeVA a ((s.core c).carrel.readBytes (sh * 16384) n) (some (regionOf c)) = w at hexec
  have hmems : (w.dram, w.hostMem) = s.afterWrite p a ((s.core c).carrel.readBytes (sh * 16384) n) := by
    rw [← hwrite]
    exact State.writeVA_mems (by rwa [Mem.length_readBytes]) (by rw [Mem.length_readBytes]; exact hin) _
  have hframe : w = { s with
      cores := w.cores, ledger := w.ledger, hostMem := w.hostMem, dram := w.dram, poison := w.poison, fresh := w.fresh, caches := w.caches } := by
    rw [← hwrite, State.writeVA_eq]
    rfl
  have hcores : w.cores = (s.updCore c fun k => k.launch fl).cores := by rw [← hwrite, State.writeVA_eq]
  have hlen : c < w.cores.length := by rw [hcores, State.updCore_cores_length]; exact hr.1.1
  have hcore : w.core c = (s.core c).launch fl := by
    have : w.core c = (s.updCore c fun k => k.launch fl).core c := by simp only [State.core, hcores]
    exact this.trans (State.core_updCore_self s c _ hr.1.1)
  clear_value a
  clear hwrite
  refine ⟨_, g, hexec, hmems, ?_⟩
  rw [State.core_carry_go (by rw [State.updCore_cores_length]; exact hlen), State.core_updCore_self _ _ _ hlen, hcore]
  refine ⟨hheld, hfree, hone, hg.trans hinstr, hstop, hcarrel, ?_, ?_⟩
  · exact congrArg (fun l => (advanceFrom _ l).1) hloops
  · exact congrArg (fun x : State => { x with cores := (s.carry c (.go (w.updCore c fun k =>
      (k.updInflight fl.idx (Inflight.wrote put host)).countSend fl.idx route))).cores }) hframe

end Sys2Proof.Machine
end

section
/-! The canonical form of the memories (R364, R517, R547): what a state must keep, and the updates that keep it. -/
namespace Sys2Proof.Machine

-- One proof after another: these short proofs, elaborated all at once, would take a thread each and exhaust the memory of the compile.
set_option Elab.async false

/-- A state with the same memories, cores and regions keeps the canonical form. -/
theorem MemoriesWf.same {s t : State} (h : MemoriesWf s) (hd : t.dram = s.dram := by rfl) (hm : t.hostMem = s.hostMem := by rfl)
    (hc : t.cores = s.cores := by rfl) (hr : t.regions = s.regions := by rfl) : MemoriesWf t := by
  unfold MemoriesWf
  rw [hd, hm, hc, hr]
  exact h

/-- Whichever branch is taken keeps the canonical form. -/
theorem MemoriesWf.of_ite {p : Prop} [Decidable p] {s t : State} (hs : MemoriesWf s) (ht : MemoriesWf t) : MemoriesWf (if p then s else t) := by
  split
  · exact hs
  · exact ht

/-- A list changed at a place keeps what the change keeps. -/
theorem forall_updateAt {α : Type} {P : α → Prop} {f : α → α} (hf : ∀ a, P a → P (f a)) {l : List α} (h : ∀ a ∈ l, P a) (i : Nat) :
    ∀ a ∈ updateAt l i f, P a := by
  intro a ha
  obtain ⟨j, hj⟩ := List.mem_iff_getElem?.1 ha
  rw [getElem?_updateAt] at hj
  split at hj
  · obtain ⟨b, hb, rfl⟩ := Option.map_eq_some_iff.1 hj
    exact hf b (h b (List.mem_of_getElem? hb))
  · exact h a (List.mem_of_getElem? hj)

/-- The memories of an outcome's next state keep their canonical form. -/
def KeepsMemories : Out → Prop
  | .next t => MemoriesWf t
  | _ => True

/-- The memories of an issue's effect keep their canonical form. -/
def Issue.Keeps : Issue → Prop
  | .go t | .jump t => MemoriesWf t
  | _ => True

/-- The memories of the state that a result holds, where it holds one, keep their canonical form. -/
def KeepsLeft {α : Type} : State ⊕ α → Prop
  | .inl t => MemoriesWf t
  | .inr _ => True

section
variable {p : Prop} [Decidable p]

theorem MemoriesWf.of_ite_fst {α : Type} {a b : State × α} (ha : MemoriesWf a.1) (hb : MemoriesWf b.1) : MemoriesWf (if p then a else b).1 := by
  split
  · exact ha
  · exact hb

theorem MemoriesWf.of_ite_snd {α : Type} {a b : α × State} (ha : MemoriesWf a.2) (hb : MemoriesWf b.2) : MemoriesWf (if p then a else b).2 := by
  split
  · exact ha
  · exact hb

theorem KeepsMemories.of_ite {a b : Out} (ha : KeepsMemories a) (hb : KeepsMemories b) : KeepsMemories (if p then a else b) := by
  split
  · exact ha
  · exact hb

theorem Issue.Keeps.of_ite {a b : Issue} (ha : a.Keeps) (hb : b.Keeps) : (if p then a else b).Keeps := by
  split
  · exact ha
  · exact hb

theorem KeepsLeft.of_ite {α : Type} {a b : State ⊕ α} (ha : KeepsLeft a) (hb : KeepsLeft b) : KeepsLeft (if p then a else b) := by
  split
  · exact ha
  · exact hb

end

section
variable {s : State}

theorem MemoriesWf.dram (h : MemoriesWf s) : s.dram.wf = true := h.1

theorem MemoriesWf.hostMem (h : MemoriesWf s) : s.hostMem.wf = true := h.2.1

theorem MemoriesWf.core (h : MemoriesWf s) (c : Nat) : (s.core c).carrel.wf = true := by
  obtain ⟨-, -, hcores, -⟩ := h
  unfold State.core
  cases hk : s.cores[c]? with
  | none => rfl
  | some k => exact hcores k (List.mem_of_getElem? hk)

/-- A core changed keeps the canonical form where its carrel does. -/
theorem MemoriesWf.updCore (h : MemoriesWf s) {c : Nat} {f : Core → Core} (hf : ∀ k, k.carrel.wf = true → (f k).carrel.wf = true) :
    MemoriesWf (s.updCore c f) := by
  obtain ⟨hdram, hhost, hcores, hregions⟩ := h
  exact ⟨hdram, hhost, forall_updateAt (P := fun k : Core => k.carrel.wf = true) hf hcores c, hregions⟩

/-- So does a core put in place whose carrel is canonical. -/
theorem MemoriesWf.updCore_const (h : MemoriesWf s) {c : Nat} {k : Core} (hk : k.carrel.wf = true) : MemoriesWf (s.updCore c fun _ => k) :=
  h.updCore fun _ _ => hk

/-- So does a core changed outside its carrel. -/
theorem MemoriesWf.updCore_same (h : MemoriesWf s) {c : Nat} {f : Core → Core}
    (hf : ∀ k, (f k).carrel = k.carrel := by exact fun _ => rfl) : MemoriesWf (s.updCore c f) := h.updCore fun k hk => by rwa [hf]

/-- A region changed keeps the canonical form where its saved contexts do. -/
theorem MemoriesWf.updRegion (h : MemoriesWf s) {r : Nat} {f : Region → Region}
    (hf : ∀ g, (∀ x ∈ g.contexts, x.core.carrel.wf = true) → ∀ x ∈ (f g).contexts, x.core.carrel.wf = true) :
    MemoriesWf (s.updRegion r f) := by
  obtain ⟨hdram, hhost, hcores, hregions⟩ := h
  exact ⟨hdram, hhost, hcores, forall_updateAt (P := fun g : Region => ∀ x ∈ g.contexts, x.core.carrel.wf = true) hf hregions r⟩

/-- So does a region changed outside its saved contexts. -/
theorem MemoriesWf.updRegion_same (h : MemoriesWf s) {r : Nat} {f : Region → Region}
    (hf : ∀ g, (f g).contexts = g.contexts := by exact fun _ => rfl) : MemoriesWf (s.updRegion r f) := h.updRegion fun g hg => by rwa [hf]

end
end Sys2Proof.Machine
end

section
/-! The named operations, the sequencer and the desks keep the canonical form of the memories. -/
namespace Sys2Proof.Machine

-- One proof after another: these short proofs, elaborated all at once, would take a thread each and exhaust the memory of the compile.
set_option Elab.async false

section
variable {s : State}

/-- A state with other memories in canonical form. -/
theorem MemoriesWf.withMems {t : State} (h : MemoriesWf s) (hd : t.dram.wf = true) (hm : t.hostMem.wf = true) (hc : t.cores = s.cores := by rfl)
    (hr : t.regions = s.regions := by rfl) : MemoriesWf t := by
  obtain ⟨-, -, hcores, hregions⟩ := h
  exact ⟨hd, hm, by rwa [hc], by rwa [hr]⟩

theorem MemoriesWf.takeFresh (h : MemoriesWf s) : MemoriesWf s.takeFresh.2 := h.same

theorem MemoriesWf.updChannel (h : MemoriesWf s) {c : Nat} {f : Channel → Channel} : MemoriesWf (s.updChannel c f) := h.same

theorem MemoriesWf.updPort (h : MemoriesWf s) {p : Nat} {f : Port → Port} : MemoriesWf (s.updPort p f) := h.same

theorem MemoriesWf.updRing (h : MemoriesWf s) {n : Nat} {f : Ring → Ring} : MemoriesWf (s.updRing n f) := h.same

theorem MemoriesWf.updDispatch (h : MemoriesWf s) {n : Nat} {f : Dispatch → Dispatch} : MemoriesWf (s.updDispatch n f) := h.same

theorem MemoriesWf.updCounter (h : MemoriesWf s) {r k : Nat} {f : Counter → Counter} : MemoriesWf (s.updCounter r k f) := h.updRegion_same

theorem MemoriesWf.count (h : MemoriesWf s) {slot n : Nat} : MemoriesWf (s.count slot n) := h.same

theorem MemoriesWf.countMac (h : MemoriesWf s) {cls fmt n : Nat} : MemoriesWf (s.countMac cls fmt n) := h.same

theorem MemoriesWf.translate (h : MemoriesWf s) {r : Option Nat} {a : Nat} : MemoriesWf (s.translate r a) := by
  unfold State.translate
  dsimp only [State.takeFresh]
  split
  · exact h
  · exact h.same.count

theorem MemoriesWf.forget (h : MemoriesWf s) {vs : List Nat} : MemoriesWf (s.forget vs) := h.same

theorem MemoriesWf.countRead (h : MemoriesWf s) {a n : Nat} : MemoriesWf (s.countRead a n) := by
  unfold State.countRead
  split
  · exact h
  · exact h.count.of_ite h.count

theorem MemoriesWf.touch (h : MemoriesWf s) {a n : Nat} {r : Option Nat} : MemoriesWf (s.touch a n r) :=
  foldl_keeps (P := MemoriesWf) (fun _ _ ht => ht.translate.countRead) _ _ h

theorem MemoriesWf.sysTouch (h : MemoriesWf s) {a : W64} {n : Nat} : MemoriesWf (s.sysTouch a n) := h.count.of_ite h.touch

theorem MemoriesWf.writePiece (h : MemoriesWf s) {a : Nat} {bs : List Byte} : MemoriesWf (s.writePiece a bs) := by
  unfold State.writePiece
  split
  · exact h
  · dsimp only
    split
    · exact h.withMems h.dram (Mem.wf_writeBytes h.hostMem _ _)
    · exact h.withMems (Mem.wf_writeBytes h.dram _ _) h.hostMem

theorem MemoriesWf.writeVA (h : MemoriesWf s) {a : Nat} {bs : List Byte} {r : Option Nat} : MemoriesWf (s.writeVA a bs r) :=
  foldl_keeps (P := MemoriesWf) (fun _ _ ht => ht.translate.writePiece) _ _ h

theorem MemoriesWf.sysWrite (h : MemoriesWf s) {a : W64} {bs : List Byte} : MemoriesWf (s.sysWrite a bs) := by
  unfold State.sysWrite
  split
  · exact h.withMems h.dram (Mem.wf_writeBytes h.hostMem _ _)
  · exact MemoriesWf.of_ite h.writeVA h

theorem MemoriesWf.raise (h : MemoriesWf s) {v : Nat} : MemoriesWf (s.raise v) := h.same.of_ite h.same

theorem MemoriesWf.event (h : MemoriesWf s) {e : Event} : MemoriesWf (s.event e) := by
  unfold State.event
  split
  · exact h.of_ite (h.same.of_ite h.same)
  · exact h.same.of_ite h.same

theorem MemoriesWf.plainEvent (h : MemoriesWf s) {code body : Nat} {st : St} : MemoriesWf (s.plainEvent code body st) := h.event

theorem MemoriesWf.evqStore (h : MemoriesWf s) {back v : Nat} : MemoriesWf (s.evqStore back v) := h.sysWrite

theorem MemoriesWf.writeEvent (h : MemoriesWf s) {e : Event} : MemoriesWf (s.writeEvent e) := by
  unfold State.writeEvent
  dsimp only
  split
  · exact h.evqStore.same.raise
  · exact h.evqStore.evqStore.same.raise

theorem MemoriesWf.cqStore (h : MemoriesWf s) {g : Ring} {back v : Nat} : MemoriesWf (s.cqStore g back v) := h.sysWrite

theorem MemoriesWf.replyRing (h : MemoriesWf s) {n opcode tag : Nat} {irq : Bool} {r : Rep} : MemoriesWf (s.replyRing n opcode tag irq r) := by
  unfold State.replyRing
  split
  · exact h
  next g hg =>
    refine h.of_ite ?_
    dsimp only
    generalize (if (dispatchOp opcode && r.kind == .final && r.cont.isNone) = true then { r with cont := some 0 } else r) = q
    cases q.cont with
    | none => exact h.cqStore.updRing.raise.of_ite h.cqStore.updRing
    | some c => exact h.cqStore.cqStore.updRing.raise.of_ite h.cqStore.cqStore.updRing

theorem MemoriesWf.answer (h : MemoriesWf s) {src : Src} {p : Packet} {r : Rep} : MemoriesWf (s.answer src p r) := by
  unfold State.answer
  split
  · exact h.replyRing
  · exact h.same
  · exact h.same

theorem MemoriesWf.refuse (h : MemoriesWf s) {src : Src} {p : Packet} {st : St} {detail r1 : Nat} : MemoriesWf (s.refuse src p st detail r1) :=
  h.answer

theorem MemoriesWf.done (h : MemoriesWf s) {src : Src} {p : Packet} {r0 r1 detail : Nat} : MemoriesWf (s.done src p r0 r1 detail) := h.answer

theorem MemoriesWf.consume (h : MemoriesWf s) {src : Src} {p : Packet} : MemoriesWf (s.consume src p) := by
  unfold State.consume
  split
  · split
    · exact h
    · exact h.sysTouch.updRing
  · exact h

theorem MemoriesWf.hold (h : MemoriesWf s) {src : Src} {p : Packet} : MemoriesWf (s.hold src p) := by
  unfold State.hold
  split
  · exact h.updRing
  · exact h

theorem MemoriesWf.release (h : MemoriesWf s) {n : Nat} {r : Rep} : MemoriesWf (s.release n r) := by
  unfold State.release
  split
  · split
    · exact h.updRing.replyRing
    · exact h
  · exact h

theorem MemoriesWf.rollback (h : MemoriesWf s) {ring : Nat} : MemoriesWf (s.rollback ring) := by
  unfold State.rollback
  split
  · exact h.same.of_ite h
  · exact h

theorem MemoriesWf.faultAt (h : MemoriesWf s) {c pc : Nat} {st : St} {detail word : Nat} : MemoriesWf (s.faultAt c pc st detail word) :=
  h.event.updCore_same fun k => by split <;> rfl

end
end Sys2Proof.Machine
end

section
/-! The sequencer, the links and the desks keep the canonical form of the memories. -/
namespace Sys2Proof.Machine

-- One proof after another: these short proofs, elaborated all at once, would take a thread each and exhaust the memory of the compile.
set_option Elab.async false

/-! ## Cores whose carrel stays -/

@[simp] theorem Core.setX_carrel (k : Core) (n : Nat) (v : W64) : (k.setX n v).carrel = k.carrel := by
  unfold Core.setX
  split <;> rfl

@[simp] theorem Core.updInflight_carrel (k : Core) (idx : Nat) (f : Inflight → Inflight) : (k.updInflight idx f).carrel = k.carrel := rfl
@[simp] theorem Core.advance_carrel (k : Core) (i : Nat) : (k.advance i).carrel = k.carrel := rfl
@[simp] theorem Core.launch_carrel (k : Core) (f : Inflight) : (k.launch f).carrel = k.carrel := rfl
@[simp] theorem Core.leave_carrel (k : Core) : k.leave.carrel = k.carrel := rfl
@[simp] theorem Core.clearTags_carrel (k : Core) (sh n : Nat) : (k.clearTags sh n).carrel = k.carrel := rfl
@[simp] theorem Core.setAccTile_carrel (k : Core) (q : Geo) (n : Nat) (rows : List (List Nat)) : (k.setAccTile q n rows).carrel = k.carrel := rfl
@[simp] theorem Core.clearSlots_carrel (k : Core) : k.clearSlots.carrel = k.carrel := rfl
@[simp] theorem Core.beginTile_carrel (k : Core) (key : Nat) : (k.beginTile key).carrel = k.carrel := rfl
@[simp] theorem Core.start_carrel (k : Core) (d : Dispatch) (slots : List Nat) (entry : Nat) (own : List TileInstr) :
    (k.start d slots entry own).carrel = k.carrel := rfl

@[simp] theorem Core.takeRegs_carrel (k : Core) (xd : Nat) (vs : List W64) : (k.takeRegs xd vs).carrel = k.carrel :=
  foldl_keeps (P := fun q : Core => q.carrel = k.carrel) (fun _ _ h => by rwa [Core.setX_carrel]) _ _ rfl

/-! ## Parts of results -/

theorem KeepsLeft.of_eq {α : Type} {x : State ⊕ α} {t : State} (h : KeepsLeft x) (e : x = .inl t) : MemoriesWf t := by
  subst e
  exact h

theorem MemoriesWf.of_fst {α : Type} {x : State × α} {t : State} {a : α} (h : MemoriesWf x.1) (e : x = (t, a)) : MemoriesWf t := by
  subst e
  exact h

section
variable {s : State}

/-! ## The sequencer -/

/-- An issue whose effect keeps the canonical form keeps it when carried out. -/
theorem MemoriesWf.carry (h : MemoriesWf s) {c : Nat} {r : Issue} (hr : r.Keeps) : MemoriesWf (s.carry c r) := by
  cases r with
  | hold w => exact h.updCore_same
  | fail st d w => exact h.updCore_same.faultAt
  | go t => exact MemoriesWf.updCore_same hr
  | jump t => exact MemoriesWf.updCore_same hr

theorem MemoriesWf.tryIssue (h : MemoriesWf s) {c : Nat} {row : TileInstr → Bool} {body : State → TileInstr → Issue}
    (hb : ∀ i, (body s i).Keeps) : KeepsMemories (s.tryIssue c row body) := by
  unfold State.tryIssue
  split
  · trivial
  · dsimp only
    split
    · exact h
    · split
      · split
        · exact h.carry (hb _)
        · exact h.carry trivial
      · exact h.carry (hb _)

theorem MemoriesWf.doSetx (h : MemoriesWf s) {c : Nat} {i : TileInstr} : (doSetx c s i).Keeps := by
  unfold Machine.doSetx
  split
  · exact h.updCore_same fun k => by simp
  · trivial

theorem MemoriesWf.doAddx (h : MemoriesWf s) {c : Nat} {i : TileInstr} : (doAddx c s i).Keeps := by
  unfold Machine.doAddx
  split
  · exact h.updCore_same fun k => by simp
  · trivial

theorem MemoriesWf.doLoop (h : MemoriesWf s) {c : Nat} {i : TileInstr} : (doLoop c s i).Keeps := by
  unfold Machine.doLoop
  split
  · change MemoriesWf _
    split <;> exact h.updCore_same fun k => by dsimp only; split <;> rfl
  · trivial

theorem MemoriesWf.doBr (h : MemoriesWf s) {c : Nat} {i : TileInstr} : (doBr c s i).Keeps := by
  unfold Machine.doBr
  split
  · exact h.updCore_same fun k => by split <;> rfl
  · trivial

theorem MemoriesWf.doFence (h : MemoriesWf s) {c : Nat} {x : TileInstr} : (doFence c s x).Keeps := by
  unfold Machine.doFence
  exact Issue.Keeps.of_ite h trivial

theorem MemoriesWf.doHalt (h : MemoriesWf s) {c : Nat} {x : TileInstr} : (doHalt c s x).Keeps := by
  unfold Machine.doHalt
  iterate 2 refine Issue.Keeps.of_ite trivial ?_
  exact h.updCore_same

theorem MemoriesWf.doDbg (h : MemoriesWf s) {c : Nat} {i : TileInstr} : (doDbg c s i).Keeps := by
  unfold Machine.doDbg
  split
  · exact Issue.Keeps.of_ite h.event h
  · trivial

theorem MemoriesWf.execSetx (h : MemoriesWf s) {core : Nat} : KeepsMemories (execSetx core s) := h.tryIssue fun _ => h.doSetx

theorem MemoriesWf.execAddx (h : MemoriesWf s) {core : Nat} : KeepsMemories (execAddx core s) := h.tryIssue fun _ => h.doAddx

theorem MemoriesWf.execLoop (h : MemoriesWf s) {core : Nat} : KeepsMemories (execLoop core s) := h.tryIssue fun _ => h.doLoop

theorem MemoriesWf.execBr (h : MemoriesWf s) {core : Nat} : KeepsMemories (execBr core s) := h.tryIssue fun _ => h.doBr

theorem MemoriesWf.execFence (h : MemoriesWf s) {core : Nat} : KeepsMemories (execFence core s) := h.tryIssue fun _ => h.doFence

theorem MemoriesWf.execHalt (h : MemoriesWf s) {core : Nat} : KeepsMemories (execHalt core s) := h.tryIssue fun _ => h.doHalt

theorem MemoriesWf.execDbg (h : MemoriesWf s) {core : Nat} : KeepsMemories (execDbg core s) := h.tryIssue fun _ => h.doDbg

/-! ## Links -/

theorem MemoriesWf.updStream (h : MemoriesWf s) {sock : Nat} {f : Stream → Stream} : MemoriesWf (s.updStream sock f) := h.same

theorem MemoriesWf.emit (h : MemoriesWf s) {port : Nat} {p : FPacket} : MemoriesWf (s.emit port p) := h.same

theorem MemoriesWf.post (h : MemoriesWf s) {sock : Nat} {body : FBody} : MemoriesWf (s.post sock body) := by
  unfold State.post
  split
  · exact h.updStream
  · exact h.updStream.emit.count

theorem MemoriesWf.postRaw (h : MemoriesWf s) {sock seq : Nat} {body : FBody} : MemoriesWf (s.postRaw sock seq body) := by
  unfold State.postRaw
  split
  · exact h
  · exact h.emit.count

theorem MemoriesWf.postMasked (h : MemoriesWf s) {sock addr : Nat} {bs : List (Byte × Byte)} {acc : Nat} :
    MemoriesWf (s.postMasked sock addr bs acc) := foldl_keeps (P := MemoriesWf) (fun _ _ ht => ht.post) _ _ h

theorem MemoriesWf.postWrite (h : MemoriesWf s) {sock addr : Nat} {bs : List Byte} {acc : Nat} : MemoriesWf (s.postWrite sock addr bs acc) :=
  h.postMasked

theorem MemoriesWf.setTally (h : MemoriesWf s) {n : Nat} {v : W64} : MemoriesWf (s.setTally n v) := h.same

theorem MemoriesWf.addTally (h : MemoriesWf s) {n : Nat} {v : W64} : MemoriesWf (s.addTally n v) := h.setTally

theorem MemoriesWf.arrivalLost (h : MemoriesWf s) {c dispatch accession : Nat} : MemoriesWf (s.arrivalLost c dispatch accession) := h.event

theorem MemoriesWf.tallyAt (h : MemoriesWf s) {sock n : Nat} {v : W64} {c dispatch accession : Nat} :
    MemoriesWf (s.tallyAt sock n v c dispatch accession) := h.addTally.of_ite (h.arrivalLost.of_ite h.updStream.post)

/-! ## Desks -/

theorem MemoriesWf.returnTile (h : MemoriesWf s) {c : Nat} : MemoriesWf (s.returnTile c) := by
  unfold State.returnTile
  split
  · exact h
  · dsimp only
    split
    · exact h.updCore_same
    · split
      · exact h.updCore_same.updCounter
      · exact h.updCore_same

theorem MemoriesWf.claimJob (h : MemoriesWf s) {job n : Nat} : MemoriesWf (s.claimJob job n) := by
  unfold State.claimJob
  split
  · exact h
  · exact h.of_ite h.same.updRegion_same

theorem MemoriesWf.arrivals (hs : MemoriesWf s) {c : Nat} {h : Held} {ver : Nat} : MemoriesWf (s.arrivals c h ver) :=
  foldl_keeps (P := MemoriesWf) (fun _ _ ht => ht.of_ite ht.tallyAt) _ _ hs

theorem MemoriesWf.landCards (hs : MemoriesWf s) {h : Held} : MemoriesWf (s.landCards h) :=
  foldl_keeps (P := MemoriesWf) (fun _ _ ht => ht.sysWrite.of_ite ht.postWrite) _ _ hs

theorem MemoriesWf.giveTile (h : MemoriesWf s) {c xd : Nat} {d : Dispatch} {t : Nat} {k' : Counter} : MemoriesWf (s.giveTile c xd d t k') :=
  h.updCounter.updDispatch.updCore_same fun k => by simp

theorem MemoriesWf.giveNone (h : MemoriesWf s) {c xd : Nat} : MemoriesWf (s.giveNone c xd) := h.updCore_same fun k => by simp

theorem MemoriesWf.answered (h : MemoriesWf s) {c : Nat} {d : Dispatch} : MemoriesWf (s.answered c d) := by
  unfold State.answered
  split
  · exact h.updCounter
  · exact h

theorem MemoriesWf.answerTake (h : MemoriesWf s) {c xd : Nat} {d : Dispatch} : KeepsLeft (s.answerTake c xd d) := by
  unfold State.answerTake
  split
  · exact h.giveTile.answered
  · exact h.giveNone.answered
  · trivial

theorem MemoriesWf.startProgram (h : MemoriesWf s) {c : Nat} {d : Dispatch} : MemoriesWf (s.startProgram c d) := by
  unfold State.startProgram
  split
  · exact h.updCore_same
  · split
    · exact h
    · exact h.count.updCore_same

theorem MemoriesWf.recordStart (h : MemoriesWf s) {c : Nat} {d : Dispatch} : MemoriesWf (s.recordStart c d) := by
  unfold State.recordStart
  split
  · exact h.updCounter
  · exact h

theorem MemoriesWf.admitRuns (hs : MemoriesWf s) {c : Nat} {h : Held} : MemoriesWf (s.admitRuns c h) :=
  foldl_keeps (P := MemoriesWf) (fun _ _ ht => ht.claimJob.same) _ _ hs.updCore_same

theorem MemoriesWf.offer (hs : MemoriesWf s) {c : Nat} {h : Held} : MemoriesWf (s.offer c h).1 := by
  unfold State.offer
  split
  · exact hs
  · split
    · exact hs
    · exact MemoriesWf.of_ite_fst hs (MemoriesWf.of_ite_fst hs.updCounter.updDispatch hs.updCounter.updDispatch.landCards.admitRuns.arrivals)

end
end Sys2Proof.Machine
end

section
/-! Commits, contexts and containment keep the canonical form of the memories. -/
namespace Sys2Proof.Machine

-- One proof after another: these short proofs, elaborated all at once, would take a thread each and exhaust the memory of the compile.
set_option Elab.async false

/-! ## Saved contexts -/

theorem Core.wf_context {k : Core} (h : k.carrel.wf = true) (limit : Nat) : (k.context limit).carrel.wf = true := Mem.wf_filter h _

theorem Core.wf_restore {k x : Core} (hk : k.carrel.wf = true) (hx : x.carrel.wf = true) (c : Nat) : (k.restore x c).carrel.wf = true :=
  Mem.wf_overlay (Mem.wf_filter hk _) hx

section
variable {s : State}

theorem MemoriesWf.undoWrites (h : MemoriesWf s) {us : List Undo} : MemoriesWf (s.undoWrites us) := by
  refine foldl_keeps (P := MemoriesWf) (fun t u ht => ?_) us s h
  refine foldl_keeps (P := MemoriesWf) (fun t p ht => ?_) _ _ ht.takeFresh
  split
  · exact ht
  · dsimp only
    split
    · exact ht.withMems ht.dram (Mem.wf_writeBytes ht.hostMem _ _)
    · exact ht.withMems (Mem.wf_writeBytes ht.dram _ _) ht.hostMem

/-- A context saved in a region, and its core left. -/
theorem MemoriesWf.keepContext (h : MemoriesWf s) {r c a b n : Nat} {x : Context} (hx : x.core.carrel.wf = true) :
    MemoriesWf (({ ((s.updRegion r fun g => { g with contexts := g.contexts ++ [x] }).count a b) with nextOrder := n } : State).updCore c
      fun k => { k.leave with freed := true }) := by
  have saved : MemoriesWf (s.updRegion r fun g => { g with contexts := g.contexts ++ [x] }) := h.updRegion fun g hg y hy => by
    rcases List.mem_append.1 hy with hy | hy
    · exact hg y hy
    · rw [List.mem_singleton.1 hy]
      exact hx
  exact saved.same.updCore_same

theorem MemoriesWf.saveContext (h : MemoriesWf s) {c : Nat} : MemoriesWf (s.saveContext c) := by
  unfold State.saveContext
  refine MemoriesWf.keepContext ?_ (Core.wf_context (h.core c) _)
  split
  · split
    · exact h.updCounter
    · exact h
  · exact h

/-! ## TAKE, COMMIT and YIELD -/

theorem MemoriesWf.doTake (h : MemoriesWf s) {c : Nat} {i : TileInstr} : (doTake c s i).Keeps := by
  unfold Machine.doTake
  split
  · dsimp only
    split
    · trivial
    · iterate 2 refine Issue.Keeps.of_ite trivial ?_
      refine Issue.Keeps.of_ite ?_ ?_
      · exact Issue.Keeps.of_ite h.giveNone (Issue.Keeps.of_ite trivial h.saveContext)
      · iterate 2 refine Issue.Keeps.of_ite trivial ?_
        split
        next heq =>
          exact h.answerTake.of_eq heq
        · trivial
  · trivial

theorem MemoriesWf.execTake (h : MemoriesWf s) {core : Nat} : KeepsMemories (execTake core s) := h.tryIssue fun _ => h.doTake

theorem MemoriesWf.serveWaiting (h : MemoriesWf s) {c : Nat} {want : Wait} {ok : Dispatch → Bool} : KeepsMemories (s.serveWaiting c want ok) := by
  unfold State.serveWaiting
  refine KeepsMemories.of_ite trivial ?_
  dsimp only
  split
  · refine KeepsMemories.of_ite h ?_
    refine KeepsMemories.of_ite ?_ ?_
    · exact KeepsMemories.of_ite (h.carry h.giveNone) (KeepsMemories.of_ite h h.saveContext)
    · refine KeepsMemories.of_ite (h.carry trivial) ?_
      split
      next heq =>
        exact h.carry (h.answerTake.of_eq heq)
      · exact h.carry trivial
  · exact h

theorem MemoriesWf.execTakeServed (h : MemoriesWf s) {core : Nat} : KeepsMemories (execTakeServed core s) := h.serveWaiting

theorem MemoriesWf.execFirstTakeStaggerElapsed (h : MemoriesWf s) {core : Nat} : KeepsMemories (execFirstTakeStaggerElapsed core s) := h.serveWaiting

theorem Issue.keeps_doCommit {c : Nat} {x : TileInstr} : (doCommit c s x).Keeps := Issue.Keeps.of_ite trivial (Issue.Keeps.of_ite trivial trivial)

theorem MemoriesWf.execCommit (h : MemoriesWf s) {core : Nat} : KeepsMemories (execCommit core s) := h.tryIssue fun _ => Issue.keeps_doCommit

theorem MemoriesWf.execCommitOffer (h : MemoriesWf s) {core : Nat} : KeepsMemories (execCommitOffer core s) := by
  unfold Machine.execCommitOffer
  refine KeepsMemories.of_ite trivial ?_
  dsimp only
  split
  · exact KeepsMemories.of_ite h (KeepsMemories.of_ite (h.carry trivial) (h.offer.carry (h.offer.updCore_same (fun k => by simp))))
  · exact h

theorem MemoriesWf.doYield (h : MemoriesWf s) {c : Nat} {x : TileInstr} : (doYield c s x).Keeps := by
  unfold Machine.doYield
  dsimp only
  split
  · exact h.returnTile
  · split
    · exact Issue.Keeps.of_ite h (Issue.Keeps.of_ite trivial h.saveContext)
    · exact h

theorem MemoriesWf.execYield (h : MemoriesWf s) {core : Nat} : KeepsMemories (execYield core s) := h.tryIssue fun _ => h.doYield

theorem MemoriesWf.execPreemptMidTile (h : MemoriesWf s) {core : Nat} {poolFull : Bool} : KeepsMemories (execPreemptMidTile core poolFull s) := by
  unfold Machine.execPreemptMidTile
  exact KeepsMemories.of_ite trivial (KeepsMemories.of_ite h (KeepsMemories.of_ite (h.updDispatch.of_ite h).returnTile.updCore_same h.saveContext))

theorem MemoriesWf.execTileRangeMove (h : MemoriesWf s) {fromRegion fromCounter toRegion toCounter count : Nat} :
    KeepsMemories (execTileRangeMove fromRegion fromCounter toRegion toCounter count s) := by
  unfold Machine.execTileRangeMove
  iterate 2 refine KeepsMemories.of_ite trivial ?_
  split
  · split
    · iterate 2 refine KeepsMemories.of_ite h ?_
      exact h.updCounter.updCounter
    · exact h
  · exact h

/-! ## Containment -/

theorem MemoriesWf.coreEvent (h : MemoriesWf s) {c code body : Nat} {st : St} : MemoriesWf (s.coreEvent c code body st) := h.event

theorem MemoriesWf.quarantine (h : MemoriesWf s) {c : Nat} {cause : QuarCause} {acc : Nat} : MemoriesWf (s.quarantine c cause acc) := by
  have hspare : MemoriesWf (((s.returnTile c).updRegion (regionOf c) fun g => { g with spareUsed := true }).updCore c
      fun _ => Core.fresh (.ofWord (lookupD 0 (regionOf c) s.fuses.spareRepair)) true true) :=
    h.returnTile.updRegion_same.updCore fun _ _ => rfl
  unfold State.quarantine
  refine MemoriesWf.event (MemoriesWf.of_ite ?_ h.returnTile.updCore_same)
  dsimp only
  split
  · exact hspare.of_ite hspare.startProgram.recordStart
  · exact hspare

theorem MemoriesWf.fence (h : MemoriesWf s) {c : Nat} {sparse : Bool} : MemoriesWf (s.fence c sparse) :=
  (h.updCore_same (fun k => by split <;> rfl)).coreEvent.returnTile.quarantine

theorem MemoriesWf.noteFlags (h : MemoriesWf s) {c flags skipped audited misses : Nat} : MemoriesWf (s.noteFlags c flags skipped audited misses) := by
  unfold State.noteFlags
  split
  · exact h.updCore_same
  · split
    · exact h.updDispatch
    · exact h

theorem MemoriesWf.mismatchEvent (h : MemoriesWf s) {c q : Nat} {sparse : Bool} {m : Mismatch} {step : Nat} :
    MemoriesWf (s.mismatchEvent c q sparse m step) := h.coreEvent

theorem MemoriesWf.repairEvent (h : MemoriesWf s) {c : Nat} {command : Bool} {st : St} : MemoriesWf (s.repairEvent c command st) := h.coreEvent

theorem MemoriesWf.judge {c q : Nat} {sparse cont : Bool} : ∀ {l : List Mismatch} {s : State} {runs : Nat}, MemoriesWf s →
    MemoriesWf (s.judge c q sparse cont l runs).1
  | [], _, _, h => h
  | m :: r, s, runs, h => by
    have hs1 : ∀ {n step : Nat} {e : Nat × Nat},
        MemoriesWf ((s.updCore c fun k => { k with mism := insertK n e k.mism }).mismatchEvent c q sparse m step) :=
      h.updCore_same.mismatchEvent
    unfold State.judge
    refine MemoriesWf.of_ite_fst (MemoriesWf.of_ite_fst hs1 (MemoriesWf.judge hs1)) (MemoriesWf.of_ite_fst hs1 ?_)
    exact MemoriesWf.of_ite_fst hs1.updCore_same.repairEvent hs1.updCore_same

theorem MemoriesWf.restartProgram (h : MemoriesWf s) {c : Nat} : MemoriesWf (s.restartProgram c) := by
  unfold State.restartProgram
  dsimp only
  split
  · exact h.returnTile.updCore_same.startProgram.updCore_same
  · exact h.returnTile.updCore_same.updCore_same

theorem MemoriesWf.spillRun (h : MemoriesWf s) {job i : Nat} : MemoriesWf (s.spillRun job i) := by
  unfold State.spillRun
  dsimp only [State.takeFresh]
  split
  · exact h
  · split
    · exact h.takeFresh.writeVA.same
    · exact h.same

theorem MemoriesWf.reuse (h : MemoriesWf s) {c : Nat} {shs : List Nat} : MemoriesWf (s.reuse c shs) := by
  unfold State.reuse
  refine foldl_keeps (P := MemoriesWf) (fun _ _ ht => ?_) _ _ h
  refine foldl_keeps (P := MemoriesWf) (fun _ _ ht => ?_) _ _ ht
  split
  · exact ht.spillRun.of_ite ht
  · exact ht

end
end Sys2Proof.Machine
end

section
/-! The matrix instructions, drains and sends keep the canonical form of the memories. -/
namespace Sys2Proof.Machine

-- One proof after another: these short proofs, elaborated all at once, would take a thread each and exhaust the memory of the compile.
set_option Elab.async false

/-! ## Cores -/

@[simp] theorem Core.enterMode_carrel (k : Core) (split : Bool) : (k.enterMode split).carrel = k.carrel := by
  unfold Core.enterMode
  split <;> rfl

@[simp] theorem Core.setForeTile_carrel (k : Core) (q : Geo) (m n : Nat) (rows : List (List Nat)) : (k.setForeTile q m n rows).carrel = k.carrel :=
  rfl

@[simp] theorem Core.loadStat_carrel (k : Core) (w : Work) (n : Nat) : (k.loadStat w n).carrel = k.carrel := by
  unfold Core.loadStat
  split <;> rfl

@[simp] theorem Core.loadWires_carrel (k : Core) (q : Geo) (v : Array (Array W32)) : (k.loadWires q v).carrel = k.carrel := rfl
@[simp] theorem Core.diagPass_carrel (k : Core) (q : Geo) (f : DiagF) (w : Array (Array W32)) (sl : Nat) : (k.diagPass q f w sl).carrel = k.carrel :=
  rfl
@[simp] theorem Core.clearRow_carrel (k : Core) (row : Nat) : (k.clearRow row).carrel = k.carrel := rfl
@[simp] theorem Core.settleFore_carrel (k : Core) : k.settleFore.carrel = k.carrel := rfl

@[simp] theorem Core.diagPasses_carrel (k : Core) (q : Geo) (f : DiagF) (w : Array (Array W32)) (l : List Nat) :
    (l.foldl (fun a sl => a.diagPass q f w sl) k).carrel = k.carrel :=
  foldl_keeps (P := fun a : Core => a.carrel = k.carrel)
    (fun a sl h => (Core.diagPass_carrel a q f w sl).trans h) l k rfl

@[simp] theorem Core.clearRows_carrel {α : Type} (k : Core) (row : α → Nat) (l : List α) :
    (l.foldl (fun a p => a.clearRow (row p)) k).carrel = k.carrel :=
  foldl_keeps (P := fun a : Core => a.carrel = k.carrel)
    (fun a p h => (Core.clearRow_carrel a (row p)).trans h) l k rfl

/-! ## Carrels written -/

theorem Core.wf_storeRun {k : Core} (h : k.carrel.wf = true) (w : Work) (r : Ran) (base n : Nat) (rows shs : List Nat) :
    (k.storeRun w r base n rows shs).carrel.wf = true := by
  refine foldl_keeps (P := fun q : Core => q.carrel.wf = true) (fun q i hq => Mem.wf_writeBytes hq _ _) rows _ ?_
  dsimp only
  rw [Core.loadStat_carrel]
  split <;> exact h

@[simp] theorem Core.wf_writeObject {k : Core} (h : k.carrel.wf = true) (sh : Nat) (t : Tag) (bytes : List Byte) :
    (k.writeObject sh t bytes).carrel.wf = true := Mem.wf_writeBytes h _ _

@[simp] theorem Core.wf_putTile {k : Core} (h : k.carrel.wf = true) (sh : Nat) (q : Quant) (vw vr : Nat) : (k.putTile sh q vw vr).carrel.wf = true :=
  Core.wf_writeObject h sh (q.tag sh) _

@[simp] theorem Core.wf_putRecord {k : Core} (h : k.carrel.wf = true) (sh line kind : Nat) (es : List Nat) :
    (k.putRecord sh line kind es).carrel.wf = true := Mem.wf_writeBytes h _ _

@[simp] theorem Core.wf_putFlow {k : Core} (h : k.carrel.wf = true) (dsh : Nat) (st : List Stage) (f : Flow) (scale : Nat) :
    (k.putFlow dsh st f scale).1.carrel.wf = true :=
  Core.wf_putTile (foldl_keeps (P := fun q : Core => q.carrel.wf = true) (fun _ _ hq => Core.wf_putRecord hq _ _ _ _) f.sides k h) _ _ _ _

section
variable {s : State}

/-! ## Runs -/

theorem MemoriesWf.countRun (h : MemoriesWf s) {w : Work} {r : Ran} {sp : SparseRan} {n : Nat} : MemoriesWf (s.countRun w r sp n) :=
  h.countMac.countMac.countMac.countMac

theorem MemoriesWf.keepRun (h : MemoriesWf s) {c : Nat} {w : Work} {r : Ran} {sums : List SSum} : MemoriesWf (s.keepRun c w r sums) := by
  obtain ⟨base, rows, shs, -, heq⟩ := s.keepRun_eq c w r sums
  rw [heq]
  exact h.takeFresh.reuse.noteFlags.updCore fun k hk => Core.wf_storeRun hk w r base s.fresh rows shs

theorem MemoriesWf.settleRun (h : MemoriesWf s) {c limit idx : Nat} {w : Work} {x : List W64} {reruns outscale : Nat} {mis : List Mismatch} :
    MemoriesWf (s.settleRun c limit idx w x reruns outscale mis) := by
  have hjudge : MemoriesWf (State.judge c w.f.qtr (w.kind != 0) (w.f.start == 2) mis s 1).1 := h.judge
  unfold State.settleRun
  dsimp only
  generalize s.runTile { s.core c with x := x } limit w reruns outscale = run
  generalize State.judge c w.f.qtr (w.kind != 0) (w.f.start == 2) mis s 1 = judged at hjudge
  obtain ⟨r, sp, cyc⟩ := run
  obtain ⟨s1, v, runs⟩ := judged
  cases v with
  | restart => exact hjudge.countRun.restartProgram
  | fence => exact hjudge.countRun.fence
  | repair => exact hjudge.countRun.updCore_same
  | stands =>
    refine MemoriesWf.of_ite ?_ ?_
    · exact hjudge.takeFresh.countRun.countRun.updCore_same
    · exact hjudge.countRun.updCore_same.updCore_same.keepRun.updCore_same

theorem MemoriesWf.tryMma (h : MemoriesWf s) {c kind : Nat} {mis : List Mismatch} {i : TileInstr} {f : MF} : (tryMma c kind mis s i f).Keeps := by
  unfold Machine.tryMma
  dsimp only
  split
  · trivial
  · refine Issue.Keeps.of_ite trivial ?_
    refine Issue.Keeps.of_ite ?_ ?_
    · change MemoriesWf _
      split <;> exact (h.updCore_const (by simp [h.core])).settleRun
    · change MemoriesWf _
      split <;> exact (h.updCore_const (by simp [h.core])).settleRun

theorem MemoriesWf.doMma (h : MemoriesWf s) {c : Nat} {mis : List Mismatch} {i : TileInstr} : (doMma c mis s i).Keeps := by
  unfold Machine.doMma
  split
  · exact h.tryMma
  · trivial

theorem MemoriesWf.doSpma (h : MemoriesWf s) {c : Nat} {mis : List Mismatch} {i : TileInstr} : (doSpma c mis s i).Keeps := by
  unfold Machine.doSpma
  split
  · exact h.tryMma
  · trivial

theorem MemoriesWf.execMma (h : MemoriesWf s) {core : Nat} {mis : List Mismatch} : KeepsMemories (execMma core mis s) := h.tryIssue fun _ => h.doMma

theorem MemoriesWf.execSpma (h : MemoriesWf s) {core : Nat} {mis : List Mismatch} : KeepsMemories (execSpma core mis s) :=
  h.tryIssue fun _ => h.doSpma

theorem MemoriesWf.tryRun (h : MemoriesWf s) {c : Nat} {mis : List Mismatch} {i : TileInstr} {f : MF} : (tryRun c mis s i f).Keeps := by
  have begun : ∀ {q : Inflight} {cont : Bool}, MemoriesWf (State.judge c 4 true cont mis (s.updCore c fun k => (k.launch q).beginTile 5) 1).1 :=
    (h.updCore_same fun k => by simp).judge
  unfold Machine.tryRun
  dsimp only
  split
  · trivial
  · trivial
  · iterate 2 refine Issue.Keeps.of_ite trivial ?_
    split
    · trivial
    · iterate 8 refine Issue.Keeps.of_ite trivial ?_
      split
      · exact begun.countMac.restartProgram
      · exact begun.countMac.fence
      · refine Issue.Keeps.of_ite (MemoriesWf.faultAt ?_) ?_
        · exact begun.countMac.reuse.updCore fun _ hk => Mem.wf_writeBytes hk _ _
        · exact begun.countMac.reuse.updCore fun _ hk => Mem.wf_writeBytes hk _ _

theorem MemoriesWf.doSpge (h : MemoriesWf s) {c : Nat} {mis : List Mismatch} {i : TileInstr} : (doSpge c mis s i).Keeps := by
  unfold Machine.doSpge
  split
  · exact Issue.Keeps.of_ite h.tryRun h.tryMma
  · trivial

theorem MemoriesWf.execSpge (h : MemoriesWf s) {core : Nat} {mis : List Mismatch} : KeepsMemories (execSpge core mis s) :=
  h.tryIssue fun _ => h.doSpge

theorem MemoriesWf.doDiag (h : MemoriesWf s) {c : Nat} {mis : List Mismatch} {i : TileInstr} : (doDiag c mis s i).Keeps := by
  unfold Machine.doDiag
  split
  · dsimp only
    split
    · trivial
    · refine Issue.Keeps.of_ite trivial ?_
      split
      · trivial
      · trivial
      · refine Issue.Keeps.of_ite trivial ?_
        split
        · change MemoriesWf _
          split <;> exact (h.updCore_const (by simp [h.core])).judge.countMac
        · change MemoriesWf _
          split <;> exact (h.updCore_const (by simp [h.core])).judge.countMac.fence
        · change MemoriesWf _
          split <;> exact (h.updCore_const (by simp [h.core])).judge.countMac.restartProgram
  · trivial

theorem MemoriesWf.execEwiseDiag (h : MemoriesWf s) {pass : Pass} : KeepsMemories (execEwiseDiag pass s) := h.tryIssue fun _ => h.doDiag

theorem MemoriesWf.execTileRerun (h : MemoriesWf s) {pass : Pass} {idx : Nat} : KeepsMemories (execTileRerun pass idx s) := by
  unfold Machine.execTileRerun
  refine KeepsMemories.of_ite trivial ?_
  dsimp only
  split
  · exact h
  · split
    · exact h
    · split
      · exact h
      · exact KeepsMemories.of_ite h h.settleRun

theorem MemoriesWf.execRepairSwitch (h : MemoriesWf s) {core : Nat} {mis : List Mismatch} : KeepsMemories (execRepairSwitch core mis s) := by
  have repaired : ∀ {ps : List (Nat × Bool)}, MemoriesWf (ps.foldl (fun t p => t.repairEvent core p.2)
      (s.updCore core fun q => ps.foldl (fun a p => a.clearRow p.1) { q with repair := q.repair.switchAll })) :=
    foldl_keeps (P := MemoriesWf) (fun _ _ ht => ht.repairEvent) _ _ (h.updCore_same fun k => by simp)
  unfold Machine.execRepairSwitch
  refine KeepsMemories.of_ite trivial ?_
  dsimp only
  split
  · exact h
  · refine KeepsMemories.of_ite h ?_
    split
    · exact repaired
    · split
      · exact repaired
      · exact repaired.updCore_same.settleRun

/-! ## Stops and sends -/

theorem MemoriesWf.hostPageEvent (h : MemoriesWf s) {va core dispatch record : Nat} : MemoriesWf (s.hostPageEvent va core dispatch record) := by
  unfold State.hostPageEvent
  split
  · exact h
  · exact h.of_ite h.same.event

theorem MemoriesWf.stopAt (h : MemoriesWf s) {c idx : Nat} {t : Stop} : MemoriesWf (s.stopAt c idx t) := by
  unfold State.stopAt
  dsimp only
  split
  · exact h
  · exact h.updCore_same.hostPageEvent.of_ite h.updCore_same

theorem MemoriesWf.faultIn (h : MemoriesWf s) {c idx : Nat} {st : St} {detail word : Nat} : MemoriesWf (s.faultIn c idx st detail word) := by
  unfold State.faultIn
  split
  · exact h
  · exact h.faultAt.updCore_same

theorem MemoriesWf.countSend (h : MemoriesWf s) {c idx route : Nat} : MemoriesWf (s.countSend c idx route) :=
  h.updCore_same fun k => by split <;> rfl

theorem MemoriesWf.sendTo (h : MemoriesWf s) {c idx route : Nat} {l : Landing} {bs : List Byte} : MemoriesWf (s.sendTo c idx route l bs) := by
  unfold State.sendTo
  refine MemoriesWf.of_ite ?_ h.postWrite.updCore_same.countSend
  split
  · exact h.writeVA.updCore_same.countSend
  · exact h.stopAt.updCore_same
  · exact h.faultIn

theorem MemoriesWf.doSend (h : MemoriesWf s) {c : Nat} {i : TileInstr} : (doSend c s i).Keeps := by
  unfold Machine.doSend
  split
  · dsimp only
    split
    · trivial
    · iterate 2 refine Issue.Keeps.of_ite trivial ?_
      split
      · trivial
      · exact h.updCore_same.sendTo
  · trivial

theorem MemoriesWf.execSend (h : MemoriesWf s) {core : Nat} : KeepsMemories (execSend core s) := h.tryIssue fun _ => h.doSend

/-! ## Drains and chains -/

theorem MemoriesWf.doDrain (h : MemoriesWf s) {c : Nat} {i : TileInstr} : (doDrain c s i).Keeps := by
  unfold Machine.doDrain
  split
  · dsimp only
    split
    · trivial
    · refine Issue.Keeps.of_ite trivial ?_
      split
      · trivial
      · refine Issue.Keeps.of_ite trivial ?_
        split
        · trivial
        · refine Issue.Keeps.of_ite trivial ?_
          change MemoriesWf _
          split
          · split <;> split <;> exact (h.reuse.updCore_const (by simp [h.core])).noteFlags.sendTo
          · split <;> split <;> exact (h.reuse.updCore_const (by simp [h.core])).noteFlags
  · trivial

theorem MemoriesWf.execDrain (h : MemoriesWf s) {core : Nat} : KeepsMemories (execDrain core s) := h.tryIssue fun _ => h.doDrain

theorem MemoriesWf.doDrainPartial (h : MemoriesWf s) {c : Nat} {i : TileInstr} : (doDrainPartial c s i).Keeps := by
  unfold Machine.doDrainPartial
  split
  · dsimp only
    split
    · trivial
    · iterate 3 refine Issue.Keeps.of_ite trivial ?_
      exact (h.reuse.updCore_const (by simp [h.core])).noteFlags
  · trivial

theorem MemoriesWf.execDrainPartial (h : MemoriesWf s) {core : Nat} : KeepsMemories (execDrainPartial core s) :=
  h.tryIssue fun _ => h.doDrainPartial

theorem MemoriesWf.doReduce (h : MemoriesWf s) {c : Nat} {i : TileInstr} : (doReduce c s i).Keeps := by
  unfold Machine.doReduce
  split
  · dsimp only
    split
    · trivial
    · iterate 7 refine Issue.Keeps.of_ite trivial ?_
      exact h.reuse.updCore_const (by simp [h.core])
  · trivial

theorem MemoriesWf.execReduce (h : MemoriesWf s) {core : Nat} : KeepsMemories (execReduce core s) := h.tryIssue fun _ => h.doReduce

theorem MemoriesWf.doSplitk (h : MemoriesWf s) {c : Nat} {i : TileInstr} : (doSplitk c s i).Keeps := by
  unfold Machine.doSplitk
  split
  · refine Issue.Keeps.of_ite trivial ?_
    split
    · trivial
    · split
      · trivial
      · iterate 5 refine Issue.Keeps.of_ite trivial ?_
        change MemoriesWf _
        split <;> exact (h.reuse.updCore_const (by simp [h.core])).noteFlags
  · trivial

theorem MemoriesWf.execReduceSplitk (h : MemoriesWf s) {core : Nat} : KeepsMemories (execReduceSplitk core s) := h.tryIssue fun _ => h.doSplitk

theorem MemoriesWf.doChain (h : MemoriesWf s) {c : Nat} {i : TileInstr} : (doChain c s i).Keeps := by
  have stored : ∀ {shs : List Nat} {k : Core} {flags : Nat}, k.carrel.wf = true →
      MemoriesWf (((s.reuse c shs).updCore c fun _ => k).noteFlags c flags 0 0 0) := fun hk => (h.reuse.updCore_const hk).noteFlags
  unfold Machine.doChain
  split
  · dsimp only
    split
    · trivial
    · iterate 3 refine Issue.Keeps.of_ite trivial ?_
      split
      · trivial
      · refine Issue.Keeps.of_ite trivial ?_
        split
        · trivial
        · iterate 2 refine Issue.Keeps.of_ite trivial ?_
          split
          · split
            · exact (stored (by simp [h.core])).sendTo
            · exact (stored (by simp [h.core])).sendTo
          · split
            · exact stored (by simp [h.core])
            · exact stored (by simp [h.core])
  · trivial

theorem MemoriesWf.execEwiseChain (h : MemoriesWf s) {core : Nat} : KeepsMemories (execEwiseChain core s) := h.tryIssue fun _ => h.doChain

end
end Sys2Proof.Machine
end

section
/-! Memory errors, the engine of transfers, and copies keep the canonical form of the memories. -/
namespace Sys2Proof.Machine

-- One proof after another: these short proofs, elaborated all at once, would take a thread each and exhaust the memory of the compile.
set_option Elab.async false

/-- The memories of the state where a row ends keep their canonical form. -/
def RowEnd.Keeps : RowEnd → Prop
  | .next t | .halt t => MemoriesWf t

theorem RowEnd.Keeps.of_ite {p : Prop} [Decidable p] {a b : RowEnd} (ha : a.Keeps) (hb : b.Keeps) : (if p then a else b).Keeps := by
  split
  · exact ha
  · exact hb

/-- Rows carried out one after another keep the canonical form where each does. -/
theorem RowEnd.Keeps.goRows {step : Nat → State → RowEnd} (hstep : ∀ i t, MemoriesWf t → (step i t).Keeps) :
    ∀ (l : List Nat) {s : State}, MemoriesWf s → (goRows step l s).Keeps := by
  intro l
  induction l with
  | nil => exact fun h => h
  | cons i r ih =>
    intro s h
    have hrow := hstep i s h
    unfold Machine.goRows
    cases hend : step i s with
    | next t => exact ih (by rwa [hend] at hrow)
    | halt t => rwa [hend] at hrow

section
variable {s : State}

/-! ## Memory as transfers reach it -/

theorem MemoriesWf.retireFrame (h : MemoriesWf s) {ch frame : Nat} : MemoriesWf (s.retireFrame ch frame) := h.same.updChannel.plainEvent

theorem MemoriesWf.frameDue (h : MemoriesWf s) {ch frame : Nat} : MemoriesWf (s.frameDue ch frame) :=
  h.of_ite (h.retireFrame.of_ite (h.plainEvent.of_ite h.same))

theorem MemoriesWf.memErr (h : MemoriesWf s) {patrol : Bool} {e : MemErr} : MemoriesWf (State.memErr patrol s e) := by
  unfold State.memErr
  dsimp only
  split
  · exact h
  · exact h.of_ite (((h.same.of_ite h.same.plainEvent).frameDue.of_ite (h.same.of_ite h.same.plainEvent)).of_ite h.same.plainEvent.frameDue)

theorem MemoriesWf.memErrs (h : MemoriesWf s) {es : List MemErr} : MemoriesWf (s.memErrs es) :=
  foldl_keeps (P := MemoriesWf) (fun _ _ ht => ht.memErr) _ _ h

theorem MemoriesWf.putHere (h : MemoriesWf s) {p : Put} {r : Option Nat} : MemoriesWf (s.putHere p r) := by
  unfold State.putHere
  split <;> exact h.writeVA

theorem MemoriesWf.putFlags (h : MemoriesWf s) {gens : List (Nat × Nat)} {owner : Nat} {p : Put} : MemoriesWf (s.putFlags gens owner p).1 := by
  unfold State.putFlags
  dsimp only [State.takeFresh]
  split
  · exact h
  · split
    · exact h
    · split
      · exact h
      · exact h.takeFresh
      · exact h

theorem MemoriesWf.perform (h : MemoriesWf s) {gens : List (Nat × Nat)} {owner : Nat} {p : Put} {who : Option (Nat × Nat)} :
    MemoriesWf (s.perform gens owner p who).1 := by
  unfold State.perform
  refine foldl_keeps (P := fun st : State × List Undo × List (Nat × Nat) => MemoriesWf st.1) (fun st q ht => ?_) _ _ h
  dsimp only
  refine MemoriesWf.of_ite_fst ht.same ?_
  split
  · exact ht.putHere
  · split
    · exact ht.postMasked
    · exact ht.post
  · exact ht

/-! ## The engine -/

theorem MemoriesWf.updFlight (h : MemoriesWf s) {c idx : Nat} {g : Inflight → Inflight} : MemoriesWf (s.updFlight c idx g) := h.updCore_same

theorem MemoriesWf.ask (h : MemoriesWf s) {c idx row : Nat} {n : RemoteNeed} : MemoriesWf (s.ask c idx row n) := h.same.updFlight.post

theorem MemoriesWf.pauseAt (h : MemoriesWf s) {c idx row pos done cause va : Nat} {index : Bool} :
    MemoriesWf (s.pauseAt c idx row pos done cause va index) := h.stopAt.updFlight

theorem MemoriesWf.touchAll (h : MemoriesWf s) {t : List (Nat × Nat)} {r : Option Nat} : MemoriesWf (s.touchAll t r) :=
  foldl_keeps (P := MemoriesWf) (fun _ _ ht => ht.touch) _ _ h

theorem MemoriesWf.failRow (h : MemoriesWf s) {α : Type} {c idx row pos done : Nat} {x : Fetch α} :
    MemoriesWf (s.failRow c idx row pos done x) := by
  unfold State.failRow
  split
  · exact h
  · exact h.pauseAt
  · exact h.faultIn
  · exact h.ask

end
end Sys2Proof.Machine
end

section
/-! The transfers that read keep the canonical form of the memories. -/
namespace Sys2Proof.Machine

-- One proof after another: these short proofs, elaborated all at once, would take a thread each and exhaust the memory of the compile.
set_option Elab.async false

/-! ## Carrels written -/

theorem Core.wf_keepLater {k : Core} (h : k.carrel.wf = true) (before : Core) (heads : List Nat) : (k.keepLater before heads).carrel.wf = true :=
  foldl_keeps (P := fun q : Core => q.carrel.wf = true) (fun _ _ hq => Mem.wf_writeBytes hq _ _) heads k h

theorem Core.wf_putRows {k : Core} (h : k.carrel.wf = true) (t : Target) (n e0 link : Nat) (rows : List (List (Option Elem))) (base : List Byte) :
    (k.putRows t n e0 link rows base).carrel.wf = true := by
  unfold Core.putRows
  dsimp only
  split
  · exact Core.wf_writeObject h _ _ _
  · exact Core.wf_writeObject h _ _ _

/-! ## Readers -/

/-- A reader's rows, put in place, keep the canonical form of the memories. -/
def Reader.Keeps (rd : Reader) : Prop := ∀ s f final, MemoriesWf s → KeepsLeft (rd.put s f final)

/-- What an issue finds ready satisfies a predicate. -/
def Ready.All {α : Type} (P : α → Prop) : Ready α → Prop
  | .run x _ _ => P x
  | _ => True

section
variable {α : Type} {P : α → Prop}

theorem Ready.All.of_ite {p : Prop} [Decidable p] {a b : Ready α} (ha : a.All P) (hb : b.All P) : (if p then a else b).All P := by
  split
  · exact ha
  · exact hb

theorem Ready.All.check {l : List (Bool × St × Nat)} {x : Ready α} (hx : x.All P) : (Ready.check l x).All P := by
  unfold Ready.check
  split
  · trivial
  · exact hx

end

section
variable {s : State} {rd : Reader}

theorem MemoriesWf.reader_land (h : MemoriesWf s) (hrd : rd.Keeps) {c : Nat} {f : Inflight} {final : Bool} : KeepsLeft (rd.land s c f final) := by
  have hput := hrd s f final h
  unfold Reader.land
  cases hres : rd.put s f final with
  | inr e => trivial
  | inl t =>
    rw [hres] at hput
    exact MemoriesWf.of_ite hput (MemoriesWf.updCore hput fun k hk => Core.wf_keepLater hk _ _)

theorem MemoriesWf.reader_pausePut (h : MemoriesWf s) (hrd : rd.Keeps) {c idx : Nat} : MemoriesWf (rd.pausePut s c idx) := by
  unfold Reader.pausePut
  split
  · exact h
  · split
    next heq => exact (h.reader_land hrd).of_eq heq
    · exact h

theorem MemoriesWf.reader_step (h : MemoriesWf s) (hrd : rd.Keeps) {c idx i : Nat} : (rd.step c idx i s).Keeps := by
  unfold Reader.step
  split
  · exact h
  · split
    · exact h.touchAll.updFlight
    · exact (h.reader_pausePut hrd).failRow

/-- A reading transfer carried out keeps the canonical form of the memories. -/
theorem MemoriesWf.reader_run (h : MemoriesWf s) (hrd : rd.Keeps) {c idx : Nat} : MemoriesWf (rd.run c idx s) := by
  unfold Reader.run
  split
  · exact h
  next f _ =>
    have hrows := RowEnd.Keeps.goRows (step := rd.step c idx) (fun i t ht => ht.reader_step hrd) ((List.range rd.rows).drop f.row) h
    cases hend : goRows (rd.step c idx) ((List.range rd.rows).drop f.row) s with
    | halt t =>
      rw [hend] at hrows
      exact hrows
    | next t =>
      rw [hend] at hrows
      change MemoriesWf t at hrows
      dsimp only
      split
      · exact hrows
      · split
        next heq => exact ((hrows.reader_land hrd).of_eq heq).updFlight
        · exact hrows.faultIn

/-! ## Objects put in place -/

theorem MemoriesWf.putStream (h : MemoriesWf s) {c sh : Nat} {t : Tag} {es : List SEnt} {row0 k0 : Int} :
    KeepsLeft (s.putStream c sh t es row0 k0) := by
  unfold State.putStream
  dsimp only
  refine KeepsLeft.of_ite trivial ?_
  refine MemoriesWf.updCore (MemoriesWf.reuse ?_) fun k hk => Core.wf_writeObject hk _ _ _
  exact MemoriesWf.of_ite_snd h.takeFresh h

theorem MemoriesWf.freeStream (h : MemoriesWf s) {c sh : Nat} {t : Tag} : MemoriesWf (s.freeStream c sh t) :=
  h.takeFresh.reuse.updCore (fun _ hk => Mem.wf_writeBytes hk _ _)

theorem MemoriesWf.sortCopy (h : MemoriesWf s) {c : Nat} {f : Inflight} {d : Desc} : MemoriesWf (s.sortCopy c f d) := by
  unfold State.sortCopy
  split
  · dsimp only
    split
    · exact h.count.count
    · exact h.count.count.sysWrite.sysWrite.sysWrite
  · exact h

theorem MemoriesWf.makeChoice (h : MemoriesWf s) {c : Nat} {exact_ : Bool} : KeepsLeft (s.makeChoice c exact_) := by
  unfold State.makeChoice
  dsimp only
  split
  · exact KeepsLeft.of_ite trivial h.updCore_same
  · trivial
end

section
variable {c : Nat} {k : Core} {d : Desc} {tf : TF}

theorem Reader.keeps_lineReader {t : Target} {r : Rows} {units : List (List Nat × List Nat)} {st : List Stage} :
    (State.lineReader c k d tf t r units st).Keeps := by
  intro s f final h
  unfold State.lineReader
  dsimp only
  split
  · refine KeepsLeft.of_ite ?_ ?_
    · exact h.noteFlags.updCore fun q hq => Core.wf_putRows hq _ _ _ _ _ _
    · exact h.takeFresh.updCore fun q hq => Core.wf_putRows hq _ _ _ _ _ _
  · have hrows : ∀ {link : Nat} {keep : List (List (Option Elem))} {base : Core → List Byte} {flags : Nat},
        MemoriesWf ((if final then s.noteFlags c flags 0 0 0 else s.takeFresh.2).updCore c fun q => q.putRows t r.n r.e0 link keep (base q)) :=
      (h.noteFlags.of_ite h.takeFresh).updCore fun q hq => Core.wf_putRows hq _ _ _ _ _ _
    refine KeepsLeft.of_ite hrows ?_
    split
    · exact hrows.freeStream
    · exact hrows.putStream

theorem Reader.keeps_tileStreamReader {o : List Int} {r : Rows} {units : List (List Nat × List Nat)} :
    (State.tileStreamReader c d tf o r units).Keeps := by
  intro s f final h
  unfold State.tileStreamReader
  dsimp only
  split
  · exact h.freeStream
  · exact h.putStream

theorem Reader.keeps_pointerReader {n e0 e1 : Nat} {row0 k0 : Int} {line : State → Bool → Inflight → Nat → Fetch (List SEnt)} :
    (State.pointerReader c d tf n e0 e1 row0 k0 line).Keeps := by
  intro s f final h
  unfold State.pointerReader
  dsimp only
  split
  · exact h.freeStream
  · exact (h.sortCopy.of_ite h).putStream

theorem Reader.keeps_imageReader {x0 : Int} : (State.imageReader c d tf x0).Keeps := by
  intro s f final h
  unfold State.imageReader
  dsimp only
  split
  · exact h
  · refine KeepsLeft.of_ite (KeepsLeft.of_ite h ?_) (KeepsLeft.of_ite trivial ?_)
    · exact h.updCore_same fun q => by simp
    · exact h.takeFresh.reuse.updCore fun q hq => Core.wf_writeObject hq _ _ _

theorem Reader.keeps_gatherReader {li : Desc} {t : Target} {first n per : Nat} {st : List Stage} :
    (State.gatherReader c d li tf t first n per st k).Keeps := by
  intro s f final h
  unfold State.gatherReader
  dsimp only
  refine KeepsLeft.of_ite ?_ ?_
  · exact h.noteFlags.updCore fun q hq => Core.wf_putRows hq _ _ _ _ _ _
  · exact h.takeFresh.updCore fun q hq => Core.wf_putRows hq _ _ _ _ _ _

theorem Reader.keeps_directoryReader {li : Desc} {first n : Nat} : (State.directoryReader c d li tf first n).Keeps := by
  intro s f final h
  unfold State.directoryReader
  dsimp only
  split
  · exact (h.takeFresh.updCore fun q hq => Core.wf_writeObject hq _ _ _).freeStream
  · exact (h.updCore fun q hq => Core.wf_writeObject hq _ _ _).putStream

theorem Reader.keeps_cardReader {o : List Int} {kax n1 n0 : Nat} : (State.cardReader c d tf o kax n1 n0).Keeps := by
  intro s f final h
  have hbank : ∀ {b : Bank}, MemoriesWf ((if final then s else s.takeFresh.2).updCore c fun q =>
      if tf.role == 0 then { q with bankA := some b } else { q with bankB := some b }) :=
    (h.of_ite h.takeFresh).updCore_same fun q => by split <;> rfl
  exact KeepsLeft.of_ite hbank.makeChoice hbank

/-! ## Issue -/

theorem Ready.all_readyLoad {s : State} {f : Inflight} : (s.readyLoad c f tf).All Reader.Keeps := by
  unfold State.readyLoad
  dsimp only
  split
  · trivial
  · refine Ready.All.of_ite trivial (Ready.All.of_ite (Ready.All.check (Ready.All.of_ite trivial Reader.keeps_imageReader)) (Ready.All.check ?_))
    refine Ready.All.of_ite trivial (Ready.All.of_ite Reader.keeps_pointerReader (Ready.All.of_ite Reader.keeps_pointerReader ?_))
    exact Ready.All.of_ite Reader.keeps_tileStreamReader (Ready.All.of_ite trivial Reader.keeps_lineReader)

theorem Ready.all_readyGather {s : State} {f : Inflight} : (s.readyGather c f tf).All Reader.Keeps := by
  unfold State.readyGather
  dsimp only
  split
  · trivial
  · refine Ready.All.check ?_
    split
    · trivial
    · refine Ready.All.of_ite trivial (Ready.All.of_ite trivial ?_)
      exact Ready.All.of_ite Reader.keeps_directoryReader Reader.keeps_gatherReader

theorem Ready.all_readyCard {s : State} {f : Inflight} : (s.readyCard c f tf).All Reader.Keeps := by
  unfold State.readyCard
  dsimp only
  split
  · trivial
  · refine Ready.All.check (Ready.All.of_ite trivial ?_)
    split
    · trivial
    · exact Reader.keeps_cardReader

end

section
variable {s : State}

theorem Ready.all_readyRead {c : Nat} {f : Inflight} {r : Ready Reader} (hr : s.readyRead c f = some r) : r.All Reader.Keeps := by
  unfold State.readyRead at hr
  split at hr
  · exact Option.some.inj hr ▸ Ready.all_readyLoad
  · exact Option.some.inj hr ▸ Ready.all_readyGather
  · exact Option.some.inj hr ▸ Ready.all_readyCard
  · cases hr

theorem MemoriesWf.launchRead (h : MemoriesWf s) {c : Nat} {i : TileInstr} {gens : List (Nat × Nat)} {rd : Option Reader} {reads writes : List Nat}
    (hrd : ∀ r, rd = some r → r.Keeps) : MemoriesWf (s.launchRead c i gens rd reads writes) := by
  have hlaunch : ∀ {fl : Inflight}, MemoriesWf ((s.reuse c writes).updCore c fun q => q.launch fl) := h.reuse.updCore_same fun q => by simp
  cases rd with
  | none => exact hlaunch
  | some r => exact (hlaunch.reader_run (hrd r rfl)).updCore_same

theorem MemoriesWf.tryRead (h : MemoriesWf s) {c : Nat} {errs : List MemErr} {i : TileInstr} : (tryRead c errs s i).Keeps := by
  unfold Machine.tryRead
  dsimp only
  split
  · trivial
  next r hr =>
    have hall := Ready.all_readyRead hr
    cases r with
    | bad st d w => trivial
    | empty => exact Issue.Keeps.of_ite trivial (h.memErrs.launchRead fun r hr => nomatch hr)
    | run rd reads writes =>
      exact Issue.Keeps.of_ite trivial (h.memErrs.launchRead fun r hr => Option.some.inj hr ▸ hall)

theorem MemoriesWf.doLoad (h : MemoriesWf s) {c : Nat} {errs : List MemErr} {i : TileInstr} : (doLoad c errs s i).Keeps := h.tryRead

theorem MemoriesWf.doGather (h : MemoriesWf s) {c : Nat} {errs : List MemErr} {i : TileInstr} : (doGather c errs s i).Keeps := h.tryRead

theorem MemoriesWf.doLoadcard (h : MemoriesWf s) {c : Nat} {errs : List MemErr} {i : TileInstr} : (doLoadcard c errs s i).Keeps := by
  have htry : ∀ {i : TileInstr}, (Machine.tryRead c errs (s.updCore c fun k => { k with choice := none }) i).Keeps := h.updCore_same.tryRead
  unfold Machine.doLoadcard
  split
  next tf =>
    refine Issue.Keeps.of_ite trivial ?_
    have hres := @htry (.loadcard tf)
    revert hres
    generalize Machine.tryRead c errs (s.updCore c fun k => { k with choice := none }) (.loadcard tf) = res
    intro hres
    cases res with
    | go t =>
      refine Issue.Keeps.of_ite ?_ hres
      split
      next heq => exact (MemoriesWf.makeChoice hres).of_eq heq
      · exact MemoriesWf.faultIn hres
    | jump t => exact hres
    | hold w => trivial
    | fail st d w => trivial
  · trivial

theorem MemoriesWf.execLoad (h : MemoriesWf s) {core : Nat} {errs : List MemErr} : KeepsMemories (execLoad core errs s) :=
  h.tryIssue fun _ => h.doLoad

theorem MemoriesWf.execGather (h : MemoriesWf s) {core : Nat} {errs : List MemErr} : KeepsMemories (execGather core errs s) :=
  h.tryIssue fun _ => h.doGather

theorem MemoriesWf.execLoadcard (h : MemoriesWf s) {core : Nat} {errs : List MemErr} : KeepsMemories (execLoadcard core errs s) :=
  h.tryIssue fun _ => h.doLoadcard

end
end Sys2Proof.Machine
end

section
/-! The transfers that write, copies, and the start of programs keep the canonical form of the memories. -/
namespace Sys2Proof.Machine

-- One proof after another: these short proofs, elaborated all at once, would take a thread each and exhaust the memory of the compile.
set_option Elab.async false

/-! ## Writers -/

/-- The end of a writing transfer keeps the canonical form of the memories. -/
def Writer.Keeps (wr : Writer) : Prop := ∀ s f, MemoriesWf s → MemoriesWf (wr.done s f)

section
variable {s : State} {wr : Writer}

theorem MemoriesWf.writer_reserve (h : MemoriesWf s) {wr : Writer} {c idx i : Nat} {f : Inflight} : (wr.reserve c idx i f s).Keeps := by
  unfold Writer.reserve
  refine RowEnd.Keeps.of_ite h ?_
  split
  · exact h.faultIn
  · split
    · exact h.pauseAt
    · exact h.faultIn
    · split
      · exact h.pauseAt
      · exact h.faultIn
      · exact (h.touch.writeVA.of_ite h.touch).updFlight
  · exact h.same.updFlight.post

theorem MemoriesWf.writer_step (h : MemoriesWf s) {c idx i : Nat} : (wr.step c idx i s).Keeps := by
  unfold Writer.step
  split
  · exact h
  next f _ =>
    have hres : (wr.reserve c idx i f s).Keeps := h.writer_reserve
    revert hres
    generalize wr.reserve c idx i f s = res
    intro hres
    cases res with
    | halt t => exact hres
    | next t =>
      change MemoriesWf t at hres
      dsimp only
      split
      · exact hres
      · split
        · split
          · exact (foldl_keeps (P := MemoriesWf) (fun _ _ ht => ht.putFlags.perform.updFlight.noteFlags) _ _ hres.touchAll).updFlight
          · exact hres.failRow
        · exact hres.failRow

/-- A writing transfer carried out keeps the canonical form of the memories. -/
theorem MemoriesWf.writer_run (h : MemoriesWf s) (hwr : wr.Keeps) {c idx : Nat} : MemoriesWf (wr.run c idx s) := by
  unfold Writer.run
  split
  · exact h
  next f _ =>
    have hrows := RowEnd.Keeps.goRows (step := wr.step c idx) (fun i t ht => ht.writer_step) ((List.range wr.rows).drop f.row) h
    cases hend : goRows (wr.step c idx) ((List.range wr.rows).drop f.row) s with
    | halt t =>
      rw [hend] at hrows
      exact hrows
    | next t =>
      rw [hend] at hrows
      change MemoriesWf t at hrows
      dsimp only
      split
      · exact hrows
      · exact MemoriesWf.updFlight (hwr _ _ hrows)

theorem MemoriesWf.storedFore (h : MemoriesWf s) {c sh : Nat} : MemoriesWf (s.storedFore c sh) :=
  h.updCore_same
end

section
variable {c : Nat} {k : Core} {d : Desc} {tf : TF} {t : Tag} {done : State → Inflight → State}

theorem Writer.keeps_rowWriter {r : Rows} {units : List (List Nat × List Nat)} (hdone : ∀ s f, MemoriesWf s → MemoriesWf (done s f)) :
    (State.rowWriter c d tf t r units done).Keeps := hdone

theorem Writer.keeps_folioWriter {blocks : Nat} {box : Nat → Fetch (List Int)} {e : List Nat}
    (hdone : ∀ s f, MemoriesWf s → MemoriesWf (done s f)) : (State.folioWriter c k d tf t blocks box e done).Keeps := fun s f h =>
  MemoriesWf.of_ite (hdone s f h) (hdone _ f h.updCore_same)

theorem Writer.keeps_imageWriter {x0 : Int} {head : Nat} : (State.imageWriter c d tf x0 head).Keeps := fun _ _ h => h

theorem Writer.keeps_scatterWriter {li : Desc} {first n per : Nat} : (State.scatterWriter c d li tf t first n per).Keeps := fun _ _ h => h

/-! ## Issue -/

theorem Ready.all_readyStore {s : State} {f : Inflight} : (s.readyStore c f tf).All Writer.Keeps := by
  have hfin : ∀ (s : State) (_ : Inflight), MemoriesWf s → MemoriesWf (s.storedFore c tf.sh) := fun _ _ h => h.storedFore
  unfold State.readyStore
  dsimp only
  split
  · trivial
  · refine Ready.All.of_ite trivial (Ready.All.of_ite (Ready.All.check ?_) ?_)
    · split
      · trivial
      · exact Ready.All.of_ite trivial Writer.keeps_imageWriter
    · split
      · trivial
      · refine Ready.All.check (Ready.All.of_ite trivial (Ready.All.check ?_))
        exact Ready.All.of_ite (Writer.keeps_folioWriter hfin) (Writer.keeps_rowWriter hfin)

theorem Ready.all_readyScatter {s : State} {f : Inflight} : (s.readyScatter c f tf).All Writer.Keeps := by
  unfold State.readyScatter
  dsimp only
  split
  · trivial
  · split
    · trivial
    · refine Ready.All.check ?_
      split
      · trivial
      · exact Ready.All.of_ite trivial (Ready.All.of_ite trivial Writer.keeps_scatterWriter)

end

section
variable {s : State}

theorem Ready.all_readyWrite {c : Nat} {f : Inflight} {r : Ready Writer} (hr : s.readyWrite c f = some r) : r.All Writer.Keeps := by
  unfold State.readyWrite at hr
  split at hr
  · exact Option.some.inj hr ▸ Ready.all_readyStore
  · exact Option.some.inj hr ▸ Ready.all_readyScatter
  · cases hr

theorem MemoriesWf.tryWrite (h : MemoriesWf s) {c : Nat} {errs : List MemErr} {i : TileInstr} : (tryWrite c errs s i).Keeps := by
  have hlaunch : ∀ {fl : Inflight}, MemoriesWf ((s.memErrs errs).updCore c fun q => q.launch fl) := h.memErrs.updCore_same fun q => by simp
  unfold Machine.tryWrite
  dsimp only
  split
  · trivial
  next r hr =>
    have hall := Ready.all_readyWrite hr
    cases r with
    | bad st d w => trivial
    | empty => exact Issue.Keeps.of_ite trivial hlaunch
    | run wr reads writes => exact Issue.Keeps.of_ite trivial (hlaunch.writer_run hall)

theorem MemoriesWf.doStore (h : MemoriesWf s) {c : Nat} {errs : List MemErr} {i : TileInstr} : (doStore c errs s i).Keeps := h.tryWrite

theorem MemoriesWf.doScatter (h : MemoriesWf s) {c : Nat} {errs : List MemErr} {i : TileInstr} : (doScatter c errs s i).Keeps := h.tryWrite

theorem MemoriesWf.execStore (h : MemoriesWf s) {core : Nat} {errs : List MemErr} : KeepsMemories (execStore core errs s) :=
  h.tryIssue fun _ => h.doStore

theorem MemoriesWf.execScatter (h : MemoriesWf s) {core : Nat} {errs : List MemErr} : KeepsMemories (execScatter core errs s) :=
  h.tryIssue fun _ => h.doScatter

/-! ## Going on -/

theorem Reader.keeps_of_readyRead {c : Nat} {f : Inflight} {rd : Reader} {reads writes : List Nat}
    (hr : s.readyRead c f = some (.run rd reads writes)) : rd.Keeps := Ready.all_readyRead hr

theorem Writer.keeps_of_readyWrite {c : Nat} {f : Inflight} {wr : Writer} {reads writes : List Nat}
    (hw : s.readyWrite c f = some (.run wr reads writes)) : wr.Keeps := Ready.all_readyWrite hw

theorem MemoriesWf.goOn (h : MemoriesWf s) {c idx : Nat} : MemoriesWf (s.goOn c idx) := by
  unfold State.goOn
  split
  · exact h
  next f _ =>
    have hgo : MemoriesWf (s.updFlight c idx fun g => { g with stop := none }) := h.updFlight
    dsimp only
    split
    · exact hgo.reader_run (Reader.keeps_of_readyRead ‹_›)
    · exact hgo.writer_run (Writer.keeps_of_readyWrite ‹_›)
    · exact hgo.faultIn
    · exact hgo.faultIn
    · split
      · exact hgo.sendTo
      · exact hgo

/-! ## Copies -/

theorem MemoriesWf.updCopy (h : MemoriesWf s) {id : Nat} {f : CopyOp → CopyOp} : MemoriesWf (s.updCopy id f) := h.same

theorem MemoriesWf.endCopy (h : MemoriesWf s) {o : CopyOp} {st : St} : MemoriesWf (s.endCopy o st) := h.same.release

theorem MemoriesWf.stopCopy (h : MemoriesWf s) {o : CopyOp} {cause va : Nat} : MemoriesWf (s.stopCopy o cause va) :=
  h.updCopy.hostPageEvent.of_ite h.updCopy

theorem MemoriesWf.copyRow (h : MemoriesWf s) {id x : Nat} : (copyRow id x s).Keeps := by
  unfold Machine.copyRow
  split
  · exact h
  · dsimp only
    split
    · exact h.stopCopy
    · exact h.endCopy
    · split
      · exact h.stopCopy
      · exact h.endCopy
      · change MemoriesWf _
        split
        · exact h.sysTouch.sysWrite.updCopy
        · exact h.sysWrite.updCopy

theorem MemoriesWf.runCopy (h : MemoriesWf s) {id : Nat} : MemoriesWf (s.runCopy id) := by
  unfold State.runCopy
  split
  · exact h
  next o _ =>
    have hrows := RowEnd.Keeps.goRows (step := Machine.copyRow id) (fun _ _ ht => ht.copyRow) (List.range (ceilDiv (o.len - o.pos) 4096))
      (h.updCopy (id := id) (f := fun x => { x with stop := none }))
    split
    · rwa [‹goRows _ _ _ = _›] at hrows
    · rwa [‹goRows _ _ _ = _›] at hrows

theorem MemoriesWf.execCopyFillComplete (h : MemoriesWf s) {id : Nat} : KeepsMemories (execCopyFillComplete id s) := by
  unfold Machine.execCopyFillComplete
  split
  · exact KeepsMemories.of_ite h.endCopy h
  · exact h

theorem MemoriesWf.resumeFlight (h : MemoriesWf s) {c idx : Nat} : MemoriesWf (s.resumeFlight c idx) := by
  unfold State.resumeFlight
  split
  · exact h
  · exact h.updCore_same.goOn

theorem MemoriesWf.execTransferResume (h : MemoriesWf s) {who : XferId} {errs : List MemErr} : KeepsMemories (execTransferResume who errs s) := by
  unfold Machine.execTransferResume
  split
  · refine KeepsMemories.of_ite trivial ?_
    split
    · exact KeepsMemories.of_ite h.memErrs.resumeFlight h
    · exact h
  · split
    · exact KeepsMemories.of_ite h.memErrs.runCopy h
    · exact h

/-! ## Tallies, completion, phases -/

theorem MemoriesWf.doIncrement (h : MemoriesWf s) {c : Nat} {i : TileInstr} {no : Nat} {v : W64} {target : Option Nat} :
    (s.doIncrement c i no v target).Keeps := by
  unfold State.doIncrement
  split
  · exact h.addTally
  · refine Issue.Keeps.of_ite h.addTally ?_
    split
    · trivial
    · exact h.post.updCore_same

theorem MemoriesWf.doTally (h : MemoriesWf s) {c : Nat} {i : TileInstr} : (doTally c s i).Keeps := by
  unfold Machine.doTally
  split
  · exact Issue.Keeps.of_ite trivial h.doIncrement
  · trivial

theorem MemoriesWf.execTally (h : MemoriesWf s) {core : Nat} : KeepsMemories (execTally core s) := h.tryIssue fun _ => h.doTally

theorem MemoriesWf.execTallyIncrement (h : MemoriesWf s) {core : Nat} : KeepsMemories (execTallyIncrement core s) := by
  unfold Machine.execTallyIncrement
  exact KeepsMemories.of_ite trivial (KeepsMemories.of_ite h (h.carry h.doTally))

theorem MemoriesWf.doWait (h : MemoriesWf s) {c : Nat} {i : TileInstr} : (doWait c s i).Keeps := by
  unfold Machine.doWait
  split
  · exact Issue.Keeps.of_ite h trivial
  · trivial

theorem MemoriesWf.execWait (h : MemoriesWf s) {core : Nat} : KeepsMemories (execWait core s) := h.tryIssue fun _ => h.doWait

theorem MemoriesWf.execWaitRelease (h : MemoriesWf s) {core : Nat} : KeepsMemories (execWaitRelease core s) := by
  unfold Machine.execWaitRelease
  refine KeepsMemories.of_ite trivial ?_
  dsimp only
  split
  · exact KeepsMemories.of_ite (h.carry h) h
  · exact h

theorem MemoriesWf.settleFence (h : MemoriesWf s) {c : Nat} : MemoriesWf (s.settleFence c) := by
  unfold State.settleFence
  refine MemoriesWf.of_ite ?_ h
  split
  · exact h.carry h
  · exact h.updCore_same
  · exact h

theorem MemoriesWf.trailingRead (h : MemoriesWf s) {c idx : Nat} : MemoriesWf (s.trailingRead c idx) := h.takeFresh.count.updFlight

theorem MemoriesWf.execInstructionComplete (h : MemoriesWf s) {core idx : Nat} : KeepsMemories (execInstructionComplete core idx s) := by
  unfold Machine.execInstructionComplete
  refine KeepsMemories.of_ite trivial ?_
  dsimp only
  split
  · exact h
  · refine KeepsMemories.of_ite h ?_
    refine KeepsMemories.of_ite h.trailingRead ?_
    refine KeepsMemories.of_ite h ?_
    change MemoriesWf _
    split
    · exact h.updCore_same.settleFence
    · exact (h.updCore_same.of_ite h.updCore_same.tallyAt).settleFence

theorem MemoriesWf.issueBody (h : MemoriesWf s) {c : Nat} {errs : List MemErr} {mis : List Mismatch} {i : TileInstr} :
    (issueBody c errs mis s i).Keeps := by
  unfold Machine.issueBody
  split
  · exact h.doLoad
  · exact h.doStore
  · exact h.doGather
  · exact h.doScatter
  · exact h.doLoadcard
  · exact h.doMma
  · exact h.doSpma
  · exact h.doSpge
  · exact h.doDiag
  · exact h.doChain
  · exact h.doReduce
  · exact h.doSplitk
  · exact h.doDrain
  · exact h.doDrainPartial
  · exact h.doSend
  · trivial
  · trivial
  · trivial
  · trivial
  · trivial
  · trivial
  · trivial
  · trivial
  · trivial
  · trivial
  · trivial
  · trivial

theorem MemoriesWf.execPhaseEnter (h : MemoriesWf s) {core : Nat} {errs : List MemErr} {mis : List Mismatch} :
    KeepsMemories (execPhaseEnter core errs mis s) := by
  unfold Machine.execPhaseEnter
  refine KeepsMemories.of_ite trivial ?_
  refine KeepsMemories.of_ite h ?_
  split
  · exact h
  · exact h.updCore_same.carry h.updCore_same.issueBody

/-! ## Programs -/

/-- The context that a region takes next is one of those that it has saved. -/
theorem Region.mem_of_nextContext {g : Region} {x : Context} (hx : g.nextContext = some x) : x ∈ g.contexts := by
  refine List.foldlRecOn (motive := fun best : Option Context => ∀ b, best = some b → b ∈ g.contexts) g.contexts _ (by simp)
    (fun best hbest y hy b hb => ?_) x hx
  cases best with
  | none => exact Option.some.inj hb ▸ hy
  | some a =>
    dsimp only at hb
    split at hb
    · exact Option.some.inj hb ▸ hy
    · exact hbest b hb

theorem MemoriesWf.contexts (h : MemoriesWf s) (r : Nat) : ∀ x ∈ (s.region r).contexts, x.core.carrel.wf = true := by
  obtain ⟨-, -, -, hregions⟩ := h
  unfold State.region
  cases hg : s.regions[r]? with
  | none => exact fun x hx => nomatch hx
  | some g => exact hregions g (List.mem_of_getElem? hg)

/-- A context that an idle core takes up holds a carrel in canonical form. -/
theorem MemoriesWf.nextWork (h : MemoriesWf s) {c : Nat} {x : Context} (hx : s.nextWork c = some (.inl x)) : x.core.carrel.wf = true := by
  have hnext : (s.region (regionOf c)).nextContext = some x := by
    unfold State.nextWork at hx
    split at hx
    · split at hx <;> simp_all
    · simp_all
    · simp_all
    · simp_all
  exact h.contexts _ x (Region.mem_of_nextContext hnext)

theorem MemoriesWf.restoreContext (h : MemoriesWf s) {c : Nat} {x : Context} (hx : x.core.carrel.wf = true) : MemoriesWf (s.restoreContext c x) := by
  have hrestored : MemoriesWf (((((s.updRegion (regionOf c) fun g => { g with contexts := g.contexts.filter fun y => y.order != x.order }).reuse c
      (x.core.tags.map Prod.fst)).count 0 (lineBytes 0 x.core.contextBytes))).updCore c fun k => k.restore x.core c) :=
    (h.updRegion fun g hg y hy => hg y (List.mem_of_mem_filter hy)).reuse.count.updCore fun k hk => Core.wf_restore hk hx c
  refine foldl_keeps (P := MemoriesWf) (fun _ _ ht => ht.resumeFlight) _ _ ?_
  split
  · split
    · exact hrestored.updCounter
    · exact hrestored
  · exact hrestored

theorem MemoriesWf.execContextResume (h : MemoriesWf s) {core : Nat} : KeepsMemories (execContextResume core s) := by
  unfold Machine.execContextResume
  refine KeepsMemories.of_ite trivial (KeepsMemories.of_ite h ?_)
  split
  next hx => exact h.restoreContext (h.nextWork hx)
  · exact h

theorem MemoriesWf.execCoreProgramStart (h : MemoriesWf s) {core : Nat} : KeepsMemories (execCoreProgramStart core s) := by
  unfold Machine.execCoreProgramStart
  refine KeepsMemories.of_ite trivial (KeepsMemories.of_ite h ?_)
  split
  next hx => exact h.restoreContext (h.nextWork hx)
  · exact h.startProgram.recordStart
  · exact h
end
end Sys2Proof.Machine
end

section
/-! The bindery, the host interface, and streams that end keep the canonical form of the memories. -/
namespace Sys2Proof.Machine

-- One proof after another: these short proofs, elaborated all at once, would take a thread each and exhaust the memory of the compile.
set_option Elab.async false

section
variable {s : State}

/-! ## The bindery -/

theorem MemoriesWf.placeRun (h : MemoriesWf s) {job i : Nat} : MemoriesWf (s.placeRun job i) := by
  unfold State.placeRun
  split
  · exact h
  · exact h.same.of_ite h.spillRun

theorem MemoriesWf.tensorWrite (h : MemoriesWf s) {owner a : Nat} {bs : List Byte} : MemoriesWf (s.tensorWrite owner a bs) := h.perform.of_ite h

theorem MemoriesWf.writeResult (h : MemoriesWf s) {j : Job} {r : Run} {n : Nat} : MemoriesWf (s.writeResult j r n) := by
  unfold State.writeResult
  refine MemoriesWf.of_ite h.sysWrite ?_
  split
  · exact h
  · exact h.tensorWrite.tensorWrite.tensorWrite

theorem MemoriesWf.execBinderyJobStart (h : MemoriesWf s) {region : Nat} : KeepsMemories (execBinderyJobStart region s) := by
  unfold Machine.execBinderyJobStart
  refine KeepsMemories.of_ite trivial ?_
  dsimp only
  split
  · exact KeepsMemories.of_ite h h.same.updRegion_same
  · exact h

theorem MemoriesWf.execBinderyPassComplete (h : MemoriesWf s) {region : Nat} : KeepsMemories (execBinderyPassComplete region s) := by
  unfold Machine.execBinderyPassComplete
  refine KeepsMemories.of_ite trivial ?_
  dsimp only
  split
  · exact h
  · split
    · exact h
    · refine KeepsMemories.of_ite h ?_
      split
      · exact h
      · exact h.same.writeResult.updRegion_same
      · exact foldl_keeps (P := MemoriesWf) (fun _ _ ht => ht.placeRun) _ _ h.same

theorem MemoriesWf.execRunToBuffer (h : MemoriesWf s) {job run : Nat} : KeepsMemories (execRunToBuffer job run s) := by
  unfold Machine.execRunToBuffer
  split
  · exact h
  · split
    · exact h
    · exact KeepsMemories.of_ite h.spillRun (KeepsMemories.of_ite h h.placeRun)

/-! ## The host interface -/

theorem MemoriesWf.applyAq (h : MemoriesWf s) : MemoriesWf s.applyAq := by
  unfold State.applyAq
  dsimp only
  split <;> exact h.same

theorem MemoriesWf.applyEvq (h : MemoriesWf s) : MemoriesWf s.applyEvq := by
  unfold State.applyEvq
  dsimp only
  split <;> exact h.same

theorem MemoriesWf.execAqEnable (h : MemoriesWf s) : KeepsMemories (execAqEnable s) := by
  unfold Machine.execAqEnable
  exact KeepsMemories.of_ite h (h.same.applyAq.of_ite h.same)

theorem MemoriesWf.execAqDisable (h : MemoriesWf s) : KeepsMemories (execAqDisable s) := by
  unfold Machine.execAqDisable
  exact KeepsMemories.of_ite h (h.same.updRing.of_ite h.same.updRing.rollback)

theorem MemoriesWf.execEvqEnable (h : MemoriesWf s) : KeepsMemories (execEvqEnable s) := by
  unfold Machine.execEvqEnable
  exact KeepsMemories.of_ite h (h.same.applyEvq.of_ite h.same)

theorem MemoriesWf.execEvqDisable (h : MemoriesWf s) : KeepsMemories (execEvqDisable s) := by
  unfold Machine.execEvqDisable
  exact KeepsMemories.of_ite h h.same

theorem MemoriesWf.execEvqHeadWrite (h : MemoriesWf s) {value : W64} : KeepsMemories (execEvqHeadWrite value s) := by
  unfold Machine.execEvqHeadWrite
  exact KeepsMemories.of_ite h h.same

theorem MemoriesWf.unmask (h : MemoriesWf s) {v : Nat} : MemoriesWf (s.unmask v) := h.same.raise.of_ite h

theorem MemoriesWf.execRegisterWrite (h : MemoriesWf s0) {offset : Nat} {value : W64} : KeepsMemories (execRegisterWrite offset value s0) := by
  unfold Machine.execRegisterWrite
  refine KeepsMemories.of_ite (h.count.of_ite h) ?_
  refine KeepsMemories.of_ite (h.count.of_ite h).same.unmask ?_
  iterate 5 refine KeepsMemories.of_ite ((h.count.of_ite h).of_ite (h.count.of_ite h).same) ?_
  exact KeepsMemories.of_ite (h.count.of_ite h).same (h.count.of_ite h)

theorem MemoriesWf.ringError (h : MemoriesWf s) {n : Nat} : MemoriesWf (s.ringError n) := by
  unfold State.ringError
  split
  · exact h.of_ite h.updRing.plainEvent
  · exact h

theorem MemoriesWf.doorbell (h : MemoriesWf s) {n : Nat} {value : W64} : MemoriesWf (s.doorbell n value) := by
  unfold State.doorbell
  dsimp only
  split
  · exact h
  · exact h.ringError.of_ite h.updRing

theorem MemoriesWf.hostWrites (h : MemoriesWf s) {l : List (Nat × List Byte)} : MemoriesWf (s.hostWrites l) := by
  obtain ⟨hdram, hhost, hcores, hregions⟩ := h
  exact ⟨hdram, foldl_keeps (P := fun m : Mem => m.wf = true) (fun _ _ hm => Mem.wf_writeBytes hm _ _) l _ hhost, hcores, hregions⟩

theorem MemoriesWf.execDoorbellSqTail (h : MemoriesWf s) {ring : Nat} {value : W64} {host : List (Nat × List Byte)} :
    KeepsMemories (execDoorbellSqTail ring value host s) := by
  unfold Machine.execDoorbellSqTail
  exact KeepsMemories.of_ite trivial (KeepsMemories.of_ite h.hostWrites h.hostWrites.count.doorbell)

theorem MemoriesWf.execDoorbellCqHead (h : MemoriesWf s) {ring : Nat} {value : W64} : KeepsMemories (execDoorbellCqHead ring value s) := by
  unfold Machine.execDoorbellCqHead
  exact KeepsMemories.of_ite trivial (KeepsMemories.of_ite h h.count.doorbell)

theorem MemoriesWf.execBar4Read (h : MemoriesWf s) {offset len : Nat} : KeepsMemories (execBar4Read offset len s) := by
  unfold Machine.execBar4Read
  exact KeepsMemories.of_ite h (KeepsMemories.of_ite h.touch.same h.plainEvent.same)

theorem MemoriesWf.execBar4Write (h : MemoriesWf s) {offset : Nat} {bytes : List Byte} : KeepsMemories (execBar4Write offset bytes s) := by
  unfold Machine.execBar4Write
  exact KeepsMemories.of_ite h (KeepsMemories.of_ite h.count.writeVA h.count.plainEvent)

theorem MemoriesWf.refillEvents (h : MemoriesWf s) : MemoriesWf s.refillEvents := h.same

theorem MemoriesWf.execEventWrite (h : MemoriesWf s) : KeepsMemories (execEventWrite s) := by
  unfold Machine.execEventWrite
  refine KeepsMemories.of_ite h ?_
  refine KeepsMemories.of_ite ?_ ?_
  · exact KeepsMemories.of_ite h h.same.writeEvent
  · split
    · exact h
    · exact KeepsMemories.of_ite h h.same.refillEvents.writeEvent

/-! ## Streams that end or start again -/

theorem MemoriesWf.copyPut (hs : MemoriesWf s) {h sock a : Nat} {bs : List Byte} : MemoriesWf (s.copyPut h sock a bs) :=
  (hs.writeVA.of_ite hs).of_ite (hs.of_ite hs.postWrite.same)

theorem MemoriesWf.copyBlock (hs : MemoriesWf s) {h src sock dst : Nat} : MemoriesWf (s.copyBlock h src sock dst) :=
  foldl_keeps (P := MemoriesWf) (fun _ _ ht => ht.copyPut.of_ite (foldl_keeps (P := MemoriesWf) (fun _ _ ht => ht.copyPut.of_ite ht) _ _ ht)) _ _ hs

theorem MemoriesWf.withOwners (h : MemoriesWf s) {owners : List (Nat × Owner)} : MemoriesWf { s with owners := owners } := h.same

theorem MemoriesWf.moveBlocks {hd : Nat} : ∀ (fuel : Nat) {s : State}, MemoriesWf s → MemoriesWf (State.moveBlocks hd fuel s) := by
  intro fuel
  induction fuel with
  | zero => exact fun h => h
  | succ fuel ih =>
    intro s h
    unfold State.moveBlocks
    split
    · exact h
    · split
      · exact h
      · refine MemoriesWf.of_ite h (MemoriesWf.of_ite ?_ (MemoriesWf.of_ite ?_ ?_))
        · exact ih h.touch.copyBlock.withOwners
        · exact ih h.same
        · exact h.same.post

theorem MemoriesWf.goOnSwitch (h : MemoriesWf s) {hd : Nat} : MemoriesWf (s.goOnSwitch hd) := by
  unfold State.goOnSwitch
  split
  · exact MemoriesWf.moveBlocks _ h
  · exact h

theorem MemoriesWf.switchesOnward (h : MemoriesWf s) : MemoriesWf s.switchesOnward :=
  foldl_keeps (P := MemoriesWf) (fun _ _ ht => ht.goOnSwitch) _ _ h

theorem MemoriesWf.moveData (h : MemoriesWf s) {req : Nat} {bs : List Byte} : MemoriesWf (s.moveData req bs) := by
  unfold State.moveData
  split
  · exact h
  · split
    · exact h
    · exact h.copyPut.same.goOnSwitch

theorem MemoriesWf.skipBlock (hs : MemoriesWf s) {h : Nat} : MemoriesWf (s.skipBlock h) := hs.same.goOnSwitch

theorem MemoriesWf.cutSocket (h : MemoriesWf s) {sock : Nat} : MemoriesWf (s.cutSocket sock) :=
  foldl_keeps (P := MemoriesWf) (fun _ _ ht => ht.skipBlock) _ _ (foldl_keeps (P := MemoriesWf) (fun _ _ ht => ht.arrivalLost) _ _ (foldl_keeps
    (P := MemoriesWf) (fun _ _ ht => foldl_keeps (P := MemoriesWf) (fun _ _ ht => ht.faultIn) _ _ ht) _ _ h)).same.updStream

theorem MemoriesWf.restartStream (h : MemoriesWf s) {sock : Nat} : MemoriesWf (s.restartStream sock) := h.cutSocket.same

end
end Sys2Proof.Machine
end

section
/-! The commands of configuration, tables, programs and transactions keep the canonical form of the memories. -/
namespace Sys2Proof.Machine

-- One proof after another: these short proofs, elaborated all at once, would take a thread each and exhaust the memory of the compile.
set_option Elab.async false

section
variable {s : State}

/-- A command keeps the canonical form where its body does. -/
theorem MemoriesWf.command (h : MemoriesWf s) {src : Src} {op : Nat} {sel : Packet → Bool} {body : State → Packet → State}
    (hb : ∀ t p, MemoriesWf t → MemoriesWf (body t p)) : KeepsMemories (s.command src op sel body) := by
  unfold State.command
  split
  · exact h
  · refine KeepsMemories.of_ite ?_ ?_
    · split
      · exact h
      · exact h.consume.refuse
    · dsimp only
      split
      · exact h.consume.refuse
      · exact hb _ _ h.consume

theorem MemoriesWf.withBlock (h : MemoriesWf s) {src : Src} {p : Packet} {word n : Nat} {k : State → List Byte → State}
    (hk : ∀ t bs, MemoriesWf t → MemoriesWf (k t bs)) : MemoriesWf (s.withBlock src p word n k) := by
  unfold State.withBlock
  dsimp only
  split
  · exact h.refuse
  · exact hk _ _ h.sysTouch

theorem MemoriesWf.stageOr (h : MemoriesWf s) {src : Src} {p : Packet} {g : Staged} {n : Nat} {apply : State → State}
    (ha : ∀ t, MemoriesWf t → MemoriesWf (apply t)) : MemoriesWf (s.stageOr src p g n apply) := by
  unfold State.stageOr
  exact (h.same.done.of_ite h.refuse).of_ite (ha s h).done

/-! ## Rings, settings, routes, tallies and records -/

theorem MemoriesWf.execNop (h : MemoriesWf s) {src : Src} : KeepsMemories (execNop src s) := h.command fun _ _ ht => ht.done

theorem MemoriesWf.execIdentify (h : MemoriesWf s) {src : Src} : KeepsMemories (execIdentify src s) := h.command fun _ _ ht => ht.done

theorem MemoriesWf.createRing (h : MemoriesWf s) {src : Src} {p : Packet} : MemoriesWf (s.createRing src p) := by
  unfold State.createRing
  iterate 2 refine MemoriesWf.of_ite h.refuse ?_
  split
  · exact h.refuse
  · exact h.refuse
  · exact h.refuse.of_ite h.same.done

theorem MemoriesWf.execCreateRing (h : MemoriesWf s) {src : Src} : KeepsMemories (execCreateRing src s) := h.command fun _ _ ht => ht.createRing

theorem MemoriesWf.orphan (h : MemoriesWf s) {n : Nat} : MemoriesWf (s.orphan n) := h.same

theorem MemoriesWf.dropRing (h : MemoriesWf s) {n : Nat} : MemoriesWf (s.dropRing n) :=
  MemoriesWf.orphan (MemoriesWf.same (MemoriesWf.of_ite (s := { s with txn := none }) h.same h.rollback))

theorem MemoriesWf.destroyRing (h : MemoriesWf s) {src : Src} {p : Packet} : MemoriesWf (s.destroyRing src p) := by
  unfold State.destroyRing
  dsimp only
  split
  · exact h.refuse
  · exact h.refuse.of_ite (h.refuse.of_ite h.dropRing.done)

theorem MemoriesWf.execDestroyRing (h : MemoriesWf s) {src : Src} : KeepsMemories (execDestroyRing src s) := h.command fun _ _ ht => ht.destroyRing

theorem MemoriesWf.setSetting (h : MemoriesWf s) {no x : Nat} : MemoriesWf (s.setSetting no x) := h.same

theorem MemoriesWf.execSetSetting (h : MemoriesWf s) {src : Src} : KeepsMemories (execSetSetting src s) :=
  h.command (fun _ _ ht => ht.refuse.of_ite (ht.refuse.of_ite (ht.stageOr (fun _ ht => ht.setSetting))))

theorem MemoriesWf.execGetSetting (h : MemoriesWf s) {src : Src} : KeepsMemories (execGetSetting src s) := by
  unfold Machine.execGetSetting
  refine h.command fun _ _ ht => ?_
  dsimp only
  split
  · exact ht.refuse
  · exact ht.done

theorem MemoriesWf.execSetEvents (h : MemoriesWf s) {src : Src} : KeepsMemories (execSetEvents src s) :=
  h.command fun _ _ ht => ht.stageOr (fun _ ht => ht.setSetting)

theorem MemoriesWf.applyRoutes (h : MemoriesWf s) {first : Nat} {es : List Nat} : MemoriesWf (s.applyRoutes first es) :=
  foldl_keeps (P := MemoriesWf) (fun _ _ ht => (ht.restartStream.of_ite ht).updStream.of_ite (ht.restartStream.of_ite ht)) _ _ h.same

theorem MemoriesWf.execRouteWrite (h : MemoriesWf s) {src : Src} : KeepsMemories (execRouteWrite src s) := by
  unfold Machine.execRouteWrite
  refine h.command fun _ _ ht => ?_
  refine MemoriesWf.of_ite ht.refuse ?_
  refine ht.withBlock fun _ _ hu => ?_
  dsimp only
  split
  · exact hu.refuse
  · exact hu.stageOr fun _ ht => ht.applyRoutes

theorem MemoriesWf.applySendRoutes (h : MemoriesWf s) {ws : List (Nat × List Nat)} : MemoriesWf (s.applySendRoutes ws) := h.same

theorem MemoriesWf.execSendrouteWrite (h : MemoriesWf s) {src : Src} : KeepsMemories (execSendrouteWrite src s) :=
  h.command (fun _ _ ht => ht.refuse.of_ite (ht.withBlock (fun _ _ ht => ht.refuse.of_ite (ht.refuse.of_ite (ht.stageOr
    (fun _ ht => ht.applySendRoutes))))))

theorem MemoriesWf.execTallyRead (h : MemoriesWf s) {src : Src} : KeepsMemories (execTallyRead src s) := h.command fun _ _ ht => ht.done

theorem MemoriesWf.execTallyAdd (h : MemoriesWf s) {src : Src} : KeepsMemories (execTallyAdd src s) := h.command fun _ _ ht => ht.addTally.done

theorem MemoriesWf.execTallySet (h : MemoriesWf s) {src : Src} : KeepsMemories (execTallySet src s) := h.command fun _ _ ht => ht.setTally.done

theorem MemoriesWf.execTallyWait (h : MemoriesWf s) {src : Src} : KeepsMemories (execTallyWait src s) := by
  unfold Machine.execTallyWait
  refine h.command fun _ _ ht => ?_
  refine MemoriesWf.of_ite ht.done ?_
  split
  · exact ht.updRing
  · exact ht

theorem MemoriesWf.execTallyWaitSatisfied (h : MemoriesWf s) {ring : Nat} : KeepsMemories (execTallyWaitSatisfied ring s) := by
  unfold Machine.execTallyWaitSatisfied
  refine KeepsMemories.of_ite trivial ?_
  split
  · exact KeepsMemories.of_ite h.updRing.replyRing h
  · exact h

theorem MemoriesWf.readRecord (h : MemoriesWf s) {src : Src} {p : Packet} : MemoriesWf (s.readRecord src p) := by
  unfold State.readRecord
  refine MemoriesWf.of_ite h.refuse ?_
  refine MemoriesWf.of_ite (h.refuse.of_ite h.done) ?_
  refine MemoriesWf.of_ite ?_ ?_
  · split
    · exact h.refuse
    · exact h.done
  · refine MemoriesWf.of_ite h.refuse ?_
    split
    · exact h.refuse
    · exact h.sysWrite.done

theorem MemoriesWf.execReadRecord (h : MemoriesWf s) {src : Src} : KeepsMemories (execReadRecord src s) := h.command fun _ _ ht => ht.readRecord

/-! ## Tensors, tables and programs -/

theorem MemoriesWf.execCreateTensor (h : MemoriesWf s) {src : Src} {handle : Nat} : KeepsMemories (execCreateTensor src handle s) := by
  unfold Machine.execCreateTensor
  refine KeepsMemories.of_ite h ?_
  refine h.command fun _ _ ht => ?_
  refine ht.withBlock fun _ _ hu => ?_
  dsimp only
  split
  · exact hu.refuse
  · exact hu.same.done

theorem MemoriesWf.execDestroyTensor (h : MemoriesWf s) {src : Src} : KeepsMemories (execDestroyTensor src s) :=
  h.command fun _ _ ht => ht.refuse.of_ite (ht.refuse.of_ite ht.same.done)

theorem MemoriesWf.execCreateOwner (h : MemoriesWf s) {src : Src} {handle : Nat} : KeepsMemories (execCreateOwner src handle s) := by
  unfold Machine.execCreateOwner
  refine KeepsMemories.of_ite h ?_
  exact h.command (fun _ _ ht => ht.refuse.of_ite (ht.refuse.of_ite (ht.refuse.of_ite (ht.refuse.of_ite (ht.refuse.of_ite ht.same.done)))))

theorem MemoriesWf.execWriteOwner (h : MemoriesWf s) {src : Src} : KeepsMemories (execWriteOwner src s) := by
  unfold Machine.execWriteOwner
  refine h.command fun _ _ ht => ?_
  refine MemoriesWf.of_ite ht.refuse ?_
  split
  · exact ht.refuse
  · exact ht.refuse.of_ite (ht.refuse.of_ite (ht.refuse.of_ite (ht.withBlock (fun _ _ ht => ht.refuse.of_ite (ht.stageOr (fun _ ht => ht))))))

theorem MemoriesWf.beginSwitch (hs : MemoriesWf s) {h : Nat} : MemoriesWf (s.beginSwitch h) := hs.same.goOnSwitch

theorem MemoriesWf.execSwitchOwner (h : MemoriesWf s) {src : Src} : KeepsMemories (execSwitchOwner src s) := by
  unfold Machine.execSwitchOwner
  refine h.command fun _ _ ht => ?_
  dsimp only
  split
  · exact ht.refuse
  · exact ht.refuse.of_ite (ht.refuse.of_ite ht.hold.beginSwitch)

theorem MemoriesWf.performOne_go (hs : MemoriesWf s) {gens : List (Nat × Nat)} {h : Nat} {p : Put} {who : Option (Nat × Nat)} :
    MemoriesWf (State.performOne.go s gens h p who) := by
  unfold State.performOne.go
  split
  next heq =>
    dsimp only
    split
    · exact (MemoriesWf.of_fst hs.putFlags heq).perform.updFlight.noteFlags
    · exact (MemoriesWf.of_fst hs.putFlags heq).perform

theorem MemoriesWf.performOne (hs : MemoriesWf s) {h g : Nat} {w : HeldWrite} : MemoriesWf (s.performOne h g w) := by
  unfold State.performOne
  dsimp only
  split
  · split
    · exact hs.faultIn
    · exact hs
  · exact hs.performOne_go
  · split
    · split
      · exact hs.faultIn
      · exact hs
    · exact hs.performOne_go
    · exact hs.performOne_go.of_ite hs.same

theorem MemoriesWf.performHeld (hs : MemoriesWf s) {h g : Nat} {ws : List HeldWrite} : MemoriesWf (s.performHeld h g ws) :=
  foldl_keeps (P := MemoriesWf) (fun _ _ ht => ht.performOne) _ _ hs

theorem MemoriesWf.applyPoly (h : MemoriesWf s) {n : Nat} {es : List Nat} : MemoriesWf (s.applyPoly n es) := h.same

theorem MemoriesWf.applySimple (h : MemoriesWf s) {a : Staged} : MemoriesWf (s.applySimple a) := by
  unfold State.applySimple
  split
  · exact h.setSetting
  · exact h.setSetting
  · exact h.applyRoutes
  · exact h

theorem MemoriesWf.applyTxn (h : MemoriesWf s) {t : Txn} : MemoriesWf (s.applyTxn t) :=
  foldl_keeps (P := MemoriesWf) (fun _ _ ht => ht.same.beginSwitch) _ _ (foldl_keeps (P := MemoriesWf) (fun _ _ ht => ht.applyPoly) _ _
    ((foldl_keeps (P := MemoriesWf) (fun _ _ ht => ht.applySimple) _ _ h).of_ite (foldl_keeps (P := MemoriesWf)
    (fun _ _ ht => ht.applySimple) _ _ h).applySendRoutes))

theorem MemoriesWf.settleTxn (h : MemoriesWf s) : MemoriesWf s.settleTxn := by
  unfold State.settleTxn
  split
  · exact h
  · exact h.same.applyTxn.release.of_ite h

theorem MemoriesWf.execOwnerSwitchFinish (h : MemoriesWf s) {handle : Nat} : KeepsMemories (execOwnerSwitchFinish handle s) := by
  unfold Machine.execOwnerSwitchFinish
  split
  · exact h
  · exact KeepsMemories.of_ite h (foldl_keeps (P := MemoriesWf) (fun _ _ ht => ht.release) _ _ h.same.performHeld).settleTxn

theorem MemoriesWf.execDestroyOwner (h : MemoriesWf s) {src : Src} : KeepsMemories (execDestroyOwner src s) := by
  unfold Machine.execDestroyOwner
  refine h.command fun _ _ ht => ?_
  dsimp only
  split
  · exact ht.refuse
  · exact ht.refuse.of_ite (ht.refuse.of_ite ht.same.done)

theorem MemoriesWf.execLoadPoly (h : MemoriesWf s) {src : Src} : KeepsMemories (execLoadPoly src s) :=
  h.command (fun _ _ ht => ht.refuse.of_ite (ht.withBlock (fun _ _ ht => ht.refuse.of_ite (ht.refuse.of_ite (ht.stageOr
    (fun _ ht => ht.applyPoly))))))

theorem MemoriesWf.execCreateJob (h : MemoriesWf s) {src : Src} {handle : Nat} : KeepsMemories (execCreateJob src handle s) := by
  unfold Machine.execCreateJob
  refine KeepsMemories.of_ite h ?_
  refine h.command fun _ _ ht => ?_
  iterate 3 refine MemoriesWf.of_ite ht.refuse ?_
  split
  · exact ht.refuse
  · exact ht.refuse.of_ite ht.same.done

theorem MemoriesWf.execLoadProgram (h : MemoriesWf s) {src : Src} {handle : Nat} : KeepsMemories (execLoadProgram src handle s) := by
  unfold Machine.execLoadProgram
  refine KeepsMemories.of_ite h ?_
  refine h.command fun _ _ ht => ?_
  refine ht.withBlock fun _ _ hu => ?_
  split
  · exact hu.refuse
  · refine hu.withBlock fun _ _ hu => ?_
    split
    · exact hu.refuse
    · exact hu.same.done

theorem MemoriesWf.execUnloadProgram (h : MemoriesWf s) {src : Src} : KeepsMemories (execUnloadProgram src s) :=
  h.command fun _ _ ht => ht.refuse.of_ite (ht.refuse.of_ite ht.same.done)

/-! ## Transactions -/

theorem MemoriesWf.execTxnBegin (h : MemoriesWf s) {src : Src} : KeepsMemories (execTxnBegin src s) := by
  unfold Machine.execTxnBegin
  refine h.command fun _ _ ht => ?_
  split
  · exact ht.refuse.of_ite ht.same.done
  · exact ht

theorem MemoriesWf.execTxnRollback (h : MemoriesWf s) {src : Src} : KeepsMemories (execTxnRollback src s) := by
  unfold Machine.execTxnRollback
  refine h.command fun _ _ ht => ?_
  split
  · exact ht.rollback.done.of_ite ht.refuse
  · exact ht

theorem MemoriesWf.execTxnCommit (h : MemoriesWf s) {src : Src} : KeepsMemories (execTxnCommit src s) := by
  unfold Machine.execTxnCommit
  refine h.command fun _ _ ht => ?_
  split
  · refine MemoriesWf.of_ite ht.refuse ?_
    split
    · exact ht.rollback.refuse
    · exact ht.same.applyTxn.done.of_ite ht.hold.applyTxn
  · exact ht.refuse

end
end Sys2Proof.Machine
end

section
/-! The commands of memory and the moves of pages and channels keep the canonical form of the memories. -/
namespace Sys2Proof.Machine

-- One proof after another: these short proofs, elaborated all at once, would take a thread each and exhaust the memory of the compile.
set_option Elab.async false

section
variable {s : State}

/-! ## Frames, pages and channels -/

theorem MemoriesWf.execFrameClear (h : MemoriesWf s) {frame : Nat} : KeepsMemories (execFrameClear frame s) :=
  KeepsMemories.of_ite h (h.withMems (Mem.wf_clear h.dram _ _) h.hostMem)

theorem MemoriesWf.channelEvent (h : MemoriesWf s) {ch : Nat} : MemoriesWf (s.channelEvent ch) := by
  unfold State.channelEvent
  split
  · exact h.plainEvent
  · exact h

theorem MemoriesWf.settleChannels (h : MemoriesWf s) : MemoriesWf s.settleChannels := by
  unfold State.settleChannels
  refine foldl_keeps (P := MemoriesWf) (fun _ _ ht => ?_) _ _ h
  split
  · exact ht.updChannel.channelEvent.of_ite ht
  · exact ht

theorem MemoriesWf.pagesGone (h : MemoriesWf s) {vs : List Nat} : MemoriesWf (s.pagesGone vs) := h.same.settleChannels

theorem MemoriesWf.alloc (h : MemoriesWf s) {src : Src} {p : Packet} {k : AllocPick} : MemoriesWf (s.alloc src p k) := by
  unfold State.alloc
  split
  · exact h.refuse
  · exact (h.sysTouch.of_ite h).same.done

theorem MemoriesWf.execAlloc (h : MemoriesWf s) {src : Src} {pick : AllocPick} : KeepsMemories (execAlloc src pick s) := by
  unfold Machine.execAlloc
  exact KeepsMemories.of_ite h (h.command (fun _ _ ht => ht.alloc))

theorem MemoriesWf.freeAlloc (h : MemoriesWf s) {a : Alloc} : MemoriesWf (s.freeAlloc a) :=
  (foldl_keeps (P := MemoriesWf) (fun _ _ ht => ht.retireFrame) _ _ h.same.forget).pagesGone

theorem MemoriesWf.execFree (h : MemoriesWf s) {src : Src} : KeepsMemories (execFree src s) := by
  unfold Machine.execFree
  refine h.command fun _ _ ht => ?_
  split
  · exact ht.refuse
  · exact ht.refuse.of_ite ht.freeAlloc.done

theorem MemoriesWf.execHostEvict (h : MemoriesWf s) {src : Src} : KeepsMemories (execHostEvict src s) := by
  unfold Machine.execHostEvict
  refine h.command fun _ _ ht => ?_
  split
  · exact ht.refuse
  · exact ht.same.forget.done

theorem MemoriesWf.performHolds (h : MemoriesWf s) {vs : List Nat} : MemoriesWf (s.performHolds vs) := by
  unfold State.performHolds
  refine foldl_keeps (P := MemoriesWf) (fun _ _ ht => ?_) _ _ h.same
  split
  · exact ht.putHere.of_ite ht
  · exact ht.putHere.of_ite ht
  · exact ht

theorem MemoriesWf.execHostResident (h : MemoriesWf s) {src : Src} : KeepsMemories (execHostResident src s) := by
  unfold Machine.execHostResident
  refine h.command fun _ _ ht => ?_
  split
  · exact ht.refuse
  · exact ht.withBlock fun _ _ ht => ht.refuse.of_ite ht.same.forget.performHolds.switchesOnward.done

theorem MemoriesWf.execHostUnmap (h : MemoriesWf s) {src : Src} : KeepsMemories (execHostUnmap src s) := by
  unfold Machine.execHostUnmap
  refine h.command fun _ _ ht => ?_
  split
  · exact ht.refuse
  · exact ht.same.forget.done

theorem MemoriesWf.execTranslate (h : MemoriesWf s) {src : Src} : KeepsMemories (execTranslate src s) := by
  unfold Machine.execTranslate
  refine h.command fun _ _ ht => ?_
  dsimp only
  split <;> exact ht.done

theorem MemoriesWf.beginCopy (h : MemoriesWf s) {src : Src} {p : Packet} {dst : W64} {from_ : Option W64} {byte len : Nat} :
    MemoriesWf (s.beginCopy src p dst from_ byte len) := h.same.hold.runCopy

theorem MemoriesWf.execCopy (h : MemoriesWf s) {src : Src} {errs : List MemErr} : KeepsMemories (execCopy src errs s) :=
  h.command fun _ _ ht => ht.refuse.of_ite (ht.refuse.of_ite ht.memErrs.beginCopy)

theorem MemoriesWf.execFill (h : MemoriesWf s) {src : Src} : KeepsMemories (execFill src s) := h.command fun _ _ ht => ht.refuse.of_ite ht.beginCopy

theorem MemoriesWf.beginMove (h : MemoriesWf s) {vs fs : List Nat} {retiring : Option Nat} : MemoriesWf (s.beginMove vs fs retiring) := h.same.forget

theorem MemoriesWf.execPageMigrate (h : MemoriesWf s) {va : Nat} {cause : MoveCause} {frames : List Nat} :
    KeepsMemories (execPageMigrate va cause frames s) := by
  unfold Machine.execPageMigrate
  dsimp only
  split
  · exact h
  · refine KeepsMemories.of_ite h ?_
    split
    · split
      · exact KeepsMemories.of_ite h h.same.beginMove
      · exact h
    · exact KeepsMemories.of_ite h.beginMove h
    · exact KeepsMemories.of_ite h.beginMove h

theorem MemoriesWf.copyPage (h : MemoriesWf s) {v : Nat} : MemoriesWf (s.copyPage v) := by
  have hcopied : ∀ {f a : Nat} {poison : List Nat} {poisonAt retireDue : List (Nat × Nat)} {pages : List (Nat × Page)},
      MemoriesWf { (s.count 0 65536).count 1 65536 with
        dram := s.dram.copy a f 65536, poison := poison, poisonAt := poisonAt, retireDue := retireDue, pages := pages } :=
    h.withMems (Mem.wf_copy h.dram _ _ _) h.hostMem
  unfold State.copyPage
  split
  · exact h
  · split
    · exact h
    · dsimp only
      split
      · refine MemoriesWf.of_ite ?_ (MemoriesWf.frameDue ?_)
        · split
          · exact hcopied.retireFrame
          · exact hcopied.retireFrame
          · exact hcopied
        · split
          · exact hcopied.retireFrame
          · exact hcopied.retireFrame
          · exact hcopied
      · split
        · exact hcopied.retireFrame
        · exact hcopied.retireFrame
        · exact hcopied

theorem MemoriesWf.endMove (h : MemoriesWf s) {v : Nat} {errs : List MemErr} : MemoriesWf (s.endMove v errs) :=
  (foldl_keeps (P := MemoriesWf) (fun _ _ ht => ht.copyPage) _ _ h.memErrs).forget.pagesGone

theorem MemoriesWf.execScrubPatrolRead (h : MemoriesWf s) {errs : List MemErr} : KeepsMemories (execScrubPatrolRead errs s) := by
  unfold Machine.execScrubPatrolRead
  exact KeepsMemories.of_ite h (foldl_keeps (P := MemoriesWf) (fun _ _ ht => ht.memErr) _ _ h.same)

theorem MemoriesWf.execChannelRecalibrate (h : MemoriesWf s) {channel : Nat} : KeepsMemories (execChannelRecalibrate channel s) := by
  unfold Machine.execChannelRecalibrate
  exact KeepsMemories.of_ite trivial h

theorem MemoriesWf.execEvacuateChannel (h : MemoriesWf s) {src : Src} : KeepsMemories (execEvacuateChannel src s) := by
  unfold Machine.execEvacuateChannel
  refine h.command fun _ _ ht => ?_
  dsimp only
  split
  · exact ht.refuse
  · exact ht.refuse.of_ite (ht.refuse.of_ite ht.same.channelEvent.done.settleChannels)

theorem MemoriesWf.execReturnChannel (h : MemoriesWf s) {src : Src} : KeepsMemories (execReturnChannel src s) := by
  unfold Machine.execReturnChannel
  refine h.command fun _ _ ht => ?_
  dsimp only
  split
  · exact ht.refuse
  · exact ht.refuse.of_ite ht.updChannel.hold

theorem MemoriesWf.channelBack (h : MemoriesWf s) {ch : Nat} {d : Dimm} : MemoriesWf (s.channelBack ch d) := h.same.channelEvent

theorem MemoriesWf.execDimmPowerSettled (h : MemoriesWf s) {channel : Nat} {dimm : Option Dimm} :
    KeepsMemories (execDimmPowerSettled channel dimm s) := by
  unfold Machine.execDimmPowerSettled
  refine KeepsMemories.of_ite trivial ?_
  split
  · exact h
  · refine KeepsMemories.of_ite h ?_
    dsimp only
    split
    · exact h.updChannel.release
    · refine KeepsMemories.of_ite h.updChannel.release ?_
      exact KeepsMemories.of_ite (h.updChannel.updChannel.of_ite h.updChannel.updChannel.channelEvent).release h.channelBack.release

end
end Sys2Proof.Machine
end

section
/-! Dispatches, from their request to their end, keep the canonical form of the memories. -/
namespace Sys2Proof.Machine

-- One proof after another: these short proofs, elaborated all at once, would take a thread each and exhaust the memory of the compile.
set_option Elab.async false

section
variable {s : State}

/-! ## Requests -/

theorem MemoriesWf.readCosts (h : MemoriesWf s) {q : Request} : MemoriesWf (s.readCosts q).1 := by
  unfold State.readCosts
  split
  · exact h
  · split
    · exact h
    · split
      · exact h.touchAll
      · exact h
      · exact h
      · exact h

theorem MemoriesWf.awaitAccept (h : MemoriesWf s) {src : Src} {q : Request} : MemoriesWf (s.awaitAccept src q) := by
  unfold State.awaitAccept
  split
  · exact h.updRing
  · exact h

theorem MemoriesWf.execDispatch (h : MemoriesWf s) {src : Src} : KeepsMemories (execDispatch src s) := by
  unfold Machine.execDispatch
  refine h.command fun _ _ ht => ?_
  refine MemoriesWf.of_ite ht.refuse ?_
  refine ht.withBlock fun _ _ hu => ?_
  refine MemoriesWf.of_ite hu.refuse ?_
  split
  · exact hu.refuse
  · split
    next heq =>
      exact (MemoriesWf.of_fst hu.readCosts heq).awaitAccept
    next heq =>
      exact (MemoriesWf.of_fst hu.readCosts heq).refuse

theorem MemoriesWf.chainRecord (h : MemoriesWf s) {a : Nat} : MemoriesWf (s.chainRecord a).1 := by
  unfold State.chainRecord
  split
  · exact h
  · split
    · exact h
    · split
      · dsimp only
        split
        · split
          · exact MemoriesWf.of_ite_fst h.touch h.touch
          · exact h.touch
        · exact h
      · exact h

theorem MemoriesWf.execContract (h : MemoriesWf s) {src : Src} : KeepsMemories (execContract src s) := by
  unfold Machine.execContract
  refine h.command fun _ _ ht => ?_
  refine MemoriesWf.of_ite ht.refuse ?_
  refine ht.withBlock fun _ _ hu => ?_
  refine MemoriesWf.of_ite hu.refuse ?_
  split
  next heq =>
    exact (MemoriesWf.of_fst hu.chainRecord heq).refuse
  next heq =>
    dsimp only
    split
    · exact (MemoriesWf.of_fst hu.chainRecord heq).refuse
    next heq2 =>
      exact (MemoriesWf.of_fst hu.chainRecord heq).awaitAccept

/-! ## Acceptance -/

theorem MemoriesWf.orderTiles (h : MemoriesWf s) {far : List (RemoteNeed × List Byte)} {n : Nat} : MemoriesWf (s.orderTiles far n) := by
  unfold State.orderTiles
  split
  · exact h
  · split
    · exact h.of_ite h.updDispatch
    · exact h

theorem MemoriesWf.settleRequest (h : MemoriesWf s) {far : List (RemoteNeed × List Byte)} {q : Request} : MemoriesWf (s.settleRequest far q).1 := by
  unfold State.settleRequest
  split
  · split
    · exact h.touchAll
    · exact h
  · split
    · exact h.touchAll
    · exact h

theorem MemoriesWf.accept (h : MemoriesWf s) {ring : Nat} {q0 : Request} {pick : PlacePick} : MemoriesWf (s.accept ring q0 pick) := by
  have hsettled : MemoriesWf (s.settleRequest pick.far q0).1 := h.settleRequest
  unfold State.accept
  revert hsettled
  generalize s.settleRequest pick.far q0 = settled
  intro hsettled
  obtain ⟨s1, q⟩ := settled
  have hreplied : ∀ {r : Rep}, MemoriesWf ((s1.updRing ring fun g => { g with waiting := none }).replyRing ring q.opcode q.tag q.irq r) :=
    hsettled.updRing.replyRing
  refine MemoriesWf.of_ite hreplied.replyRing (MemoriesWf.orderTiles (MemoriesWf.same (s := List.foldl _ _ _) ?_))
  exact foldl_keeps (P := MemoriesWf) (fun _ _ ht => ht.updRegion_same) _ _ hreplied

theorem MemoriesWf.execDispatchAccept (h : MemoriesWf s) {ring : Nat} {pick : PlacePick} : KeepsMemories (execDispatchAccept ring pick s) := by
  unfold Machine.execDispatchAccept
  refine KeepsMemories.of_ite trivial ?_
  split
  · refine KeepsMemories.of_ite h ?_
    split
    · exact h.updRing.replyRing
    · exact KeepsMemories.of_ite h.accept h
  · exact h

/-! ## The end of a dispatch -/

/-- A state whose regions keep the contexts that they hold, or fewer, and whose memories stand as they did, keeps the canonical form. -/
theorem MemoriesWf.mapRegions {t : State} (h : MemoriesWf s) {f : Region → Region} (hf : ∀ g, ∀ x ∈ (f g).contexts, x ∈ g.contexts)
    (hr : t.regions = s.regions.map f := by rfl) (hd : t.dram = s.dram := by rfl) (hm : t.hostMem = s.hostMem := by rfl)
    (hc : t.cores = s.cores := by rfl) : MemoriesWf t := by
  obtain ⟨hdram, hhost, hcores, hregions⟩ := h
  refine ⟨hd ▸ hdram, hm ▸ hhost, hc ▸ hcores, fun g hg x hx => ?_⟩
  rw [hr] at hg
  obtain ⟨g0, hg0, rfl⟩ := List.mem_map.1 hg
  exact hregions g0 hg0 x (hf g0 x hx)

theorem MemoriesWf.anyOf (h : MemoriesWf s) {l : List Nat} : MemoriesWf (s.anyOf l).1 := by
  unfold State.anyOf
  dsimp only [State.takeFresh]
  split
  · exact h
  · exact h
  · exact h.takeFresh

theorem MemoriesWf.rehome (h : MemoriesWf s) {n : Nat} : MemoriesWf (s.rehome n) := by
  unfold State.rehome
  split
  · exact h
  · refine MemoriesWf.of_ite h ?_
    dsimp only
    split
    next heq => exact (MemoriesWf.of_fst h.anyOf heq).updCounter.updDispatch
    · split
      next heq _ => exact (MemoriesWf.of_fst h.anyOf heq).updRegion_same.updDispatch.updCounter.updDispatch
      · exact h

theorem MemoriesWf.rehomeAll (h : MemoriesWf s) : MemoriesWf s.rehomeAll := foldl_keeps (P := MemoriesWf) (fun _ _ ht => ht.rehome) _ _ h

theorem MemoriesWf.finish (h : MemoriesWf s) {n : Nat} {st : St} {detail : Nat} : MemoriesWf (s.finish n st detail) := by
  unfold State.finish
  split
  · exact h
  · exact (h.mapRegions fun _ _ hx => List.mem_of_mem_filter hx).replyRing.rehomeAll

theorem MemoriesWf.enginePuts (h : MemoriesWf s) {owner : Nat} {ps : List Put} : MemoriesWf (s.enginePuts owner ps) :=
  foldl_keeps (P := MemoriesWf) (fun _ _ ht => ht.perform.of_ite ht) _ _ h

theorem MemoriesWf.copyStaging (h : MemoriesWf s) {d : Dispatch} : MemoriesWf (s.copyStaging d) := by
  unfold State.copyStaging
  split
  · exact h.touchAll.enginePuts
  · exact h

theorem MemoriesWf.execDispatchComplete (h : MemoriesWf s) {number : Nat} : KeepsMemories (execDispatchComplete number s) := by
  unfold Machine.execDispatchComplete
  split
  · exact h
  · exact KeepsMemories.of_ite h h.copyStaging.finish

theorem MemoriesWf.execDependencyResolved (h : MemoriesWf s) {number : Nat} : KeepsMemories (execDependencyResolved number s) := by
  unfold Machine.execDependencyResolved
  refine KeepsMemories.of_ite h ?_
  change MemoriesWf _
  refine foldl_keeps (P := MemoriesWf) (fun _ _ ht => ?_) _ _ h
  split
  · exact ht.finish
  · exact ht.updDispatch.orderTiles

theorem MemoriesWf.execDispatchTallyWaitMet (h : MemoriesWf s) {number : Nat} : KeepsMemories (execDispatchTallyWaitMet number s) := by
  unfold Machine.execDispatchTallyWaitMet
  split
  · exact KeepsMemories.of_ite h.updDispatch.orderTiles h
  · exact h

/-! ## Cancellation -/

theorem MemoriesWf.stopCore (h : MemoriesWf s) {c : Nat} : MemoriesWf (s.stopCore c) := h.undoWrites.updCore_same

theorem MemoriesWf.beginCancel (h : MemoriesWf s) {n : Nat} {st : St} {detail : Nat} : MemoriesWf (s.beginCancel n st detail) := by
  unfold State.beginCancel
  split
  · exact h
  · refine MemoriesWf.of_ite h (MemoriesWf.updDispatch ?_)
    refine foldl_keeps (P := MemoriesWf) (fun _ _ ht => ht.stopCore.of_ite ht) _ _ ?_
    exact h.undoWrites.mapRegions fun _ _ hx => List.mem_of_mem_filter hx

theorem MemoriesWf.execCancel (h : MemoriesWf s) {src : Src} : KeepsMemories (execCancel src s) :=
  h.command fun _ _ ht => ht.refuse.of_ite (ht.refuse.of_ite ht.hold.beginCancel)

theorem MemoriesWf.execCancelWaitingPacket (h : MemoriesWf s) {src : Src} : KeepsMemories (execCancelWaitingPacket src s) := by
  unfold Machine.execCancelWaitingPacket
  refine h.command fun _ _ ht => ?_
  refine MemoriesWf.of_ite ht.refuse ?_
  split
  · exact ht.updRing.replyRing.done.of_ite ht.refuse
  · exact ht.updRing.replyRing.done.of_ite ht.refuse
  · exact ht.refuse

theorem MemoriesWf.execCancelComplete (h : MemoriesWf s) {number : Nat} : KeepsMemories (execCancelComplete number s) := by
  unfold Machine.execCancelComplete
  split
  · exact h
  · exact KeepsMemories.of_ite h (foldl_keeps (P := MemoriesWf) (fun _ _ ht => ht.release) _ _ h.finish)

theorem MemoriesWf.execFaultActionAbort (h : MemoriesWf s) {src : Src} : KeepsMemories (execFaultActionAbort src s) := by
  unfold Machine.execFaultActionAbort
  refine h.command fun _ _ ht => ?_
  dsimp only
  split
  · exact ht.refuse
  · exact ht.hold.beginCancel

theorem MemoriesWf.dropCore (h : MemoriesWf s) {n c : Nat} : MemoriesWf (s.dropCore n c) := h.returnTile.updCore_same.updDispatch

theorem MemoriesWf.execFaultActionDropCore (h : MemoriesWf s) {src : Src} : KeepsMemories (execFaultActionDropCore src s) := by
  unfold Machine.execFaultActionDropCore
  refine h.command fun _ _ ht => ?_
  dsimp only
  split
  · exact ht.refuse
  · exact (foldl_keeps (P := MemoriesWf) (fun _ _ ht => ht.dropCore) _ _ ht).done

end
end Sys2Proof.Machine
end

section
/-! The optical fabric keeps the canonical form of the memories. -/
namespace Sys2Proof.Machine

-- One proof after another: these short proofs, elaborated all at once, would take a thread each and exhaust the memory of the compile.
set_option Elab.async false

section
variable {s : State}

/-! ## Ports and lasers -/

theorem MemoriesWf.portEvent (h : MemoriesWf s) {p : Nat} : MemoriesWf (s.portEvent p) := by
  unfold State.portEvent
  split
  · exact h.plainEvent
  · exact h

theorem MemoriesWf.setPort (h : MemoriesWf s) {p : Nat} {f : Port → Port} : MemoriesWf (s.setPort p f) := by
  unfold State.setPort
  dsimp only
  split
  · exact h.updPort.portEvent.of_ite h.updPort
  · exact h.updPort

theorem MemoriesWf.resend (h : MemoriesWf s) {sock from_ : Nat} : MemoriesWf (s.resend sock from_) := by
  unfold State.resend
  refine MemoriesWf.of_ite h ?_
  split
  · exact h.updStream.cutSocket
  · exact foldl_keeps (P := MemoriesWf) (fun _ _ ht => ht.emit) _ _ h

theorem MemoriesWf.movePorts (h : MemoriesWf s) {ports : List Nat} {f : Port → Port} : MemoriesWf (s.movePorts ports f) :=
  foldl_keeps (P := MemoriesWf) (fun _ _ ht => ht.resend) _ _ (foldl_keeps (P := MemoriesWf) (fun _ _ ht => ht.setPort) _ _ h)

theorem MemoriesWf.failLane (h : MemoriesWf s) {port lane : Nat} : MemoriesWf (s.failLane port lane) := by
  unfold State.failLane
  split
  · exact h.of_ite (h.movePorts.of_ite h.setPort)
  · exact h

theorem MemoriesWf.execFlitReceive (h : MemoriesWf s) {port : Nat} {flit : Flit} {corrected : Nat} {crcOk : Bool} :
    KeepsMemories (execFlitReceive port flit corrected crcOk s) := by
  unfold Machine.execFlitReceive
  refine KeepsMemories.of_ite trivial ?_
  split
  · exact KeepsMemories.of_ite h (foldl_keeps (P := MemoriesWf) (fun _ _ ht => ht.failLane) _ _ h.updPort)
  · exact h

theorem MemoriesWf.execLaneFail (h : MemoriesWf s) {port lane : Nat} : KeepsMemories (execLaneFail port lane s) := by
  unfold Machine.execLaneFail
  iterate 2 refine KeepsMemories.of_ite trivial ?_
  split
  · exact KeepsMemories.of_ite h h.failLane
  · exact h

theorem MemoriesWf.execPortStallEnd (h : MemoriesWf s) {port : Nat} : KeepsMemories (execPortStallEnd port s) := by
  unfold Machine.execPortStallEnd
  refine KeepsMemories.of_ite trivial ?_
  split
  · exact KeepsMemories.of_ite h.updPort h
  · exact h

theorem MemoriesWf.laserEvent (h : MemoriesWf s) {e what : Nat} : MemoriesWf (s.laserEvent e what) := h.plainEvent

theorem MemoriesWf.settleLaser (h : MemoriesWf s) {e : Nat} : MemoriesWf (s.settleLaser e) :=
  h.of_ite (foldl_keeps (P := MemoriesWf) (fun _ _ ht => ht.release) _ _ h.laserEvent)

theorem MemoriesWf.execPortTrained (h : MemoriesWf s) {port goodLanes : Nat} {peer : Option (Nat × Nat)} :
    KeepsMemories (execPortTrained port goodLanes peer s) := by
  unfold Machine.execPortTrained
  refine KeepsMemories.of_ite trivial ?_
  dsimp only [State.takeFresh]
  split
  · refine KeepsMemories.of_ite h ?_
    change MemoriesWf _
    split
    · exact ((MemoriesWf.of_ite_snd h h.takeFresh).setPort.of_ite ((MemoriesWf.of_ite_snd h h.takeFresh).setPort.of_ite
        (MemoriesWf.of_ite_snd h h.takeFresh).setPort)).settleLaser
    · exact ((MemoriesWf.of_ite_snd h h.takeFresh).setPort.of_ite (MemoriesWf.of_ite_snd h h.takeFresh).setPort).settleLaser
  · exact h

theorem MemoriesWf.execLaserPrepare (h : MemoriesWf s) {src : Src} : KeepsMemories (execLaserPrepare src s) := by
  unfold Machine.execLaserPrepare
  refine h.command fun _ _ ht => ?_
  refine MemoriesWf.of_ite ht.refuse ?_
  split
  · exact ht.answer
  · exact ht.hold.movePorts

theorem MemoriesWf.execLaserRelease (h : MemoriesWf s) {input : Nat} : KeepsMemories (execLaserRelease input s) := by
  unfold Machine.execLaserRelease
  refine KeepsMemories.of_ite trivial ?_
  refine KeepsMemories.of_ite h ?_
  exact foldl_keeps (P := MemoriesWf) (fun _ _ ht => ht.release) _ _ (foldl_keeps (P := MemoriesWf) (fun _ _ ht => ht.setPort) _ _ h).laserEvent

theorem MemoriesWf.execLaserDone (h : MemoriesWf s) {src : Src} : KeepsMemories (execLaserDone src s) :=
  h.command fun _ _ ht => ht.refuse.of_ite (ht.hold.settleLaser.of_ite ht.hold.movePorts.settleLaser)

theorem MemoriesWf.execLaserLoss (h : MemoriesWf s) {input : Nat} : KeepsMemories (execLaserLoss input s) := by
  unfold Machine.execLaserLoss
  exact KeepsMemories.of_ite trivial (KeepsMemories.of_ite h (KeepsMemories.of_ite h.same h.same.movePorts.laserEvent.settleLaser))

theorem MemoriesWf.execLaserInputRestored (h : MemoriesWf s) {input : Nat} : KeepsMemories (execLaserInputRestored input s) := by
  unfold Machine.execLaserInputRestored
  exact KeepsMemories.of_ite trivial h.same

/-! ## Packets at their destination -/

theorem MemoriesWf.proceed (h : MemoriesWf s) {c idx : Nat} : MemoriesWf (s.proceed c idx) := by
  unfold State.proceed
  split
  · exact h.goOn.of_ite h
  · exact h

theorem MemoriesWf.readBack (h : MemoriesWf s) {r : Nat} : MemoriesWf (s.readBack r) := h.same

theorem MemoriesWf.effectOf (h : MemoriesWf s) {src : Nat} {b : FBody} : MemoriesWf (s.effectOf src b) := by
  unfold State.effectOf
  split
  · exact h.touch.post
  · exact h.putHere
  · exact h.touch.putHere
  · exact (h.touch.writeVA.of_ite h.touch).post
  · exact h.addTally
  · split
    · exact h.updFlight.proceed
    · exact h.readBack.moveData
  · split
    · exact h.updFlight.proceed
    · exact h.readBack
  · split
    · exact h.faultIn
    · split
      · exact h.skipBlock
      · exact h.readBack
  · split
    · exact h.faultIn
    · exact h
  · exact h
  · exact h
  · exact h

theorem MemoriesWf.acknowledge (h : MemoriesWf s) {sock seq : Nat} : MemoriesWf (s.acknowledge sock seq) := h.updStream

theorem MemoriesWf.performNext (h : MemoriesWf s) {src seq : Nat} {b : FBody} {size : Nat} : MemoriesWf (s.performNext src seq b size) := by
  unfold State.performNext
  dsimp only
  split
  · exact h.updStream.count.post.postRaw
  · split
    · exact h.updStream.count.effectOf.acknowledge.postRaw
    · exact h.updStream.count.effectOf.postRaw

theorem MemoriesWf.arrive (h : MemoriesWf s) {p : FPacket} : MemoriesWf (s.arrive p) :=
  h.of_ite ((h.of_ite h.postRaw).of_ite (h.postRaw.of_ite (h.same.of_ite h.performNext)))

theorem MemoriesWf.relay (h : MemoriesWf s) {p : FPacket} : MemoriesWf (s.relay p) := by
  unfold State.relay
  split
  · exact h.emit.count
  · split
    · exact h
    · exact h.postRaw

theorem MemoriesWf.unreachable (h : MemoriesWf s) {sock : Nat} : MemoriesWf (s.unreachable sock) := h.of_ite h.updStream.cutSocket

theorem MemoriesWf.execFabricPacketReceive (h : MemoriesWf s) {port : Nat} {pkt : FPacket} : KeepsMemories (execFabricPacketReceive port pkt s) := by
  unfold Machine.execFabricPacketReceive
  refine KeepsMemories.of_ite trivial ?_
  refine KeepsMemories.of_ite h ?_
  refine KeepsMemories.of_ite h.relay ?_
  split
  · exact h
  · exact h
  · exact h.of_ite h.unreachable
  · exact h.arrive

theorem MemoriesWf.execFabricAckReceive (h : MemoriesWf s) {port : Nat} {pkt : FPacket} : KeepsMemories (execFabricAckReceive port pkt s) := by
  unfold Machine.execFabricAckReceive
  refine KeepsMemories.of_ite trivial ?_
  refine KeepsMemories.of_ite h ?_
  refine KeepsMemories.of_ite h.relay ?_
  refine KeepsMemories.of_ite h ?_
  split
  · exact h.acknowledge
  · exact (h.of_ite h.acknowledge).resend
  · exact h

theorem MemoriesWf.execUnreachableNotice (h : MemoriesWf s) {socket : Nat} : KeepsMemories (execUnreachableNotice socket s) := by
  unfold Machine.execUnreachableNotice
  exact KeepsMemories.of_ite h h.unreachable

theorem MemoriesWf.performRemote (h : MemoriesWf s) {vs : List Nat} : MemoriesWf (s.performRemote vs) :=
  foldl_keeps (P := MemoriesWf) (fun _ _ ht => ht.performNext) _ _ h.same

theorem MemoriesWf.execMigrationCopyDone (h : MemoriesWf s) {copy : PageCopy} : KeepsMemories (execMigrationCopyDone copy s) := by
  unfold Machine.execMigrationCopyDone
  dsimp only
  split
  · exact KeepsMemories.of_ite h.endMove.performRemote h
  · exact h

end
end Sys2Proof.Machine
end

section
/-! Live service, the boot, resets and the ledger keep the canonical form of the memories. -/
namespace Sys2Proof.Machine

-- One proof after another: these short proofs, elaborated all at once, would take a thread each and exhaust the memory of the compile.
set_option Elab.async false

theorem Mem.wf_cells (a : Nat) (bs : List Byte) : (Mem.cells a bs).wf = true := by
  obtain ⟨hsorted, hcells⟩ := Mem.cells_spec bs a
  exact (Mem.wf_iff _).2 ⟨hsorted, fun c hc => (hcells c hc).2.2⟩

@[simp] theorem Core.putTag_carrel (k : Core) (sh w : Nat) : (k.putTag sh w).carrel = k.carrel := rfl

theorem Core.wf_debugWrite {k : Core} (h : k.carrel.wf = true) (target a : Nat) (bs : List Byte) : (k.debugWrite target a bs).carrel.wf = true := by
  unfold Core.debugWrite
  split
  · exact Mem.wf_writeBytes h a bs
  · refine foldl_keeps (P := fun q : Core => q.carrel.wf = true) (fun q i hq => ?_) _ _ h
    split
    · exact hq
    · rwa [Core.putTag_carrel]
  · exact h
  · exact h

section
variable {s : State}

/-! ## Rows, cores and regions -/

theorem MemoriesWf.execRepairRow (h : MemoriesWf s) {src : Src} : KeepsMemories (execRepairRow src s) :=
  h.command (fun _ _ ht => ht.refuse.of_ite (ht.refuse.of_ite (ht.refuse.of_ite (ht.refuse.of_ite ht.updCore_same.done))))

theorem MemoriesWf.quarantineNow (h : MemoriesWf s) {c : Nat} {cause : QuarCause} : MemoriesWf (s.quarantineNow c cause) := h.undoWrites.quarantine

theorem MemoriesWf.execQuarantineCore (h : MemoriesWf s) {src : Src} : KeepsMemories (execQuarantineCore src s) :=
  h.command (fun _ _ ht => ht.refuse.of_ite (ht.refuse.of_ite (ht.refuse.of_ite ht.quarantineNow.done)))

theorem MemoriesWf.execCoreErrorQuarantine (h : MemoriesWf s) {core : Nat} {cause : QuarCause} :
    KeepsMemories (execCoreErrorQuarantine core cause s) := by
  unfold Machine.execCoreErrorQuarantine
  exact KeepsMemories.of_ite trivial (KeepsMemories.of_ite h h.quarantineNow)

theorem MemoriesWf.uproot (h : MemoriesWf s) {r n : Nat} : MemoriesWf (s.uproot r n) := by
  unfold State.uproot
  split
  · exact h
  · split
    · exact h
    · exact h.of_ite h.updCounter.updDispatch.rehome

theorem MemoriesWf.isolate (h : MemoriesWf s) {r : Nat} {cause : IsoCause} : MemoriesWf (s.isolate r cause) := by
  unfold State.isolate
  refine MemoriesWf.plainEvent (foldl_keeps (P := MemoriesWf) (fun _ _ ht => ht.uproot) _ _ ?_)
  refine foldl_keeps (P := MemoriesWf) (fun _ _ ht => ht.stopCore) _ _ ?_
  refine foldl_keeps (P := MemoriesWf) (fun _ _ ht => ht.beginCancel) _ _ ?_
  exact h.undoWrites.updRegion fun _ _ x hx => nomatch hx

theorem MemoriesWf.execIsolateRegion (h : MemoriesWf s) {src : Src} : KeepsMemories (execIsolateRegion src s) :=
  h.command (fun _ _ ht => ht.refuse.of_ite (ht.refuse.of_ite (ht.refuse.of_ite ht.isolate.done)))

theorem MemoriesWf.execRegionErrorIsolate (h : MemoriesWf s) {region : Nat} {cause : IsoCause} :
    KeepsMemories (execRegionErrorIsolate region cause s) := by
  unfold Machine.execRegionErrorIsolate
  exact KeepsMemories.of_ite trivial (KeepsMemories.of_ite h h.isolate)

theorem MemoriesWf.execRestoreRegion (h : MemoriesWf s) {src : Src} {passes : Bool} : KeepsMemories (execRestoreRegion src passes s) := by
  unfold Machine.execRestoreRegion
  refine h.command fun _ _ ht => ?_
  refine MemoriesWf.of_ite ht.refuse ?_
  split
  · exact ht.refuse
  · exact ht.refuse.of_ite ht.updRegion_same.plainEvent.rehomeAll.done

theorem MemoriesWf.execDbgRead (h : MemoriesWf s) {src : Src} : KeepsMemories (execDbgRead src s) := by
  unfold Machine.execDbgRead
  refine h.command fun _ _ ht => ?_
  dsimp only
  split
  · exact ht.refuse
  · split
    · exact ht.refuse
    · exact ht.sysWrite.done

theorem MemoriesWf.execDbgWrite (h : MemoriesWf s) {src : Src} : KeepsMemories (execDbgWrite src s) := by
  refine h.command fun t p ht => ?_
  split
  · exact ht.refuse
  · exact ht.withBlock fun _ bs hu => (hu.updCore fun k hk => Core.wf_debugWrite hk _ _ bs).done

theorem MemoriesWf.execMctpControlMessage (h : MemoriesWf s) {msg : List Byte} : KeepsMemories (execMctpControlMessage msg s) := by
  unfold Machine.execMctpControlMessage
  exact KeepsMemories.of_ite h h.takeFresh.same

theorem MemoriesWf.fatal (h : MemoriesWf s) {cause : Nat} : MemoriesWf (s.fatal cause) := (h.writeEvent.of_ite h.event).same

theorem MemoriesWf.execBridgeFlitCrcFail (h : MemoriesWf s) {link : Nat} {again : Bool} : KeepsMemories (execBridgeFlitCrcFail link again s) := by
  unfold Machine.execBridgeFlitCrcFail
  exact KeepsMemories.of_ite trivial (KeepsMemories.of_ite h (h.same.fatal.of_ite h.same))

theorem MemoriesWf.execFabricArbiterError (h : MemoriesWf s) : KeepsMemories (execFabricArbiterError s) := h.fatal.of_ite h

theorem MemoriesWf.execMgmtProcessorFail (h : MemoriesWf s) {proc : Nat} : KeepsMemories (execMgmtProcessorFail proc s) := by
  unfold Machine.execMgmtProcessorFail
  exact KeepsMemories.of_ite trivial (KeepsMemories.of_ite h (KeepsMemories.of_ite h.same h.fatal))

theorem MemoriesWf.execMgmtRestartComplete (h : MemoriesWf s) {proc : Nat} : KeepsMemories (execMgmtRestartComplete proc s) := by
  unfold Machine.execMgmtRestartComplete
  exact KeepsMemories.of_ite trivial (KeepsMemories.of_ite h h.same.plainEvent)

theorem MemoriesWf.execJunctionHot (h : MemoriesWf s) : KeepsMemories (execJunctionHot s) := h.same.of_ite h

theorem MemoriesWf.execJunctionCool (h : MemoriesWf s) : KeepsMemories (execJunctionCool s) := h.same.of_ite h

theorem MemoriesWf.execPowerLimitReached (h : MemoriesWf s) : KeepsMemories (execPowerLimitReached s) := h.same.of_ite h

theorem MemoriesWf.execPowerBelowLimit (h : MemoriesWf s) : KeepsMemories (execPowerBelowLimit s) := h.same.of_ite h

theorem MemoriesWf.execThermtrip (h : MemoriesWf s) : KeepsMemories (execThermtrip s) := by
  unfold Machine.execThermtrip
  split
  · exact h
  · exact h
  · exact h.same

theorem MemoriesWf.gateCore (h : MemoriesWf s) {c : Nat} : MemoriesWf (s.gateCore c) := by
  unfold State.gateCore
  refine h.takeFresh.takeFresh.takeFresh.takeFresh.updCore fun _ _ => ?_
  dsimp only
  exact Mem.wf_cells _ _

theorem MemoriesWf.execCorePark (h : MemoriesWf s) {core : Nat} {gate : Bool} : KeepsMemories (execCorePark core gate s) := by
  unfold Machine.execCorePark
  exact KeepsMemories.of_ite trivial (KeepsMemories.of_ite h (KeepsMemories.of_ite (h.of_ite h.gateCore) h.updCore_same))

theorem MemoriesWf.execCoreWake (h : MemoriesWf s) {core : Nat} : KeepsMemories (execCoreWake core s) := by
  unfold Machine.execCoreWake
  exact KeepsMemories.of_ite trivial (KeepsMemories.of_ite h h.updCore_same)

/-! ## The archive and handover -/

theorem MemoriesWf.withMode (h : MemoriesWf s) {mode : Mode} : MemoriesWf { s with mode := mode } := h.same

theorem MemoriesWf.withFirmware (h : MemoriesWf s) {fw : Firmware} : MemoriesWf { s with fw := fw } := h.same

theorem MemoriesWf.execStoreSettings (h : MemoriesWf s) {src : Src} : KeepsMemories (execStoreSettings src s) := by
  unfold Machine.execStoreSettings
  refine h.command fun _ _ ht => ?_
  split
  · exact ht.refuse.of_ite (ht.done.of_ite ht.same)
  · exact ht

theorem MemoriesWf.execImageWrite (h : MemoriesWf s) {src : Src} : KeepsMemories (execImageWrite src s) := by
  unfold Machine.execImageWrite
  refine h.command fun _ _ ht => ?_
  dsimp only
  split
  · iterate 2 refine MemoriesWf.of_ite ht.refuse ?_
    refine ht.withBlock fun _ _ hu => ?_
    iterate 2 refine MemoriesWf.of_ite hu.refuse ?_
    split
    · exact hu.refuse
    · exact hu.sysTouch.same
  · exact ht

theorem MemoriesWf.archiveReply (h : MemoriesWf s) {ring : Nat} {p : Packet} {st : St} : MemoriesWf (s.archiveReply ring p st) := by
  unfold State.archiveReply
  split
  · exact h.release.of_ite h
  · exact h

theorem MemoriesWf.execArchiveWriteComplete (h : MemoriesWf s) : KeepsMemories (execArchiveWriteComplete s) := by
  unfold Machine.execArchiveWriteComplete
  refine KeepsMemories.of_ite h ?_
  split
  · exact h
  · dsimp only
    split
    · exact KeepsMemories.of_ite h.same.archiveReply h.same.archiveReply
    · exact h.same.archiveReply

theorem MemoriesWf.execImageActivate (h : MemoriesWf s) {src : Src} : KeepsMemories (execImageActivate src s) := by
  refine h.command fun _ _ ht => ?_
  iterate 2 refine MemoriesWf.of_ite ht.refuse ?_
  split
  · exact ht.refuse
  · exact ht.same.done.withMode.of_ite (ht.same.done.of_ite ht.same.hold.withFirmware)

theorem MemoriesWf.firmwareEvent (h : MemoriesWf s) {proc image : Nat} {back : Bool} : MemoriesWf (s.firmwareEvent proc image back) := h.plainEvent

theorem MemoriesWf.activateReply (h : MemoriesWf s) {r : Rep} : MemoriesWf (s.activateReply r) :=
  foldl_keeps (P := MemoriesWf) (fun _ _ ht => ht.release) _ _ h

theorem MemoriesWf.execProcessorHandoverComplete (h : MemoriesWf s) {proc : Nat} {ok : Bool} :
    KeepsMemories (execProcessorHandoverComplete proc ok s) := by
  unfold Machine.execProcessorHandoverComplete
  refine KeepsMemories.of_ite trivial ?_
  split
  · exact h
  · refine KeepsMemories.of_ite h ?_
    refine KeepsMemories.of_ite (h.same.firmwareEvent.activateReply.of_ite h.same.firmwareEvent) ?_
    exact (foldl_keeps (P := MemoriesWf) (fun _ _ ht => ht.firmwareEvent) _ _ h.same).activateReply

theorem MemoriesWf.execSvnFloorRaise (h : MemoriesWf s) : KeepsMemories (execSvnFloorRaise s) := by
  unfold Machine.execSvnFloorRaise
  split
  · exact h
  · exact KeepsMemories.of_ite h h.same

/-! ## Resets and the boot -/

theorem MemoriesWf.abandonWork (h : MemoriesWf s) : MemoriesWf s.abandonWork := h.undoWrites

theorem MemoriesWf.loadSettings (h : MemoriesWf s) {ignore : Bool} : MemoriesWf (s.loadSettings ignore) := by
  unfold State.loadSettings
  split <;> exact h.same

/-- A reset leaves the memories behind, and its regions and cores hold none. -/
theorem MemoriesWf.cleared_ (h : MemoriesWf s) : MemoriesWf s.cleared_ := by
  obtain ⟨hdram, hhost, -, -⟩ := h.abandonWork
  unfold State.cleared_
  refine MemoriesWf.loadSettings ?_
  refine ⟨hdram, hhost, fun k hk => ?_, fun g hg x hx => ?_⟩
  · obtain ⟨c, -, rfl⟩ := List.mem_map.1 hk
    rfl
  · obtain rfl := List.eq_of_mem_replicate hg
    cases hx

theorem MemoriesWf.trainAll (h : MemoriesWf s) {dimms : List (Option Dimm)} : MemoriesWf (s.trainAll dimms) := h.same

theorem MemoriesWf.retrainKept (h : MemoriesWf s) : MemoriesWf s.retrainKept := h.same

theorem MemoriesWf.bootRow (h : MemoriesWf s) {c row : Nat} : MemoriesWf (s.bootRow c row) :=
  h.takeFresh.mismatchEvent.updCore_same.repairEvent.of_ite h.takeFresh.mismatchEvent.updCore_same.repairEvent.fence

theorem MemoriesWf.checkArrays (h : MemoriesWf s) {fails : List (Nat × Nat)} : MemoriesWf (s.checkArrays fails) :=
  foldl_keeps (P := MemoriesWf) (fun _ _ ht => ht.bootRow.of_ite ht) _ _ (foldl_keeps (P := MemoriesWf) (fun _ _ ht => ht.updRegion_same) _ _ h)

theorem MemoriesWf.boot (h : MemoriesWf s) {kind : Nat} {b : BootIn} : MemoriesWf (s.boot kind b) := by
  have hcleared : ∀ {straps : BitVec 19}, MemoriesWf ({ s with straps := straps } : State).cleared_ := h.same.cleared_
  unfold State.boot
  have hs1 := @hcleared (if kind < 2 then b.straps else s.straps)
  dsimp only
  revert hs1
  generalize ({ s with straps := if kind < 2 then b.straps else s.straps } : State).cleared_ = s1
  intro hs1
  by_cases hcold : kind < 2
  · simp only [if_pos hcold]
    split
    · exact hs1.same
    · exact hs1.same.trainAll.checkArrays
  · simp only [if_neg hcold]
    split
    · exact hs1.same
    · exact (hs1.same.trainAll.of_ite hs1.same).retrainKept.checkArrays

theorem MemoriesWf.execHifReady (h : MemoriesWf s) : KeepsMemories (execHifReady s) := by
  have henabled : ∀ {t : State}, MemoriesWf t → MemoriesWf (if (if t.hif.aqEn then t.applyAq else t).hif.evqEn
      then (if t.hif.aqEn then t.applyAq else t).applyEvq else if t.hif.aqEn then t.applyAq else t) :=
    fun ht => (ht.applyAq.of_ite ht).applyEvq.of_ite (ht.applyAq.of_ite ht)
  unfold Machine.execHifReady
  split
  case h_3 => exact h
  all_goals
    refine henabled (MemoriesWf.of_ite (foldl_keeps (P := MemoriesWf) (fun _ _ ht => ?_) _ _ h.same) h.same)
    split
    · exact ht.setPort.of_ite ht
    · exact ht

theorem MemoriesWf.execPwrgoodRise (h : MemoriesWf s) {boot : BootIn} : KeepsMemories (execPwrgoodRise boot s) := by
  unfold Machine.execPwrgoodRise
  exact KeepsMemories.of_ite h h.same.boot

theorem MemoriesWf.execPwrgoodFall (h : MemoriesWf s) : KeepsMemories (execPwrgoodFall s) := by
  unfold Machine.execPwrgoodFall
  exact KeepsMemories.of_ite h h.cleared_.same

theorem MemoriesWf.execColdReset (h : MemoriesWf s) {boot : BootIn} : KeepsMemories (execColdReset boot s) := by
  unfold Machine.execColdReset
  refine KeepsMemories.of_ite h ?_
  split
  · exact h
  · exact h
  · exact h.same.boot

theorem MemoriesWf.execWarmReset (h : MemoriesWf s) {perst : Bool} {boot : BootIn} : KeepsMemories (execWarmReset perst boot s) := by
  unfold Machine.execWarmReset
  refine KeepsMemories.of_ite h ?_
  split
  · exact h
  · exact h
  · exact h
  · exact h.boot

theorem MemoriesWf.flrState (h : MemoriesWf s) : MemoriesWf s.flrState := by
  unfold State.flrState
  refine MemoriesWf.of_ite ?_ h.cleared_.same
  refine foldl_keeps (P := MemoriesWf) (fun _ _ ht => ?_) _ _ h.cleared_.same
  split
  · exact ht.updPort.of_ite ht
  · exact ht

theorem MemoriesWf.execFlr (h : MemoriesWf s) : KeepsMemories (execFlr s) := h.flrState.of_ite h

theorem MemoriesWf.execPcieHotReset (h : MemoriesWf s) : KeepsMemories (execPcieHotReset s) := by
  unfold Machine.execPcieHotReset
  exact KeepsMemories.of_ite h h.flrState.same

theorem MemoriesWf.execPcieLinkLoss (h : MemoriesWf s) : KeepsMemories (execPcieLinkLoss s) := by
  unfold Machine.execPcieLinkLoss
  exact KeepsMemories.of_ite h h.flrState.same

theorem MemoriesWf.execPcieLinkTrained (h : MemoriesWf s) {width : Nat} : KeepsMemories (execPcieLinkTrained width s) := by
  unfold Machine.execPcieLinkTrained
  exact KeepsMemories.of_ite h h.same

theorem MemoriesWf.execReferenceLoss (h : MemoriesWf s) : KeepsMemories (execReferenceLoss s) := by
  unfold Machine.execReferenceLoss
  refine KeepsMemories.of_ite h ?_
  dsimp only
  split
  · exact h.same.of_ite h
  · exact h.same.of_ite h
  · exact (h.same.of_ite h).withMode

theorem MemoriesWf.execReferenceReturn (h : MemoriesWf s) {boot : BootIn} : KeepsMemories (execReferenceReturn boot s) := h.boot.of_ite h

theorem MemoriesWf.execRailFault (h : MemoriesWf s) {rail : Nat} : KeepsMemories (execRailFault rail s) := by
  unfold Machine.execRailFault
  exact KeepsMemories.of_ite trivial (KeepsMemories.of_ite h h.cleared_.same)

theorem MemoriesWf.execBoundaryScan (h : MemoriesWf s) {op : Jtag} : KeepsMemories (execBoundaryScan op s) := by
  unfold Machine.execBoundaryScan
  split
  · exact h
  · exact KeepsMemories.of_ite trivial (h.of_ite h.cleared_).same
  · exact h.same

theorem MemoriesWf.execAttest (h : MemoriesWf s) {src : Src} : KeepsMemories (execAttest src s) := by
  unfold Machine.execAttest
  refine h.command fun _ _ ht => ?_
  split
  · refine ht.withBlock fun _ _ hu => ?_
    dsimp only
    split
    · exact hu.refuse
    · exact hu.sysWrite.done
  · exact ht.same.done

/-! ## The ledger -/

theorem MemoriesWf.updLedger (h : MemoriesWf s) {f : Ledger → Ledger} : MemoriesWf (s.updLedger f) := h.same

theorem MemoriesWf.askLedger (h : MemoriesWf s) {src : Src} {p : Packet} : MemoriesWf (s.askLedger src p) := h.refuse.of_ite h.hold.updLedger

theorem MemoriesWf.execLedgerRead (h : MemoriesWf s) {src : Src} : KeepsMemories (execLedgerRead src s) := by
  unfold Machine.execLedgerRead
  refine h.command fun _ _ ht => ?_
  split
  · exact ht.refuse
  · exact ht.askLedger

theorem MemoriesWf.execLedgerCert (h : MemoriesWf s) {src : Src} : KeepsMemories (execLedgerCert src s) := by
  unfold Machine.execLedgerCert
  refine h.command fun _ _ ht => ?_
  split
  · exact ht.refuse
  · exact ht.askLedger

theorem MemoriesWf.execLedgerRefcheck (h : MemoriesWf s) {src : Src} : KeepsMemories (execLedgerRefcheck src s) := by
  unfold Machine.execLedgerRefcheck
  refine h.command fun _ _ ht => ?_
  split
  · exact ht.refuse
  · exact ht.refuse.of_ite ht.askLedger

theorem MemoriesWf.serveLedger (h : MemoriesWf s) {q : LedgerReq} {bytes : List Byte} {r0 : Nat} : MemoriesWf (s.serveLedger q bytes r0) := by
  unfold State.serveLedger
  refine MemoriesWf.of_ite h.same.done ?_
  split
  · exact h.updLedger.sysWrite.release.of_ite h.updLedger
  · exact h.updLedger

theorem MemoriesWf.makeRecord (h : MemoriesWf s) {q : LedgerReq} {kind : Nat} {pass : Bool} {energy : List Nat} :
    MemoriesWf (s.makeRecord q kind pass energy) := h.updLedger.serveLedger

theorem MemoriesWf.execLedgerRecordRelease (h : MemoriesWf s) {sideband : Bool} {energy : List Nat} :
    KeepsMemories (execLedgerRecordRelease sideband energy s) := by
  unfold Machine.execLedgerRecordRelease
  split
  · exact h
  · exact KeepsMemories.of_ite h (KeepsMemories.of_ite h.updLedger.makeRecord (KeepsMemories.of_ite h.updLedger.serveLedger h))

theorem MemoriesWf.execRefcheckComplete (h : MemoriesWf s) {expected measured : List Nat} :
    KeepsMemories (execRefcheckComplete expected measured s) := by
  unfold Machine.execRefcheckComplete
  split
  · exact h
  · exact KeepsMemories.of_ite h h.makeRecord

theorem MemoriesWf.execStaulCheckpoint (h : MemoriesWf s) {energy : List Nat} : KeepsMemories (execStaulCheckpoint energy s) := by
  unfold Machine.execStaulCheckpoint
  exact KeepsMemories.of_ite h h.updLedger

theorem MemoriesWf.execVldgFall (h : MemoriesWf s) {held : Bool} : KeepsMemories (execVldgFall held s) := by
  unfold Machine.execVldgFall
  exact KeepsMemories.of_ite h h.updLedger

theorem MemoriesWf.execStaulPowerUp (h : MemoriesWf s) : KeepsMemories (execStaulPowerUp s) := by
  unfold Machine.execStaulPowerUp
  exact KeepsMemories.of_ite h h.updLedger

end
end Sys2Proof.Machine
end

section
/-! Every step keeps the canonical form of the memories (O58). -/
namespace Sys2Proof.Machine

-- One proof after another: these short proofs, elaborated all at once, would take a thread each and exhaust the memory of the compile.
set_option Elab.async false

/-- Every command keeps the canonical form of the memories. -/
theorem MemoriesWf.exec {s : State} (h : MemoriesWf s) : ∀ i, KeepsMemories (exec i s)
  | .setx _ => h.execSetx
  | .addx _ => h.execAddx
  | .loop _ => h.execLoop
  | .br _ => h.execBr
  | .load _ _ => h.execLoad
  | .store _ _ => h.execStore
  | .gather _ _ => h.execGather
  | .scatter _ _ => h.execScatter
  | .loadcard _ _ => h.execLoadcard
  | .mma _ _ => h.execMma
  | .spma _ _ => h.execSpma
  | .spge _ _ => h.execSpge
  | .ewiseDiag _ => h.execEwiseDiag
  | .ewiseChain _ => h.execEwiseChain
  | .reduce _ => h.execReduce
  | .reduceSplitk _ => h.execReduceSplitk
  | .drain _ => h.execDrain
  | .drainPartial _ => h.execDrainPartial
  | .take _ => h.execTake
  | .commit _ => h.execCommit
  | .yield _ => h.execYield
  | .send _ => h.execSend
  | .tally _ => h.execTally
  | .wait _ => h.execWait
  | .fence _ => h.execFence
  | .halt _ => h.execHalt
  | .dbg _ => h.execDbg
  | .phaseEnter _ _ _ => h.execPhaseEnter
  | .instructionComplete _ _ => h.execInstructionComplete
  | .waitRelease _ => h.execWaitRelease
  | .takeServed _ => h.execTakeServed
  | .commitOffer _ => h.execCommitOffer
  | .tallyIncrement _ => h.execTallyIncrement
  | .transferResume _ _ => h.execTransferResume
  | .tileRerun _ _ => h.execTileRerun
  | .repairSwitch _ _ => h.execRepairSwitch
  | .preemptMidTile _ _ => h.execPreemptMidTile
  | .contextResume _ => h.execContextResume
  | .coreProgramStart _ => h.execCoreProgramStart
  | .binderyJobStart _ => h.execBinderyJobStart
  | .binderyPassComplete _ => h.execBinderyPassComplete
  | .runToBuffer _ _ => h.execRunToBuffer
  | .nop _ => h.execNop
  | .identify _ => h.execIdentify
  | .createRing _ => h.execCreateRing
  | .destroyRing _ => h.execDestroyRing
  | .setSetting _ => h.execSetSetting
  | .getSetting _ => h.execGetSetting
  | .storeSettings _ => h.execStoreSettings
  | .routeWrite _ => h.execRouteWrite
  | .sendrouteWrite _ => h.execSendrouteWrite
  | .txnBegin _ => h.execTxnBegin
  | .txnCommit _ => h.execTxnCommit
  | .txnRollback _ => h.execTxnRollback
  | .setEvents _ => h.execSetEvents
  | .alloc _ _ => h.execAlloc
  | .free _ => h.execFree
  | .hostEvict _ => h.execHostEvict
  | .hostResident _ => h.execHostResident
  | .hostUnmap _ => h.execHostUnmap
  | .translate _ => h.execTranslate
  | .copy _ _ => h.execCopy
  | .fill _ => h.execFill
  | .createTensor _ _ => h.execCreateTensor
  | .destroyTensor _ => h.execDestroyTensor
  | .createOwner _ _ => h.execCreateOwner
  | .writeOwner _ => h.execWriteOwner
  | .switchOwner _ => h.execSwitchOwner
  | .ownerSwitchFinish _ => h.execOwnerSwitchFinish
  | .destroyOwner _ => h.execDestroyOwner
  | .loadPoly _ => h.execLoadPoly
  | .createJob _ _ => h.execCreateJob
  | .loadProgram _ _ => h.execLoadProgram
  | .unloadProgram _ => h.execUnloadProgram
  | .dispatch _ => h.execDispatch
  | .contract _ => h.execContract
  | .dispatchAccept _ _ => h.execDispatchAccept
  | .dependencyResolved _ => h.execDependencyResolved
  | .dispatchTallyWaitMet _ => h.execDispatchTallyWaitMet
  | .dispatchComplete _ => h.execDispatchComplete
  | .cancel _ => h.execCancel
  | .cancelWaitingPacket _ => h.execCancelWaitingPacket
  | .cancelComplete _ => h.execCancelComplete
  | .faultActionAbort _ => h.execFaultActionAbort
  | .faultActionDropCore _ => h.execFaultActionDropCore
  | .tallyRead _ => h.execTallyRead
  | .tallyAdd _ => h.execTallyAdd
  | .tallySet _ => h.execTallySet
  | .tallyWait _ => h.execTallyWait
  | .tallyWaitSatisfied _ => h.execTallyWaitSatisfied
  | .readRecord _ => h.execReadRecord
  | .repairRow _ => h.execRepairRow
  | .evacuateChannel _ => h.execEvacuateChannel
  | .returnChannel _ => h.execReturnChannel
  | .dimmPowerSettled _ _ => h.execDimmPowerSettled
  | .quarantineCore _ => h.execQuarantineCore
  | .isolateRegion _ => h.execIsolateRegion
  | .restoreRegion _ _ => h.execRestoreRegion
  | .laserPrepare _ => h.execLaserPrepare
  | .laserRelease _ => h.execLaserRelease
  | .laserDone _ => h.execLaserDone
  | .imageWrite _ => h.execImageWrite
  | .imageActivate _ => h.execImageActivate
  | .attest _ => h.execAttest
  | .ledgerRead _ => h.execLedgerRead
  | .ledgerCert _ => h.execLedgerCert
  | .ledgerRefcheck _ => h.execLedgerRefcheck
  | .refcheckComplete _ _ => h.execRefcheckComplete
  | .dbgRead _ => h.execDbgRead
  | .dbgWrite _ => h.execDbgWrite
  | .mctpControlMessage msg => h.execMctpControlMessage (msg := msg)
  | .aqEnable => h.execAqEnable
  | .aqDisable => h.execAqDisable
  | .evqEnable => h.execEvqEnable
  | .evqDisable => h.execEvqDisable
  | .evqHeadWrite _ => h.execEvqHeadWrite
  | .registerWrite _ _ => h.execRegisterWrite
  | .doorbellSqTail _ _ _ => h.execDoorbellSqTail
  | .doorbellCqHead _ _ => h.execDoorbellCqHead
  | .bar4Read _ _ => h.execBar4Read
  | .bar4Write _ _ => h.execBar4Write
  | .eventWrite => h.execEventWrite
  | .scrubPatrolRead _ => h.execScrubPatrolRead
  | .pageMigrate _ _ _ => h.execPageMigrate
  | .migrationCopyDone _ => h.execMigrationCopyDone
  | .channelRecalibrate _ => h.execChannelRecalibrate
  | .frameClear _ => h.execFrameClear
  | .coreErrorQuarantine _ _ => h.execCoreErrorQuarantine
  | .regionErrorIsolate _ _ => h.execRegionErrorIsolate
  | .bridgeFlitCrcFail _ _ => h.execBridgeFlitCrcFail
  | .fabricArbiterError => h.execFabricArbiterError
  | .mgmtProcessorFail _ => h.execMgmtProcessorFail
  | .flitReceive _ _ _ _ => h.execFlitReceive
  | .laneFail _ _ => h.execLaneFail
  | .portStallEnd _ => h.execPortStallEnd
  | .portTrained _ _ _ => h.execPortTrained
  | .fabricPacketReceive _ _ => h.execFabricPacketReceive
  | .fabricAckReceive _ _ => h.execFabricAckReceive
  | .unreachableNotice _ => h.execUnreachableNotice
  | .laserLoss _ => h.execLaserLoss
  | .pwrgoodRise _ => h.execPwrgoodRise
  | .svnFloorRaise => h.execSvnFloorRaise
  | .pwrgoodFall => h.execPwrgoodFall
  | .coldReset _ => h.execColdReset
  | .warmReset perst _ => h.execWarmReset (perst := perst)
  | .flr => h.execFlr
  | .pcieHotReset => h.execPcieHotReset
  | .pcieLinkLoss => h.execPcieLinkLoss
  | .referenceLoss => h.execReferenceLoss
  | .referenceReturn _ => h.execReferenceReturn
  | .railFault _ => h.execRailFault
  | .vldgFall _ => h.execVldgFall
  | .staulPowerUp => h.execStaulPowerUp
  | .staulCheckpoint _ => h.execStaulCheckpoint
  | .junctionHot => h.execJunctionHot
  | .junctionCool => h.execJunctionCool
  | .thermtrip => h.execThermtrip
  | .powerLimitReached => h.execPowerLimitReached
  | .powerBelowLimit => h.execPowerBelowLimit
  | .corePark _ _ => h.execCorePark
  | .coreWake _ => h.execCoreWake
  | .firstTakeStaggerElapsed _ => h.execFirstTakeStaggerElapsed
  | .tileRangeMove _ _ _ _ _ => h.execTileRangeMove
  | .hifReady => h.execHifReady
  | .mgmtRestartComplete _ => h.execMgmtRestartComplete
  | .processorHandoverComplete _ _ => h.execProcessorHandoverComplete
  | .archiveWriteComplete => h.execArchiveWriteComplete
  | .copyFillComplete _ => h.execCopyFillComplete
  | .ledgerRecordRelease _ _ => h.execLedgerRecordRelease
  | .laserInputRestored _ => h.execLaserInputRestored
  | .pcieLinkTrained _ => h.execPcieLinkTrained
  | .boundaryScan _ => h.execBoundaryScan

/-- A step keeps the canonical form of the memories: it idles, or carries out the command at the front of the queue. -/
theorem MemoriesWf.step {s : State} (h : MemoriesWf s) : KeepsMemories (step s) := by
  unfold Machine.step
  split
  · exact h
  · exact MemoriesWf.exec h.same _

/-- Settles O58: each command that the queue can hold keeps the canonical form, and so a step does. -/
theorem memoriesKept : Obligations.MemoriesKept := by
  intro s t h hstep
  have hkept : KeepsMemories (step s) := h.step
  rwa [hstep] at hkept

end Sys2Proof.Machine
end

section
/-! The desk's order of service (R415), the chunks that it forms (R413), and its window (R419). -/
namespace Sys2Proof.Machine

/-! ## The least of a list -/

theorem minNat?_eq_some_iff {l : List Nat} {t : Nat} : minNat? l = some t ↔ t ∈ l ∧ ∀ r ∈ l, t ≤ r := by
  have h : minNat? l = l.min? := by cases l <;> rfl
  rw [h, List.min?_eq_some_iff]

theorem sumNat_cons (a : Nat) (l : List Nat) : sumNat (a :: l) = a + sumNat l := by
  simp only [sumNat, ← List.sum_eq_foldl, List.sum_cons]

/-! ## The order of service (R415) -/

namespace Counter
variable {k : Counter} {q : Request} {avail : Nat → Bool} {c : Nat}

theorem chunk_setChunk (k : Counter) (c : Nat) (l : List Nat) : (k.setChunk c l).chunk c = l := by
  unfold Counter.setChunk Counter.chunk lookupD
  split
  next h => simp [lookupK_eraseK_self, List.isEmpty_iff.1 h]
  next => simp [lookupK_insertK_self]

theorem firstFree_unmarked (h : q.marked = none) : k.firstFree q = k.unformed.head? := by simp [Counter.firstFree, h]

/-- Step 1 of R415: the returned tile with the lowest number. -/
theorem candidate_returned {t : Nat} (ht : t ∈ k.returned) (ha : avail t = true) (hmin : ∀ r ∈ k.returned, avail r = true → t ≤ r) :
    k.candidate q avail c = some (t, { k with returned := k.returned.filter (· != t) }) := by
  have h : minNat? (k.returned.filter avail) = some t :=
    minNat?_eq_some_iff.2 ⟨List.mem_filter.2 ⟨ht, ha⟩, fun r hr => hmin r (List.mem_filter.1 hr).1 (List.mem_filter.1 hr).2⟩
  simp only [Counter.candidate, h]

/-- Without an available returned tile, the steps behind step 1 of R415 decide. -/
theorem minNat?_returned_none (h : ∀ r ∈ k.returned, avail r = false) : minNat? (k.returned.filter avail) = none := by
  rw [List.filter_eq_nil_iff.2 (fun r hr => by simp [h r hr])]; rfl

/-- Step 2 of R415: the next tile of the core's open chunk. -/
theorem candidate_chunk (h : ∀ r ∈ k.returned, avail r = false) {t : Nat} {r : List Nat} (hc : k.chunk c = t :: r) (ha : avail t = true) :
    k.candidate q avail c = some (t, k.setChunk c r) := by
  simp only [Counter.candidate, minNat?_returned_none h, hc, ha, if_true]

/-- Step 3 of R415: the first tile not yet in a chunk. -/
theorem candidate_unformed (h : ∀ r ∈ k.returned, avail r = false) (hc : k.chunk c = []) {lo hi : Nat} (hf : k.firstFree q = some (lo, hi))
    (ha : avail lo = true) :
    k.candidate q avail c = some (lo, { k.setChunk c ((k.form q).1.drop 1) with unformed := (k.form q).2 }) := by
  simp only [Counter.candidate, minNat?_returned_none h, hc, hf, ha, if_true]

/-- Step 4 of R415: the last tile of another core's chunk. -/
theorem candidate_stolen (h : ∀ r ∈ k.returned, avail r = false) (hc : k.chunk c = []) (hf : k.firstFree q = none) {v t : Nat} {l : List Nat}
    (hv : k.victim q c = some (v, l)) (hl : l.getLast? = some t) (ha : avail t = true) :
    k.candidate q avail c = some (t, k.setChunk v l.dropLast) := by
  simp only [Counter.candidate, minNat?_returned_none h, hc, hf, hv, hl, ha, if_true]

/-- A core steals from another core (R416). -/
theorem victim_ne {v : Nat} {l : List Nat} (h : k.victim q c = some (v, l)) : v ≠ c := by
  refine List.foldlRecOn (motive := fun best => ∀ p : Nat × List Nat, best = some p → p.1 ≠ c) _ _ (by rintro _ ⟨⟩) ?_ (v, l) h
  intro best ih p hp x hx
  have hpc : p.1 ≠ c := by
    have := (List.mem_filter.1 hp).2
    simp only [Bool.and_eq_true, bne_iff_ne] at this
    exact this.1
  cases best with
  | none => exact Option.some.inj hx ▸ hpc
  | some b =>
    simp only at hx
    split at hx
    · exact Option.some.inj hx ▸ hpc
    · exact ih x hx

/-! ## The window (R419) -/

theorem mem_above (x : Nat) : x ∈ k.above ↔ ((∃ e, (x, e) ∈ k.taken) ∨ x ∈ k.suspended ∨ x ∈ k.committed) ∧ k.water < x := by
  simp [Counter.above, or_and_right]

/-- Two counters with the same tiles, taken, suspended and committed, and the same window. -/
structure SameTiles (k k' : Counter) : Prop where
  ranges : k'.ranges = k.ranges
  taken : k'.taken = k.taken
  suspended : k'.suspended = k.suspended
  committed : k'.committed = k.committed
  win : k'.win = k.win

theorem SameTiles.refl (k : Counter) : k.SameTiles k := ⟨rfl, rfl, rfl, rfl, rfl⟩

theorem SameTiles.water {k' : Counter} (h : k.SameTiles k') : k'.water = k.water := by
  simp only [Counter.water, Counter.endTile, h.ranges, h.committed]

theorem sameTiles_setChunk (k : Counter) (c : Nat) (l : List Nat) : k.SameTiles (k.setChunk c l) := ⟨rfl, rfl, rfl, rfl, rfl⟩

/-- What steps 1 to 4 of R415 take a tile from is none of what the window counts. -/
theorem sameTiles_candidate {t : Nat} {k' : Counter} (h : k.candidate q avail c = some (t, k')) : k.SameTiles k' := by
  unfold Counter.candidate at h
  split at h
  next => cases h; exact ⟨rfl, rfl, rfl, rfl, rfl⟩
  next =>
    split at h
    next => split at h <;> cases h; exact sameTiles_setChunk ..
    next =>
      split at h
      next => split at h <;> cases h; exact ⟨rfl, rfl, rfl, rfl, rfl⟩
      next =>
        split at h
        next =>
          split at h
          next => split at h <;> cases h; exact sameTiles_setChunk ..
          next => cases h
        next => cases h

/-- The tile at the watermark is not above it, and its chunk is none of what the window counts. -/
theorem lowest_spec {t : Nat} {k' : Counter} (h : k.lowest avail = some (t, k')) : k.SameTiles k' ∧ t ≤ k.water := by
  unfold Counter.lowest at h
  split at h
  next =>
    split at h
    next hcond =>
      cases h
      rw [Bool.and_eq_true, decide_eq_true_eq] at hcond
      exact ⟨⟨rfl, rfl, rfl, rfl, rfl⟩, hcond.1⟩
    next => cases h
  next => cases h

/-- A suspended tile that is reissued is counted already, where the window counts it at all (R431). -/
theorem room_reissue {t : Nat} (h : k.reissue = some t) : k.room t = true := by
  have ht : t ∈ k.suspended := (List.mem_filter.1 (minNat?_eq_some_iff.1 h).1).1
  by_cases hw : t ≤ k.water
  · simp [Counter.room, hw]
  · have : t ∈ k.above := (mem_above t).2 ⟨.inr (.inl ht), Nat.lt_of_not_le hw⟩
    simp [Counter.room, this]

/-- A tile with room in the window, given to a core, leaves no more above the watermark than the window. -/
theorem above_give {k' : Counter} (hs : k.SameTiles k') {t : Nat} (hroom : k.room t = true) (hk : k.above.length ≤ k.win) (c : Nat) :
    (k'.give t c).above.length ≤ k.win := by
  have hnew : ∀ x ∈ (k'.give t c).above, x ∈ k.above ∨ (x = t ∧ ¬ t ≤ k.water) := by
    intro x hx
    have hwater : (k'.give t c).water = k.water := by rw [Counter.give, Counter.settle_eq]; exact hs.water
    have hsus : (k'.give t c).suspended = k.suspended := by rw [Counter.give, Counter.settle_eq]; exact hs.suspended
    have hcom : (k'.give t c).committed = k.committed := by rw [Counter.give, Counter.settle_eq]; exact hs.committed
    have htak : (k'.give t c).taken = k.taken ++ [(t, c)] := by rw [Counter.give, Counter.settle_eq, ← hs.taken]
    rw [mem_above, hwater, hsus, hcom, htak] at hx
    obtain ⟨⟨e, he⟩ | h, hlt⟩ := hx
    · obtain he | he := List.mem_append.1 he
      · exact .inl ((mem_above x).2 ⟨.inl ⟨e, he⟩, hlt⟩)
      · obtain ⟨rfl, -⟩ := Prod.mk.inj (List.mem_singleton.1 he)
        exact .inr ⟨rfl, Nat.not_le.2 hlt⟩
    · exact .inl ((mem_above x).2 ⟨.inr h, hlt⟩)
  have hnodup : (k'.give t c).above.Nodup := List.nodup_dedup _
  by_cases hold : t ≤ k.water ∨ t ∈ k.above
  · have hsub : (k'.give t c).above ⊆ k.above := fun x hx => (hnew x hx).elim id (fun h => h.1 ▸ hold.resolve_left h.2)
    exact (List.subperm_of_subset hnodup hsub).length_le.trans hk
  · have hlt : k.above.length < k.win := by
      rw [not_or] at hold
      simpa [Counter.room, hold.1, hold.2] using hroom
    have hsub : (k'.give t c).above ⊆ t :: k.above := fun x hx => List.mem_cons.2 ((hnew x hx).symm.imp_left And.left)
    exact (List.subperm_of_subset hnodup hsub).length_le.trans hlt

/-- What the desk serves has room in the window, and changes none of what the window counts. -/
theorem serve_tile {t : Nat} {k' : Counter} (h : k.serve q avail c = .tile t k') : k.SameTiles k' ∧ k.room t = true := by
  have again : ∀ e : Serve, (∀ u x, e ≠ .tile u x) → (match k.reissue with | some u => Serve.tile u k | none => e) = .tile t k' →
      k.SameTiles k' ∧ k.room t = true := by
    intro e he h
    split at h
    next hu => cases h; exact ⟨.refl k, room_reissue hu⟩
    next => exact absurd h (he t k')
  unfold Counter.serve at h
  simp only at h
  split at h
  next => cases h
  next =>
    split at h
    next u x hcand =>
      split at h
      next hroom => cases h; exact ⟨sameTiles_candidate hcand, hroom⟩
      next =>
        split at h
        next hlow =>
          cases h
          obtain ⟨hs, hw⟩ := lowest_spec hlow
          exact ⟨hs, by simp [Counter.room, hw]⟩
        next => exact again .wait (fun _ _ => nofun) h
    next => exact again _ (fun _ _ => by split <;> nofun) h

end Counter

/-! ## Chunks (R413) -/

/-- Tiles `f` in a row from `t` on form a chunk of at most `n` tiles below `hi`, where costs of `sum` stand before them: no tile but the last
ends a line or reaches the target, and the last one does, or ends the range, or is the n-th. -/
structure IsChunk (q : Request) (target hi n t sum : Nat) (f : List Nat) : Prop where
  pos : 1 ≤ f.length
  le : f.length ≤ n
  row : f = (List.range f.length).map (· + t)
  below : t + f.length ≤ hi
  line : ∀ i, i + 1 < f.length → (t + i + 1) % Nat.max 1 q.line ≠ 0
  cost : ∀ i, 1 ≤ i → i < f.length → sum + sumNat ((f.take i).map q.cost) < target
  ends : f.length = n ∨ t + f.length = hi ∨ (t + f.length) % Nat.max 1 q.line = 0 ∨ target ≤ sum + sumNat (f.map q.cost)

namespace IsChunk
variable {q : Request} {target hi n t sum : Nat}

/-- A tile that ends its chunk. -/
theorem single (hn : 1 ≤ n) (ht : t < hi)
    (h : n = 1 ∨ t + 1 = hi ∨ (t + 1) % Nat.max 1 q.line = 0 ∨ target ≤ sum + q.cost t) : IsChunk q target hi n t sum [t] where
  pos := Nat.le_refl 1
  le := hn
  row := by simp
  below := ht
  line i hi := absurd hi (by simp)
  cost i h1 h2 := absurd h2 (by simp; omega)
  ends := by
    refine h.imp Eq.symm (Or.imp_right (Or.imp_right fun h => ?_))
    simpa [sumNat_cons, sumNat] using h

/-- A tile that ends neither a line nor the target, before a chunk. -/
theorem cons {f : List Nat} (h : IsChunk q target hi n (t + 1) (sum + q.cost t) f) (hline : (t + 1) % Nat.max 1 q.line ≠ 0)
    (hcost : sum + q.cost t < target) : IsChunk q target hi (n + 1) t sum (t :: f) where
  pos := by simp
  le := by simpa using h.le
  row := by
    rw [List.length_cons, List.range_succ_eq_map, List.map_cons, List.map_map, Nat.zero_add]
    refine congrArg (t :: ·) (h.row.trans (List.map_congr_left fun i _ => ?_))
    simp only [Function.comp]; omega
  below := by have := h.below; simp only [List.length_cons]; omega
  line := by
    rintro (_ | i) hi
    · simpa using hline
    · have := h.line i (by simpa using hi)
      rwa [show t + (i + 1) + 1 = t + 1 + i + 1 by omega]
  cost := by
    rintro (_ | _ | i) h1 h2
    · cases h1
    · simpa [sumNat_cons, sumNat] using hcost
    · have := h.cost (i + 1) (by omega) (by simpa using h2)
      rwa [List.take_succ_cons, List.map_cons, sumNat_cons, ← Nat.add_assoc]
  ends := by
    have := h.ends
    rw [List.length_cons, List.map_cons, sumNat_cons, ← Nat.add_assoc sum, show t + (f.length + 1) = t + 1 + f.length by omega]
    omega

end IsChunk

/-- Without marked tiles, tiles are put into a chunk up to its end. -/
theorem isChunk_chunkGo {q : Request} (hq : q.marked = none) (target hi : Nat) : ∀ (n t sum : Nat), 0 < n → t < hi →
    IsChunk q target hi n t sum (chunkGo q target hi n t sum) := by
  intro n
  induction n with
  | zero => intro t sum hn; cases hn
  | succ n ih =>
    intro t sum _ ht
    have holds : ∀ u, q.holds u = true := fun u => by simp [Request.holds, hq]
    unfold chunkGo
    simp only [holds, bne_self_eq_false, Bool.or_false, Bool.or_eq_true, decide_eq_true_eq, beq_iff_eq]
    split
    next hstop => exact .single (by omega) ht (by omega)
    next hgo =>
      simp only [not_or] at hgo
      obtain ⟨⟨hcost, hline⟩, hend⟩ := hgo
      cases n with
      | zero => exact .single (by omega) ht (.inl rfl)
      | succ n => exact (ih (t + 1) (sum + q.cost t) (by omega) (by omega)).cons hline (by omega)

/-- Settles O6: the order by the lemmas on `Counter.candidate`, the chunk by `isChunk_chunkGo`, the window by `Counter.serve_tile` and
`Counter.above_give`. -/
theorem deskRules : Obligations.DeskRules := by
  refine ⟨fun k q avail c hq => ⟨?returned, ?chunk, ?unformed, ?stolen⟩, ?form, ?window⟩
  case returned =>
    intro t ht ha hmin
    exact ⟨_, Counter.candidate_returned ht ha hmin, by simp, rfl, rfl⟩
  case chunk =>
    intro h t r hc ha
    exact ⟨_, Counter.candidate_chunk h hc ha, k.chunk_setChunk c r, rfl, rfl⟩
  case unformed =>
    intro h hc lo hi l hu ha
    exact ⟨_, Counter.candidate_unformed h hc (hi := hi) (by rw [Counter.firstFree_unmarked hq, hu]; rfl) ha, rfl⟩
  case stolen =>
    intro h hc hu v l hv t hl ha
    exact ⟨_, Counter.candidate_stolen h hc (by rw [Counter.firstFree_unmarked hq, hu]; rfl) hv hl ha, k.chunk_setChunk v _,
      Counter.victim_ne hv⟩
  case form =>
    intro k q lo hi l hq hu hlt
    have hform : (k.form q).1 = chunkGo q k.target hi 256 lo 0 := by simp [Counter.form, Counter.firstFree_unmarked hq, hu]
    have hchunk := isChunk_chunkGo hq k.target hi 256 lo 0 (by omega) hlt
    rw [← hform] at hchunk
    obtain ⟨hpos, hle, hrow, hbelow, hline, hcost, hends⟩ := hchunk
    simp only [Nat.zero_add] at hcost hends
    exact ⟨hpos, hle, hrow, hbelow, hline, hcost, hends⟩
  case window =>
    intro k k' q avail c t hk hserve
    obtain ⟨hsame, hroom⟩ := Counter.serve_tile hserve
    have hwin : (k'.give t c).win = k.win := by rw [Counter.give, Counter.settle_eq]; exact hsame.win
    exact ⟨by rw [hwin]; exact Counter.above_give hsame hroom hk c, hsame.win⟩

end Sys2Proof.Machine
end

section
/-! A move of unformed tiles between two counters of a dispatch (R417). -/
namespace Sys2Proof.Machine

/-- A range joined with others gains no tile but its own. -/
theorem inRanges_of_addRange {r : Nat × Nat} {l : List (Nat × Nat)} {x : Nat} (hr : r.1 ≤ r.2) (h : InRanges (addRange r l) x) :
    InRanges (r :: l) x := by
  induction l generalizing r with
  | nil => exact h
  | cons y l ih =>
    rw [inRanges_cons, inRanges_cons]
    unfold addRange at h
    split at h
    next => simpa only [inRanges_cons] using h
    next =>
      split at h
      next =>
        obtain h | h := (inRanges_cons ..).1 h
        · exact .inr (.inl h)
        · exact ((inRanges_cons ..).1 (ih hr h)).imp_right .inr
      next h1 h2 =>
        have hjoin : Nat.min r.1 y.1 ≤ Nat.max r.2 y.2 := (Nat.min_le_left ..).trans (hr.trans (Nat.le_max_left ..))
        obtain ⟨hlo, hhi⟩ | h := (inRanges_cons ..).1 (ih hjoin h)
        · have hlo : r.1 ≤ x ∨ y.1 ≤ x := min_le_iff.1 hlo
          have hhi : x < r.2 ∨ x < y.2 := lt_max_iff.1 hhi
          omega
        · exact .inr (.inr h)

theorem inRanges_addRange_iff {r : Nat × Nat} {l : List (Nat × Nat)} {x : Nat} (hr : r.1 ≤ r.2) :
    InRanges (addRange r l) x ↔ InRanges (r :: l) x := ⟨inRanges_of_addRange hr, inRanges_addRange⟩

/-- A counter that adopts a range owns its tiles, and no others beside its own. -/
theorem Counter.owns_adopt_range {k : Counter} {lo hi : Nat} (h : lo ≤ hi) (t : Nat) :
    (k.adopt [(lo, hi)] []).owns t = true ↔ k.owns t = true ∨ (lo ≤ t ∧ t < hi) := by
  rw [Counter.owns_iff, Counter.owns_iff, Counter.adopt_ranges, or_comm]
  exact (inRanges_addRange_iff h).trans (inRanges_cons ..)

/-- The ranges of a counter that gives up the tiles from `cut` on of a last unformed range `lo` to `hi`. -/
def cutEnd (lo hi cut : Nat) (l : List (Nat × Nat)) : List (Nat × Nat) :=
  l.flatMap (fun r => if r.1 ≤ lo && hi ≤ r.2 then (if r.1 < cut then [(r.1, cut)] else []) ++ (if hi < r.2 then [(hi, r.2)] else []) else [r])

theorem inRanges_flatMap (f : Nat × Nat → List (Nat × Nat)) (l : List (Nat × Nat)) (x : Nat) :
    InRanges (l.flatMap f) x ↔ ∃ r ∈ l, InRanges (f r) x := by
  simp only [InRanges, List.mem_flatMap]
  exact ⟨fun ⟨a, ⟨r, hr, ha⟩, h⟩ => ⟨r, hr, a, ha, h⟩, fun ⟨r, hr, a, ha, h⟩ => ⟨a, ⟨r, hr, ha⟩, h⟩⟩

/-- Ranges in rising order, one of which ends at `hi` and holds `lo`, lose the tiles from `cut` to `hi` and no others. -/
theorem inRanges_cutEnd {l : List (Nat × Nat)} {lo hi cut x : Nat} (hcut : lo ≤ cut) (hhi : cut < hi) (hx : x ≤ lo) (hmem : (x, hi) ∈ l)
    (hl : l.Pairwise (fun a b => a.2 ≤ b.1)) (t : Nat) : InRanges (cutEnd lo hi cut l) t ↔ InRanges l t ∧ ¬ (cut ≤ t ∧ t < hi) := by
  have apart : ∀ r ∈ l, (r.1 ≤ lo ∧ hi ≤ r.2) ∨ r.2 ≤ x ∨ hi ≤ r.1 := fun r hr => by
    obtain ⟨l1, l2, rfl⟩ := List.append_of_mem hmem
    obtain ⟨-, h2, h1⟩ := List.pairwise_append.1 hl
    obtain hr | hr := List.mem_append.1 hr
    · exact .inr (.inl (h1 r hr _ (List.mem_cons_self ..)))
    · obtain rfl | hr := List.mem_cons.1 hr
      · exact .inl ⟨hx, Nat.le_refl hi⟩
      · exact .inr (.inr ((List.pairwise_cons.1 h2).1 r hr))
  have piece : ∀ r ∈ l, InRanges (if r.1 ≤ lo && hi ≤ r.2 then
      (if r.1 < cut then [(r.1, cut)] else []) ++ (if hi < r.2 then [(hi, r.2)] else []) else [r]) t ↔
      (r.1 ≤ t ∧ t < r.2) ∧ ¬ (cut ≤ t ∧ t < hi) := fun r hr => by
    have htile : ∀ (p : Prop) [Decidable p] (a : Nat × Nat), InRanges (if p then [a] else []) t ↔ p ∧ a.1 ≤ t ∧ t < a.2 := fun p _ a => by
      by_cases hp : p <;> simp [hp, InRanges]
    obtain h | h := apart r hr
    · rw [if_pos (by simpa using h), inRanges_append, htile, htile]
      simp only; omega
    · rw [if_neg (by simp; omega)]
      have := (inRanges_cons r [] t).trans (or_iff_left (inRanges_nil t))
      rw [this]; omega
  rw [cutEnd, inRanges_flatMap]
  exact ⟨fun ⟨r, hr, h⟩ => ⟨⟨r, hr, ((piece r hr).1 h).1⟩, ((piece r hr).1 h).2⟩, fun ⟨⟨r, hr, h⟩, hn⟩ => ⟨r, hr, (piece r hr).2 ⟨h, hn⟩⟩⟩

/-- A counter without the last `hi - cut` tiles of its last unformed range. -/
def Counter.giveEnd (lo hi cut : Nat) (k : Counter) (ranges : List (Nat × Nat)) : Counter :=
  { k with unformed := k.unformed.dropLast ++ (if lo < cut then [(lo, cut)] else []), ranges := cutEnd lo hi cut ranges }.settle

theorem Counter.giveEnd_ranges (lo hi cut : Nat) (k : Counter) (ranges : List (Nat × Nat)) :
    (k.giveEnd lo hi cut ranges).ranges = cutEnd lo hi cut ranges := Counter.settle_ranges _

/-- TILE_RANGE_MOVE between counters that can give and take the tiles. -/
theorem exec_tileRangeMove {s : State} {r n q m count lo hi x : Nat} {a b : Counter} (hrun : s.running = true) (hne : (r, n) ≠ (q, m))
    (ha : s.counter? r n = some a) (hb : s.counter? q m = some b) (hd : a.dispatch = b.dispatch) (hac : a.state ≠ .cancelling)
    (hbc : b.state ≠ .cancelling) (hu : a.unformed.getLast? = some (lo, hi)) (hpos : 0 < count) (hcount : count ≤ hi - lo) (hx : x ≤ lo)
    (hmem : (x, hi) ∈ a.ranges) (hfit : (b.adopt [(hi - count, hi)] []).fits = true) :
    exec (.tileRangeMove r n q m count) s = .next ((s.updCounter r n (fun k => k.giveEnd lo hi (hi - count) a.ranges)).updCounter q m
      (fun _ => b.adopt [(hi - count, hi)] [])) := by
  have hsame : (a.ranges.any fun p => p.1 ≤ lo && hi == p.2) = true := List.any_eq_true.2 ⟨_, hmem, by simp [hx]⟩
  change execTileRangeMove r n q m count s = _
  simp only [execTileRangeMove, if_neg (Nat.not_le.2 (State.counter?_lt ha)), if_neg (Nat.not_le.2 (State.counter?_lt hb)), ha, hb, hu, hrun,
    hd, hsame, hfit, beq_false_of_ne hac, beq_false_of_ne hbc, beq_false_of_ne hne, beq_false_of_ne (Nat.ne_of_gt hpos),
    decide_eq_false (Nat.not_lt.2 hcount), bne_self_eq_false, Bool.not_true, Bool.or_self, Bool.false_eq_true, if_false]
  rfl

/-- A counter after another one was changed. -/
theorem State.counter?_updCounter_other {s : State} {r n q m : Nat} (h : (r, n) ≠ (q, m)) (f : Counter → Counter) :
    (s.updCounter q m f).counter? r n = s.counter? r n := by
  by_cases hr : r = q
  · subst hr
    have hn : n ≠ m := fun e => h (by rw [e])
    by_cases hlt : r < s.regions.length
    · unfold State.counter? State.updCounter
      rw [State.region_updRegion_self s r _ hlt]
      exact lookupK_updK_ne m n f _ hn
    · refine Option.ext fun k => ⟨fun hk => absurd ?_ hlt, fun hk => absurd (State.counter?_lt hk) hlt⟩
      have := State.counter?_lt hk
      rwa [State.updCounter, State.updRegion, length_updateAt] at this
  · exact State.counter?_updCounter_ne hr m n f

/-- Settles O10: the counter that gives by `inRanges_cutEnd`, the one that takes by `Counter.owns_adopt_range`. -/
theorem tileRangeMoves : Obligations.TileRangeMoves := by
  intro s r n q m count lo hi a b l _ hq hne hrun ha hb hd hac hbc hu hpos hcount ⟨x, hx, hmem⟩ hsorted hwin
  have hfit : (b.adopt [(hi - count, hi)] []).fits = true := by rw [Counter.fits, Counter.adopt_win]; exact decide_eq_true hwin
  refine ⟨_, a.giveEnd lo hi (hi - count) a.ranges, b.adopt [(hi - count, hi)] [],
    exec_tileRangeMove hrun hne ha hb hd hac hbc (by rw [hu, List.getLast?_concat]) hpos hcount hx hmem hfit, ?_, ?_, fun t => ?_,
    fun t => Counter.owns_adopt_range (Nat.sub_le ..) t, rfl⟩
  · rw [State.counter?_updCounter_other hne, State.counter?_updCounter_self (State.counter?_lt ha), ha]; rfl
  · rw [State.counter?_updCounter_self (by rw [State.updCounter, State.updRegion, length_updateAt]; exact hq),
      State.counter?_updCounter_other hne.symm, hb]; rfl
  · rw [Counter.owns_iff, Counter.owns_iff, Counter.giveEnd_ranges]
    exact inRanges_cutEnd (by omega) (by omega) hx hmem hsorted t

end Sys2Proof.Machine
end

section
/-! Cores quarantined (R426, R427, R640, R644, R646): the spare that takes a core's number, the event, and the tile returned. -/
namespace Sys2Proof.Machine

theorem State.undoWrites_nil (s : State) : s.undoWrites [] = s := rfl

/-- A core without issued instructions has no writes to undo. -/
theorem State.openWrites_idle {k : Core} (h : k.inflight = []) (s : State) : s.openWrites k = [] :=
  List.eq_nil_iff_forall_not_mem.2 fun _ hu => by
    obtain ⟨f, hf, -⟩ := State.openWrites_mem hu
    rw [h] at hf; cases hf

/-- A core without a tile returns none. -/
theorem State.returnTile_none {s : State} {c : Nat} (h : (s.core c).held = none) : s.returnTile c = s := by
  simp only [State.returnTile, h]

/-- The number of a core given to its region's spare, with a fresh core and the spare's repair word (R644). -/
def State.replaceCore (s : State) (c : Nat) : State :=
  (s.updRegion (regionOf c) (fun g => { g with spareUsed := true })).updCore c (fun _ =>
    Core.fresh (.ofWord (lookupD 0 (regionOf c) s.fuses.spareRepair)) true true)

/-- A core whose number no core serves (R644). -/
def Core.gone (k : Core) : Core := { k.leave with present := false, tags := [], recs := [] }

section
variable {s : State} {c : Nat} {cause : QuarCause}

theorem State.quarantineNow_idle (h : (s.core c).inflight = []) :
    s.quarantineNow c cause = s.quarantine c cause (s.core c).accession := by
  rw [State.quarantineNow, State.openWrites_idle h, State.undoWrites_nil]

/-- The spare takes the number of a core that runs nothing, and the event says so. -/
theorem State.quarantineNow_spare (hd : (s.core c).dispatch = none) (hh : (s.core c).held = none) (hi : (s.core c).inflight = [])
    (hok : (s.region (regionOf c)).spareOk = true) (hused : (s.region (regionOf c)).spareUsed = false) :
    s.quarantineNow c cause = (s.replaceCore c).event ⟨0x0016, .ok, 0, c, 0, cause.code + 16, none⟩ := by
  have hacc : (s.core c).accession = 0 := by simp only [Core.accession, hh]
  rw [State.quarantineNow_idle hi, hacc]
  simp only [State.quarantine, State.returnTile_none hh, hd, hok, hused, Option.bind_none, Bool.not_false, Bool.and_self, if_true]
  rfl

/-- Without a spare the number of a core has none, and the event says so. -/
theorem State.quarantine_noSpare (h : (s.region (regionOf c)).spareOk = false ∨ (s.region (regionOf c)).spareUsed = true)
    (hregion : ((s.returnTile c).region (regionOf c)).spareOk = (s.region (regionOf c)).spareOk ∧
      ((s.returnTile c).region (regionOf c)).spareUsed = (s.region (regionOf c)).spareUsed) (acc : Nat) :
    s.quarantine c cause acc = ((s.returnTile c).updCore c Core.gone).event
      ⟨0x0016, .ok, 0, c, (s.core c).dispatch.getD 0, cause.code + at_ 64 (low 64 acc), none⟩ := by
  have hspare : ((s.region (regionOf c)).spareOk && !(s.region (regionOf c)).spareUsed) = false := by
    obtain h | h := h <;> simp [h]
  simp only [State.quarantine, hregion.1, hregion.2, hspare, Bool.false_eq_true, if_false]
  rfl

/-- The number of a core that runs nothing has no core, where its region has no spare left. -/
theorem State.quarantineNow_noSpare (hd : (s.core c).dispatch = none) (hh : (s.core c).held = none) (hi : (s.core c).inflight = [])
    (h : (s.region (regionOf c)).spareOk = false ∨ (s.region (regionOf c)).spareUsed = true) :
    s.quarantineNow c cause = (s.updCore c Core.gone).event ⟨0x0016, .ok, 0, c, 0, cause.code, none⟩ := by
  have hacc : (s.core c).accession = 0 := by simp only [Core.accession, hh]
  have hreturn := State.returnTile_none hh
  rw [State.quarantineNow_idle hi, State.quarantine_noSpare h (by rw [hreturn]; exact ⟨rfl, rfl⟩), hreturn, hacc, hd]
  rfl

theorem exec_coreErrorQuarantine (hc : c < s.cores.length) (hrun : s.running = true) (hp : (s.core c).present = true)
    (hcause : cause = .carrel ∨ cause = .sequencer) : exec (.coreErrorQuarantine c cause) s = .next (s.quarantineNow c cause) := by
  change execCoreErrorQuarantine c cause s = _
  have hcause : (cause == .carrel || cause == .sequencer) = true := by obtain rfl | rfl := hcause <;> rfl
  simp only [execCoreErrorQuarantine, if_neg (Nat.not_le.2 hc), hrun, hp, hcause, Bool.not_true, Bool.or_self, Bool.false_eq_true, if_false]

/-- QUARANTINE_CORE refuses a core that the part does not have, one that is gone, and one without a spare (R646). -/
theorem exec_quarantineCore {src : Src} {p : Packet} (h : Accepted s src p 0x0604) : exec (.quarantineCore src) s = .next (
    let t := s.consume src p
    let c := (pktP p 0).toNat
    let g := s.region (regionOf c)
    if s.cores.length ≤ c then t.answer src p { st := .handle }
    else if !(s.core c).present then t.answer src p { st := .busy }
    else if g.spareUsed || !g.spareOk then t.answer src p { st := .exhausted }
    else (t.quarantineNow c .command).answer src p {}) := by
  change execQuarantineCore src s = _
  unfold execQuarantineCore
  rw [State.command_accepted h _ rfl]
  simp only [State.region_consume, State.core_consume, State.consume_cores]
  rfl

/-- What a returned tile leaves: the tile back at its counter, the core without it, and everything else as it was (R426). -/
structure TileReturned (s : State) (c r n : Nat) (q : Counter) (t : State) : Prop where
  counter : t.counter? r n = some q
  self : t.core c = { s.core c with held := none }
  others : ∀ e, e ≠ c → t.core e = s.core e
  length : t.cores.length = s.cores.length
  spareOk : ∀ g, (t.region g).spareOk = (s.region g).spareOk
  spareUsed : ∀ g, (t.region g).spareUsed = (s.region g).spareUsed
  frame : t = { s with cores := t.cores, regions := t.regions }

theorem State.tileReturned {h : Held} {d : Dispatch} {r n : Nat} {q : Counter} (hc : c < s.cores.length) (hh : (s.core c).held = some h)
    (hd : s.dispatch? h.dispatch = some d) (hhome : s.homeOf d h.tile = some (r, n, q)) :
    TileReturned s c r n (q.giveBack h.tile c) (s.returnTile c) := by
  have hq := State.counter?_of_homeOf hhome
  rw [State.returnTile_eq hh hd hhome]
  exact ⟨(State.counter?_updCounter_self (s := s.updCore c _) (State.counter?_lt hq) n _).trans (congrArg (Option.map _) hq),
    State.core_updCore_self _ _ _ hc, fun e he => State.core_updCore_ne _ _ _ _ he, State.updCore_cores_length ..,
    fun g => State.region_updRegion_keeps (s.updCore c _) r g Region.spareOk (fun _ => rfl),
    fun g => State.region_updRegion_keeps (s.updCore c _) r g Region.spareUsed (fun _ => rfl), rfl⟩

/-- The tile of a core that the region's spare cannot replace goes back to its counter (R426). -/
theorem quarantineNow_returns {h : Held} {d : Dispatch} {r n : Nat} {q : Counter} (hc : c < s.cores.length)
    (hh : (s.core c).held = some h) (hi : (s.core c).inflight = []) (hd : s.dispatch? h.dispatch = some d)
    (hhome : s.homeOf d h.tile = some (r, n, q)) (hused : (s.region (regionOf c)).spareUsed = true) :
    let u := s.quarantineNow c cause
    u.counter? r n = some (q.giveBack h.tile c) ∧ u.core c = Core.gone { s.core c with held := none } ∧
    (∀ e, e ≠ c → u.core e = s.core e) ∧ u = { s with cores := u.cores, regions := u.regions, evq := u.evq } := by
  have ht := State.tileReturned hc hh hd hhome
  rw [State.quarantineNow_idle hi, State.quarantine_noSpare (.inr hused) ⟨ht.spareOk _, ht.spareUsed _⟩]
  generalize s.returnTile c = w at ht
  generalize Event.mk _ _ _ _ _ _ _ = e
  refine ⟨?_, ?_, fun x hx => ?_, ?_⟩
  · exact (State.counter?_congr (by rw [State.event_eq]; rfl)).trans ht.counter
  · rw [State.core_event, State.core_updCore_self _ _ _ (ht.length ▸ hc), ht.self]
  · rw [State.core_event, State.core_updCore_ne _ _ _ _ hx, ht.others x hx]
  · rw [State.event_eq]
    exact congrArg (fun x : State => { x with cores := (w.updCore c Core.gone).cores, evq := ((w.updCore c Core.gone).event e).evq }) ht.frame

end

/-- Settles O41: the error by `exec_coreErrorQuarantine` and the command by `exec_quarantineCore`, with the lemmas on `quarantineNow`. -/
theorem coresQuarantined : Obligations.CoresQuarantined := by
  refine ⟨?error, ?command, ?tile⟩
  case error =>
    intro s c cause hc hrun hcause hp hd hh hi
    refine ⟨fun hok hused => ?_, fun h => ?_⟩
    · rw [exec_coreErrorQuarantine hc hrun hp hcause, State.quarantineNow_spare hd hh hi hok hused]; rfl
    · rw [exec_coreErrorQuarantine hc hrun hp hcause, State.quarantineNow_noSpare hd hh hi h]; rfl
  case command =>
    intro s src p h
    rw [exec_quarantineCore h]
    refine ⟨fun hc => ?_, fun hc hp => ?_, fun hc hp hspare => ?_, fun hc hp hok hused hd hh hi => ?_⟩
    · simp only [if_pos hc]
    · simp only [if_neg (Nat.not_le.2 hc), hp, Bool.not_false, if_true]
    · have hnone : ((s.region (regionOf (pktP p 0).toNat)).spareUsed || !(s.region (regionOf (pktP p 0).toNat)).spareOk) = true := by
        obtain h | h := hspare <;> simp [h]
      simp only [if_neg (Nat.not_le.2 hc), hp, hnone, Bool.not_true, Bool.false_eq_true, if_false, if_true]
    · simp only [if_neg (Nat.not_le.2 hc), hp, hok, hused, Bool.not_true, Bool.or_self, Bool.false_eq_true, if_false]
      rw [State.quarantineNow_spare (by rw [State.core_consume]; exact hd) (by rw [State.core_consume]; exact hh)
        (by rw [State.core_consume]; exact hi) (by rw [State.region_consume]; exact hok) (by rw [State.region_consume]; exact hused),
        State.replaceCore, show (s.consume src p).fuses = s.fuses by rw [State.consume_eq]]
  case tile =>
    intro s c h d r n q hc hrun hp hh hi hd hhome hq hcom hused
    obtain ⟨hcounter, hself, hother, hframe⟩ := quarantineNow_returns (cause := .carrel) hc hh hi hd hhome hused
    obtain ⟨hback, htaken, -⟩ := Counter.giveBack_spec (k := q) (by rw [hq]; nofun) hcom c
    exact ⟨_, _, exec_coreErrorQuarantine hc hrun hp (.inl rfl), hcounter, hback, htaken, by rw [hself]; rfl, by rw [hself]; rfl, hother, hframe⟩

end Sys2Proof.Machine
end

section
/-! Pre-emption in mid tile and saved contexts (R441, R444 to R448). -/
namespace Sys2Proof.Machine

/-! ## A core freed -/

/-- A core that a pre-emption has freed: it runs nothing (R444). -/
def Core.free (k : Core) : Core := { k.leave with freed := true }

theorem Counter.suspend_spec (k : Counter) (t c : Nat) : t ∈ (k.suspend t c).suspended ∧ (k.suspend t c).returned = k.returned := by
  rw [Counter.suspend, Counter.settle_eq]
  refine ⟨?_, rfl⟩
  change t ∈ if (k.drop t c).suspended.contains t then (k.drop t c).suspended else (k.drop t c).suspended ++ [t]
  split
  · rename_i h; simpa using h
  · simp

section
variable {s : State} {c n r m : Nat} {h : Held} {d : Dispatch} {k : Counter}

/-- The context that a save of a core makes (R447). -/
def State.contextOf (s : State) (c : Nat) : Context :=
  ⟨(s.core c).dispatch.getD 0, s.prioOf (s.core c), s.nextOrder, (s.core c).context (s.shelvesOf (s.core c))⟩

/-- The context of a core that holds a tile goes to its region, and the tile is suspended. -/
theorem State.saveContext_eq (hh : (s.core c).held = some h) (hd : s.dispatch? h.dispatch = some d)
    (hhome : s.homeOf d h.tile = some (r, m, k)) : ∃ ledger, s.saveContext c =
      ({ (s.updCounter r m (fun q => q.suspend h.tile c)).updRegion (regionOf c) (fun g => { g with contexts := g.contexts ++ [s.contextOf c] }) with
        nextOrder := s.nextOrder + 1, ledger := ledger } : State).updCore c Core.free := by
  simp only [State.saveContext, hh, hd, Option.bind_some, hhome]
  exact ⟨_, rfl⟩

/-- A tile abandoned for want of room: it is returned, and its core is freed (R446). -/
def State.abandon (s : State) (c n : Nat) : State :=
  ((s.updDispatch n (fun d => { d with abandoned := d.abandoned + 1 })).returnTile c).updCore c Core.free

/-- A dispatch with a count changed has its tiles where they were. -/
theorem State.homeOf_abandoned (s : State) (d : Dispatch) (n t : Nat) :
    (s.updDispatch n (fun d => { d with abandoned := d.abandoned + 1 })).homeOf { d with abandoned := d.abandoned + 1 } t = s.homeOf d t := rfl

/-- An URGENT dispatch takes a core with a tile, whose issued instructions have completed (R444, R446). -/
theorem exec_preemptMidTile (hc : c < s.cores.length) (hr : s.ready c = true) (hs : (s.core c).split = false) (hf : (s.core c).fore = false)
    (hi : (s.core c).inflight = []) (hw : s.wanted c (s.prioOf (s.core c)) (fun p => p == 2) = true) (hn : (s.core c).dispatch = some n)
    (hh : (s.core c).held = some h) (full : Bool) :
    exec (.preemptMidTile c full) s = .next (if full then s.abandon c n else s.saveContext c) := by
  change execPreemptMidTile c full s = _
  simp only [execPreemptMidTile, if_neg (Nat.not_le.2 hc), hr, hs, hf, hi, hw, hn, hh, List.all_nil, Bool.not_true, Bool.or_self,
    Bool.false_eq_true, if_false, Option.isSome_some, Option.getD_some, if_true]
  cases full <;> rfl

/-- What the save of a context leaves. -/
theorem saveContext_spec (hc : c < s.cores.length) (hrc : regionOf c < s.regions.length) (hh : (s.core c).held = some h)
    (hd : s.dispatch? h.dispatch = some d) (hhome : s.homeOf d h.tile = some (r, m, k)) :
    let u := s.saveContext c
    u.core c = (s.core c).free ∧ u.counter? r m = some (k.suspend h.tile c) ∧
    (u.region (regionOf c)).contexts = (s.region (regionOf c)).contexts ++ [s.contextOf c] ∧ u.nextOrder = s.nextOrder + 1 ∧
    u = { s with cores := u.cores, regions := u.regions, nextOrder := u.nextOrder, ledger := u.ledger } := by
  obtain ⟨ledger, heq⟩ := State.saveContext_eq hh hd hhome
  have hk := State.counter?_of_homeOf hhome
  generalize hw : s.updCounter r m (fun q => q.suspend h.tile c) = w at heq
  have hcounter : w.counter? r m = some (k.suspend h.tile c) := by
    rw [← hw, State.counter?_updCounter_self (State.counter?_lt hk), hk]; rfl
  have hcontexts : (w.region (regionOf c)).contexts = (s.region (regionOf c)).contexts := by
    rw [← hw]; exact State.region_updRegion_keeps s r _ Region.contexts (fun _ => rfl)
  have hlen : regionOf c < w.regions.length := by rw [← hw, State.updCounter, State.updRegion, length_updateAt]; exact hrc
  have hframe : w = { s with regions := w.regions } := by rw [← hw]; rfl
  generalize s.saveContext c = u at heq ⊢
  subst heq
  refine ⟨?_, ?_, ?_, rfl, ?_⟩
  · rw [State.core_updCore_self _ _ _ (by rw [hframe]; exact hc), hframe]; rfl
  · refine Eq.trans ?_ hcounter
    exact congrArg (lookupK m) (State.region_updRegion_keeps w (regionOf c) r Region.counters (fun _ => rfl))
  · exact (congrArg Region.contexts (State.region_updRegion_self w _ _ hlen)).trans (congrArg (· ++ [s.contextOf c]) hcontexts)
  · rw [hframe]; rfl

/-- What a tile abandoned leaves. -/
theorem abandon_spec (hc : c < s.cores.length) (hh : (s.core c).held = some h) (hn : h.dispatch = n) (hd : s.dispatch? n = some d)
    (hhome : s.homeOf d h.tile = some (r, m, k)) :
    let u := s.abandon c n
    u.core c = (s.core c).free ∧ u.counter? r m = some (k.giveBack h.tile c) ∧
    lookupK n u.dispatches = some { d with abandoned := d.abandoned + 1 } ∧
    u = { s with cores := u.cores, regions := u.regions, dispatches := u.dispatches } := by
  subst hn
  have hd' : (s.updDispatch h.dispatch (fun d => { d with abandoned := d.abandoned + 1 })).dispatch? h.dispatch =
      some { d with abandoned := d.abandoned + 1 } := by
    rw [State.dispatch?_updDispatch_self, hd]; rfl
  have ht := State.tileReturned (s := s.updDispatch h.dispatch _) hc hh hd' ((State.homeOf_abandoned ..).trans hhome)
  unfold State.abandon
  generalize (s.updDispatch h.dispatch (fun d => { d with abandoned := d.abandoned + 1 })).returnTile c = w at ht
  refine ⟨?_, ht.counter, ?_, ?_⟩
  · rw [State.core_updCore_self _ _ _ (ht.length ▸ hc), ht.self]; rfl
  · rw [State.updCore_dispatches, ht.frame]; exact hd'
  · rw [ht.frame]; rfl

end

/-! ## The context resumed next (R441) -/

/-- A context goes before another: of a higher class, or of the same class and suspended no later. -/
def Context.First (x y : Context) : Prop := y.prio < x.prio ∨ (y.prio = x.prio ∧ x.order ≤ y.order)

theorem Context.First.refl (x : Context) : x.First x := .inr ⟨rfl, Nat.le_refl _⟩

theorem Context.First.trans {x y z : Context} (h : x.First y) (k : y.First z) : x.First z := by
  unfold Context.First at *; omega

/-- The better of the best context so far and another one. -/
def Context.better (best : Option Context) (x : Context) : Option Context :=
  match best with
  | none => some x
  | some b => if b.prio < x.prio || (b.prio == x.prio && x.order < b.order) then some x else some b

theorem Region.nextContext_eq (g : Region) : g.nextContext = g.contexts.foldl Context.better none := rfl

/-- The better of two contexts is one of them and goes before both. -/
theorem Context.better_spec (b x : Context) : ∃ y, Context.better (some b) x = some y ∧ (y = b ∨ y = x) ∧ y.First b ∧ y.First x := by
  unfold Context.better
  simp only [Bool.or_eq_true, Bool.and_eq_true, decide_eq_true_eq, beq_iff_eq]
  split
  next h => exact ⟨x, rfl, .inr rfl, by unfold Context.First; omega, .refl x⟩
  next h => exact ⟨b, rfl, .inl rfl, .refl b, by unfold Context.First; omega⟩

/-- The best of some contexts is one of them and goes before all. -/
theorem Context.foldl_better (l : List Context) : ∀ b : Context, ∃ x, l.foldl Context.better (some b) = some x ∧ x ∈ b :: l ∧
    ∀ y ∈ b :: l, x.First y := by
  induction l with
  | nil => exact fun b => ⟨b, rfl, by simp, by simpa using Context.First.refl b⟩
  | cons a l ih =>
    intro b
    obtain ⟨y, hy, hmem, hb, ha⟩ := Context.better_spec b a
    obtain ⟨x, hx, hxl, hfirst⟩ := ih y
    have hxy := hfirst y (List.mem_cons_self ..)
    refine ⟨x, by rw [List.foldl_cons, hy, hx], ?_, ?_⟩
    · obtain rfl | hxl := List.mem_cons.1 hxl
      · obtain rfl | rfl := hmem <;> simp
      · exact List.mem_cons_of_mem _ (List.mem_cons_of_mem _ hxl)
    · simp only [List.forall_mem_cons]
      exact ⟨hxy.trans hb, hxy.trans ha, fun z hz => hfirst z (List.mem_cons_of_mem _ hz)⟩

theorem Region.nextContext_spec (g : Region) : (g.contexts = [] ↔ g.nextContext = none) ∧
    ∀ x, g.nextContext = some x → x ∈ g.contexts ∧ ∀ y ∈ g.contexts, x.First y := by
  rw [Region.nextContext_eq]
  cases g.contexts with
  | nil => exact ⟨⟨fun _ => rfl, fun _ => rfl⟩, fun x hx => nomatch hx⟩
  | cons b l =>
    obtain ⟨x, hx, hmem, hfirst⟩ := Context.foldl_better l b
    have heq : (b :: l).foldl Context.better none = some x := hx
    refine ⟨⟨(nomatch ·), fun h => ?_⟩, fun y hy => ?_⟩
    · rw [heq] at h; cases h
    · rw [heq] at hy; obtain rfl := Option.some.inj hy; exact ⟨hmem, hfirst⟩

/-! ## A context restored (R448) -/

section
variable {s : State} {c : Nat} {x : Context}

/-- What an idle core starts where a context is next. -/
theorem exec_resume (hc : c < s.cores.length) (hst : s.startable c = true) (hnext : s.nextWork c = some (.inl x)) {i : Instr}
    (hi : i = .contextResume c ∨ i = .coreProgramStart c) : exec i s = .next (s.restoreContext c x) := by
  obtain rfl | rfl := hi
  · change execContextResume c s = _
    simp only [execContextResume, if_neg (Nat.not_le.2 hc), hst, hnext, Bool.not_true, Bool.false_eq_true, if_false]
  · change execCoreProgramStart c s = _
    simp only [execCoreProgramStart, if_neg (Nat.not_le.2 hc), hst, hnext, Bool.not_true, Bool.false_eq_true, if_false]

/-- The state with the region's list rid of a context that is put on a core, before its tile is the core's again. -/
def State.placeContext (s : State) (c : Nat) (x : Context) : State :=
  (((s.updRegion (regionOf c) (fun g => { g with contexts := g.contexts.filter (fun y => y.order != x.order) })).reuse c
    (x.core.tags.map Prod.fst)).count 0 (lineBytes 0 x.core.contextBytes)).updCore c (fun k => k.restore x.core c)

/-- Where no transfer of the context is stopped, its restoration ends with its tile, which one counter gives to the core. -/
theorem State.restoreContext_eq (hi : x.core.inflight = []) : s.restoreContext c x = s.placeContext c x ∨
    ∃ r n t, s.restoreContext c x = (s.placeContext c x).updCounter r n (fun q => q.resume t c) := by
  simp only [State.restoreContext, hi, List.filter_nil, List.foldl_nil]
  split
  next h hh =>
    split
    next r n q hq => exact .inr ⟨r, n, h.tile, rfl⟩
    next => exact .inl rfl
  next => exact .inl rfl

theorem State.core_placeContext (hc : c < s.cores.length) : (s.placeContext c x).core c = (s.core c).restore x.core c := by
  unfold State.placeContext
  rw [State.core_updCore_self _ _ _ (by simpa using hc), State.core_count, State.core_reuse, State.core_updRegion]

theorem State.placeContext_regions : (s.placeContext c x).regions =
    (s.updRegion (regionOf c) (fun g => { g with contexts := g.contexts.filter (fun y => y.order != x.order) })).regions := by
  unfold State.placeContext
  rw [State.updCore_regions, State.count_regions, State.reuse_frame]

/-- Where no committed run lies in the core's carrel, no run is spilled. -/
theorem State.placeContext_frame (h : NoRuns s c) : s.placeContext c x =
    { s with cores := (s.placeContext c x).cores, regions := (s.placeContext c x).regions, ledger := (s.placeContext c x).ledger } := by
  have hruns : NoRuns (s.updRegion (regionOf c) (fun g => { g with contexts := g.contexts.filter (fun y => y.order != x.order) })) c := h
  unfold State.placeContext
  rw [State.reuse_of_noRuns hruns]
  rfl

/-- What the restoration of a context leaves. -/
theorem restoreContext_spec (hc : c < s.cores.length) (hrc : regionOf c < s.regions.length) (hi : x.core.inflight = []) :
    let u := s.restoreContext c x
    u.core c = (s.core c).restore x.core c ∧
    (u.region (regionOf c)).contexts = (s.region (regionOf c)).contexts.filter (fun y => y.order != x.order) ∧
    (NoRuns s c → u = { s with cores := u.cores, regions := u.regions, ledger := u.ledger }) := by
  have hcontexts : ((s.placeContext c x).region (regionOf c)).contexts = (s.region (regionOf c)).contexts.filter (fun y => y.order != x.order) := by
    rw [State.region, State.placeContext_regions, ← State.region, State.region_updRegion_self s _ _ hrc]
  obtain heq | ⟨r, n, t, heq⟩ := State.restoreContext_eq (s := s) (c := c) hi
  · rw [heq]
    exact ⟨State.core_placeContext hc, hcontexts, State.placeContext_frame⟩
  · rw [heq]
    refine ⟨State.core_placeContext hc, Eq.trans ?_ hcontexts, fun h => ?_⟩
    · exact State.region_updRegion_keeps _ r _ Region.contexts (fun _ => rfl)
    · exact congrArg (fun y : State => y.updCounter r n (fun q => q.resume t c)) (State.placeContext_frame h)

end

/-- Settles O8: pre-emption by `saveContext_spec` and `abandon_spec`, the choice by `Region.nextContext_spec`, the restoration by
`restoreContext_spec`. -/
theorem contextsSaved : Obligations.ContextsSaved := by
  refine ⟨?preempt, Region.nextContext_spec, ?restore⟩
  case preempt =>
    intro s c n r m h d k hc hrc hr hs hf hi hw hn hh hhn hd hhome _ hk hcom
    have hd' : s.dispatch? h.dispatch = some d := by rw [hhn]; exact hd
    constructor
    · obtain ⟨hcore, hcounter, hcontexts, horder, hframe⟩ := saveContext_spec hc hrc hh hd' hhome
      obtain ⟨hsus, hret⟩ := k.suspend_spec h.tile c
      refine ⟨_, _, s.contextOf c, exec_preemptMidTile hc hr hs hf hi hw hn hh false, ?_, ?_, hcounter, hsus, hret, hcontexts, ?_, hh, rfl, rfl,
        rfl, rfl, horder, hframe⟩
      · exact congrArg Core.dispatch hcore
      · exact congrArg Core.held hcore
      · simp [State.contextOf, hn]
    · obtain ⟨hcore, hcounter, habandoned, hframe⟩ := abandon_spec hc hh hhn hd hhome
      obtain ⟨hback, -, -⟩ := Counter.giveBack_spec hk hcom c
      refine ⟨_, _, _, exec_preemptMidTile hc hr hs hf hi hw hn hh true, ?_, ?_, hcounter, hback, habandoned, rfl, hframe⟩
      · exact congrArg Core.dispatch hcore
      · exact congrArg Core.held hcore
  case restore =>
    intro s c x hc hrc hst hnext hi i hrow
    obtain ⟨hcore, hcontexts, hframe⟩ := restoreContext_spec (s := s) hc hrc hi
    refine ⟨_, exec_resume hc hst hnext hrow, ?_⟩
    rw [hcore, hcontexts]
    exact ⟨rfl, rfl, rfl, rfl, rfl, rfl, rfl, rfl, rfl, fun y hy => by simpa using (List.mem_filter.1 hy).2, hframe⟩

end Sys2Proof.Machine
end

section
/-! CANCEL, FAULT_ACTION and CANCEL_COMPLETE (R450, R560 to R562): what a cancellation takes from the desks, the cores and the contexts of its
dispatch, how it ends, and the packet that waits at a ring's head. -/
namespace Sys2Proof.Machine

/-! ## The cores of a cancelled dispatch (R450) -/

section
variable (s : State) (n : Nat)

/-- One core stopped where it runs the dispatch. -/
def State.stopIfRunning (c : Nat) : State := if (s.core c).dispatch == some n then s.stopCore c else s

theorem State.stopRunning_eq : s.stopRunning n = (List.range s.cores.length).foldl (fun t c => t.stopIfRunning n c) s := rfl

/-- A core that runs something is one that the part has. -/
theorem State.lt_of_dispatch {s : State} {n c : Nat} (h : (s.core c).dispatch = some n) : c < s.cores.length := by
  by_contra hc
  simp [State.core, List.getElem?_eq_none (Nat.le_of_not_lt hc), Core.fresh] at h

theorem State.core_stopIfRunning (c e : Nat) : (s.stopIfRunning n c).core e =
    if e = c ∧ (s.core e).dispatch = some n then (s.core e).stop else s.core e := by
  unfold State.stopIfRunning
  by_cases hd : (s.core c).dispatch = some n
  · rw [if_pos (by rw [hd]; exact beq_self_eq_true _)]
    by_cases he : e = c
    · subst he; rw [State.core_stopCore_self (State.lt_of_dispatch hd), if_pos ⟨rfl, hd⟩]
    · rw [State.core_stopCore_ne s he, if_neg (fun h => he h.1)]
  · rw [if_neg (by simpa using hd), if_neg (by rintro ⟨rfl, h⟩; exact hd h)]

/-- Of the cores of a list, those that run the dispatch are stopped. -/
theorem State.core_stopRunning_list (e : Nat) (l : List Nat) : ∀ s : State, (l.foldl (fun t c => t.stopIfRunning n c) s).core e =
    if e ∈ l ∧ (s.core e).dispatch = some n then (s.core e).stop else s.core e := by
  induction l with
  | nil => intro s; simp
  | cons c l ih =>
    intro s
    rw [List.foldl_cons, ih, State.core_stopIfRunning]
    by_cases hec : e = c ∧ (s.core e).dispatch = some n
    · have hstopped : (s.core e).stop.dispatch ≠ some n := by rw [(Core.left_stop _).1]; nofun
      rw [if_pos hec, if_neg (fun h => hstopped h.2), if_pos ⟨List.mem_cons.2 (.inl hec.1), hec.2⟩]
    · rw [if_neg hec]
      exact if_congr ⟨fun h => ⟨List.mem_cons_of_mem _ h.1, h.2⟩, fun h => ⟨(List.mem_cons.1 h.1).resolve_left fun he => hec ⟨he, h.2⟩, h.2⟩⟩ rfl rfl

/-- The cores that run the dispatch are stopped, and no others. -/
theorem State.core_stopRunning (e : Nat) : (s.stopRunning n).core e = if (s.core e).dispatch = some n then (s.core e).stop else s.core e := by
  rw [State.stopRunning_eq, State.core_stopRunning_list]
  by_cases hd : (s.core e).dispatch = some n
  · rw [if_pos ⟨List.mem_range.2 (State.lt_of_dispatch hd), hd⟩, if_pos hd]
  · rw [if_neg (fun h => hd h.2), if_neg hd]

theorem State.stopRunning_regions : (s.stopRunning n).regions = s.regions :=
  foldl_keeps (P := fun t : State => t.regions = s.regions) (fun t c ht => by
    split
    next => rw [State.stopCore_frame]; exact ht
    next => exact ht) _ s rfl

/-! ## The desks of a cancelled dispatch (R450) -/

theorem State.clearDesks_regions : ∃ gone, (s.clearDesks n).regions = s.regions.map (Region.cancel n gone) :=
  ⟨_, congrArg (List.map _) (s.undoWrites_regions _)⟩

theorem State.core_clearDesks (c : Nat) : (s.clearDesks n).core c = s.core c := by
  have : (s.clearDesks n).cores = s.cores := s.undoWrites_cores _
  rw [State.core, State.core, this]

/-- A counter of a cancelled dispatch hands nothing out. -/
structure Counter.Cancelled (q : Counter) : Prop where
  state : q.state = .cancelling
  unformed : q.unformed = []
  returned : q.returned = []
  chunks : q.chunks = []
  suspended : q.suspended = []

/-- The desks of a dispatch cleared: its counters hand nothing out, and no region holds a context of it. -/
theorem State.clearDesks_desks : (∀ r k q, (s.clearDesks n).counter? r k = some q → q.dispatch = n → q.Cancelled) ∧
    ∀ g ∈ (s.clearDesks n).regions, ∀ x ∈ g.contexts, x.dispatch ≠ n := by
  obtain ⟨gone, hregions⟩ := s.clearDesks_regions n
  constructor
  · intro r k q hq hn
    unfold State.counter? State.region at hq
    rw [hregions, List.getElem?_map] at hq
    cases hr : s.regions[r]? with
    | none => rw [hr] at hq; cases hq
    | some g =>
      rw [hr] at hq
      have hmap : lookupK k (g.counters.map (fun x => (x.1, if x.2.dispatch == n then { x.2 with
          state := .cancelling, unformed := [], returned := [], chunks := [], suspended := [] } else x.2))) = some q := hq
      rw [lookupK_mapValues k (fun x : Counter => if x.dispatch == n then { x with
          state := .cancelling, unformed := [], returned := [], chunks := [], suspended := [] } else x)] at hmap
      obtain ⟨x, -, rfl⟩ := Option.map_eq_some_iff.1 hmap
      split at hn
      next he => rw [if_pos he]; exact ⟨rfl, rfl, rfl, rfl, rfl⟩
      next he => exact absurd hn (by simpa using he)
  · intro g hg x hx
    rw [hregions] at hg
    obtain ⟨g0, -, rfl⟩ := List.mem_map.1 hg
    simpa using (List.mem_filter.1 hx).2

end

/-! ## A cancellation as a whole (R450) -/

/-- A dispatch that is being cancelled, with the reads and the acknowledgements that it waits for. -/
def Dispatch.cancel (st : St) (detail : Nat) (reads acks : List (Nat × Nat)) (d : Dispatch) : Dispatch :=
  { d with cancelling := true, ending := some (st, detail), homeless := [], homelessBack := [], readsOut := reads, acksOut := acks }

theorem State.beginCancel_eq {s : State} {n : Nat} {d : Dispatch} (hd : s.dispatch? n = some d) (hc : d.cancelling = false) (st : St)
    (detail : Nat) : ∃ reads acks, s.beginCancel n st detail = ((s.clearDesks n).stopRunning n).updDispatch n (Dispatch.cancel st detail reads acks) := by
  unfold State.beginCancel
  rw [hd]
  simp only [hc, Bool.false_eq_true, if_false]
  exact ⟨_, _, rfl⟩

/-- What the cancellation of a dispatch that goes on leaves. -/
theorem beginCancel_spec {s : State} {n : Nat} {d : Dispatch} (hd : s.dispatch? n = some d) (hc : d.cancelling = false) (st : St) (detail : Nat) :
    let u := s.beginCancel n st detail
    (∃ d', lookupK n u.dispatches = some d' ∧ d'.cancelling = true ∧ d'.ending = some (st, detail) ∧ d'.committed = d.committed) ∧
    (∀ r k q, u.counter? r k = some q → q.dispatch = n → q.Cancelled) ∧ (∀ g ∈ u.regions, ∀ x ∈ g.contexts, x.dispatch ≠ n) ∧
    (∀ c, (u.core c).dispatch ≠ some n) ∧ (∀ c, (s.core c).dispatch ≠ some n → u.core c = s.core c) := by
  obtain ⟨reads, acks, heq⟩ := State.beginCancel_eq hd hc st detail
  have hd' : ((s.clearDesks n).stopRunning n).dispatch? n = some d := by
    unfold State.dispatch?
    rw [State.stopRunning_dispatches, State.clearDesks_dispatches]; exact hd
  have hregions := (s.clearDesks n).stopRunning_regions n
  obtain ⟨hcounters, hcontexts⟩ := s.clearDesks_desks n
  have hcore : ∀ c, (s.beginCancel n st detail).core c = if (s.core c).dispatch = some n then (s.core c).stop else s.core c := fun c => by
    rw [heq, State.core_updDispatch, State.core_stopRunning, State.core_clearDesks]
  refine ⟨⟨d.cancel st detail reads acks, ?_, rfl, rfl, rfl⟩, fun r k q hq => ?_, ?_, fun c => ?_, fun c hne => ?_⟩
  · rw [heq]; exact (State.dispatch?_updDispatch_self _ n _).trans (by rw [hd']; rfl)
  · exact hcounters r k q ((State.counter?_congr (by rw [heq, State.updDispatch_regions, hregions])).symm.trans hq)
  · rw [heq, State.updDispatch_regions, hregions]; exact hcontexts
  · rw [hcore]
    split
    next => rw [(Core.left_stop _).1]; nofun
    next h => exact h
  · rw [hcore, if_neg hne]

section
variable {s : State} {src : Src} {p : Packet}

theorem State.stoppedCores_consume (n : Nat) : (s.consume src p).stoppedCores n = s.stoppedCores n := by
  unfold State.stoppedCores
  simp only [State.consume_cores, State.core_consume]

/-- CANCEL of an accepted dispatch (R450, R560). -/
theorem exec_cancel (h : Accepted s src p 0x0404) (h1 : pktP p 1 = 0) (h2 : pktP p 2 = 0) : exec (.cancel src) s = .next (
    let t := s.consume src p
    let m := (pktP p 0).toNat
    if lookupK m s.dispatches = none then t.answer src p { st := .handle } else (t.hold src p).beginCancel m .cancelled 0) := by
  change execCancel src s = _
  unfold execCancel
  rw [State.command_accepted h _ (by rw [h1]; rfl)]
  simp only [h2, State.dispatch?, State.consume_dispatches, Option.isNone_iff_eq_none, bne_self_eq_false, Bool.false_eq_true, if_false]
  rfl

/-- FAULT_ACTION ABORT of a dispatch with a stopped core (R562). -/
theorem exec_faultActionAbort (h : Accepted s src p 0x0406) (h1 : pktP p 1 = 0) : exec (.faultActionAbort src) s = .next (
    let t := s.consume src p
    let m := (pktP p 0).toNat
    if lookupK m s.dispatches = none then t.answer src p { st := .handle }
    else if s.stoppedCores m = [] then t.answer src p { st := .busy } else (t.hold src p).beginCancel m .faulted 0) := by
  change execFaultActionAbort src s = _
  unfold execFaultActionAbort
  rw [State.command_accepted h _ (by rw [h1]; rfl)]
  simp only [State.faultActionStat, State.dispatch?, State.consume_dispatches, State.stoppedCores_consume, List.isEmpty_iff]
  cases lookupK (pktP p 0).toNat s.dispatches with
  | none => rfl
  | some d => by_cases hstop : s.stoppedCores (pktP p 0).toNat = [] <;> simp [hstop]; rfl

end

/-! ## The end of a cancellation (R450, step 5) -/

/-- CANCEL_COMPLETE waits for the last read and the last write. -/
theorem exec_cancelComplete {s : State} {m : Nat} {d : Dispatch} (hrun : s.running = true) (hd : s.dispatch? m = some d)
    (hc : d.cancelling = true) : exec (.cancelComplete m) s = .next (if !s.quiet d then s else
      let e := d.ending.getD (.cancelled, 0)
      let t := s.finish m e.1 e.2
      let mine := fun (p : Packet) => (pktP p 0).toNat == m && pktP p 1 == 0
      (t.ringsBusy 0x0404 mine ++ t.ringsBusy 0x0406 mine).foldl (fun t r => t.release r {}) t) := by
  change execCancelComplete m s = _
  simp only [execCancelComplete, hd, hrun, hc, Bool.not_true, Bool.or_self, Bool.false_or]
  split <;> rfl

theorem State.quiet_of_done {s : State} {d : Dispatch} (hr : d.readsOut = [])
    (ha : ∀ a ∈ d.acksOut, ∀ p ∈ (s.stream a.1).unacked, p.seq ≠ a.2) : s.quiet d = true := by
  simp only [State.quiet, hr, List.isEmpty_nil, Bool.true_and, List.all_eq_true, Bool.not_eq_true', List.any_eq_false, beq_iff_eq]
  exact ha

/-- A ring that carries out a command is free again once the rings of that command are released. -/
theorem State.busyAt_release_mine {t : State} {r : Nat} {p : Packet} {l : List Nat} (hp : t.busyAt r = some (some p))
    (hl : ∀ g, lookupK r t.rings = some g → g.busy = some p → r ∈ l) (rep : Rep) :
    (l.foldl (fun t r => t.release r rep) t).busyAt r = some none := by
  obtain ⟨g, hg, hbusy⟩ := Option.map_eq_some_iff.1 hp
  rw [State.busyAt_releaseAll, if_pos (hl g hg hbusy), hp]
  rfl

/-- What the end of a cancelled dispatch leaves, where no tiles wait for a counter. -/
theorem cancelComplete_spec {s : State} {m : Nat} {d : Dispatch} (hd : s.dispatch? m = some d)
    (hhome : ∀ e ∈ s.dispatches, e.2.homeless = [] ∧ e.2.homelessBack = []) (st : St) (detail : Nat) :
    let t := s.finish m st detail
    let mine := fun (p : Packet) => (pktP p 0).toNat == m && pktP p 1 == 0
    let u := (t.ringsBusy 0x0404 mine ++ t.ringsBusy 0x0406 mine).foldl (fun t r => t.release r {}) t
    SameButIo (s.without m st) u ∧ ∀ r g p, lookupK r s.rings = some g → g.busy = some p → (pktOp p = 0x0404 ∨ pktOp p = 0x0406) →
      (pktP p 0).toNat = m → pktP p 1 = 0 → u.busyAt r = some none := by
  intro t mine u
  have ht : t = (s.without m st).replyRing d.req.ring d.req.opcode d.req.tag d.req.irq (s.finalRep m st detail d) :=
    State.finish_of_homes hd hhome st detail
  have hio : SameButIo (s.without m st) t := by rw [ht]; exact State.sameButIo_replyRing ..
  refine ⟨hio.trans (State.sameButIo_releaseAll t _ _), fun r g p hg hp hop h0 h1 => ?_⟩
  have hbusy : t.busyAt r = some (some p) := by
    rw [ht, State.busyAt_replyRing]
    exact Option.map_eq_some_iff.2 ⟨g, hg, hp⟩
  have hmine : mine p = true := by simp [mine, h0, h1]
  refine State.busyAt_release_mine hbusy (fun g' hg' hp' => List.mem_append.2 ?_) {}
  exact hop.imp (fun h => State.mem_ringsBusy hg' hp' h hmine) (fun h => State.mem_ringsBusy hg' hp' h hmine)

/-! ## A packet that waits, and a core dropped (R561, R562) -/

section
variable {s : State} {src : Src} {p : Packet}

theorem exec_cancelWaitingPacket (h : Accepted s src p 0x0404) (hbit : bit (pktP p 1).toNat 0 = true) :
    exec (.cancelWaitingPacket src) s = .next (
      let t := s.consume src p
      let m := (pktP p 0).toNat
      let tag := (pktP p 2).toNat
      let freed := t.updRing m (fun g => { g with waiting := none })
      if 64 ≤ m then t.answer src p { st := .field }
      else match (lookupK m t.rings).bind Ring.waiting with
      | some (.dispatch q) => if q.tag = tag then (freed.replyRing m q.opcode q.tag q.irq { st := .cancelled }).answer src p {} else t.answer src p { st := .handle }
      | some (.tally tg _ _ irq) =>
        if tg = tag then (freed.replyRing m 0x0503 tg irq { st := .cancelled }).answer src p {} else t.answer src p { st := .handle }
      | none => t.answer src p { st := .handle }) := by
  change execCancelWaitingPacket src s = _
  unfold execCancelWaitingPacket
  rw [State.command_accepted h _ hbit]
  simp only [beq_iff_eq]
  rfl

/-- FAULT_ACTION DROP_CORE of a dispatch with one stopped core, which holds no tile (R562). -/
theorem exec_faultActionDropCore {c : Nat} {d : Dispatch} (h : Accepted s src p 0x0406) (hbit : bit (pktP p 1).toNat 0 = true)
    (hd : lookupK (pktP p 0).toNat s.dispatches = some d) (hstop : s.stoppedCores (pktP p 0).toNat = [c]) (hh : (s.core c).held = none) :
    exec (.faultActionDropCore src) s = .next ((((s.consume src p).updCore c Core.leave).updDispatch (pktP p 0).toNat (fun e =>
      { e with dropped := c :: e.dropped, ending := some (.faulted, 0) })).answer src p {}) := by
  have hreturn : (s.consume src p).returnTile c = s.consume src p := State.returnTile_none (by rw [State.core_consume]; exact hh)
  change execFaultActionDropCore src s = _
  unfold execFaultActionDropCore
  rw [State.command_accepted h _ hbit]
  simp only [State.faultActionStat, State.dispatch?, State.consume_dispatches, hd, State.stoppedCores_consume, hstop, List.isEmpty_cons,
    Bool.false_eq_true, if_false, List.foldl_cons, List.foldl_nil, State.dropCore, hreturn]
  rfl

end

/-- What CANCEL and FAULT_ACTION ABORT leave of a dispatch that goes on, from the ring that holds the command. -/
theorem cancel_held {s : State} {n m : Nat} {p : Packet} {d : Dispatch} (hd : lookupK m s.dispatches = some d) (hc : d.cancelling = false)
    (st : St) : let t := s.consume (.ring n) p
    ∃ d', let u := (t.hold (.ring n) p).beginCancel m st 0
      lookupK m u.dispatches = some d' ∧ d'.cancelling = true ∧ d'.ending = some (st, 0) ∧
        d'.committed = d.committed ∧ (∀ r k q, u.counter? r k = some q → q.dispatch = m →
          q.state = .cancelling ∧ q.unformed = [] ∧ q.returned = [] ∧ q.chunks = [] ∧ q.suspended = []) ∧
        (∀ c, c < s.cores.length → (u.core c).dispatch ≠ some m) ∧ (∀ g ∈ u.regions, ∀ x ∈ g.contexts, x.dispatch ≠ m) ∧
        (∀ c, (s.core c).dispatch ≠ some m → u.core c = s.core c) ∧ u.rings = (t.updRing n (fun g => { g with busy := some p })).rings ∧
        u = { t with rings := u.rings, dispatches := u.dispatches, regions := u.regions, cores := u.cores, jobs := u.jobs, dram := u.dram,
                     hostMem := u.hostMem, fresh := u.fresh } := by
  intro t
  have hd' : (t.hold (.ring n) p).dispatch? m = some d := (congrArg (lookupK m) (State.consume_dispatches s (.ring n) p)).trans hd
  have hcore : ∀ c, (t.hold (.ring n) p).core c = s.core c := fun c => State.core_consume s (.ring n) p c
  obtain ⟨⟨d', h1, h2, h3, h4⟩, hcounters, hcontexts, hgone, hkept⟩ := beginCancel_spec hd' hc st 0
  have hframe := (Keeps.beginCancel (t.hold (.ring n) p) m st 0).frame
  refine ⟨d', h1, h2, h3, h4, fun r k q hq hm => ?_, fun c _ => hgone c, hcontexts, fun c hne => ?_, by rw [hframe]; rfl, ?_⟩
  · obtain ⟨a1, a2, a3, a4, a5⟩ := hcounters r k q hq hm
    exact ⟨a1, a2, a3, a4, a5⟩
  · rw [hkept c (by rw [hcore]; exact hne), hcore]
  · rw [hframe]; rfl

/-- Settles O39: CANCEL and FAULT_ACTION ABORT by `cancel_held`, CANCEL_COMPLETE by `cancelComplete_spec`, the rest by the rows' equations. -/
theorem cancels : Obligations.Cancels := by
  refine ⟨⟨fun s n p row st h1 h2 hrow => ?begin, fun s m d hrun hd hc => ?complete⟩, fun s src p g h hbit => ?waiting,
    fun s src p d c h hbit hd hstop hh => exec_faultActionDropCore h hbit hd hstop hh⟩
  case begin =>
    obtain ⟨h, rfl, rfl⟩ | ⟨h, rfl, rfl⟩ := hrow
    · rw [exec_cancel h h1 h2]
      refine ⟨fun hnone => congrArg _ (if_pos hnone), fun _ _ hst => absurd hst (by decide), fun d hd hc _ => ?_⟩
      obtain ⟨d', hspec⟩ := cancel_held (n := n) (p := p) hd hc .cancelled
      exact ⟨_, d', congrArg _ (if_neg (by rw [hd]; nofun)), hspec⟩
    · rw [exec_faultActionAbort h h1]
      have hgoes : ∀ {d}, lookupK (pktP p 0).toNat s.dispatches = some d → lookupK (pktP p 0).toNat s.dispatches ≠ none := fun hd => by
        rw [hd]; nofun
      refine ⟨fun hnone => congrArg _ (if_pos hnone), fun d hd _ hstop => congrArg _ ((if_neg (hgoes hd)).trans (if_pos hstop)),
        fun d hd hc hstop => ?_⟩
      obtain ⟨d', hspec⟩ := cancel_held (n := n) (p := p) hd hc .faulted
      exact ⟨_, d', congrArg _ ((if_neg (hgoes hd)).trans (if_neg (hstop rfl))), hspec⟩
  case complete =>
    rw [exec_cancelComplete hrun hd hc]
    refine ⟨fun hq => by rw [hq]; rfl, fun hr ha hhome => ?_⟩
    rw [State.quiet_of_done hr ha]
    obtain ⟨hio, hfree⟩ := cancelComplete_spec hd hhome (d.ending.getD (.cancelled, 0)).1 (d.ending.getD (.cancelled, 0)).2
    simp only [Bool.not_true, Bool.false_eq_true, if_false]
    generalize List.foldl _ _ _ = u at hio hfree ⊢
    refine ⟨u, { u with dispatches := s.dispatches, regions := s.regions, jobs := s.jobs }, rfl, ?_, fun r g p hg hp hop h0 h1 => ?_,
      fun r k q hq => ?_, ?_, rfl⟩
    · rw [hio]; exact State.dispatch?_without_self s m _
    · exact Option.map_eq_some_iff.1 (hfree r g p hg hp hop h0 h1)
    · exact State.counter?_without_foreign s m _ ((State.counter?_congr (by rw [hio])).symm.trans hq)
    · unfold SameButIo; rw [hio]; rfl
  case waiting =>
    rw [exec_cancelWaitingPacket h hbit]
    refine ⟨fun hm => by simp only [if_pos hm], fun hm hg => ?_⟩
    simp only [if_neg (Nat.not_le.2 hm), hg, Option.bind_some]
    refine ⟨fun hw => by rw [hw], fun tg no v irq hw => ?_, fun q hw => ?_⟩
    all_goals rw [hw]; exact ⟨fun htag => congrArg _ (if_pos htag), fun htag => congrArg _ (if_neg htag)⟩

end Sys2Proof.Machine
end


section
/-! Frames and channels (R457, R469 to R472, R475, R476, R488 to R490, R615, R659): memories cleared and copied, the patrol and the errors that
it meets, and pages that move. -/
namespace Sys2Proof.Machine

/-! ## Memories cleared and copied -/

/-- A run of a memory replaced by cells of its own addresses. -/
theorem Mem.read_splice {m cs : Mem} {a n : Nat} (hcs : ∀ c ∈ cs, a ≤ c.1 ∧ c.1 < a + n) (x : Nat) :
    Mem.read (m.filter (fun c => c.1 < a) ++ cs ++ m.filter (fun c => a + n ≤ c.1)) x =
      if a ≤ x ∧ x < a + n then Mem.read cs x else m.read x := by
  have hlow := lookupK_filter_key (k := x) (fun k => decide (k < a)) m
  have hhigh := lookupK_filter_key (k := x) (fun k => decide (a + n ≤ k)) m
  simp only [Mem.read, lookupD, lookupK_append, hlow, hhigh, decide_eq_true_eq]
  by_cases h : a ≤ x ∧ x < a + n
  · rw [if_pos h, if_neg (by omega), if_neg (by omega)]
    cases lookupK x cs <;> rfl
  · rw [if_neg h, lookupK_none x cs fun c hc e => h (e ▸ hcs c hc)]
    by_cases hx : x < a
    · rw [if_pos hx, if_neg (by omega)]
      cases lookupK x m <;> rfl
    · rw [if_neg hx, if_pos (by omega)]

theorem Mem.read_clear (m : Mem) (a n x : Nat) : (m.clear a n).read x = if a ≤ x ∧ x < a + n then 0#8 else m.read x := by
  have h := Mem.read_splice (m := m) (cs := []) (a := a) (n := n) (fun _ hc => nomatch hc) x
  rwa [List.append_nil] at h

/-- Cells moved to other addresses. -/
theorem lookupK_shift {src dst i : Nat} {l : Mem} (hl : ∀ c ∈ l, src ≤ c.1) :
    lookupK (dst + i) (l.map (fun c => (c.1 - src + dst, c.2))) = lookupK (src + i) l := by
  induction l with
  | nil => rfl
  | cons c l ih =>
    have hc := hl c (List.mem_cons_self ..)
    have hiff : c.1 - src + dst = dst + i ↔ c.1 = src + i := by omega
    simp only [List.map_cons, lookupK, hiff, ih fun x hx => hl x (List.mem_cons_of_mem _ hx)]

theorem Mem.read_copy (m : Mem) (src dst n x : Nat) :
    (m.copy src dst n).read x = if dst ≤ x ∧ x < dst + n then m.read (src + (x - dst)) else m.read x := by
  have hkeys : ∀ c ∈ m.filter (fun c => src ≤ c.1 && c.1 < src + n), src ≤ c.1 ∧ c.1 < src + n := fun c hc => by
    simpa using (List.mem_filter.1 hc).2
  have h := Mem.read_splice (m := m) (a := dst) (n := n)
    (cs := (m.filter (fun c => src ≤ c.1 && c.1 < src + n)).map (fun c => (c.1 - src + dst, c.2))) (fun c hc => by
      obtain ⟨b, hb, rfl⟩ := List.mem_map.1 hc
      have := hkeys b hb
      dsimp only; omega) x
  rw [Mem.copy, h]
  split
  case isFalse => rfl
  case isTrue hx =>
    obtain ⟨i, rfl⟩ := Nat.exists_eq_add_of_le hx.1
    rw [Nat.add_sub_cancel_left, Mem.read, lookupD, lookupK_shift fun c hc => (hkeys c hc).1]
    exact Mem.read_filter m (fun k => decide (src ≤ k) && decide (k < src + n)) (src + i) (by simp; omega)

/-! ## FRAME_CLEAR (R615) -/

section
variable {s : State} {f : Nat}

theorem exec_frameClear (hrun : s.running = true) (hf : f < maxFrames) (hused : s.frameUsed f = false) (hret : f ∉ s.retired)
    (hclr : f ∉ s.cleared) : exec (.frameClear f) s = .next { s.count 1 65536 with
      dram := s.dram.clear (f * 65536) 65536, cleared := s.cleared ++ [f], poison := s.poison.filter (fun l => l / 512 != f) } := by
  change execFrameClear f s = _
  rw [execFrameClear, if_neg (by simp [hrun, hf, hused, hret, hclr])]

end

/-! ## A frame due for retirement (R471) -/

section
variable {s : State} {ch f i : Nat} {c : Channel}

theorem State.plainEvent_frame (s : State) (code body : Nat) (st : St) :
    s.plainEvent code body st = { s with evq := (s.plainEvent code body st).evq } := State.event_eq ..

theorem State.frameDue_frame (s : State) (ch f : Nat) : s.frameDue ch f =
    let t := s.frameDue ch f
    { s with retired := t.retired, cleared := t.cleared, channels := t.channels, evq := t.evq, retireDue := t.retireDue } := by
  unfold State.frameDue
  split
  · rfl
  · split
    · rw [State.retireFrame_frame]
    · split
      · rw [State.plainEvent_frame]
      · rfl

@[simp] theorem State.frameDue_poison (s : State) (ch f : Nat) : (s.frameDue ch f).poison = s.poison := by rw [State.frameDue_frame]
@[simp] theorem State.frameDue_poisonAt (s : State) (ch f : Nat) : (s.frameDue ch f).poisonAt = s.poisonAt := by rw [State.frameDue_frame]
@[simp] theorem State.frameDue_dram (s : State) (ch f : Nat) : (s.frameDue ch f).dram = s.dram := by rw [State.frameDue_frame]
@[simp] theorem State.frameDue_ceLines (s : State) (ch f : Nat) : (s.frameDue ch f).ceLines = s.ceLines := by rw [State.frameDue_frame]
@[simp] theorem State.frameDue_ceFrames (s : State) (ch f : Nat) : (s.frameDue ch f).ceFrames = s.ceFrames := by rw [State.frameDue_frame]

theorem State.retireFrame_channels (s : State) (ch f : Nat) :
    (s.retireFrame ch f).channels = updateAt s.channels ch (fun c => { c with retired := c.retired + 1 }) := by
  unfold State.retireFrame; rw [State.plainEvent_frame]; rfl

theorem State.retireFrame_retired (s : State) (ch f : Nat) : (s.retireFrame ch f).retired = f :: s.retired := by
  unfold State.retireFrame; rw [State.plainEvent_frame]; rfl

/-- Retiring a frame leaves the error counters of the channels alone. -/
theorem State.frameDue_channel (hc : s.channels[i]? = some c) :
    ∃ c', (s.frameDue ch f).channels[i]? = some c' ∧ c'.ce = c.ce ∧ c'.ue = c.ue := by
  unfold State.frameDue
  split
  · exact ⟨c, hc, rfl, rfl⟩
  · split
    · rw [State.retireFrame_channels, getElem?_updateAt, hc]
      split
      · exact ⟨_, rfl, rfl, rfl⟩
      · exact ⟨c, rfl, rfl, rfl⟩
    · split
      · rw [State.plainEvent_frame]; exact ⟨c, hc, rfl, rfl⟩
      · exact ⟨c, hc, rfl, rfl⟩

/-- A frame that holds no page is retired at once. -/
theorem State.mem_retired_frameDue (hused : s.frameUsed f = false) (hdue : lookupK f s.retireDue = none) : f ∈ (s.frameDue ch f).retired := by
  unfold State.frameDue
  unfold State.frameUsed at hused
  simp only [hdue, hused, Option.isSome_none, Bool.or_false, List.contains_iff_mem, Bool.not_false, if_true]
  split
  · assumption
  · rw [State.retireFrame_retired]; exact List.mem_cons_self ..

end

/-! ## Errors of a memory line (R469, R470, R476) -/

/-- A corrected error counted, with the event of its frame's first one. -/
def State.noteCorrected (s : State) (ch f no : Nat) (c : Channel) : State :=
  let t := { s.updChannel ch (fun c => { c with ce := c.ce + 1 }) with ceLines := insertK no (lookupD 0 no s.ceLines + 1) s.ceLines }
  if s.ceFrames.contains f then t
  else { t with ceFrames := f :: t.ceFrames }.plainEvent 0x0010 (ch + at_ 8 (low 24 f) + at_ 32 (Nat.min 0xFFFFFFFF (c.ce + 1)))

/-- An uncorrectable error counted, its line poisoned unless it holds page tables, and its event. -/
def State.noteUncorrectable (patrol : Bool) (s : State) (ch f l : Nat) : State :=
  let no := f * 512 + l
  let t := { s.updChannel ch (fun c => { c with ue := c.ue + 1 }) with
    poison := if holdsTables f || s.poison.contains no then s.poison else no :: s.poison
    poisonAt := if holdsTables f then s.poisonAt else insertK no ch s.poisonAt }
  t.plainEvent 0x0011 (ch + at_ 8 (low 24 f) + at_ 32 l + at_ 41 (b2n patrol) + at_ 64 (low 52 (s.lineVA f l))) .poison

section
variable {s : State} {patrol : Bool} {ch f l : Nat} {c : Channel}

section
variable (hc : s.channels[ch]? = some c) (hst : c.state = 1) (hl : l < 512) (hon : s.onChannel f l ch = true)
include hc hst hl hon

theorem State.memErr_corrected : State.memErr patrol s ⟨ch, f, l, true⟩ =
    if lookupD 0 (f * 512 + l) s.ceLines = 2 then (s.noteCorrected ch f (f * 512 + l) c).frameDue ch f
    else s.noteCorrected ch f (f * 512 + l) c := by
  unfold State.memErr State.noteCorrected
  simp [hc, hst, hon, Nat.mod_eq_of_lt hl]

theorem State.memErr_uncorrectable : State.memErr patrol s ⟨ch, f, l, false⟩ = (State.noteUncorrectable patrol s ch f l).frameDue ch f := by
  unfold State.memErr State.noteUncorrectable
  simp only [hc, hst, hon, Nat.mod_eq_of_lt hl]
  rfl

end

theorem State.noteCorrected_frame (s : State) (ch f no : Nat) (c : Channel) : s.noteCorrected ch f no c =
    let t := s.noteCorrected ch f no c
    { s with channels := updateAt s.channels ch (fun c => { c with ce := c.ce + 1 }), ceFrames := t.ceFrames, evq := t.evq
             ceLines := insertK no (lookupD 0 no s.ceLines + 1) s.ceLines } := by
  unfold State.noteCorrected
  dsimp only
  split
  · rfl
  · rw [State.plainEvent_frame]; rfl

section
variable (s : State) (ch f no : Nat) (c : Channel)

@[simp] theorem State.noteCorrected_channels :
    (s.noteCorrected ch f no c).channels = updateAt s.channels ch (fun c => { c with ce := c.ce + 1 }) := by rw [State.noteCorrected_frame]
@[simp] theorem State.noteCorrected_ceLines :
    (s.noteCorrected ch f no c).ceLines = insertK no (lookupD 0 no s.ceLines + 1) s.ceLines := by rw [State.noteCorrected_frame]
@[simp] theorem State.noteCorrected_poison : (s.noteCorrected ch f no c).poison = s.poison := by rw [State.noteCorrected_frame]
@[simp] theorem State.noteCorrected_dram : (s.noteCorrected ch f no c).dram = s.dram := by rw [State.noteCorrected_frame]
@[simp] theorem State.noteCorrected_retired : (s.noteCorrected ch f no c).retired = s.retired := by rw [State.noteCorrected_frame]

end

theorem State.mem_ceFrames_noteCorrected (s : State) (ch f no : Nat) (c : Channel) : f ∈ (s.noteCorrected ch f no c).ceFrames := by
  unfold State.noteCorrected
  dsimp only
  split
  next h => exact List.contains_iff_mem.1 h
  next => rw [State.plainEvent_frame]; exact List.mem_cons_self ..

theorem State.noteCorrected_evq (h : f ∈ s.ceFrames) (no : Nat) : (s.noteCorrected ch f no c).evq = s.evq := by
  rw [State.noteCorrected, if_pos (List.contains_iff_mem.2 h)]; rfl

theorem State.noteUncorrectable_frame (s : State) (ch f l : Nat) : State.noteUncorrectable patrol s ch f l =
    let t := State.noteUncorrectable patrol s ch f l
    { s with channels := updateAt s.channels ch (fun c => { c with ue := c.ue + 1 }), evq := t.evq
             poison := if holdsTables f || s.poison.contains (f * 512 + l) then s.poison else (f * 512 + l) :: s.poison
             poisonAt := if holdsTables f then s.poisonAt else insertK (f * 512 + l) ch s.poisonAt } := by
  unfold State.noteUncorrectable
  dsimp only
  rw [State.plainEvent_frame]; rfl

section
variable (s : State) (ch f l : Nat)

@[simp] theorem State.noteUncorrectable_channels : (State.noteUncorrectable patrol s ch f l).channels =
    updateAt s.channels ch (fun c => { c with ue := c.ue + 1 }) := by rw [State.noteUncorrectable_frame]
@[simp] theorem State.noteUncorrectable_poison : (State.noteUncorrectable patrol s ch f l).poison =
    if holdsTables f || s.poison.contains (f * 512 + l) then s.poison else (f * 512 + l) :: s.poison := by rw [State.noteUncorrectable_frame]
@[simp] theorem State.noteUncorrectable_poisonAt : (State.noteUncorrectable patrol s ch f l).poisonAt =
    if holdsTables f then s.poisonAt else insertK (f * 512 + l) ch s.poisonAt := by rw [State.noteUncorrectable_frame]
@[simp] theorem State.noteUncorrectable_dram : (State.noteUncorrectable patrol s ch f l).dram = s.dram := by
  rw [State.noteUncorrectable_frame]
@[simp] theorem State.noteUncorrectable_retireDue : (State.noteUncorrectable patrol s ch f l).retireDue = s.retireDue := by
  rw [State.noteUncorrectable_frame]
@[simp] theorem State.noteUncorrectable_frameUsed (x : Nat) : (State.noteUncorrectable patrol s ch f l).frameUsed x = s.frameUsed x := by
  rw [State.noteUncorrectable_frame]; rfl

end

/-- Frames of memory hold no page tables. -/
theorem holdsTables_of_lt (hf : f < maxFrames) : holdsTables f = false := by
  have hmax : maxFrames = 100663296 := by decide
  rw [holdsTables, decide_eq_false (by omega), Bool.false_and]

section
variable (hc : s.channels[ch]? = some c) (hst : c.state = 1) (hl : l < 512) (hon : s.onChannel f l ch = true)
include hc hst hl hon

/-- What a corrected error changes. -/
theorem State.memErr_corrected_spec {t : State} (ht : State.memErr patrol s ⟨ch, f, l, true⟩ = t) :
    (∃ c', t.channels[ch]? = some c' ∧ c'.ce = c.ce + 1 ∧ c'.ue = c.ue) ∧
    lookupK (f * 512 + l) t.ceLines = some (lookupD 0 (f * 512 + l) s.ceLines + 1) ∧ t.poison = s.poison ∧ t.dram = s.dram ∧ f ∈ t.ceFrames ∧
    (f ∈ s.ceFrames → lookupD 0 (f * 512 + l) s.ceLines ≠ 2 → t.evq = s.evq ∧ t.retired = s.retired) := by
  have hnoted : (s.noteCorrected ch f (f * 512 + l) c).channels[ch]? = some { c with ce := c.ce + 1 } := by
    simp [getElem?_updateAt, hc]
  have hframes := State.mem_ceFrames_noteCorrected s ch f (f * 512 + l) c
  rw [State.memErr_corrected hc hst hl hon] at ht
  subst ht
  by_cases htwo : lookupD 0 (f * 512 + l) s.ceLines = 2
  · rw [if_pos htwo]
    exact ⟨State.frameDue_channel hnoted, by simp [lookupK_insertK_self], by simp, by simp, by simpa using hframes, fun _ h => absurd htwo h⟩
  · rw [if_neg htwo]
    exact ⟨⟨_, hnoted, rfl, rfl⟩, by simp [lookupK_insertK_self], by simp, by simp, hframes,
      fun h _ => ⟨State.noteCorrected_evq h _, State.noteCorrected_retired ..⟩⟩

/-- What an uncorrectable error changes. -/
theorem State.memErr_uncorrectable_spec {t : State} (ht : State.memErr patrol s ⟨ch, f, l, false⟩ = t) :
    (∃ c', t.channels[ch]? = some c' ∧ c'.ue = c.ue + 1 ∧ c'.ce = c.ce) ∧
    (f < maxFrames → f * 512 + l ∈ t.poison ∧ lookupK (f * 512 + l) t.poisonAt = some ch) ∧
    (holdsTables f = true → t.poison = s.poison ∧ t.poisonAt = s.poisonAt) ∧
    (∀ x, x ∈ t.poison → x ∈ s.poison ∨ x = f * 512 + l) ∧ t.dram = s.dram ∧
    (s.frameUsed f = false → lookupK f s.retireDue = none → f ∈ t.retired) := by
  rw [State.memErr_uncorrectable hc hst hl hon] at ht
  subst ht
  have hnoted : (State.noteUncorrectable patrol s ch f l).channels[ch]? = some { c with ue := c.ue + 1 } := by
    simp [getElem?_updateAt, hc]
  refine ⟨?_, fun hf => ⟨?_, ?_⟩, fun htab => ?_, fun x hx => ?_, by simp, fun hused hdue => State.mem_retired_frameDue ?_ ?_⟩
  · obtain ⟨c', hc', hce, hue⟩ := State.frameDue_channel (ch := ch) (f := f) hnoted
    exact ⟨c', hc', hue, hce⟩
  · rw [State.frameDue_poison, State.noteUncorrectable_poison, holdsTables_of_lt hf, Bool.false_or]
    split
    next h => exact List.contains_iff_mem.1 h
    next => exact List.mem_cons_self ..
  · simp [holdsTables_of_lt hf, lookupK_insertK_self]
  · simp [htab]
  · rw [State.frameDue_poison, State.noteUncorrectable_poison] at hx
    split at hx
    · exact .inl hx
    · exact (List.mem_cons.1 hx).symm
  · rw [State.noteUncorrectable_frameUsed, hused]
  · rw [State.noteUncorrectable_retireDue, hdue]

end

end

/-! ## The patrol (R475, R665) -/

/-- The line that the patrol of a channel reads next. -/
def State.patrolNext (s : State) (p : Channel × Nat) : Nat :=
  let at_ := (s.scrubAt[p.2]?).getD 0
  if p.1.state == 1 then (if p.1.lines == 0 then 0 else (at_ + 1) % p.1.lines) else at_

/-- A patrol read of every channel in service that meets no error. -/
def State.patrolled (s : State) : State :=
  { s.count 0 (128 * s.serviceChannels.length) with scrubAt := s.channels.zipIdx.map s.patrolNext }

/-- Whether an error lies in the line that the patrol reads. -/
def State.patrolReads (s : State) (e : MemErr) : Bool :=
  match s.channels[e.channel]? with
  | some c => c.state == 1 && Config.patrolLine e.channel ((s.scrubAt[e.channel]?).getD 0) == e.frame * 512 + e.line % 512
  | none => false

section
variable {s : State}

theorem exec_scrubPatrolRead (hrun : s.running = true) (hrate : s.settings.scrubRate ≠ 0) (errs : List MemErr) :
    exec (.scrubPatrolRead errs) s = .next ((errs.filter s.patrolReads).foldl (State.memErr true) s.patrolled) := by
  change execScrubPatrolRead errs s = _
  rw [execScrubPatrolRead, if_neg (by simp [hrun, hrate])]
  rfl

theorem exec_scrubPatrolRead_off (hrate : s.settings.scrubRate = 0) (errs : List MemErr) : exec (.scrubPatrolRead errs) s = .next s := by
  change execScrubPatrolRead errs s = _
  rw [execScrubPatrolRead, if_pos (by simp [hrate])]

theorem exec_scrubPatrolRead_nil (hrun : s.running = true) (hrate : s.settings.scrubRate ≠ 0) :
    exec (.scrubPatrolRead []) s = .next s.patrolled := exec_scrubPatrolRead hrun hrate []

/-- An error that the line read does not hold is none. -/
theorem exec_scrubPatrolRead_elsewhere (hrun : s.running = true) {e : MemErr}
    (he : Config.patrolLine e.channel ((s.scrubAt[e.channel]?).getD 0) ≠ e.frame * 512 + e.line % 512) :
    exec (.scrubPatrolRead [e]) s = exec (.scrubPatrolRead []) s := by
  by_cases hrate : s.settings.scrubRate = 0
  · rw [exec_scrubPatrolRead_off hrate, exec_scrubPatrolRead_off hrate]
  · have hmiss : s.patrolReads e = false := by
      unfold State.patrolReads
      split
      · rw [beq_eq_false_iff_ne.2 he, Bool.and_false]
      · rfl
    rw [exec_scrubPatrolRead hrun hrate, exec_scrubPatrolRead hrun hrate, List.filter_cons_of_neg (by simp [hmiss])]

/-- An error of the line read. -/
theorem exec_scrubPatrolRead_error (hrun : s.running = true) (hrate : s.settings.scrubRate ≠ 0) {ch f l : Nat} {c : Channel}
    (hc : s.channels[ch]? = some c) (hst : c.state = 1) (hl : l < 512)
    (hline : Config.patrolLine ch ((s.scrubAt[ch]?).getD 0) = f * 512 + l) (corrected : Bool) :
    exec (.scrubPatrolRead [⟨ch, f, l, corrected⟩]) s = .next (State.memErr true s.patrolled ⟨ch, f, l, corrected⟩) := by
  have hread : s.patrolReads ⟨ch, f, l, corrected⟩ = true := by
    unfold State.patrolReads
    simp [hc, hst, hline, Nat.mod_eq_of_lt hl]
  rw [exec_scrubPatrolRead hrun hrate, List.filter_cons_of_pos hread]
  rfl

/-- Every patrol in service goes on to its next line, round the channel's capacity. -/
theorem State.patrolled_scrubAt {i at_ : Nat} {c : Channel} (hc : s.channels[i]? = some c) (hat : s.scrubAt[i]? = some at_) :
    s.patrolled.scrubAt[i]? =
      some (if c.state = 1 ∧ c.size ≠ 0 then (at_ + 1) % (c.size * 2 ^ 23) else if c.state = 1 then 0 else at_) := by
  have hnext : s.patrolled.scrubAt[i]? = some (s.patrolNext (c, i)) := by simp [State.patrolled, hc]
  have hlines : c.lines = 0 ↔ c.size = 0 := by unfold Channel.lines; omega
  rw [hnext, State.patrolNext]
  simp only [hat, Option.getD_some, beq_iff_eq, hlines]
  by_cases hst : c.state = 1 <;> by_cases hsize : c.size = 0 <;> simp [hst, hsize, Channel.lines]

end

theorem exec_channelRecalibrate {s : State} {ch : Nat} (h : ch < s.channels.length) : exec (.channelRecalibrate ch) s = .next s := by
  change execChannelRecalibrate ch s = _
  rw [execChannelRecalibrate, if_neg (by omega)]

/-! ## PAGE_MIGRATE (R458, R471, R472, R488, R490, R493) -/

section
variable {s : State} {v va f : Nat} {g : Page}

/-- A page moves alone to one cleared frame. -/
theorem State.moveFrames_one (v : Nat) (hf : s.frameFree f = true) : s.moveFrames [v] [f] = true := by
  simp [State.moveFrames, hf]

theorem State.moveGroup_small (hg : lookupK v s.pages = some g) (hbig : g.big = false) : s.moveGroup v = [v] := by
  simp [State.moveGroup, hg, hbig]

theorem State.moveGroup_big (hg : lookupK v s.pages = some g) (hbig : g.big = true) : s.moveGroup v = pageRun (v / 32 * 32) 32 := by
  simp [State.moveGroup, hg, hbig, pageRun]

theorem State.beginMove_one (s : State) (v f : Nat) (r : Option Nat) : s.beginMove [v] [f] r = ({ s with
    pages := updK v (fun q => { q with moving := some f, retiring := r, wayNext := s.waysAt v }) s.pages
    cleared := s.cleared.filter (fun x => x ≠ f) } : State).forget [v] := by
  unfold State.beginMove
  simp

theorem State.beginMove_pages (s : State) (v f : Nat) (r : Option Nat) : (s.beginMove [v] [f] r).pages =
    updK v (fun q => { q with moving := some f, retiring := r, wayNext := s.waysAt v }) s.pages := by
  rw [State.beginMove_one]; rfl

/-- The pages of a 2 MiB page, or of a page alone, each mapped as a page of its own. -/
def State.splitPages (s : State) (v : Nat) : List (Nat × Page) :=
  (s.moveGroup v).foldl (fun l u => updK u (fun q => { q with big := false }) l) s.pages

/-- A page that is part of a 2 MiB page, or no part of it, after the split. -/
theorem State.lookupK_splitPages {q : Page} {w : Nat} (hg : lookupK v s.pages = some g) (hq : lookupK w s.pages = some q) :
    lookupK w (s.splitPages v) = some (if w ∈ s.moveGroup v then { q with big := false } else q) := by
  have hnodup : (s.moveGroup v).Nodup := by
    cases hbig : g.big with
    | true => rw [State.moveGroup_big hg hbig]; exact nodup_pageRun ..
    | false => rw [State.moveGroup_small hg hbig]; exact List.nodup_singleton v
  unfold State.splitPages
  split
  next hw =>
    have h := lookupK_foldl_updK_mem (key := id) (f := fun _ (q : Page) => { q with big := false }) (by rwa [List.map_id]) hw s.pages
    rwa [id, hq] at h
  next hw =>
    have h := lookupK_foldl_updK_ne (key := id) (k := w) (f := fun _ (q : Page) => { q with big := false })
      (fun u hu e => hw ((id_eq u ▸ e) ▸ hu)) s.pages
    exact h.trans hq

/-- The pages that a split changes: those of the same 2 MiB. -/
theorem State.lookupK_splitPages_other {q : Page} {w : Nat} (hg : lookupK v s.pages = some g) (hw : w ≠ v) (hq : lookupK w s.pages = some q) :
    lookupK w (s.splitPages v) = some (if g.big = true ∧ w / 32 = v / 32 then { q with big := false } else q) := by
  rw [State.lookupK_splitPages hg hq]
  cases hbig : g.big with
  | true =>
    have hmem : w ∈ s.moveGroup v ↔ w / 32 = v / 32 := by rw [State.moveGroup_big hg hbig, mem_pageRun]; omega
    simp only [hmem, true_and]
  | false => simp [State.moveGroup_small hg hbig, hw]

/-- The page itself is mapped as a page of its own. -/
theorem State.lookupK_splitPages_self (hg : lookupK v s.pages = some g) : lookupK v (s.splitPages v) = some { g with big := false } := by
  have hmem : v ∈ s.moveGroup v := by
    cases hbig : g.big with
    | true => rw [State.moveGroup_big hg hbig, mem_pageRun]; omega
    | false => rw [State.moveGroup_small hg hbig]; exact List.mem_singleton_self v
  rw [State.lookupK_splitPages hg hg, if_pos hmem]

section
variable (hrun : s.running = true) (hg : lookupK (va / 65536) s.pages = some g) (hhost : g.host = false) (hmov : g.moving = none)
  (hf : s.frameFree f = true)
include hrun hg hhost hmov hf

theorem exec_pageMigrate_evacuate (hbig : g.big = false) (hleave : ∃ c ∈ s.channels, va / 65536 ∈ c.leaving) :
    exec (.pageMigrate va .evacuate [f]) s = .next (s.beginMove [va / 65536] [f] none) := by
  have hany : s.channels.any (fun c => c.leaving.contains (va / 65536)) = true := by simpa using hleave
  change execPageMigrate va .evacuate [f] s = _
  simp only [execPageMigrate, hg, hrun, hhost, hmov, hany, State.moveGroup_small hg hbig, State.moveFrames_one _ hf]
  rfl

theorem exec_pageMigrate_restore (hbig : g.big = false) (hrest : va / 65536 ∈ s.restoring) :
    exec (.pageMigrate va .restore [f]) s = .next (s.beginMove [va / 65536] [f] none) := by
  change execPageMigrate va .restore [f] s = _
  simp [execPageMigrate, hg, hrun, hhost, hmov, hrest, State.moveGroup_small hg hbig, State.moveFrames_one _ hf]

theorem exec_pageMigrate_retire {ch : Nat} (hdue : lookupK g.at_ s.retireDue = some ch) (hspare : s.spareFrames ≠ 0) :
    exec (.pageMigrate va .retire [f]) s = .next (({ s with pages := s.splitPages (va / 65536), spareFrames := s.spareFrames - 1
                                                            retireDue := eraseK g.at_ s.retireDue } : State).beginMove
      [va / 65536] [f] (some ch)) := by
  change execPageMigrate va .retire [f] s = _
  simp [execPageMigrate, State.splitPages, hg, hrun, hhost, hmov, hdue, hspare, State.moveFrames_one _ hf]

end

end

/-! ## Channels that have moved their last page (R490, R660) -/

/-- A channel once its last page has moved: OUT, its power-enable inactive. -/
def Channel.settled (c : Channel) : Channel := if c.state == 2 && c.leaving.isEmpty then { c with state := 3, pwren := some false } else c

theorem Channel.settled_settled (c : Channel) : c.settled.settled = c.settled := by
  unfold Channel.settled
  by_cases h : (c.state == 2 && c.leaving.isEmpty) = true
  · rw [if_pos h]; rfl
  · rw [if_neg h, if_neg h]

/-- The step of `settleChannels` for one channel. -/
def State.settleChannel (s : State) (ch : Nat) : State :=
  match s.channels[ch]? with
  | some c => if c.state == 2 && c.leaving.isEmpty then
      (s.updChannel ch (fun q => { q with state := 3, pwren := some false })).channelEvent ch else s
  | none => s

theorem State.settleChannels_eq (s : State) : s.settleChannels = (List.range s.channels.length).foldl State.settleChannel s := rfl

theorem State.settleChannel_channels (s : State) (ch i : Nat) :
    (s.settleChannel ch).channels[i]? = if ch = i then s.channels[i]?.map Channel.settled else s.channels[i]? := by
  unfold State.settleChannel
  split
  case h_1 c hc =>
    split
    case isTrue h =>
      rw [State.channelEvent_frame]
      dsimp only [State.updChannel]
      rw [getElem?_updateAt]
      split
      next e => subst e; rw [hc, Option.map_some, Option.map_some, Channel.settled, if_pos h]
      next => rfl
    case isFalse h =>
      split
      next e => subst e; rw [hc, Option.map_some, Channel.settled, if_neg h]
      next => rfl
  case h_2 hc =>
    split
    next e => subst e; rw [hc]; rfl
    next => rfl

theorem State.foldl_settleChannel {i : Nat} {c : Channel} (l : List Nat) (s : State) (hc : s.channels[i]? = some c) :
    (l.foldl State.settleChannel s).channels[i]? = some (if i ∈ l then c.settled else c) := by
  induction l generalizing s c with
  | nil => simpa using hc
  | cons k l ih =>
    have hstep := State.settleChannel_channels s k i
    rw [hc] at hstep
    rw [List.foldl_cons]
    by_cases hk : k = i
    · rw [if_pos hk] at hstep
      rw [ih _ hstep, Channel.settled_settled, ite_self, if_pos (hk ▸ List.mem_cons_self ..)]
    · rw [if_neg hk] at hstep
      simp only [ih _ hstep, List.mem_cons, Ne.symm hk, false_or]

theorem State.settleChannels_channel {s : State} {i : Nat} {c : Channel} (hc : s.channels[i]? = some c) :
    s.settleChannels.channels[i]? = some c.settled := by
  have hi : i < s.channels.length := (List.getElem?_eq_some_iff.1 hc).1
  rw [State.settleChannels_eq, State.foldl_settleChannel _ s hc, if_pos (List.mem_range.2 hi)]

/-- A channel whose last page has moved off it is OUT. -/
theorem State.pagesGone_last {s : State} {v i : Nat} {c : Channel} {q : Page} (hc : s.channels[i]? = some c) (hst : c.state = 2)
    (hleave : c.leaving = [v]) (hq : lookupK v s.pages = some q) (hways : i ∉ q.ways) :
    (s.pagesGone [v]).channels[i]? = some { c with state := 3, pwren := some false, leaving := [] } := by
  unfold State.pagesGone
  rw [State.settleChannels_channel (c := { c with leaving := [] })]
  · simp [Channel.settled, hst]
  · simp [hc, hleave, hq, hways]

/-! ## MIGRATION_COPY_DONE (R488, R489) -/

section
variable {s : State} {v va f : Nat} {g : Page}

/-- A page copied to its new frame, where neither frame is due for retirement. -/
theorem State.copyPage_eq (hg : lookupK v s.pages = some g) (hmov : g.moving = some f) (hret : g.retiring = none) (hdue : s.retireDue = []) :
    let moved := (s.poison.filter (fun l => l / 512 == g.at_)).map (fun l => l % 512 + f * 512)
    s.copyPage v = { (s.count 0 65536).count 1 65536 with
      dram := s.dram.copy (g.at_ * 65536) (f * 65536) 65536, poison := moved ++ s.poison.filter (fun l => l / 512 != f)
      poisonAt := moved.foldl (fun l x => insertK x ((wayOf g.wayNext (x % 512)).getD 0) l) s.poisonAt
      pages := updK v (fun q => { q with at_ := f, moving := none, retiring := none, ways := g.wayNext, wayNext := [] }) s.pages } := by
  have hlate : lookupK g.at_ s.retireDue = none := by rw [hdue]; rfl
  have hkept : eraseK g.at_ s.retireDue = s.retireDue := by rw [hdue]; rfl
  unfold State.copyPage
  simp only [hg, hmov, hret, hlate, hkept]
  rfl

theorem mem_copied_poison {l : Nat} {poison : List Nat} {a : Nat} :
    l ∈ (poison.filter (fun l => l / 512 == a)).map (fun l => l % 512 + f * 512) ↔ l / 512 = f ∧ a * 512 + l % 512 ∈ poison := by
  simp only [List.mem_map, List.mem_filter, beq_iff_eq]
  constructor
  · rintro ⟨x, ⟨hx, ha⟩, rfl⟩
    have hmod : (x % 512 + f * 512) % 512 = x % 512 := by omega
    have hline : a * 512 + x % 512 = x := by omega
    exact ⟨by omega, by rwa [hmod, hline]⟩
  · rintro ⟨hf, hin⟩
    exact ⟨_, ⟨hin, by omega⟩, by omega⟩

section
variable (hg : lookupK v s.pages = some g) (hmov : g.moving = some f) (hret : g.retiring = none) (hdue : s.retireDue = [])
include hg hmov hret hdue

theorem State.copyPage_frame : s.copyPage v =
    let t := s.copyPage v
    { s with dram := t.dram, poison := t.poison, poisonAt := t.poisonAt, pages := t.pages, ledger := t.ledger } := by
  rw [State.copyPage_eq hg hmov hret hdue]; rfl

theorem State.copyPage_pages : (s.copyPage v).pages =
    updK v (fun q => { q with at_ := f, moving := none, retiring := none, ways := g.wayNext, wayNext := [] }) s.pages := by
  rw [State.copyPage_eq hg hmov hret hdue]

theorem State.copyPage_dram : (s.copyPage v).dram = s.dram.copy (g.at_ * 65536) (f * 65536) 65536 := by
  rw [State.copyPage_eq hg hmov hret hdue]

theorem State.mem_copyPage_poison (l : Nat) :
    l ∈ (s.copyPage v).poison ↔ (l / 512 = f ∧ g.at_ * 512 + l % 512 ∈ s.poison) ∨ (l ∈ s.poison ∧ l / 512 ≠ f) := by
  rw [State.copyPage_eq hg hmov hret hdue]
  exact List.mem_append.trans (or_congr mem_copied_poison (by simp))

/-- The page's entry points at the new frame. -/
theorem State.lookupK_copyPage_self :
    lookupK v (s.copyPage v).pages = some { g with at_ := f, moving := none, ways := g.wayNext, wayNext := [] } := by
  rw [State.copyPage_pages hg hmov hret hdue, lookupK_updK_self, hg, Option.map_some, hret]

end

theorem State.endMove_one (hg : lookupK v s.pages = some g) (hbig : g.big = false) :
    s.endMove v [] = ((s.copyPage v).forget [v]).pagesGone [v] := by
  simp [State.endMove, State.memErrs, State.moveGroup_small hg hbig]

/-- What the end of a move changes beside the page copied. -/
theorem State.endMove_frame (hg : lookupK v s.pages = some g) (hbig : g.big = false) :
    let u := s.endMove v []
    u = { s.copyPage v with channels := u.channels, restoring := u.restoring, evq := u.evq, caches := u.caches } := by
  rw [State.endMove_one hg hbig, State.pagesGone_frame]; rfl

theorem State.performRemote_none (hh : s.ownerHolds = []) (vs : List Nat) : s.performRemote vs = s := by
  unfold State.performRemote
  simp only [hh, List.filter_nil, List.foldl_nil]
  rw [← hh]

/-- The end of a move without errors. -/
theorem exec_migrationCopyDone (hrun : s.running = true) (hg : lookupK (va / 65536) s.pages = some g) (hbig : g.big = false)
    (hmov : g.moving = some f) : exec (.migrationCopyDone ⟨va, []⟩) s =
      .next ((s.endMove (va / 65536) []).performRemote [va / 65536]) := by
  change execMigrationCopyDone ⟨va, []⟩ s = _
  simp [execMigrationCopyDone, hg, hrun, hmov, State.moveGroup_small hg hbig]

end

/-! ## Frames, the patrol and pages that move (R457, R469 to R472, R475, R476, R480, R481, R488 to R490, R493, R615, R659) -/

section
variable {s : State} {va f : Nat} {g : Page}

theorem frameClear_zeros (hrun : s.running = true) (hf : f < maxFrames) (hused : s.frameUsed f = false) (hret : f ∉ s.retired)
    (hclr : f ∉ s.cleared) :
    ∃ u, exec (.frameClear f) s = .next u ∧ (∀ i, i < 65536 → u.dram.read (f * 65536 + i) = 0#8) ∧
      (∀ a, a / 65536 ≠ f → u.dram.read a = s.dram.read a) ∧ u.cleared = s.cleared ++ [f] ∧
      (∀ l, l ∈ u.poison ↔ l ∈ s.poison ∧ l / 512 ≠ f) ∧
      u = { s with dram := u.dram, cleared := u.cleared, poison := u.poison, ledger := u.ledger } := by
  refine ⟨_, exec_frameClear hrun hf hused hret hclr, fun i hi => ?_, fun a ha => ?_, rfl, fun l => ?_, rfl⟩
  · exact (Mem.read_clear ..).trans (if_pos (by omega))
  · exact (Mem.read_clear ..).trans (if_neg (by omega))
  · simp

theorem pageMigrate_retires {ch : Nat} (hrun : s.running = true) (hg : lookupK (va / 65536) s.pages = some g) (hhost : g.host = false)
    (hmov : g.moving = none) (hf : s.frameFree f = true) (hdue : lookupK g.at_ s.retireDue = some ch) (hspare : s.spareFrames ≠ 0) :
    ∃ u, exec (.pageMigrate va .retire [f]) s = .next u ∧
      lookupK (va / 65536) u.pages = some { g with big := false, moving := some f, retiring := some ch, wayNext := s.waysAt (va / 65536) } ∧
      (∀ w q, w ≠ va / 65536 → lookupK w s.pages = some q →
        lookupK w u.pages = some (if g.big = true ∧ w / 32 = va / 65536 / 32 then { q with big := false } else q)) ∧
      lookupK g.at_ u.retireDue = none ∧ u.spareFrames = s.spareFrames - 1 ∧
      u = { s with pages := u.pages, cleared := s.cleared.filter (fun x => x ≠ f), retireDue := u.retireDue, spareFrames := u.spareFrames,
                   caches := u.caches } := by
  refine ⟨_, exec_pageMigrate_retire hrun hg hhost hmov hf hdue hspare, ?_, fun w q hw hq => ?_, ?_, ?_, ?_⟩
  · rw [State.beginMove_pages, lookupK_updK_self, State.lookupK_splitPages_self hg]; rfl
  · rw [State.beginMove_pages, lookupK_updK_ne _ _ _ _ hw, State.lookupK_splitPages_other hg hw hq]
  all_goals rw [State.beginMove_one]
  · exact lookupK_eraseK_self ..
  all_goals rfl

theorem migrationCopyDone_moves (hrun : s.running = true) (hg : lookupK (va / 65536) s.pages = some g) (hbig : g.big = false)
    (hmov : g.moving = some f) (hret : g.retiring = none) (hdue : s.retireDue = []) (hholds : s.ownerHolds = []) :
    ∃ u, exec (.migrationCopyDone ⟨va, []⟩) s = .next u ∧
      lookupK (va / 65536) u.pages = some { g with at_ := f, moving := none, ways := g.wayNext, wayNext := [] } ∧
      (∀ w, w ≠ va / 65536 → lookupK w u.pages = lookupK w s.pages) ∧
      (∀ i, i < 65536 → u.dram.read (f * 65536 + i) = s.dram.read (g.at_ * 65536 + i)) ∧
      (∀ a, a / 65536 ≠ f → u.dram.read a = s.dram.read a) ∧
      (∀ i, i < 512 → g.at_ * 512 + i ∈ s.poison → f * 512 + i ∈ u.poison) ∧
      (∀ l, l / 512 ≠ f → (l ∈ u.poison ↔ l ∈ s.poison)) ∧
      (∀ (ch : Nat) (c : Channel), s.channels[ch]? = some c → c.state = 2 → c.leaving = [va / 65536] → ch ∉ g.wayNext →
        u.channels[ch]? = some { c with state := 3, pwren := some false, leaving := [] }) ∧
      u = { s with pages := u.pages, dram := u.dram, poison := u.poison, poisonAt := u.poisonAt, channels := u.channels,
                   restoring := u.restoring, evq := u.evq, ledger := u.ledger, caches := u.caches } := by
  have hcopied := State.copyPage_frame hg hmov hret hdue
  have hpages := State.copyPage_pages hg hmov hret hdue
  have hdram := State.copyPage_dram hg hmov hret hdue
  have hpoison := State.mem_copyPage_poison hg hmov hret hdue
  have hentry := State.lookupK_copyPage_self hg hmov hret hdue
  have hended := State.endMove_frame hg hbig
  have hexec := exec_migrationCopyDone hrun hg hbig hmov
  rw [State.performRemote_none (by rw [hended, hcopied]; exact hholds)] at hexec
  refine ⟨_, hexec, ?_, fun w hw => ?_, fun i hi => ?_, fun a ha => ?_, fun i hi hin => ?_, fun l hl => ?_,
    fun ch c hc hst hleave hways => ?_, ?_⟩
  · rw [hended, hentry]
  · rw [hended, hpages, lookupK_updK_ne _ _ _ _ hw]
  · rw [hended, hdram, Mem.read_copy, if_pos (by omega), Nat.add_sub_cancel_left]
  · rw [hended, hdram, Mem.read_copy, if_neg (by omega)]
  · have hmod : (f * 512 + i) % 512 = i := by omega
    rw [hended]
    exact (hpoison _).2 (.inl ⟨by omega, by rwa [hmod]⟩)
  · rw [hended]; simp [hpoison, hl]
  · rw [State.endMove_one hg hbig]
    exact State.pagesGone_last (by rw [hcopied]; exact hc) hst hleave hentry hways
  · generalize s.endMove (va / 65536) [] = u at *
    generalize s.copyPage (va / 65536) = t at *
    rw [hended, hcopied]

end

/-- Settles O43: each instruction's own rule, the frames and the patrol first, then the moves of pages. -/
theorem framesPages : Obligations.FramesPages := by
  unfold Obligations.FramesPages
  refine ⟨⟨?clear, ?off, ?patrol, ?elsewhere, ?errors, ?recalibrate⟩, ?moves, ?retires, ?copied⟩
  case clear => exact fun s f => frameClear_zeros
  case off => exact fun s _ hrate => exec_scrubPatrolRead_off hrate
  case patrol =>
    exact fun s hrun hrate => ⟨_, exec_scrubPatrolRead_nil hrun hrate, by simp [State.patrolled],
      fun i c at_ hc hat => State.patrolled_scrubAt hc hat, rfl⟩
  case elsewhere => exact fun s e hrun he => exec_scrubPatrolRead_elsewhere hrun he
  case errors =>
    intro s ch f l c hrun hrate hc hst hl hline hon
    have hexec := exec_scrubPatrolRead_error hrun hrate hc hst hl hline
    constructor
    · obtain ⟨⟨c', hc', hce, hue⟩, hrest⟩ := State.memErr_corrected_spec (s := s.patrolled) hc hst hl hon rfl
      exact ⟨_, c', hexec true, hc', hce, hue, hrest⟩
    · obtain ⟨⟨c', hc', hue, hce⟩, hrest⟩ := State.memErr_uncorrectable_spec (s := s.patrolled) hc hst hl hon rfl
      exact ⟨_, c', hexec false, hc', hue, hce, hrest⟩
  case recalibrate => exact fun s ch h => exec_channelRecalibrate h
  case moves =>
    rintro s va f g cause hrun hg hhost hmov hbig hf (⟨rfl, hleave⟩ | ⟨rfl, hrest⟩)
    · rw [exec_pageMigrate_evacuate hrun hg hhost hmov hf hbig hleave, State.beginMove_one]
    · rw [exec_pageMigrate_restore hrun hg hhost hmov hf hbig hrest, State.beginMove_one]
  case retires => exact fun s va f ch g => pageMigrate_retires
  case copied =>
    exact fun s va f g hrun hg _ hbig hmov hret hdue hholds _ => migrationCopyDone_moves hrun hg hbig hmov hret hdue hholds

end Sys2Proof.Machine
end
